-- ==== Sys2Proof/Word.lean ====
section
/-! DEFINITION. The word types and their plainest arithmetic. Bit 0 is the least significant bit (R11). -/

namespace Sys2Proof

/-- A byte of memory. -/
abbrev Byte := BitVec 8
/-- A lane word: 32 bits of one register in one lane (R310). -/
abbrev Word := BitVec 32
/-- A register pair: the low word is the first register (R310). -/
abbrev DWord := BitVec 64
/-- A device virtual address (R212): 57 bits. -/
abbrev VAddr := BitVec 57

/-- Bits [lo+len-1 : lo] of a natural number. -/
abbrev bits (x lo len : Nat) : Nat := (x >>> lo) % 2 ^ len

/-- Rounds `x` up to a multiple of `m`. -/
abbrev roundUp (m x : Nat) : Nat := (x + m - 1) / m * m

end Sys2Proof
end

