-- ==== Sys2Proof/Syntax.lean ====
section
/-! DEFINITION. The instruction syntax of the Kenmin architecture (R308-R328) and the steps of the device that no
instruction word encodes: ONE inductive, one constructor per row of spec/opcode_table.json. Fields hold the bits of the
encoding (a register number, a mask number, a type code), never a meaning. Every constructor of majors 0x0C-0x30 carries
the prefix word that may precede it (R314). The steps with no word (host writes, commands, engine progress, periodic
events) hold no field: what the agent outside the instruction stream supplies with one (a unit's number, a value written)
stands in the input of the state, which the step puts there (Machine/State.lean). -/

namespace Sys2Proof

/-- A prefix word (major 0x3B, R309, R314): the mask register, merge (false) or zero (true), the rounding override, the
fourth operand and the saturation override. Bits [7:0] of the word are zero (R315) and hold nothing. -/
structure Pfx where
  mask : BitVec 4
  zero : Bool
  rnd : BitVec 3
  op4 : BitVec 7
  sat : BitVec 3
  deriving DecidableEq, Repr


/-- The instructions with fields, then those without and the steps of the device, each in the order of
spec/opcode_table.json. -/
inductive Instr where
  /-- CWR_QCFG (R136): A CWR of c.QCFG latches NSHOT shot-list entries of the selected queue from memory. -/
  | cwrQcfg (a : BitVec 7)
  /-- CWR_TKILL (R186): A CWR of 1 to c.TKILL ends every thread of the crew at once and writes the stop list. -/
  | cwrTkill (a : BitVec 7)
  /-- CWR_ARV (R360): A CWR of c.ARVn writes the arrival counter and re-tests every parked ARRW wait on it. -/
  | cwrArv (a : BitVec 7) (n : BitVec 5)
  /-- BRA (R344): Branches every lane of m0 to the target. -/
  | bra (o : BitVec 20)
  /-- CALL (R344): Writes the return address to v126:v127 and branches. -/
  | call (o : BitVec 20)
  /-- TRAP (R354): Raises SOFTWARE with DETAIL equal to the code. -/
  | trap (c : BitVec 16)
  /-- BRX (R344): Branches per lane where the mask bit is 1, masking on divergence. -/
  | brx (m : BitVec 4) (o : BitVec 20)
  /-- BRX_ANY (R344): Branches the whole warp if any active lane's mask bit is 1. -/
  | brxAny (m : BitVec 4) (o : BitVec 20)
  /-- BRX_ALL (R344): Branches the whole warp if every active lane's mask bit is 1. -/
  | brxAll (m : BitVec 4) (o : BitVec 20)
  /-- BRN (R344): Branches per lane where the mask bit is 0. -/
  | brn (m : BitVec 4) (o : BitVec 20)
  /-- BRN_ANY (R344): Branches the whole warp if any active lane's mask bit is 0. -/
  | brnAny (m : BitVec 4) (o : BitVec 20)
  /-- BRN_ALL (R344): Branches the whole warp if every active lane's mask bit is 0. -/
  | brnAll (m : BitVec 4) (o : BitVec 20)
  /-- BRD (R162): Conditional branch that splits a disagreeing warp along slice boundaries. -/
  | brd (m : BitVec 4) (o : BitVec 20)
  /-- BRL (R344): Writes the return address to a pair and branches. -/
  | brl (d : BitVec 7) (o : BitVec 19)
  /-- LOOP (R344): Decrements the count and branches in lanes where it is not zero. -/
  | loop (d : BitVec 7) (o : BitVec 19)
  /-- ARRW (R360): Adds to arrival counter c.ARVn as a release and optionally parks until it reaches a target. -/
  | arrw (d a b : BitVec 7) (n : BitVec 5)
  /-- JMPI (R345): Jumps each lane to its own target, pushing distinct targets onto the divergence list. -/
  | jmpi (a : BitVec 7)
  /-- CALLI (R345): As JMPI, writing the return address to v126:v127. -/
  | calli (a : BitVec 7)
  /-- REFORM (R347): Files each active thread in its quadrant's bins with a carry set and resume point. -/
  | reform (k a : BitVec 7)
  /-- BEAT (R355): Adds the lanes' beat amounts to a beat channel of the context. -/
  | beat (a c : BitVec 7)
  /-- BTGT (R356): Writes the loop target T and MODE of the context's loop record. -/
  | btgt (a m : BitVec 7)
  /-- SPAWN (R132): Submits the offering lanes' slates to one queue all or nothing. -/
  | spawn (d a b : BitVec 7)
  /-- CANCEL (R358): Increments one generation c.GENg of the context. -/
  | cancel (a : BitVec 7)
  /-- WINB (R349): Sets the register window base of the running side. -/
  | winb (b : BitVec 7)
  /-- WINQ (R349): Writes the window base and NREGS/16. -/
  | winq (d : BitVec 7)
  /-- TAGQ (R352): Writes the shape-tag code of a register. -/
  | tagq (d a : BitVec 7)
  /-- TAGG (R352): Makes a register general, keeping its values. -/
  | tagg (d : BitVec 7)
  /-- ELECT (R353): Sets a mask bit in the lowest lane of m0 only. -/
  | elect (k : BitVec 4)
  /-- RWR (R359): Writes a mailbox word of the cluster as a release at cluster scope. -/
  | rwr (a n : BitVec 7)
  /-- CWAIT (R199): Ends a cue run, writing the element's context with new wait code, argument and DATA. -/
  | cwait (a b : BitVec 7)
  /-- CWAKE (R204): Wakes the element named in each lane from a cue run. -/
  | cwake (a : BitVec 7)
  /-- CLOC (R202): Writes the element index, data offset, pass number or CPARM in a cue run. -/
  | cloc (d s : BitVec 7)
  /-- CRD (R350): Reads a control register into every lane of m0. -/
  | crd (d : BitVec 7) (n : BitVec 12)
  /-- CWR (R351): Writes the warp operand to a control register that has no row of its own. -/
  | cwr (a : BitVec 7) (n : BitVec 12)
  /-- IADD (R361): Integer add modulo 2^w. -/
  | iadd (p : Option Pfx) (d a b : BitVec 7) (t : BitVec 3)
  /-- ISUB (R361): Integer subtract modulo 2^w. -/
  | isub (p : Option Pfx) (d a b : BitVec 7) (t : BitVec 3)
  /-- IMUL (R361): Low w bits of the product. -/
  | imul (p : Option Pfx) (d a b : BitVec 7) (t : BitVec 3)
  /-- IMULH (R361): High w bits of the signed product. -/
  | imulh (p : Option Pfx) (d a b : BitVec 7) (t : BitVec 2)
  /-- IMULHN (R361): High w bits of the natural product. -/
  | imulhn (p : Option Pfx) (d a b : BitVec 7) (t : BitVec 2)
  /-- IMAD (R361): a × b + c, with c the prefix's fourth operand or vd's old value. -/
  | imad (p : Option Pfx) (d a b : BitVec 7) (t : BitVec 3)
  /-- IDIV (R187): Signed division under the trap enables. -/
  | idiv (p : Option Pfx) (d a b : BitVec 7) (t : BitVec 2)
  /-- IDIVN (R187): Natural division under the trap enables. -/
  | idivn (p : Option Pfx) (d a b : BitVec 7) (t : BitVec 2)
  /-- IREM (R187): Signed remainder under the trap enables. -/
  | irem (p : Option Pfx) (d a b : BitVec 7) (t : BitVec 2)
  /-- IREMN (R187): Natural remainder under the trap enables. -/
  | iremn (p : Option Pfx) (d a b : BitVec 7) (t : BitVec 2)
  /-- IABS (R361): Absolute value of a signed integer. -/
  | iabs (p : Option Pfx) (d a : BitVec 7) (t : BitVec 2)
  /-- IMIN (R361): Signed minimum. -/
  | imin (p : Option Pfx) (d a b : BitVec 7) (t : BitVec 2)
  /-- IMINN (R361): Natural minimum. -/
  | iminn (p : Option Pfx) (d a b : BitVec 7) (t : BitVec 2)
  /-- IMAX (R361): Signed maximum. -/
  | imax (p : Option Pfx) (d a b : BitVec 7) (t : BitVec 2)
  /-- IMAXN (R361): Natural maximum. -/
  | imaxn (p : Option Pfx) (d a b : BitVec 7) (t : BitVec 2)
  /-- BFX (R362): Extracts a bit field and sign-extends it. -/
  | bfx (p : Option Pfx) (d a b : BitVec 7) (t : BitVec 1)
  /-- BFXS (R362): Extracts a bit field zero-extended. -/
  | bfxs (p : Option Pfx) (d a b : BitVec 7) (t : BitVec 1)
  /-- BFI (R362): Inserts a bit field into vd. -/
  | bfi (p : Option Pfx) (d a b : BitVec 7) (t : BitVec 3)
  /-- SHL (R363): Shift left. -/
  | shl (p : Option Pfx) (d a b : BitVec 7) (t : BitVec 3)
  /-- SHR (R363): Logical shift right. -/
  | shr (p : Option Pfx) (d a b : BitVec 7) (t : BitVec 3)
  /-- SAR (R363): Arithmetic shift right. -/
  | sar (p : Option Pfx) (d a b : BitVec 7) (t : BitVec 3)
  /-- ROL (R363): Rotate left. -/
  | rol (p : Option Pfx) (d a b : BitVec 7) (t : BitVec 3)
  /-- AND (R361): Bitwise and. -/
  | and (p : Option Pfx) (d a b : BitVec 7) (t : BitVec 3)
  /-- OR (R361): Bitwise or. -/
  | or (p : Option Pfx) (d a b : BitVec 7) (t : BitVec 3)
  /-- XOR (R361): Bitwise exclusive or. -/
  | xor (p : Option Pfx) (d a b : BitVec 7) (t : BitVec 3)
  /-- ANDN (R361): a and not b. -/
  | andn (p : Option Pfx) (d a b : BitVec 7) (t : BitVec 3)
  /-- MOV (R361): Copies a register with its tags. -/
  | mov (p : Option Pfx) (d a : BitVec 7) (t : BitVec 3)
  /-- POPC (R361): Population count. -/
  | popc (p : Option Pfx) (d a : BitVec 7) (t : BitVec 3)
  /-- CLZ (R361): Count leading zeros. -/
  | clz (p : Option Pfx) (d a : BitVec 7) (t : BitVec 3)
  /-- CTZ (R361): Count trailing zeros. -/
  | ctz (p : Option Pfx) (d a : BitVec 7) (t : BitVec 3)
  /-- BREV (R361): Reverses the bits of each element. -/
  | brev (p : Option Pfx) (d a : BitVec 7) (t : BitVec 3)
  /-- LEA (R364): Pair va plus sign-extended vb scaled by 2^s. -/
  | lea (p : Option Pfx) (d a b : BitVec 7) (s : BitVec 3)
  /-- ICMP (R365): Integer compare writing a mask register. -/
  | icmp (p : Option Pfx) (k : BitVec 4) (a b : BitVec 7) (c : BitVec 2) (t : BitVec 3)
  /-- SEL (R366): Selects va or vb per lane by a mask. -/
  | sel (p : Option Pfx) (d a b : BitVec 7) (w : BitVec 1) (k : BitVec 4)
  /-- IADDI (R365): Adds a sign-extended 12-bit immediate. -/
  | iaddi (p : Option Pfx) (d a : BitVec 7) (i : BitVec 12)
  /-- MOVI (R365): Writes a sign-extended 19-bit immediate. -/
  | movi (p : Option Pfx) (d : BitVec 7) (i : BitVec 19)
  /-- MOVH (R365): Replaces bits [31:13] with the immediate. -/
  | movh (p : Option Pfx) (d : BitVec 7) (i : BitVec 19)
  /-- FADD (R374): Floating add, rounded once. -/
  | fadd (p : Option Pfx) (d a b : BitVec 7) (t : BitVec 3)
  /-- FSUB (R374): Floating subtract. -/
  | fsub (p : Option Pfx) (d a b : BitVec 7) (t : BitVec 3)
  /-- FMUL (R374): Floating multiply. -/
  | fmul (p : Option Pfx) (d a b : BitVec 7) (t : BitVec 3)
  /-- FFMA (R374): Fused multiply-add with one rounding. -/
  | ffma (p : Option Pfx) (d a b : BitVec 7) (t : BitVec 3)
  /-- FMIN (R376): Floating minimum. -/
  | fmin (p : Option Pfx) (d a b : BitVec 7) (t : BitVec 3)
  /-- FMAX (R376): Floating maximum. -/
  | fmax (p : Option Pfx) (d a b : BitVec 7) (t : BitVec 3)
  /-- FDIV (R381): Correctly rounded division. -/
  | fdiv (p : Option Pfx) (d a b : BitVec 7) (t : BitVec 3)
  /-- FCPYS (R377): a with b's sign bit. -/
  | fcpys (p : Option Pfx) (d a b : BitVec 7) (t : BitVec 3)
  /-- FABS (R377): Clears the sign bit. -/
  | fabs (p : Option Pfx) (d a : BitVec 7) (t : BitVec 3)
  /-- FNEG (R377): Inverts the sign bit. -/
  | fneg (p : Option Pfx) (d a : BitVec 7) (t : BitVec 3)
  /-- FRND (R378): Rounds to an integral value. -/
  | frnd (p : Option Pfx) (d a : BitVec 7) (t : BitVec 3)
  /-- FFRAC (R378): a minus trunc(a). -/
  | ffrac (p : Option Pfx) (d a : BitVec 7) (t : BitVec 3)
  /-- FSQRT (R381): Correctly rounded square root. -/
  | fsqrt (p : Option Pfx) (d a : BitVec 7) (t : BitVec 3)
  /-- FRCP (R381): Correctly rounded reciprocal. -/
  | frcp (p : Option Pfx) (d a : BitVec 7) (t : BitVec 3)
  /-- FRSQ (R381): Correctly rounded reciprocal square root. -/
  | frsq (p : Option Pfx) (d a : BitVec 7) (t : BitVec 3)
  /-- FCLASS (R380): Writes the class of a floating value. -/
  | fclass (p : Option Pfx) (d a : BitVec 7) (t : BitVec 3)
  /-- FEXP2 (R382): 2^a. -/
  | fexp2 (p : Option Pfx) (d a : BitVec 7) (t : BitVec 3)
  /-- FLOG2 (R382): log2 a. -/
  | flog2 (p : Option Pfx) (d a : BitVec 7) (t : BitVec 3)
  /-- FSIN (R382): sin(π a). -/
  | fsin (p : Option Pfx) (d a : BitVec 7) (t : BitVec 3)
  /-- FCOS (R382): cos(π a). -/
  | fcos (p : Option Pfx) (d a : BitVec 7) (t : BitVec 3)
  /-- FTANH (R382): tanh a. -/
  | ftanh (p : Option Pfx) (d a : BitVec 7) (t : BitVec 3)
  /-- FERF (R382): erf a. -/
  | ferf (p : Option Pfx) (d a : BitVec 7) (t : BitVec 3)
  /-- FSIGM (R382): Logistic sigmoid. -/
  | fsigm (p : Option Pfx) (d a : BitVec 7) (t : BitVec 3)
  /-- FCMP (R379): Floating compare writing a mask register. -/
  | fcmp (p : Option Pfx) (k : BitVec 4) (a b : BitVec 7) (c : BitVec 2) (t : BitVec 3)
  /-- HADD2 (R384): Packed-pair add. -/
  | hadd2 (p : Option Pfx) (d a b : BitVec 7) (t : BitVec 3)
  /-- HMUL2 (R384): Packed-pair multiply. -/
  | hmul2 (p : Option Pfx) (d a b : BitVec 7) (t : BitVec 3)
  /-- HFMA2 (R384): Packed-pair fused multiply-add. -/
  | hfma2 (p : Option Pfx) (d a b : BitVec 7) (t : BitVec 3)
  /-- HMIN2 (R384): Packed-pair minimum. -/
  | hmin2 (p : Option Pfx) (d a b : BitVec 7) (t : BitVec 3)
  /-- HMAX2 (R384): Packed-pair maximum. -/
  | hmax2 (p : Option Pfx) (d a b : BitVec 7) (t : BitVec 3)
  /-- RNG (R391): Counter-based generator value or uniform variate. -/
  | rng (p : Option Pfx) (d a b : BitVec 7) (t : BitVec 3)
  /-- CVTPK (R387): Narrows two FP32 values into a packed pair. -/
  | cvtpk (p : Option Pfx) (d a b : BitVec 7) (t : BitVec 3)
  /-- CVTUN (R387): Widens a packed pair to two FP32 values. -/
  | cvtun (p : Option Pfx) (d a : BitVec 7) (t : BitVec 3)
  /-- CVTIF (R385): Converts an integer to floating point. -/
  | cvtif (p : Option Pfx) (d a : BitVec 7) (f : BitVec 2) (i : BitVec 3)
  /-- CVTFI (R386): Converts floating point to an integer with clamping. -/
  | cvtfi (p : Option Pfx) (d a : BitVec 7) (f : BitVec 2) (i : BitVec 3)
  /-- CVTW (R388): Widens an element exactly. -/
  | cvtw (p : Option Pfx) (d a : BitVec 7) (x s e : BitVec 3)
  /-- CVTN (R389): Narrows into one element of vd. -/
  | cvtn (p : Option Pfx) (d a : BitVec 7) (x s e : BitVec 3)
  /-- CVTNE (R390): Narrows and writes the FP32 error-feedback residual to the fourth operand; requires a prefix. -/
  | cvtne (p : Option Pfx) (d a : BitVec 7) (x s e : BitVec 3)
  /-- MAND (R392): Mask and. -/
  | mand (p : Option Pfx) (k j i : BitVec 4)
  /-- MOR (R392): Mask or. -/
  | mor (p : Option Pfx) (k j i : BitVec 4)
  /-- MXOR (R392): Mask exclusive or. -/
  | mxor (p : Option Pfx) (k j i : BitVec 4)
  /-- MANDN (R392): Mask and-not. -/
  | mandn (p : Option Pfx) (k j i : BitVec 4)
  /-- MNOT (R392): Mask not. -/
  | mnot (p : Option Pfx) (k j : BitVec 4)
  /-- MMOV (R392): Mask copy. -/
  | mmov (p : Option Pfx) (k j : BitVec 4)
  /-- MSET (R393): Sets a mask from the bits of a warp operand. -/
  | mset (p : Option Pfx) (k : BitVec 4) (a : BitVec 7)
  /-- MGET (R393): Writes the 32-bit vector of a mask. -/
  | mget (p : Option Pfx) (d : BitVec 7) (j : BitVec 4)
  /-- MPOP (R393): Counts set mask bits among active lanes. -/
  | mpop (p : Option Pfx) (d : BitVec 7) (j : BitVec 4)
  /-- MFFS (R393): Finds the lowest set mask bit among active lanes. -/
  | mffs (p : Option Pfx) (d : BitVec 7) (j : BitVec 4)
  /-- SHFL (R395): Moves values between lanes of a warp. -/
  | shfl (p : Option Pfx) (d a b : BitVec 7) (m : BitVec 2) (w : BitVec 1)
  /-- VOTE_ANY (R396): 1 if any participating lane has the mask bit set. -/
  | voteAny (p : Option Pfx) (d : BitVec 7) (j : BitVec 4)
  /-- VOTE_ALL (R396): 1 if every participating lane has the mask bit set. -/
  | voteAll (p : Option Pfx) (d : BitVec 7) (j : BitVec 4)
  /-- VOTE_UNI (R396): 1 if va holds one value in every participating lane. -/
  | voteUni (p : Option Pfx) (d a : BitVec 7)
  /-- WRED (R397): Reduces participating lanes in lane order. -/
  | wred (p : Option Pfx) (d a : BitVec 7) (o : BitVec 2) (t : BitVec 3)
  /-- WSCAN (R397): Inclusive scan over participating lanes. -/
  | wscan (p : Option Pfx) (d a : BitVec 7) (o : BitVec 2) (t : BitVec 3)
  /-- LD (R403): Load of a kind and scope, checking every lane first. -/
  | ld (p : Option Pfx) (d a : BitVec 7) (s : BitVec 3) (k : BitVec 2) (w : BitVec 3)
  /-- ST (R403): Store of a kind and scope. -/
  | st (p : Option Pfx) (d a : BitVec 7) (s : BitVec 3) (k : BitVec 2) (w : BitVec 3)
  /-- LDL (R411): Scratchpad load at a crew-relative offset. -/
  | ldl (p : Option Pfx) (d a : BitVec 7) (q : BitVec 1) (w : BitVec 3)
  /-- STL (R411): Scratchpad store at a crew-relative offset. -/
  | stl (p : Option Pfx) (d a : BitVec 7) (q : BitVec 1) (w : BitVec 3)
  /-- LDC (R405): One plain load at the warp operand address broadcast to all lanes. -/
  | ldc (p : Option Pfx) (d a : BitVec 7) (w : BitVec 3)
  /-- LDX (R406): Lane-by-lane gather load with a progress index. -/
  | ldx (p : Option Pfx) (d a : BitVec 7) (w : BitVec 3)
  /-- STX (R406): Lane-by-lane scatter store with a progress index. -/
  | stx (p : Option Pfx) (d a : BitVec 7) (w : BitVec 3)
  /-- ATOM (R408): Atomic read-modify-write returning the old value. -/
  | atom (p : Option Pfx) (d a : BitVec 7) (k : BitVec 2) (s o : BitVec 3) (t : BitVec 2)
  /-- ATOM_CAS (R408): Atomic compare-and-swap with the comparand in the prefix's fourth operand. -/
  | atomCas (p : Option Pfx) (d a : BitVec 7) (k : BitVec 2) (s : BitVec 3) (t : BitVec 2)
  /-- ATOML (R410): Atomic read-modify-write on the scratchpad. -/
  | atoml (p : Option Pfx) (d a : BitVec 7) (k : BitVec 2) (o : BitVec 3) (t : BitVec 2)
  /-- ATOML_CAS (R410): Scratchpad compare-and-swap with a prefix comparand. -/
  | atomlCas (p : Option Pfx) (d a : BitVec 7) (k t : BitVec 2)
  /-- REDM (R407): Lane-by-lane atomic reduction into memory returning nothing. -/
  | redm (p : Option Pfx) (d a : BitVec 7) (k : BitVec 2) (s o : BitVec 3) (t : BitVec 2)
  /-- FENCE_ACQ (R250): Acquire fence at a scope. -/
  | fenceAcq (s : BitVec 7)
  /-- FENCE_REL (R250): Release fence at a scope. -/
  | fenceRel (s : BitVec 7)
  /-- FENCE_FULL (R250): Full fence, writing back and invalidating L1 at cluster scope or wider. -/
  | fenceFull (s : BitVec 7)
  /-- BAR (R415): Arrives at a crew barrier and waits for it to complete. -/
  | bar (a n : BitVec 7)
  /-- BAR_TAKE (R416): Live-mode barrier whose completion makes the crew leave its core at a take boundary. -/
  | barTake (k : BitVec 3) (n : BitVec 7)
  /-- BARA (R415): Arrives at a barrier without waiting. -/
  | bara (a n : BitVec 7)
  /-- BARW (R415): Waits while its threads are in the barrier's arrival set. -/
  | barw (n : BitVec 7)
  /-- BARQ (R417): Reads a barrier's state. -/
  | barq (d n : BitVec 7)
  /-- PRES (R412): Reads a scratchpad line's presence bit. -/
  | pres (d a : BitVec 7)
  /-- PCLR (R412): Clears a scratchpad line's presence bit. -/
  | pclr (a : BitVec 7)
  /-- PSET (R412): Sets a presence bit and wakes warps parked on the line. -/
  | pset (a : BitVec 7)
  /-- PREF (R420): Prefetch hint into L2 or L1. -/
  | pref (a l : BitVec 7)
  /-- CINV (R421): Writes back and invalidates L1 lines of a range. -/
  | cinv (a b : BitVec 7)
  /-- CWB (R421): Writes back dirty L1 sectors of a range. -/
  | cwb (a b : BitVec 7)
  /-- CFLS (R421): As CINV, then flushes the range's L2 lines to DRAM. -/
  | cfls (a b : BitVec 7)
  /-- BCI (R418): Initialises a byte-count word. -/
  | bci (a b : BitVec 7)
  /-- BCA (R418): Adds to ARRIVED of a byte-count word as a release. -/
  | bca (a b : BitVec 7)
  /-- BCW (R418): Adds to EXPECT and parks until the byte-count word is satisfied. -/
  | bcw (a b : BitVec 7)
  /-- RACT (R424): Activates a DRAM row on the open-row bus. -/
  | ract (a : BitVec 7)
  /-- RCON (R425): Consumes an open row into a tile. -/
  | rcon (t a : BitVec 7)
  /-- RCON_WS (R425): Consumes an open row into the weight stage. -/
  | rconWs (a b : BitVec 7)
  /-- RCLS (R426): Closes a row, starting its precharge. -/
  | rcls (a : BitVec 7)
  /-- RSTAT (R427): Reads the cluster's row tracker entry for a bank. -/
  | rstat (d a : BitVec 7)
  /-- TSHAPE (R436): Sets a tile's shape and format word. -/
  | tshape (t a : BitVec 7)
  /-- TCLR (R438): Zeroes a tile's storage. -/
  | tclr (t : BitVec 7)
  /-- OMAP (R437): Sets a tile's operand map and view. -/
  | omap (t a : BitVec 7)
  /-- TLD (R439): Loads a tile's rows from memory row by row. -/
  | tld (t a b : BitVec 7)
  /-- TST (R439): Stores a tile's rows to memory row by row. -/
  | tst (t a b : BitVec 7)
  /-- TFEED (R441): Loads crew-written rows from a feed record after a format-word vote. -/
  | tfeed (t a b : BitVec 7)
  /-- MMA (R442): Queues a tile multiply accumulating into an accumulator tile. -/
  | mma (c i j : BitVec 7)
  /-- MMAS (R443): Queues a tile multiply that sets rather than accumulates in group 0. -/
  | mmas (c i j : BitVec 7)
  /-- MMAQ (R442): Queues a multiply with a narrow or VQ2 operand. -/
  | mmaq (c i j : BitVec 7)
  /-- MZERO (R445): Queues zeroing of an accumulator tile. -/
  | mzero (c : BitVec 7)
  /-- MLOAD (R446): Fills an accumulator tile from memory row by row. -/
  | mload (c a : BitVec 7)
  /-- MDRN (R448): Queues a drain of accumulator rows into the activation stage with residual, dropout and error
      feedback. -/
  | mdrn (c a b : BitVec 7)
  /-- MCOOP (R458): Joins, synchronises or leaves a cooperation group of clusters. -/
  | mcoop (a : BitVec 7)
  /-- MWAIT (R455): Parks the control thread until a class of matrix work completes. -/
  | mwait (l : BitVec 7)
  /-- SCPL (R451): Binds a scale id to a base address. -/
  | scpl (a b : BitVec 7)
  /-- SCINV (R453): Invalidates scale-cache lines of an id or all. -/
  | scinv (a : BitVec 7)
  /-- SCQ (R453): Reads a scale id's binding and cache statistics. -/
  | scq (d a : BitVec 7)
  /-- CBLD (R454): Loads a 1 KiB VQ2 codebook. -/
  | cbld (c a : BitVec 7)
  /-- TLBI (R422): Privileged TLB invalidation of a page or a context. -/
  | tlbi (a r : BitVec 7)
  /-- XC_COPY (R467): Copy-engine linear copy, or a collective at node or system scope. -/
  | xcCopy (v a b : BitVec 7)
  /-- XC_TCOPY (R469): Tensor copy over up to 16 dimensions. -/
  | xcTcopy (v a b : BitVec 7)
  /-- XC_GATH (R467): Indexed gather copy. -/
  | xcGath (v a b : BitVec 7)
  /-- XC_SCAT (R467): Indexed scatter copy. -/
  | xcScat (v a b : BitVec 7)
  /-- XC_FILL (R467): Fills a range with a 4-byte pattern. -/
  | xcFill (v a b : BitVec 7)
  /-- XC_STAT (R470): Reports a copy command's state and items finished. -/
  | xcStat (v a : BitVec 7)
  /-- XC_CANC (R470): Cancels a copy command's unstarted items. -/
  | xcCanc (v a : BitVec 7)
  /-- SW_BIND (R471): Binds an element-context tensor to the cluster's dolly. -/
  | swBind (v a b : BitVec 7)
  /-- SW_UNBIND (R471): SW.BIND with UNBIND set ends a binding. -/
  | swUnbind (v b : BitVec 7)
  /-- SW_PASS (R471): Queues one dolly pass over a binding. -/
  | swPass (v a b : BitVec 7)
  /-- SW_WAKE (R471): Wakes a list of elements of a binding. -/
  | swWake (v a b : BitVec 7)
  /-- SW_STAT (R471): Reports a binding's pass state and optionally writes its counters. -/
  | swStat (v a b : BitVec 7)
  /-- GP_BIND (R292): Binds a grammar slot to a compiled grammar. -/
  | gpBind (v a b : BitVec 7)
  /-- GP_STEP (R293): Advances a grammar slot by one token. -/
  | gpStep (v a b : BitVec 7)
  /-- GP_MASK (R294): Writes the slot's allowed-token mask to memory. -/
  | gpMask (v a b : BitVec 7)
  /-- GP_FORK (R295): Copies one grammar slot into another. -/
  | gpFork (v a b : BitVec 7)
  /-- GP_ROLL (R296): Undoes the newest k logged steps of a slot and takes the current generation. -/
  | gpRoll (v a b : BitVec 7)
  /-- GP_SAVE (R297): Writes a 256-byte slot image. -/
  | gpSave (v a b : BitVec 7)
  /-- GP_LOAD (R297): Reads a slot image into a slot. -/
  | gpLoad (v a b : BitVec 7)
  /-- DT_BUILD (R299): Builds parent and ancestor arrays of a draft tree. -/
  | dtBuild (v a : BitVec 7)
  /-- PT_LOOK (R306): Looks up a block hash in the prefix table. -/
  | ptLook (v a : BitVec 7)
  /-- PT_PIN (R306): Attaches to a prefix-table entry, raising its pin count. -/
  | ptPin (v a : BitVec 7)
  /-- PT_UNPIN (R306): Lowers an entry's pin count. -/
  | ptUnpin (v a : BitVec 7)
  /-- PT_INS (R306): Inserts a hash into the prefix table, evicting if needed. -/
  | ptIns (v a b : BitVec 7)
  /-- PT_EVICT (R306): Invalidates an unpinned, childless entry. -/
  | ptEvict (v a : BitVec 7)
  /-- XC_SCRB (R473): Privileged: starts a scrub job that tears down a context. -/
  | xcScrb (v a : BitVec 7)
  /-- KS_ZERO (R474): Privileged: zeroes a key slot as step 2 of R81. -/
  | ksZero (v a b : BitVec 7)
  /-- CLOCK_STEP_CHANGE (R24): A cluster's frequency-locked loop completes a change of clock step within 1 µs and
      runs at the new step. -/
  | clockStepChange
  /-- BUDGET_CAP_ADJUST (R27): The compute side lowers or raises a cluster's budget cap one step in class and step
      order, or the memory side changes the spacing of DRAM commands, to hold its share. -/
  | budgetCapAdjust
  /-- SLIDER_PERIOD (R28): At the end of each slider period of 2^14 reference ticks the management core updates MSHR
      from stall and cap state, or fixes it at MFIX. -/
  | sliderPeriod
  /-- PWRCTL_WRITE (R29): A PF write to PWRCTL sets PLIM, clamped to 1,000–3,200 W, and SLFIX and MFIX. -/
  | pwrctlWrite
  /-- THERMAL_BAND_CHANGE (R30): A stack's hottest layer crosses a band boundary; in band 3 the thermal cap drops to
      step 0 and activations are limited, and in band 1 or above hot-page migration is enabled. -/
  | thermalBandChange
  /-- THERMAL_CAP_TICK (R30): Every 20.48 µs a stack's thermal cap rises by 1 in band 0 or falls by 4 in band 2. -/
  | thermalCapTick
  /-- THERMAL_TRIP (R31): A stack at or above 115 °C for 1 ms, or at 120 °C, turns off the compute rails, stops
      every resident crew with THERMAL and posts a THERMAL_TRIP record. -/
  | thermalTrip
  /-- THERMAL_CLEAR (R32): After every stack has been in band 0 for 10 ms the compute rails return, each cluster
      comes up as from W2, and a THERMAL_CLEAR record is posted. -/
  | thermalClear
  /-- PAGE_MIGRATION_START (R33): The management core marks a most-accessed page of a hot stack as migrating and
      stalls writes to it. -/
  | pageMigrationStart
  /-- PAGE_MIGRATED (R33): The copy of a migrating page completes; its entry is rewritten, TLBs are invalidated,
      stalled writes complete to the new copy and a PAGE_MIGRATED record is posted. -/
  | pageMigrated
  /-- HALF_SWITCH (R34): A temperature comparator switches a matrix array or the control-core register banks to the
      other physical half, copying banks in 64 cycles. -/
  | halfSwitch
  /-- CLUSTER_FENCED (R35): A sag of more than 35 mV for 2 µs at low current fences the cluster, stops its crews
      with FENCED, withdraws its share and posts a CLUSTER_FENCED record. -/
  | clusterFenced
  /-- W1_ENTRY (R37): A cluster with no issue for 2 µs stops its clocks. -/
  | w1Entry
  /-- W2_ENTRY (R40): A cluster meeting the W2 condition, within the per-die limit of 9, begins its power-down and
      break-even hold. -/
  | w2Entry
  /-- BREAK_EVEN_HOLD_END (R40): The 1.5 µs break-even hold ends and any latched wake request joins the die's in-
      rush FIFO. -/
  | breakEvenHoldEnd
  /-- CLUSTER_POWER_UP_DONE (R40): The in-rush arbiter finishes a 2.5 µs power-up of one cluster, which enters W0,
      and starts the next in FIFO order. -/
  | clusterPowerUpDone
  /-- W3_ENTRY (R39): With every cluster meeting the W2 condition and every queue empty the package enters W3,
      stacks self-refresh and links idle. -/
  | w3Entry
  /-- LATENCY_TOLERANCE_REPORT (R38): A PCIe latency tolerance report sets the tolerance that bounds the power
      governor's deepest state. -/
  | latencyToleranceReport
  /-- GANG_FLIT_RECEIVE (R42): A 256-byte flit arrives on a gang link; a CRC failure causes a link-level retry and
      counts in RETRY. -/
  | gangFlitReceive
  /-- ETH_FRAME_RECEIVE (R45): An Ethernet frame arrives on a scale-out lane; frames with another EtherType are
      ignored. -/
  | ethFrameReceive
  /-- HEARTBEAT_SEND (R46): A link or port idle for 100 µs sends a heartbeat flit or frame. -/
  | heartbeatSend
  /-- LINK_DOWN (R46): A link or port that receives nothing for 300 µs is declared down, traffic is spread over the
      rest and a LINK_STATE record is posted. -/
  | linkDown
  /-- LANE_FAILURE (R46): A lane fails; a link runs at half rate on its other lane, or is fenced with both lanes
      failed, and a LINK_STATE record is posted. -/
  | laneFailure
  /-- FABCFG_WRITE (R48): A PF write to FABCFG sets ETYPE and POS, and PORTS only while every scale-out lane is
      down. -/
  | fabcfgWrite
  /-- COLLECTIVE_ITEM_DONE (R51): A collective item between two members completes or fails, and its status byte
      records the first outcome. -/
  | collectiveItemDone
  /-- COLLECTIVE_COMMIT (R52): Once every item at every member is OK a reducing collective writes its destinations;
      if any fails no member commits and OK items become ABANDONED. -/
  | collectiveCommit
  /-- MERGE_PERIOD_END (R57): At the end of a node period a merge-tree node ages its children, forwards its minimum
      and clip bit to its parent, or as root sends it down. -/
  | mergePeriodEnd
  /-- MERGE_MESSAGE_RECEIVE (R57): A merge message from a child or parent arrives and updates the child's value and
      age or the merged value passed to members and children. -/
  | mergeMessageReceive
  /-- MRGTAG_WRITE (R57): A PF write to MRGTAG sets the FGRP of the merge-table entry that MRGSEL selects. -/
  | mrgtagWrite
  /-- MRGPAR_WRITE (R57): A PF write to MRGPAR sets PARENT, ROOT and V of the selected merge-table entry, effective
      at the next period end. -/
  | mrgparWrite
  /-- PACKAGE_LOST (R58): A package with every link and port down, or that sent a loss notice, is declared lost;
      items take PEER_LOST, merge trees age it out and a PACKAGE_LOST record is posted. -/
  | packageLost
  /-- QSUB_WRITE (R66): A 64-bit write to QSUB submits a slate address to a queue or rejects it, counting in REJ. -/
  | qsubWrite
  /-- SLATE_ACCEPT (R128): The device reads an accepted slate, copies its fields, writes QNUM and moves it to
      WAITING or READY after the entry checks, or discards it if not FREE. -/
  | slateAccept
  /-- CMDDB_WRITE (R71): A write to CMDDB queues a command block, or drops it and sets DROP when 64 are waiting. -/
  | cmddbWrite
  /-- CREATE (R73): Command 0x01 makes a context resident and empty with default loop record and an optional key
      slot. -/
  | create
  /-- SAVE (R73): Command 0x02 stops a context at take boundaries or with progress indices, writes its continuity
      record within SIZE and releases its cores. -/
  | save
  /-- RESTORE (R73): Command 0x03 loads a VALID continuity record as a resident context and re-bases its loop. -/
  | restore
  /-- SWITCH (R75): Command 0x04 saves one context and restores another as two atomic halves. -/
  | switch
  /-- DESTROY (R73): Command 0x05 ends an unprotected context and returns its resources at once. -/
  | destroy
  /-- TEARDOWN (R81): Command 0x06 ends a context by stopping its crews, zeroing its key slot and running a scrub
      job before releasing its resources. -/
  | teardown
  /-- DRAIN (R73): Command 0x07 stops placement and parks every crew of a context at its next take boundary. -/
  | drain
  /-- DRAIN_TIMEOUT (R73): ARG µs after a DRAIN began every crew still running is pre-empted into a KIND 2 take
      record. -/
  | drainTimeout
  /-- UNDRAIN (R73): Command 0x08 ends a DRAIN so that placement and restoration resume. -/
  | undrain
  /-- VFSUSPEND (R78): PF command 0x10 suspends a VF, interrupting a running SAVE, RESTORE or SWITCH and saving the
      VF's contexts and command stream. -/
  | vfsuspend
  /-- VFRESUME (R78): PF command 0x11 resumes a VF, finishing any interrupted command and writing its status once. -/
  | vfresume
  /-- ASSIGN (R76): PF command 0x12 sets a function's whole assignment of resources from an assignment record after
      ordered checks. -/
  | assign
  /-- COMMAND_COMPLETE (R71): A command that waited finishes; its STATUS byte is written and MSI-X vector 1 is
      raised if requested, and the next command begins. -/
  | commandComplete
  /-- DLSIZE_WRITE (R86): A write to DLSIZE enables the dailies ring at DLBASE, resetting head and tail and flushing
      the backlog, or disables it. -/
  | dlsizeWrite
  /-- PTROOT_WRITE (R213): A write to PTROOTn stores a context's translation root, effective when the context is
      next made resident. -/
  | ptrootWrite
  /-- KEY_LOAD (R80): KSCMD 1 loads the selected key slot from KSDATA, unless the slot is assigned or zeroing, and
      clears KSDATA. -/
  | keyLoad
  /-- KEY_ZERO (R80): KSCMD 2 starts zeroing the selected key slot, which reads ZEROING. -/
  | keyZero
  /-- KEY_ZERO_DONE (R81): A key slot finishes zeroing, its tagged cached lines having been discarded, and reads
      EMPTY. -/
  | keyZeroDone
  /-- REGISTER_WRITE (R13): A write to a register that has no row of its own sets or clears its fields as their
      access codes state. -/
  | registerWrite
  /-- SCRUB_JOB_START (R83): A teardown waiting for a free scrub job takes one and begins step 1 of R81, holding the
      context's resources. -/
  | scrubJobStart
  /-- SCRUB_UNIT_COMMIT (R83): A scrub job commits one zeroed 4 KiB unit, decrementing SCRBCNT and advancing UNITS
      or PHASE. -/
  | scrubUnitCommit
  /-- SCRUB_DONE (R478): A scrub job's last unit is committed; resources are released, a SCRUB_DONE record posted
      and PHASE set to 5. -/
  | scrubDone
  /-- FLR_VF (R84): A Function Level Reset of a VF aborts its waiting commands and ends its resident contexts,
      leaving scrub jobs running with RST set. -/
  | flrVf
  /-- FLR_PF (R84): A Function Level Reset of the PF resets it while scrub jobs resume at their first uncommitted
      unit. -/
  | flrPf
  /-- HOT_RESET (R84): A hot reset resets the device while scrub job state survives and SEQ counts restart. -/
  | hotReset
  /-- WARM_RESET (R84): A warm reset resets the device while scrub job state survives and SEQ counts restart. -/
  | warmReset
  /-- POWER_ON (R84): At power-on every key slot is EMPTY and all package DRAM is zeroed before any function is
      enabled. -/
  | powerOn
  /-- PRI_RESPONSE (R62): A page request response arrives; success unparks the waiting crew and any other response
      raises a PAGE fault. -/
  | priResponse
  /-- BEAT_ARRIVE (R93): A retired beat reaches its context's controller and is added to the channel count and CNT0
      of the current period. -/
  | beatArrive
  /-- BTGT_ARRIVE (R356): A retired BTGT reaches the controller and sets T and MODE of the loop record. -/
  | btgtArrive
  /-- CONTROL_PERIOD_END (R96): At each control period end the controller updates M, runs the control law in mode 1
      and posts demand D to the allocator. -/
  | controlPeriodEnd
  /-- ALLOCATOR_EPOCH (R105): Every 81.92 µs the allocator grants latched demands from the function's pools by class
      and weight and sets G and CLIP. -/
  | allocatorEpoch
  /-- GRANT_APPLY (R100): An epoch's grants reach the actuators: slots, cores, way quotas, memory shares and cluster
      GRANT. -/
  | grantApply
  /-- CORE_RELEASE_TIMEOUT (R143): A take on a withdrawn core that reaches no boundary within 2 control periods is
      pre-empted into a KIND 2 take record. -/
  | coreReleaseTimeout
  /-- QUANTUM_END (R120): A 1 µs level-1 quantum ends and the next quantum passes to its owner or the next function
      with a ready item. -/
  | quantumEnd
  /-- AGE_TICK (R122): Every 40.96 µs the AGE of each queue with a ready item increases. -/
  | ageTick
  /-- BACKFILL_TIMEOUT (R123): A winner unplaced 327.68 µs after first winning stops backfill on all of its
      context's cores. -/
  | backfillTimeout
  /-- CREW_PLACE (R123): A dispatcher places a crew of the winning item on a core of the context, performing an
      acquire at package scope. -/
  | crewPlace
  /-- GROUP_PLACE (R155): A co-resident group is placed whole in one step once its crews fit on the context's cores. -/
  | groupPlace
  /-- TAKE_SPILL_DONE (R137): A crew's take record is written, its slot and registers are released, and the take
      joins its queue's ready list. -/
  | takeSpillDone
  /-- TAKE_RESTORE (R137): Arbitration restores a parked take onto a core of the context, checking its generation,
      and it resumes running. -/
  | takeRestore
  /-- CONTROL_THREAD_RESTORE (R171): A waiting control thread is restored on a chosen cluster with the owner state
      of that control core. -/
  | controlThreadRestore
  /-- ENGINE_COMMAND_START (R119): An engine arbiter starts a context's next accepted command in issue order. -/
  | engineCommandStart
  /-- SLATE_RETIRE (R128): When every crew has ended and every engine command completed a slate retires, writing
      STATUS and releasing successors. -/
  | slateRetire
  /-- DEADLINE_EXPIRY (R139): A slate's deadline expires unretired; DLMISS is recorded, MISS counts rise, a
      DEADLINE_MISS record is posted and DLBOOST applies. -/
  | deadlineExpiry
  /-- BIN_ISSUE (R164): A quadrant bin that is full, aged 64 cycles or holds every live thread issues as a new warp,
      and hold-list entries move into bins. -/
  | binIssue
  /-- DIVERGENCE_YIELD (R161): A running side that has issued 64 instructions yields to the front entry of its
      divergence list. -/
  | divergenceYield
  /-- PASS_START (R198): A queued dolly pass starts after earlier passes and wakes, incrementing the pass number and
      acquiring at package scope. -/
  | passStart
  /-- BLOCK_PASS (R198): The dolly atomically reads a block's skip line, clears WOKEN bits, latches live or woken
      elements and clears a zero summary bit. -/
  | blockPass
  /-- PASS_END (R208): When every latched element that runs is written back the pass releases at package scope and
      writes its completion word. -/
  | passEnd
  /-- WAKE_APPLY (R204): A wake reaches the skip line's home slice and sets WOKEN and the summary bit in one atomic
      update. -/
  | wakeApply
  /-- PAGE_WALK_DONE (R214): A page walk finishes and fills the TLBs, or raises PAGE or ACCESS for the waiting
      access. -/
  | pageWalkDone
  /-- SCRATCHPAD_ACCESS_DONE (R225): A scratchpad bank serves a queued line request and decrements its warp's
      completion counter. -/
  | scratchpadAccessDone
  /-- ROW_TRANSFER_END (R235): An RCON transfer of 2 KiB ends after 8 cluster cycles, releasing its port. -/
  | rowTransferEnd
  /-- PRECHARGE_END (R233): A bank's 12 ns precharge ends; a CLOSING entry becomes FREE and a stalled RACT may
      activate. -/
  | prechargeEnd
  /-- ROW_FORCED_CLOSE (R236): At activation + 2,800 ns an OPEN entry becomes EXPIRED and precharge begins. -/
  | rowForcedClose
  /-- BANK_REFRESH (R236): The device refreshes a bank for 120 ns within its schedule, deferring while a row is
      open. -/
  | bankRefresh
  /-- PATROL_SCRUB (R241): The background patrol reads and corrects DRAM sectors, posting ECC records as a load
      would. -/
  | patrolScrub
  /-- COPY_ITEM_START (R466): A copy engine starts the next item of a command, checking its generation and
      cancelling the rest on failure. -/
  | copyItemStart
  /-- COPY_ITEM_COMPLETE (R466): A copy item completes or fails, adds its bytes to the byte-count word, sets
      presence bits and appends its signature to the release log. -/
  | copyItemComplete
  /-- GRAMMAR_SLOT_PERFORM (R289): A grammar slot performs an accepted command in issue order and writes any output
      and completion word. -/
  | grammarSlotPerform
  /-- MATRIX_EXEC_START (R433): The matrix unit begins the next queued instruction once its scoreboard waits are
      met. -/
  | matrixExecStart
  /-- MATRIX_EXEC_DONE (R433): A queued matrix instruction completes, ORing its flags into the control thread's
      c.FLAGS and waking a satisfied MWAIT. -/
  | matrixExecDone
  /-- SCALE_FETCH_DONE (R452): A scale-cache miss fetch returns a line from its home slice and the stalled
      instruction proceeds. -/
  | scaleFetchDone
  /-- NOP (R346): Does nothing. -/
  | nop
  /-- RET (R345): Jumps to the target in v126:v127 per lane. -/
  | ret
  /-- RJOIN (R346): Advances and yields the running side to the divergence list for merging. -/
  | rjoin
  /-- EXIT (R348): Ends every thread of m0, ending the crew when the last live thread exits. -/
  | exit
  /-- YIELD (R346): Yields the running side and gives up the warp's next issue turn. -/
  | yield
  /-- TRET (R183): Returns from the top trap frame, resuming siblings when TDEPTH reaches 0. -/
  | tret
  /-- IFENCE (R258): Waits for earlier accesses, invalidates the instruction cache and discards fetched-ahead
      instructions. -/
  | ifence
  /-- MFENCE (R456): MWAIT 3 followed by a full fence at cluster scope. -/
  | mfence
  /-- ACTIVATE_TO_FIRST_CONSUME (R235): The 12 ns from a row's activation pass, and an RCON or RCON.WS stalled on
      that row starts its transfer and retires. -/
  | activateToFirstConsume
  /-- WRITE_BUFFER_DRAIN (R248): A store held in a banked write buffer drains and is performed at its line's home
      slice, becoming visible to every agent at that instant. -/
  | writeBufferDrain
  /-- SHARED_TILE_WRITE_DONE (R459): A rank-0 write to a shared tile of a cooperation group is performed at the last
      member, so it counts as complete for R434 and R455. -/
  | sharedTileWriteDone
  /-- HOST_PORT_ACCESS (R242): A memory read or write request from the host arrives at the host port and is
      performed as an access of its page kind at system scope. -/
  | hostPortAccess
  deriving DecidableEq, Repr

end Sys2Proof
end

