-- ==== Sys2Proof/Decode.lean ====
section
/-! DEFINITION. The decoder, total on any bytes and rejecting by name (R308-R328), and after it the encoder, from the
same tables. Decoding finds the row of the opcode map; whether the fields of that row hold values that the map allows is
`Instr.legal` (R328), and the machine turns both refusals into the ILLEGAL trap that the spec names. -/

namespace Sys2Proof

/-- `len` bits of an instruction word from bit `lo` upward. -/
abbrev fld (w : BitVec 32) (lo len : Nat) : BitVec len := w.extractLsb' lo len

/-- Why some bytes are no instruction. -/
inductive DecodeError where
  /-- Fewer bytes than one word, or than the second word of a prefixed pair. -/
  | short
  /-- A word that no row of the opcode map matches: a reserved major, fn, mode or function code, or a non-zero unused
  field (R317-R328). -/
  | noRow
  /-- A prefix word whose bits [7:0] are not zero (R315). -/
  | prefixBits
  /-- A prefix before a prefix, or before a word outside majors 0x0C-0x30 (R315). -/
  | prefixBeforeOther
  deriving DecidableEq, Repr

/-- The little-endian word at the head of a byte list (R11), and the rest. -/
def takeWord : List Byte → Option (BitVec 32 × List Byte)
  | b0 :: b1 :: b2 :: b3 :: rest => some (b3 ++ b2 ++ b1 ++ b0, rest)
  | _ => none

/-- The prefix fields of a word of major 0x3B (R309). -/
def pfxOf (w : BitVec 32) : Pfx :=
  ⟨fld w 22 4, fld w 21 1 = 1, fld w 18 3, fld w 11 7, fld w 8 3⟩

/-- The word of a prefix (R309), and none without one. -/
def pfxWords : Option Pfx → List (BitVec 32)
  | none => []
  | some p => [59#6 ++ p.mask ++ BitVec.ofBool p.zero ++ p.rnd ++ p.op4 ++ p.sat ++ 0#8]


/-- Major 0x01. -/
def decodeMajor01 (w : BitVec 32) : Option Instr :=
  if fld w 20 6 = 0 then some (.bra (fld w 0 20)) else
  if fld w 20 6 = 1 then some (.call (fld w 0 20)) else
  if fld w 16 10 = 32 then some (.trap (fld w 0 16)) else
  none

/-- Major 0x02. -/
def decodeMajor02 (w : BitVec 32) : Option Instr :=
  if fld w 20 2 = 0 then some (.brx (fld w 22 4) (fld w 0 20)) else
  if fld w 20 2 = 1 then some (.brxAny (fld w 22 4) (fld w 0 20)) else
  if fld w 20 2 = 2 then some (.brxAll (fld w 22 4) (fld w 0 20)) else
  none

/-- Major 0x03. -/
def decodeMajor03 (w : BitVec 32) : Option Instr :=
  if fld w 20 2 = 0 then some (.brn (fld w 22 4) (fld w 0 20)) else
  if fld w 20 2 = 1 then some (.brnAny (fld w 22 4) (fld w 0 20)) else
  if fld w 20 2 = 2 then some (.brnAll (fld w 22 4) (fld w 0 20)) else
  none

/-- Major 0x04. -/
def decodeMajor04 (w : BitVec 32) : Option Instr :=
  if fld w 20 2 = 0 then some (.brd (fld w 22 4) (fld w 0 20)) else
  none

/-- Major 0x05. -/
def decodeMajor05 (w : BitVec 32) : Option Instr :=
  some (.brl (fld w 19 7) (fld w 0 19))

/-- Major 0x06. -/
def decodeMajor06 (w : BitVec 32) : Option Instr :=
  some (.loop (fld w 19 7) (fld w 0 19))

/-- Major 0x07. -/
def decodeMajor07 (w : BitVec 32) : Option Instr :=
  some (.arrw (fld w 19 7) (fld w 12 7) (fld w 5 7) (fld w 0 5))

/-- Major 0x08. -/
def decodeMajor08 (w : BitVec 32) : Option Instr :=
  if fld w 19 7 = 0 ∧ fld w 0 12 = 7 then some (.jmpi (fld w 12 7)) else
  if fld w 19 7 = 0 ∧ fld w 0 12 = 8 then some (.calli (fld w 12 7)) else
  if fld w 0 12 = 9 then some (.reform (fld w 19 7) (fld w 12 7)) else
  if fld w 19 7 = 0 ∧ fld w 0 5 = 10 then some (.beat (fld w 12 7) (fld w 5 7)) else
  if fld w 19 7 = 0 ∧ fld w 0 5 = 11 then some (.btgt (fld w 12 7) (fld w 5 7)) else
  if fld w 0 5 = 12 then some (.spawn (fld w 19 7) (fld w 12 7) (fld w 5 7)) else
  if fld w 19 7 = 0 ∧ fld w 0 12 = 13 then some (.cancel (fld w 12 7)) else
  if fld w 12 14 = 0 ∧ fld w 0 5 = 14 then some (.winb (fld w 5 7)) else
  if fld w 0 19 = 15 then some (.winq (fld w 19 7)) else
  if fld w 0 12 = 16 then some (.tagq (fld w 19 7) (fld w 12 7)) else
  if fld w 0 19 = 17 then some (.tagg (fld w 19 7)) else
  if fld w 23 3 = 0 ∧ fld w 0 19 = 18 then some (.elect (fld w 19 4)) else
  if fld w 19 7 = 0 ∧ fld w 0 5 = 19 then some (.rwr (fld w 12 7) (fld w 5 7)) else
  if fld w 19 7 = 0 ∧ fld w 0 5 = 20 then some (.cwait (fld w 12 7) (fld w 5 7)) else
  if fld w 19 7 = 0 ∧ fld w 0 12 = 21 then some (.cwake (fld w 12 7)) else
  if fld w 12 7 = 0 ∧ fld w 0 5 = 22 then some (.cloc (fld w 19 7) (fld w 5 7)) else
  if fld w 0 26 = 0 then some (.nop) else
  if fld w 0 26 = 1 then some (.ret) else
  if fld w 0 26 = 2 then some (.rjoin) else
  if fld w 0 26 = 3 then some (.exit) else
  if fld w 0 26 = 4 then some (.yield) else
  if fld w 0 26 = 5 then some (.tret) else
  if fld w 0 26 = 6 then some (.ifence) else
  none

/-- Major 0x09. -/
def decodeMajor09 (w : BitVec 32) : Option Instr :=
  if fld w 12 7 = 0 then some (.crd (fld w 19 7) (fld w 0 12)) else
  none

/-- Major 0x0A. -/
def decodeMajor0A (w : BitVec 32) : Option Instr :=
  if fld w 19 7 = 0 ∧ fld w 0 12 = 7 then some (.cwrQcfg (fld w 12 7)) else
  if fld w 19 7 = 0 ∧ fld w 0 12 = 76 then some (.cwrTkill (fld w 12 7)) else
  if fld w 19 7 = 0 ∧ fld w 5 7 = 3 then some (.cwrArv (fld w 12 7) (fld w 0 5)) else
  if fld w 19 7 = 0 then some (.cwr (fld w 12 7) (fld w 0 12)) else
  none

/-- Major 0x0C. -/
def decodeMajor0C (p : Option Pfx) (w : BitVec 32) : Option Instr :=
  if fld w 3 2 = 0 then some (.iadd p (fld w 19 7) (fld w 12 7) (fld w 5 7) (fld w 0 3)) else
  if fld w 3 2 = 1 then some (.isub p (fld w 19 7) (fld w 12 7) (fld w 5 7) (fld w 0 3)) else
  if fld w 3 2 = 2 then some (.imul p (fld w 19 7) (fld w 12 7) (fld w 5 7) (fld w 0 3)) else
  if fld w 2 3 = 6 then some (.imulh p (fld w 19 7) (fld w 12 7) (fld w 5 7) (fld w 0 2)) else
  if fld w 2 3 = 7 then some (.imulhn p (fld w 19 7) (fld w 12 7) (fld w 5 7) (fld w 0 2)) else
  none

/-- Major 0x0D. -/
def decodeMajor0D (p : Option Pfx) (w : BitVec 32) : Option Instr :=
  if fld w 3 2 = 0 then some (.imad p (fld w 19 7) (fld w 12 7) (fld w 5 7) (fld w 0 3)) else
  if fld w 2 3 = 2 then some (.idiv p (fld w 19 7) (fld w 12 7) (fld w 5 7) (fld w 0 2)) else
  if fld w 2 3 = 3 then some (.idivn p (fld w 19 7) (fld w 12 7) (fld w 5 7) (fld w 0 2)) else
  if fld w 2 3 = 4 then some (.irem p (fld w 19 7) (fld w 12 7) (fld w 5 7) (fld w 0 2)) else
  if fld w 2 3 = 5 then some (.iremn p (fld w 19 7) (fld w 12 7) (fld w 5 7) (fld w 0 2)) else
  if fld w 2 10 = 6 then some (.iabs p (fld w 19 7) (fld w 12 7) (fld w 0 2)) else
  none

/-- Major 0x0E. -/
def decodeMajor0E (p : Option Pfx) (w : BitVec 32) : Option Instr :=
  if fld w 2 3 = 0 then some (.imin p (fld w 19 7) (fld w 12 7) (fld w 5 7) (fld w 0 2)) else
  if fld w 2 3 = 1 then some (.iminn p (fld w 19 7) (fld w 12 7) (fld w 5 7) (fld w 0 2)) else
  if fld w 2 3 = 2 then some (.imax p (fld w 19 7) (fld w 12 7) (fld w 5 7) (fld w 0 2)) else
  if fld w 2 3 = 3 then some (.imaxn p (fld w 19 7) (fld w 12 7) (fld w 5 7) (fld w 0 2)) else
  if fld w 1 4 = 9 then some (.bfx p (fld w 19 7) (fld w 12 7) (fld w 5 7) (fld w 0 1)) else
  if fld w 1 4 = 11 then some (.bfxs p (fld w 19 7) (fld w 12 7) (fld w 5 7) (fld w 0 1)) else
  if fld w 3 2 = 3 then some (.bfi p (fld w 19 7) (fld w 12 7) (fld w 5 7) (fld w 0 3)) else
  none

/-- Major 0x0F. -/
def decodeMajor0F (p : Option Pfx) (w : BitVec 32) : Option Instr :=
  if fld w 3 2 = 0 then some (.shl p (fld w 19 7) (fld w 12 7) (fld w 5 7) (fld w 0 3)) else
  if fld w 3 2 = 1 then some (.shr p (fld w 19 7) (fld w 12 7) (fld w 5 7) (fld w 0 3)) else
  if fld w 3 2 = 2 then some (.sar p (fld w 19 7) (fld w 12 7) (fld w 5 7) (fld w 0 3)) else
  if fld w 3 2 = 3 then some (.rol p (fld w 19 7) (fld w 12 7) (fld w 5 7) (fld w 0 3)) else
  none

/-- Major 0x10. -/
def decodeMajor10 (p : Option Pfx) (w : BitVec 32) : Option Instr :=
  if fld w 3 2 = 0 then some (.and p (fld w 19 7) (fld w 12 7) (fld w 5 7) (fld w 0 3)) else
  if fld w 3 2 = 1 then some (.or p (fld w 19 7) (fld w 12 7) (fld w 5 7) (fld w 0 3)) else
  if fld w 3 2 = 2 then some (.xor p (fld w 19 7) (fld w 12 7) (fld w 5 7) (fld w 0 3)) else
  if fld w 3 2 = 3 then some (.andn p (fld w 19 7) (fld w 12 7) (fld w 5 7) (fld w 0 3)) else
  none

/-- Major 0x11. -/
def decodeMajor11 (p : Option Pfx) (w : BitVec 32) : Option Instr :=
  if fld w 3 9 = 0 then some (.mov p (fld w 19 7) (fld w 12 7) (fld w 0 3)) else
  if fld w 3 9 = 1 then some (.popc p (fld w 19 7) (fld w 12 7) (fld w 0 3)) else
  if fld w 3 9 = 2 then some (.clz p (fld w 19 7) (fld w 12 7) (fld w 0 3)) else
  if fld w 3 9 = 3 then some (.ctz p (fld w 19 7) (fld w 12 7) (fld w 0 3)) else
  none

/-- Major 0x12. -/
def decodeMajor12 (p : Option Pfx) (w : BitVec 32) : Option Instr :=
  if fld w 3 9 = 0 then some (.brev p (fld w 19 7) (fld w 12 7) (fld w 0 3)) else
  if fld w 3 2 = 1 then some (.lea p (fld w 19 7) (fld w 12 7) (fld w 5 7) (fld w 0 3)) else
  none

/-- Major 0x13. -/
def decodeMajor13 (p : Option Pfx) (w : BitVec 32) : Option Instr :=
  if fld w 23 3 = 0 then some (.icmp p (fld w 19 4) (fld w 12 7) (fld w 5 7) (fld w 3 2) (fld w 0 3)) else
  none

/-- Major 0x14. -/
def decodeMajor14 (p : Option Pfx) (w : BitVec 32) : Option Instr :=
  some (.sel p (fld w 19 7) (fld w 12 7) (fld w 5 7) (fld w 4 1) (fld w 0 4))

/-- Major 0x15. -/
def decodeMajor15 (p : Option Pfx) (w : BitVec 32) : Option Instr :=
  some (.iaddi p (fld w 19 7) (fld w 12 7) (fld w 0 12))

/-- Major 0x16. -/
def decodeMajor16 (p : Option Pfx) (w : BitVec 32) : Option Instr :=
  some (.movi p (fld w 19 7) (fld w 0 19))

/-- Major 0x17. -/
def decodeMajor17 (p : Option Pfx) (w : BitVec 32) : Option Instr :=
  some (.movh p (fld w 19 7) (fld w 0 19))

/-- Major 0x18. -/
def decodeMajor18 (p : Option Pfx) (w : BitVec 32) : Option Instr :=
  if fld w 3 2 = 0 then some (.fadd p (fld w 19 7) (fld w 12 7) (fld w 5 7) (fld w 0 3)) else
  if fld w 3 2 = 1 then some (.fsub p (fld w 19 7) (fld w 12 7) (fld w 5 7) (fld w 0 3)) else
  if fld w 3 2 = 2 then some (.fmul p (fld w 19 7) (fld w 12 7) (fld w 5 7) (fld w 0 3)) else
  if fld w 3 2 = 3 then some (.ffma p (fld w 19 7) (fld w 12 7) (fld w 5 7) (fld w 0 3)) else
  none

/-- Major 0x19. -/
def decodeMajor19 (p : Option Pfx) (w : BitVec 32) : Option Instr :=
  if fld w 3 2 = 0 then some (.fmin p (fld w 19 7) (fld w 12 7) (fld w 5 7) (fld w 0 3)) else
  if fld w 3 2 = 1 then some (.fmax p (fld w 19 7) (fld w 12 7) (fld w 5 7) (fld w 0 3)) else
  if fld w 3 2 = 2 then some (.fdiv p (fld w 19 7) (fld w 12 7) (fld w 5 7) (fld w 0 3)) else
  if fld w 3 2 = 3 then some (.fcpys p (fld w 19 7) (fld w 12 7) (fld w 5 7) (fld w 0 3)) else
  none

/-- Major 0x1A. -/
def decodeMajor1A (p : Option Pfx) (w : BitVec 32) : Option Instr :=
  if fld w 3 9 = 0 then some (.fabs p (fld w 19 7) (fld w 12 7) (fld w 0 3)) else
  if fld w 3 9 = 1 then some (.fneg p (fld w 19 7) (fld w 12 7) (fld w 0 3)) else
  if fld w 3 9 = 2 then some (.frnd p (fld w 19 7) (fld w 12 7) (fld w 0 3)) else
  if fld w 3 9 = 3 then some (.ffrac p (fld w 19 7) (fld w 12 7) (fld w 0 3)) else
  none

/-- Major 0x1B. -/
def decodeMajor1B (p : Option Pfx) (w : BitVec 32) : Option Instr :=
  if fld w 3 9 = 0 then some (.fsqrt p (fld w 19 7) (fld w 12 7) (fld w 0 3)) else
  if fld w 3 9 = 1 then some (.frcp p (fld w 19 7) (fld w 12 7) (fld w 0 3)) else
  if fld w 3 9 = 2 then some (.frsq p (fld w 19 7) (fld w 12 7) (fld w 0 3)) else
  if fld w 3 9 = 3 then some (.fclass p (fld w 19 7) (fld w 12 7) (fld w 0 3)) else
  none

/-- Major 0x1C. -/
def decodeMajor1C (p : Option Pfx) (w : BitVec 32) : Option Instr :=
  if fld w 3 9 = 0 then some (.fexp2 p (fld w 19 7) (fld w 12 7) (fld w 0 3)) else
  if fld w 3 9 = 1 then some (.flog2 p (fld w 19 7) (fld w 12 7) (fld w 0 3)) else
  if fld w 3 9 = 2 then some (.fsin p (fld w 19 7) (fld w 12 7) (fld w 0 3)) else
  if fld w 3 9 = 3 then some (.fcos p (fld w 19 7) (fld w 12 7) (fld w 0 3)) else
  none

/-- Major 0x1D. -/
def decodeMajor1D (p : Option Pfx) (w : BitVec 32) : Option Instr :=
  if fld w 3 9 = 0 then some (.ftanh p (fld w 19 7) (fld w 12 7) (fld w 0 3)) else
  if fld w 3 9 = 1 then some (.ferf p (fld w 19 7) (fld w 12 7) (fld w 0 3)) else
  if fld w 3 9 = 2 then some (.fsigm p (fld w 19 7) (fld w 12 7) (fld w 0 3)) else
  none

/-- Major 0x1E. -/
def decodeMajor1E (p : Option Pfx) (w : BitVec 32) : Option Instr :=
  if fld w 23 3 = 0 then some (.fcmp p (fld w 19 4) (fld w 12 7) (fld w 5 7) (fld w 3 2) (fld w 0 3)) else
  none

/-- Major 0x1F. -/
def decodeMajor1F (p : Option Pfx) (w : BitVec 32) : Option Instr :=
  if fld w 3 2 = 0 then some (.hadd2 p (fld w 19 7) (fld w 12 7) (fld w 5 7) (fld w 0 3)) else
  if fld w 3 2 = 1 then some (.hmul2 p (fld w 19 7) (fld w 12 7) (fld w 5 7) (fld w 0 3)) else
  if fld w 3 2 = 2 then some (.hfma2 p (fld w 19 7) (fld w 12 7) (fld w 5 7) (fld w 0 3)) else
  if fld w 3 2 = 3 then some (.hmin2 p (fld w 19 7) (fld w 12 7) (fld w 5 7) (fld w 0 3)) else
  none

/-- Major 0x20. -/
def decodeMajor20 (p : Option Pfx) (w : BitVec 32) : Option Instr :=
  if fld w 3 2 = 0 then some (.hmax2 p (fld w 19 7) (fld w 12 7) (fld w 5 7) (fld w 0 3)) else
  if fld w 3 2 = 1 then some (.rng p (fld w 19 7) (fld w 12 7) (fld w 5 7) (fld w 0 3)) else
  if fld w 3 2 = 2 then some (.cvtpk p (fld w 19 7) (fld w 12 7) (fld w 5 7) (fld w 0 3)) else
  if fld w 3 9 = 3 then some (.cvtun p (fld w 19 7) (fld w 12 7) (fld w 0 3)) else
  none

/-- Major 0x21. -/
def decodeMajor21 (p : Option Pfx) (w : BitVec 32) : Option Instr :=
  if fld w 5 7 = 0 then some (.cvtif p (fld w 19 7) (fld w 12 7) (fld w 3 2) (fld w 0 3)) else
  none

/-- Major 0x22. -/
def decodeMajor22 (p : Option Pfx) (w : BitVec 32) : Option Instr :=
  if fld w 5 7 = 0 then some (.cvtfi p (fld w 19 7) (fld w 12 7) (fld w 3 2) (fld w 0 3)) else
  none

/-- Major 0x23. -/
def decodeMajor23 (p : Option Pfx) (w : BitVec 32) : Option Instr :=
  if fld w 11 1 = 0 ∧ fld w 3 2 = 0 then some (.cvtw p (fld w 19 7) (fld w 12 7) (fld w 8 3) (fld w 5 3) (fld w 0 3)) else
  if fld w 11 1 = 0 ∧ fld w 3 2 = 1 then some (.cvtn p (fld w 19 7) (fld w 12 7) (fld w 8 3) (fld w 5 3) (fld w 0 3)) else
  if fld w 11 1 = 0 ∧ fld w 3 2 = 2 then some (.cvtne p (fld w 19 7) (fld w 12 7) (fld w 8 3) (fld w 5 3) (fld w 0 3)) else
  none

/-- Major 0x24. -/
def decodeMajor24 (p : Option Pfx) (w : BitVec 32) : Option Instr :=
  if fld w 23 3 = 0 ∧ fld w 16 3 = 0 ∧ fld w 9 3 = 0 ∧ fld w 0 5 = 0 then some (.mand p (fld w 19 4) (fld w 12 4) (fld w 5 4)) else
  if fld w 23 3 = 0 ∧ fld w 16 3 = 0 ∧ fld w 9 3 = 0 ∧ fld w 0 5 = 1 then some (.mor p (fld w 19 4) (fld w 12 4) (fld w 5 4)) else
  if fld w 23 3 = 0 ∧ fld w 16 3 = 0 ∧ fld w 9 3 = 0 ∧ fld w 0 5 = 2 then some (.mxor p (fld w 19 4) (fld w 12 4) (fld w 5 4)) else
  if fld w 23 3 = 0 ∧ fld w 16 3 = 0 ∧ fld w 9 3 = 0 ∧ fld w 0 5 = 3 then some (.mandn p (fld w 19 4) (fld w 12 4) (fld w 5 4)) else
  if fld w 23 3 = 0 ∧ fld w 16 3 = 0 ∧ fld w 0 12 = 4 then some (.mnot p (fld w 19 4) (fld w 12 4)) else
  if fld w 23 3 = 0 ∧ fld w 16 3 = 0 ∧ fld w 0 12 = 5 then some (.mmov p (fld w 19 4) (fld w 12 4)) else
  none

/-- Major 0x25. -/
def decodeMajor25 (p : Option Pfx) (w : BitVec 32) : Option Instr :=
  if fld w 23 3 = 0 ∧ fld w 0 12 = 0 then some (.mset p (fld w 19 4) (fld w 12 7)) else
  if fld w 16 3 = 0 ∧ fld w 0 12 = 1 then some (.mget p (fld w 19 7) (fld w 12 4)) else
  if fld w 16 3 = 0 ∧ fld w 0 12 = 2 then some (.mpop p (fld w 19 7) (fld w 12 4)) else
  if fld w 16 3 = 0 ∧ fld w 0 12 = 3 then some (.mffs p (fld w 19 7) (fld w 12 4)) else
  none

/-- Major 0x26. -/
def decodeMajor26 (p : Option Pfx) (w : BitVec 32) : Option Instr :=
  if fld w 1 2 = 1 then some (.shfl p (fld w 19 7) (fld w 12 7) (fld w 5 7) (fld w 3 2) (fld w 0 1)) else
  none

/-- Major 0x27. -/
def decodeMajor27 (p : Option Pfx) (w : BitVec 32) : Option Instr :=
  if fld w 16 3 = 0 ∧ fld w 0 12 = 0 then some (.voteAny p (fld w 19 7) (fld w 12 4)) else
  if fld w 16 3 = 0 ∧ fld w 0 12 = 1 then some (.voteAll p (fld w 19 7) (fld w 12 4)) else
  if fld w 0 12 = 2 then some (.voteUni p (fld w 19 7) (fld w 12 7)) else
  none

/-- Major 0x28. -/
def decodeMajor28 (p : Option Pfx) (w : BitVec 32) : Option Instr :=
  if fld w 5 7 = 0 then some (.wred p (fld w 19 7) (fld w 12 7) (fld w 3 2) (fld w 0 3)) else
  none

/-- Major 0x29. -/
def decodeMajor29 (p : Option Pfx) (w : BitVec 32) : Option Instr :=
  if fld w 5 7 = 0 then some (.wscan p (fld w 19 7) (fld w 12 7) (fld w 3 2) (fld w 0 3)) else
  none

/-- Major 0x2A. -/
def decodeMajor2A (p : Option Pfx) (w : BitVec 32) : Option Instr :=
  if fld w 8 4 = 0 then some (.ld p (fld w 19 7) (fld w 12 7) (fld w 5 3) (fld w 3 2) (fld w 0 3)) else
  none

/-- Major 0x2B. -/
def decodeMajor2B (p : Option Pfx) (w : BitVec 32) : Option Instr :=
  if fld w 8 4 = 0 then some (.st p (fld w 19 7) (fld w 12 7) (fld w 5 3) (fld w 3 2) (fld w 0 3)) else
  none

/-- Major 0x2C. -/
def decodeMajor2C (p : Option Pfx) (w : BitVec 32) : Option Instr :=
  if fld w 4 8 = 0 then some (.ldl p (fld w 19 7) (fld w 12 7) (fld w 3 1) (fld w 0 3)) else
  if fld w 4 8 = 1 then some (.stl p (fld w 19 7) (fld w 12 7) (fld w 3 1) (fld w 0 3)) else
  none

/-- Major 0x2D. -/
def decodeMajor2D (p : Option Pfx) (w : BitVec 32) : Option Instr :=
  if fld w 3 9 = 0 then some (.ldc p (fld w 19 7) (fld w 12 7) (fld w 0 3)) else
  if fld w 3 9 = 1 then some (.ldx p (fld w 19 7) (fld w 12 7) (fld w 0 3)) else
  if fld w 3 9 = 2 then some (.stx p (fld w 19 7) (fld w 12 7) (fld w 0 3)) else
  none

/-- Major 0x2E. -/
def decodeMajor2E (p : Option Pfx) (w : BitVec 32) : Option Instr :=
  if fld w 10 2 = 0 ∧ fld w 2 3 = 7 then some (.atomCas p (fld w 19 7) (fld w 12 7) (fld w 8 2) (fld w 5 3) (fld w 0 2)) else
  if fld w 10 2 = 0 then some (.atom p (fld w 19 7) (fld w 12 7) (fld w 8 2) (fld w 5 3) (fld w 2 3) (fld w 0 2)) else
  none

/-- Major 0x2F. -/
def decodeMajor2F (p : Option Pfx) (w : BitVec 32) : Option Instr :=
  if fld w 10 2 = 0 ∧ fld w 5 3 = 0 ∧ fld w 2 3 = 7 then some (.atomlCas p (fld w 19 7) (fld w 12 7) (fld w 8 2) (fld w 0 2)) else
  if fld w 10 2 = 0 ∧ fld w 5 3 = 0 then some (.atoml p (fld w 19 7) (fld w 12 7) (fld w 8 2) (fld w 2 3) (fld w 0 2)) else
  none

/-- Major 0x30. -/
def decodeMajor30 (p : Option Pfx) (w : BitVec 32) : Option Instr :=
  if fld w 10 2 = 0 then some (.redm p (fld w 19 7) (fld w 12 7) (fld w 8 2) (fld w 5 3) (fld w 2 3) (fld w 0 2)) else
  none

/-- Major 0x31. -/
def decodeMajor31 (w : BitVec 32) : Option Instr :=
  if fld w 22 4 = 1 ∧ fld w 12 7 = 0 ∧ fld w 0 5 = 3 then some (.barTake (fld w 19 3) (fld w 5 7)) else
  if fld w 12 14 = 0 ∧ fld w 0 5 = 0 then some (.fenceAcq (fld w 5 7)) else
  if fld w 12 14 = 0 ∧ fld w 0 5 = 1 then some (.fenceRel (fld w 5 7)) else
  if fld w 12 14 = 0 ∧ fld w 0 5 = 2 then some (.fenceFull (fld w 5 7)) else
  if fld w 19 7 = 0 ∧ fld w 0 5 = 3 then some (.bar (fld w 12 7) (fld w 5 7)) else
  if fld w 19 7 = 0 ∧ fld w 0 5 = 4 then some (.bara (fld w 12 7) (fld w 5 7)) else
  if fld w 12 14 = 0 ∧ fld w 0 5 = 5 then some (.barw (fld w 5 7)) else
  if fld w 12 7 = 0 ∧ fld w 0 5 = 6 then some (.barq (fld w 19 7) (fld w 5 7)) else
  if fld w 0 12 = 7 then some (.pres (fld w 19 7) (fld w 12 7)) else
  if fld w 19 7 = 0 ∧ fld w 0 12 = 8 then some (.pclr (fld w 12 7)) else
  if fld w 19 7 = 0 ∧ fld w 0 12 = 9 then some (.pset (fld w 12 7)) else
  none

/-- Major 0x32. -/
def decodeMajor32 (w : BitVec 32) : Option Instr :=
  if fld w 19 7 = 0 ∧ fld w 0 5 = 0 then some (.pref (fld w 12 7) (fld w 5 7)) else
  if fld w 19 7 = 0 ∧ fld w 0 5 = 1 then some (.cinv (fld w 12 7) (fld w 5 7)) else
  if fld w 19 7 = 0 ∧ fld w 0 5 = 2 then some (.cwb (fld w 12 7) (fld w 5 7)) else
  if fld w 19 7 = 0 ∧ fld w 0 5 = 3 then some (.cfls (fld w 12 7) (fld w 5 7)) else
  if fld w 19 7 = 0 ∧ fld w 0 5 = 4 then some (.bci (fld w 12 7) (fld w 5 7)) else
  if fld w 19 7 = 0 ∧ fld w 0 5 = 5 then some (.bca (fld w 12 7) (fld w 5 7)) else
  if fld w 19 7 = 0 ∧ fld w 0 5 = 6 then some (.bcw (fld w 12 7) (fld w 5 7)) else
  none

/-- Major 0x33. -/
def decodeMajor33 (w : BitVec 32) : Option Instr :=
  if fld w 19 7 = 0 ∧ fld w 0 12 = 0 then some (.ract (fld w 12 7)) else
  if fld w 0 12 = 1 then some (.rcon (fld w 19 7) (fld w 12 7)) else
  if fld w 19 7 = 0 ∧ fld w 0 5 = 2 then some (.rconWs (fld w 12 7) (fld w 5 7)) else
  if fld w 19 7 = 0 ∧ fld w 0 12 = 3 then some (.rcls (fld w 12 7)) else
  if fld w 0 12 = 4 then some (.rstat (fld w 19 7) (fld w 12 7)) else
  none

/-- Major 0x34. -/
def decodeMajor34 (w : BitVec 32) : Option Instr :=
  if fld w 0 12 = 0 then some (.tshape (fld w 19 7) (fld w 12 7)) else
  if fld w 0 19 = 1 then some (.tclr (fld w 19 7)) else
  if fld w 0 12 = 2 then some (.omap (fld w 19 7) (fld w 12 7)) else
  if fld w 0 5 = 3 then some (.tld (fld w 19 7) (fld w 12 7) (fld w 5 7)) else
  if fld w 0 5 = 4 then some (.tst (fld w 19 7) (fld w 12 7) (fld w 5 7)) else
  if fld w 0 5 = 5 then some (.tfeed (fld w 19 7) (fld w 12 7) (fld w 5 7)) else
  none

/-- Major 0x35. -/
def decodeMajor35 (w : BitVec 32) : Option Instr :=
  if fld w 0 5 = 0 then some (.mma (fld w 19 7) (fld w 12 7) (fld w 5 7)) else
  if fld w 0 5 = 1 then some (.mmas (fld w 19 7) (fld w 12 7) (fld w 5 7)) else
  if fld w 0 5 = 2 then some (.mmaq (fld w 19 7) (fld w 12 7) (fld w 5 7)) else
  none

/-- Major 0x36. -/
def decodeMajor36 (w : BitVec 32) : Option Instr :=
  if fld w 0 19 = 0 then some (.mzero (fld w 19 7)) else
  if fld w 0 12 = 1 then some (.mload (fld w 19 7) (fld w 12 7)) else
  if fld w 0 5 = 2 then some (.mdrn (fld w 19 7) (fld w 12 7) (fld w 5 7)) else
  none

/-- Major 0x37. -/
def decodeMajor37 (w : BitVec 32) : Option Instr :=
  if fld w 19 7 = 0 ∧ fld w 0 12 = 0 then some (.mcoop (fld w 12 7)) else
  if fld w 12 14 = 0 ∧ fld w 0 5 = 1 then some (.mwait (fld w 5 7)) else
  if fld w 0 26 = 2 then some (.mfence) else
  none

/-- Major 0x38. -/
def decodeMajor38 (w : BitVec 32) : Option Instr :=
  if fld w 19 7 = 0 ∧ fld w 0 5 = 0 then some (.scpl (fld w 12 7) (fld w 5 7)) else
  if fld w 19 7 = 0 ∧ fld w 0 12 = 1 then some (.scinv (fld w 12 7)) else
  if fld w 0 12 = 2 then some (.scq (fld w 19 7) (fld w 12 7)) else
  if fld w 0 12 = 3 then some (.cbld (fld w 19 7) (fld w 12 7)) else
  none

/-- Major 0x3A. -/
def decodeMajor3A (w : BitVec 32) : Option Instr :=
  if fld w 19 7 = 0 ∧ fld w 0 5 = 0 then some (.tlbi (fld w 12 7) (fld w 5 7)) else
  none

/-- Major 0x3C to 0x3F (the C-form). -/
def decodeMajor3C (w : BitVec 32) : Option Instr :=
  if fld w 14 7 = 0 ∧ fld w 0 7 = 32 ∧ fld w 7 7 ≠ 0 then some (.swUnbind (fld w 21 7) (fld w 7 7)) else
  if fld w 0 7 = 0 then some (.xcCopy (fld w 21 7) (fld w 14 7) (fld w 7 7)) else
  if fld w 0 7 = 1 then some (.xcTcopy (fld w 21 7) (fld w 14 7) (fld w 7 7)) else
  if fld w 0 7 = 2 then some (.xcGath (fld w 21 7) (fld w 14 7) (fld w 7 7)) else
  if fld w 0 7 = 3 then some (.xcScat (fld w 21 7) (fld w 14 7) (fld w 7 7)) else
  if fld w 0 7 = 4 then some (.xcFill (fld w 21 7) (fld w 14 7) (fld w 7 7)) else
  if fld w 0 14 = 5 then some (.xcStat (fld w 21 7) (fld w 14 7)) else
  if fld w 0 14 = 6 then some (.xcCanc (fld w 21 7) (fld w 14 7)) else
  if fld w 0 7 = 32 then some (.swBind (fld w 21 7) (fld w 14 7) (fld w 7 7)) else
  if fld w 0 7 = 33 then some (.swPass (fld w 21 7) (fld w 14 7) (fld w 7 7)) else
  if fld w 0 7 = 34 then some (.swWake (fld w 21 7) (fld w 14 7) (fld w 7 7)) else
  if fld w 0 7 = 35 then some (.swStat (fld w 21 7) (fld w 14 7) (fld w 7 7)) else
  if fld w 0 7 = 48 then some (.gpBind (fld w 21 7) (fld w 14 7) (fld w 7 7)) else
  if fld w 0 7 = 49 then some (.gpStep (fld w 21 7) (fld w 14 7) (fld w 7 7)) else
  if fld w 0 7 = 50 then some (.gpMask (fld w 21 7) (fld w 14 7) (fld w 7 7)) else
  if fld w 0 7 = 51 then some (.gpFork (fld w 21 7) (fld w 14 7) (fld w 7 7)) else
  if fld w 0 7 = 52 then some (.gpRoll (fld w 21 7) (fld w 14 7) (fld w 7 7)) else
  if fld w 0 7 = 53 then some (.gpSave (fld w 21 7) (fld w 14 7) (fld w 7 7)) else
  if fld w 0 7 = 54 then some (.gpLoad (fld w 21 7) (fld w 14 7) (fld w 7 7)) else
  if fld w 0 14 = 64 then some (.dtBuild (fld w 21 7) (fld w 14 7)) else
  if fld w 0 14 = 72 then some (.ptLook (fld w 21 7) (fld w 14 7)) else
  if fld w 0 14 = 73 then some (.ptPin (fld w 21 7) (fld w 14 7)) else
  if fld w 0 14 = 74 then some (.ptUnpin (fld w 21 7) (fld w 14 7)) else
  if fld w 0 7 = 75 then some (.ptIns (fld w 21 7) (fld w 14 7) (fld w 7 7)) else
  if fld w 0 14 = 76 then some (.ptEvict (fld w 21 7) (fld w 14 7)) else
  if fld w 0 14 = 88 then some (.xcScrb (fld w 21 7) (fld w 14 7)) else
  if fld w 0 7 = 89 then some (.ksZero (fld w 21 7) (fld w 14 7) (fld w 7 7)) else
  none

/-- The instruction that one word holds, after an optional prefix: the row of the opcode map (R317-R327) whose fixed
bits the word has, and none where the map has no row. A prefix before a major outside 0x0C-0x30 has no instruction
(R315). -/
def decodeWord (p : Option Pfx) (w : BitVec 32) : Option Instr :=
  if p.isSome && !(0x0C ≤ (fld w 26 6).toNat && (fld w 26 6).toNat ≤ 0x30) then none else
  match (fld w 26 6).toNat with
  | 0x01 => decodeMajor01 w
  | 0x02 => decodeMajor02 w
  | 0x03 => decodeMajor03 w
  | 0x04 => decodeMajor04 w
  | 0x05 => decodeMajor05 w
  | 0x06 => decodeMajor06 w
  | 0x07 => decodeMajor07 w
  | 0x08 => decodeMajor08 w
  | 0x09 => decodeMajor09 w
  | 0x0A => decodeMajor0A w
  | 0x0C => decodeMajor0C p w
  | 0x0D => decodeMajor0D p w
  | 0x0E => decodeMajor0E p w
  | 0x0F => decodeMajor0F p w
  | 0x10 => decodeMajor10 p w
  | 0x11 => decodeMajor11 p w
  | 0x12 => decodeMajor12 p w
  | 0x13 => decodeMajor13 p w
  | 0x14 => decodeMajor14 p w
  | 0x15 => decodeMajor15 p w
  | 0x16 => decodeMajor16 p w
  | 0x17 => decodeMajor17 p w
  | 0x18 => decodeMajor18 p w
  | 0x19 => decodeMajor19 p w
  | 0x1A => decodeMajor1A p w
  | 0x1B => decodeMajor1B p w
  | 0x1C => decodeMajor1C p w
  | 0x1D => decodeMajor1D p w
  | 0x1E => decodeMajor1E p w
  | 0x1F => decodeMajor1F p w
  | 0x20 => decodeMajor20 p w
  | 0x21 => decodeMajor21 p w
  | 0x22 => decodeMajor22 p w
  | 0x23 => decodeMajor23 p w
  | 0x24 => decodeMajor24 p w
  | 0x25 => decodeMajor25 p w
  | 0x26 => decodeMajor26 p w
  | 0x27 => decodeMajor27 p w
  | 0x28 => decodeMajor28 p w
  | 0x29 => decodeMajor29 p w
  | 0x2A => decodeMajor2A p w
  | 0x2B => decodeMajor2B p w
  | 0x2C => decodeMajor2C p w
  | 0x2D => decodeMajor2D p w
  | 0x2E => decodeMajor2E p w
  | 0x2F => decodeMajor2F p w
  | 0x30 => decodeMajor30 p w
  | 0x31 => decodeMajor31 w
  | 0x32 => decodeMajor32 w
  | 0x33 => decodeMajor33 w
  | 0x34 => decodeMajor34 w
  | 0x35 => decodeMajor35 w
  | 0x36 => decodeMajor36 w
  | 0x37 => decodeMajor37 w
  | 0x38 => decodeMajor38 w
  | 0x3A => decodeMajor3A w
  | 0x3C => decodeMajor3C w
  | 0x3D => decodeMajor3C w
  | 0x3E => decodeMajor3C w
  | 0x3F => decodeMajor3C w
  | _ => none

/-- The words of an instruction, from the encoding tables R309 and R317-R327: the prefix word when there is one, then
the instruction word. A step that no word encodes has no words. (DEDUCED, log 99) -/
def encode : Instr → List (BitVec 32)
  | .cwrQcfg a => [10#6 ++ 0#7 ++ a ++ 7#12]
  | .cwrTkill a => [10#6 ++ 0#7 ++ a ++ 76#12]
  | .cwrArv a n => [10#6 ++ 0#7 ++ a ++ 3#7 ++ n]
  | .bra o => [1#6 ++ 0#6 ++ o]
  | .call o => [1#6 ++ 1#6 ++ o]
  | .trap c => [1#6 ++ 32#10 ++ c]
  | .brx m o => [2#6 ++ m ++ 0#2 ++ o]
  | .brxAny m o => [2#6 ++ m ++ 1#2 ++ o]
  | .brxAll m o => [2#6 ++ m ++ 2#2 ++ o]
  | .brn m o => [3#6 ++ m ++ 0#2 ++ o]
  | .brnAny m o => [3#6 ++ m ++ 1#2 ++ o]
  | .brnAll m o => [3#6 ++ m ++ 2#2 ++ o]
  | .brd m o => [4#6 ++ m ++ 0#2 ++ o]
  | .brl d o => [5#6 ++ d ++ o]
  | .loop d o => [6#6 ++ d ++ o]
  | .arrw d a b n => [7#6 ++ d ++ a ++ b ++ n]
  | .jmpi a => [8#6 ++ 0#7 ++ a ++ 7#12]
  | .calli a => [8#6 ++ 0#7 ++ a ++ 8#12]
  | .reform k a => [8#6 ++ k ++ a ++ 9#12]
  | .beat a c => [8#6 ++ 0#7 ++ a ++ c ++ 10#5]
  | .btgt a m => [8#6 ++ 0#7 ++ a ++ m ++ 11#5]
  | .spawn d a b => [8#6 ++ d ++ a ++ b ++ 12#5]
  | .cancel a => [8#6 ++ 0#7 ++ a ++ 13#12]
  | .winb b => [8#6 ++ 0#14 ++ b ++ 14#5]
  | .winq d => [8#6 ++ d ++ 15#19]
  | .tagq d a => [8#6 ++ d ++ a ++ 16#12]
  | .tagg d => [8#6 ++ d ++ 17#19]
  | .elect k => [8#6 ++ 0#3 ++ k ++ 18#19]
  | .rwr a n => [8#6 ++ 0#7 ++ a ++ n ++ 19#5]
  | .cwait a b => [8#6 ++ 0#7 ++ a ++ b ++ 20#5]
  | .cwake a => [8#6 ++ 0#7 ++ a ++ 21#12]
  | .cloc d s => [8#6 ++ d ++ 0#7 ++ s ++ 22#5]
  | .crd d n => [9#6 ++ d ++ 0#7 ++ n]
  | .cwr a n => [10#6 ++ 0#7 ++ a ++ n]
  | .iadd p d a b t => pfxWords p ++ [12#6 ++ d ++ a ++ b ++ 0#2 ++ t]
  | .isub p d a b t => pfxWords p ++ [12#6 ++ d ++ a ++ b ++ 1#2 ++ t]
  | .imul p d a b t => pfxWords p ++ [12#6 ++ d ++ a ++ b ++ 2#2 ++ t]
  | .imulh p d a b t => pfxWords p ++ [12#6 ++ d ++ a ++ b ++ 6#3 ++ t]
  | .imulhn p d a b t => pfxWords p ++ [12#6 ++ d ++ a ++ b ++ 7#3 ++ t]
  | .imad p d a b t => pfxWords p ++ [13#6 ++ d ++ a ++ b ++ 0#2 ++ t]
  | .idiv p d a b t => pfxWords p ++ [13#6 ++ d ++ a ++ b ++ 2#3 ++ t]
  | .idivn p d a b t => pfxWords p ++ [13#6 ++ d ++ a ++ b ++ 3#3 ++ t]
  | .irem p d a b t => pfxWords p ++ [13#6 ++ d ++ a ++ b ++ 4#3 ++ t]
  | .iremn p d a b t => pfxWords p ++ [13#6 ++ d ++ a ++ b ++ 5#3 ++ t]
  | .iabs p d a t => pfxWords p ++ [13#6 ++ d ++ a ++ 6#10 ++ t]
  | .imin p d a b t => pfxWords p ++ [14#6 ++ d ++ a ++ b ++ 0#3 ++ t]
  | .iminn p d a b t => pfxWords p ++ [14#6 ++ d ++ a ++ b ++ 1#3 ++ t]
  | .imax p d a b t => pfxWords p ++ [14#6 ++ d ++ a ++ b ++ 2#3 ++ t]
  | .imaxn p d a b t => pfxWords p ++ [14#6 ++ d ++ a ++ b ++ 3#3 ++ t]
  | .bfx p d a b t => pfxWords p ++ [14#6 ++ d ++ a ++ b ++ 9#4 ++ t]
  | .bfxs p d a b t => pfxWords p ++ [14#6 ++ d ++ a ++ b ++ 11#4 ++ t]
  | .bfi p d a b t => pfxWords p ++ [14#6 ++ d ++ a ++ b ++ 3#2 ++ t]
  | .shl p d a b t => pfxWords p ++ [15#6 ++ d ++ a ++ b ++ 0#2 ++ t]
  | .shr p d a b t => pfxWords p ++ [15#6 ++ d ++ a ++ b ++ 1#2 ++ t]
  | .sar p d a b t => pfxWords p ++ [15#6 ++ d ++ a ++ b ++ 2#2 ++ t]
  | .rol p d a b t => pfxWords p ++ [15#6 ++ d ++ a ++ b ++ 3#2 ++ t]
  | .and p d a b t => pfxWords p ++ [16#6 ++ d ++ a ++ b ++ 0#2 ++ t]
  | .or p d a b t => pfxWords p ++ [16#6 ++ d ++ a ++ b ++ 1#2 ++ t]
  | .xor p d a b t => pfxWords p ++ [16#6 ++ d ++ a ++ b ++ 2#2 ++ t]
  | .andn p d a b t => pfxWords p ++ [16#6 ++ d ++ a ++ b ++ 3#2 ++ t]
  | .mov p d a t => pfxWords p ++ [17#6 ++ d ++ a ++ 0#9 ++ t]
  | .popc p d a t => pfxWords p ++ [17#6 ++ d ++ a ++ 1#9 ++ t]
  | .clz p d a t => pfxWords p ++ [17#6 ++ d ++ a ++ 2#9 ++ t]
  | .ctz p d a t => pfxWords p ++ [17#6 ++ d ++ a ++ 3#9 ++ t]
  | .brev p d a t => pfxWords p ++ [18#6 ++ d ++ a ++ 0#9 ++ t]
  | .lea p d a b s => pfxWords p ++ [18#6 ++ d ++ a ++ b ++ 1#2 ++ s]
  | .icmp p k a b c t => pfxWords p ++ [19#6 ++ 0#3 ++ k ++ a ++ b ++ c ++ t]
  | .sel p d a b w k => pfxWords p ++ [20#6 ++ d ++ a ++ b ++ w ++ k]
  | .iaddi p d a i => pfxWords p ++ [21#6 ++ d ++ a ++ i]
  | .movi p d i => pfxWords p ++ [22#6 ++ d ++ i]
  | .movh p d i => pfxWords p ++ [23#6 ++ d ++ i]
  | .fadd p d a b t => pfxWords p ++ [24#6 ++ d ++ a ++ b ++ 0#2 ++ t]
  | .fsub p d a b t => pfxWords p ++ [24#6 ++ d ++ a ++ b ++ 1#2 ++ t]
  | .fmul p d a b t => pfxWords p ++ [24#6 ++ d ++ a ++ b ++ 2#2 ++ t]
  | .ffma p d a b t => pfxWords p ++ [24#6 ++ d ++ a ++ b ++ 3#2 ++ t]
  | .fmin p d a b t => pfxWords p ++ [25#6 ++ d ++ a ++ b ++ 0#2 ++ t]
  | .fmax p d a b t => pfxWords p ++ [25#6 ++ d ++ a ++ b ++ 1#2 ++ t]
  | .fdiv p d a b t => pfxWords p ++ [25#6 ++ d ++ a ++ b ++ 2#2 ++ t]
  | .fcpys p d a b t => pfxWords p ++ [25#6 ++ d ++ a ++ b ++ 3#2 ++ t]
  | .fabs p d a t => pfxWords p ++ [26#6 ++ d ++ a ++ 0#9 ++ t]
  | .fneg p d a t => pfxWords p ++ [26#6 ++ d ++ a ++ 1#9 ++ t]
  | .frnd p d a t => pfxWords p ++ [26#6 ++ d ++ a ++ 2#9 ++ t]
  | .ffrac p d a t => pfxWords p ++ [26#6 ++ d ++ a ++ 3#9 ++ t]
  | .fsqrt p d a t => pfxWords p ++ [27#6 ++ d ++ a ++ 0#9 ++ t]
  | .frcp p d a t => pfxWords p ++ [27#6 ++ d ++ a ++ 1#9 ++ t]
  | .frsq p d a t => pfxWords p ++ [27#6 ++ d ++ a ++ 2#9 ++ t]
  | .fclass p d a t => pfxWords p ++ [27#6 ++ d ++ a ++ 3#9 ++ t]
  | .fexp2 p d a t => pfxWords p ++ [28#6 ++ d ++ a ++ 0#9 ++ t]
  | .flog2 p d a t => pfxWords p ++ [28#6 ++ d ++ a ++ 1#9 ++ t]
  | .fsin p d a t => pfxWords p ++ [28#6 ++ d ++ a ++ 2#9 ++ t]
  | .fcos p d a t => pfxWords p ++ [28#6 ++ d ++ a ++ 3#9 ++ t]
  | .ftanh p d a t => pfxWords p ++ [29#6 ++ d ++ a ++ 0#9 ++ t]
  | .ferf p d a t => pfxWords p ++ [29#6 ++ d ++ a ++ 1#9 ++ t]
  | .fsigm p d a t => pfxWords p ++ [29#6 ++ d ++ a ++ 2#9 ++ t]
  | .fcmp p k a b c t => pfxWords p ++ [30#6 ++ 0#3 ++ k ++ a ++ b ++ c ++ t]
  | .hadd2 p d a b t => pfxWords p ++ [31#6 ++ d ++ a ++ b ++ 0#2 ++ t]
  | .hmul2 p d a b t => pfxWords p ++ [31#6 ++ d ++ a ++ b ++ 1#2 ++ t]
  | .hfma2 p d a b t => pfxWords p ++ [31#6 ++ d ++ a ++ b ++ 2#2 ++ t]
  | .hmin2 p d a b t => pfxWords p ++ [31#6 ++ d ++ a ++ b ++ 3#2 ++ t]
  | .hmax2 p d a b t => pfxWords p ++ [32#6 ++ d ++ a ++ b ++ 0#2 ++ t]
  | .rng p d a b t => pfxWords p ++ [32#6 ++ d ++ a ++ b ++ 1#2 ++ t]
  | .cvtpk p d a b t => pfxWords p ++ [32#6 ++ d ++ a ++ b ++ 2#2 ++ t]
  | .cvtun p d a t => pfxWords p ++ [32#6 ++ d ++ a ++ 3#9 ++ t]
  | .cvtif p d a f i => pfxWords p ++ [33#6 ++ d ++ a ++ 0#7 ++ f ++ i]
  | .cvtfi p d a f i => pfxWords p ++ [34#6 ++ d ++ a ++ 0#7 ++ f ++ i]
  | .cvtw p d a x s e => pfxWords p ++ [35#6 ++ d ++ a ++ 0#1 ++ x ++ s ++ 0#2 ++ e]
  | .cvtn p d a x s e => pfxWords p ++ [35#6 ++ d ++ a ++ 0#1 ++ x ++ s ++ 1#2 ++ e]
  | .cvtne p d a x s e => pfxWords p ++ [35#6 ++ d ++ a ++ 0#1 ++ x ++ s ++ 2#2 ++ e]
  | .mand p k j i => pfxWords p ++ [36#6 ++ 0#3 ++ k ++ 0#3 ++ j ++ 0#3 ++ i ++ 0#5]
  | .mor p k j i => pfxWords p ++ [36#6 ++ 0#3 ++ k ++ 0#3 ++ j ++ 0#3 ++ i ++ 1#5]
  | .mxor p k j i => pfxWords p ++ [36#6 ++ 0#3 ++ k ++ 0#3 ++ j ++ 0#3 ++ i ++ 2#5]
  | .mandn p k j i => pfxWords p ++ [36#6 ++ 0#3 ++ k ++ 0#3 ++ j ++ 0#3 ++ i ++ 3#5]
  | .mnot p k j => pfxWords p ++ [36#6 ++ 0#3 ++ k ++ 0#3 ++ j ++ 4#12]
  | .mmov p k j => pfxWords p ++ [36#6 ++ 0#3 ++ k ++ 0#3 ++ j ++ 5#12]
  | .mset p k a => pfxWords p ++ [37#6 ++ 0#3 ++ k ++ a ++ 0#12]
  | .mget p d j => pfxWords p ++ [37#6 ++ d ++ 0#3 ++ j ++ 1#12]
  | .mpop p d j => pfxWords p ++ [37#6 ++ d ++ 0#3 ++ j ++ 2#12]
  | .mffs p d j => pfxWords p ++ [37#6 ++ d ++ 0#3 ++ j ++ 3#12]
  | .shfl p d a b m w => pfxWords p ++ [38#6 ++ d ++ a ++ b ++ m ++ 1#2 ++ w]
  | .voteAny p d j => pfxWords p ++ [39#6 ++ d ++ 0#3 ++ j ++ 0#12]
  | .voteAll p d j => pfxWords p ++ [39#6 ++ d ++ 0#3 ++ j ++ 1#12]
  | .voteUni p d a => pfxWords p ++ [39#6 ++ d ++ a ++ 2#12]
  | .wred p d a o t => pfxWords p ++ [40#6 ++ d ++ a ++ 0#7 ++ o ++ t]
  | .wscan p d a o t => pfxWords p ++ [41#6 ++ d ++ a ++ 0#7 ++ o ++ t]
  | .ld p d a s k w => pfxWords p ++ [42#6 ++ d ++ a ++ 0#4 ++ s ++ k ++ w]
  | .st p d a s k w => pfxWords p ++ [43#6 ++ d ++ a ++ 0#4 ++ s ++ k ++ w]
  | .ldl p d a q w => pfxWords p ++ [44#6 ++ d ++ a ++ 0#8 ++ q ++ w]
  | .stl p d a q w => pfxWords p ++ [44#6 ++ d ++ a ++ 1#8 ++ q ++ w]
  | .ldc p d a w => pfxWords p ++ [45#6 ++ d ++ a ++ 0#9 ++ w]
  | .ldx p d a w => pfxWords p ++ [45#6 ++ d ++ a ++ 1#9 ++ w]
  | .stx p d a w => pfxWords p ++ [45#6 ++ d ++ a ++ 2#9 ++ w]
  | .atom p d a k s o t => pfxWords p ++ [46#6 ++ d ++ a ++ 0#2 ++ k ++ s ++ o ++ t]
  | .atomCas p d a k s t => pfxWords p ++ [46#6 ++ d ++ a ++ 0#2 ++ k ++ s ++ 7#3 ++ t]
  | .atoml p d a k o t => pfxWords p ++ [47#6 ++ d ++ a ++ 0#2 ++ k ++ 0#3 ++ o ++ t]
  | .atomlCas p d a k t => pfxWords p ++ [47#6 ++ d ++ a ++ 0#2 ++ k ++ 0#3 ++ 7#3 ++ t]
  | .redm p d a k s o t => pfxWords p ++ [48#6 ++ d ++ a ++ 0#2 ++ k ++ s ++ o ++ t]
  | .fenceAcq s => [49#6 ++ 0#14 ++ s ++ 0#5]
  | .fenceRel s => [49#6 ++ 0#14 ++ s ++ 1#5]
  | .fenceFull s => [49#6 ++ 0#14 ++ s ++ 2#5]
  | .bar a n => [49#6 ++ 0#7 ++ a ++ n ++ 3#5]
  | .barTake k n => [49#6 ++ 1#4 ++ k ++ 0#7 ++ n ++ 3#5]
  | .bara a n => [49#6 ++ 0#7 ++ a ++ n ++ 4#5]
  | .barw n => [49#6 ++ 0#14 ++ n ++ 5#5]
  | .barq d n => [49#6 ++ d ++ 0#7 ++ n ++ 6#5]
  | .pres d a => [49#6 ++ d ++ a ++ 7#12]
  | .pclr a => [49#6 ++ 0#7 ++ a ++ 8#12]
  | .pset a => [49#6 ++ 0#7 ++ a ++ 9#12]
  | .pref a l => [50#6 ++ 0#7 ++ a ++ l ++ 0#5]
  | .cinv a b => [50#6 ++ 0#7 ++ a ++ b ++ 1#5]
  | .cwb a b => [50#6 ++ 0#7 ++ a ++ b ++ 2#5]
  | .cfls a b => [50#6 ++ 0#7 ++ a ++ b ++ 3#5]
  | .bci a b => [50#6 ++ 0#7 ++ a ++ b ++ 4#5]
  | .bca a b => [50#6 ++ 0#7 ++ a ++ b ++ 5#5]
  | .bcw a b => [50#6 ++ 0#7 ++ a ++ b ++ 6#5]
  | .ract a => [51#6 ++ 0#7 ++ a ++ 0#12]
  | .rcon t a => [51#6 ++ t ++ a ++ 1#12]
  | .rconWs a b => [51#6 ++ 0#7 ++ a ++ b ++ 2#5]
  | .rcls a => [51#6 ++ 0#7 ++ a ++ 3#12]
  | .rstat d a => [51#6 ++ d ++ a ++ 4#12]
  | .tshape t a => [52#6 ++ t ++ a ++ 0#12]
  | .tclr t => [52#6 ++ t ++ 1#19]
  | .omap t a => [52#6 ++ t ++ a ++ 2#12]
  | .tld t a b => [52#6 ++ t ++ a ++ b ++ 3#5]
  | .tst t a b => [52#6 ++ t ++ a ++ b ++ 4#5]
  | .tfeed t a b => [52#6 ++ t ++ a ++ b ++ 5#5]
  | .mma c i j => [53#6 ++ c ++ i ++ j ++ 0#5]
  | .mmas c i j => [53#6 ++ c ++ i ++ j ++ 1#5]
  | .mmaq c i j => [53#6 ++ c ++ i ++ j ++ 2#5]
  | .mzero c => [54#6 ++ c ++ 0#19]
  | .mload c a => [54#6 ++ c ++ a ++ 1#12]
  | .mdrn c a b => [54#6 ++ c ++ a ++ b ++ 2#5]
  | .mcoop a => [55#6 ++ 0#7 ++ a ++ 0#12]
  | .mwait l => [55#6 ++ 0#14 ++ l ++ 1#5]
  | .scpl a b => [56#6 ++ 0#7 ++ a ++ b ++ 0#5]
  | .scinv a => [56#6 ++ 0#7 ++ a ++ 1#12]
  | .scq d a => [56#6 ++ d ++ a ++ 2#12]
  | .cbld c a => [56#6 ++ c ++ a ++ 3#12]
  | .tlbi a r => [58#6 ++ 0#7 ++ a ++ r ++ 0#5]
  | .xcCopy v a b => [15#4 ++ v ++ a ++ b ++ 0#7]
  | .xcTcopy v a b => [15#4 ++ v ++ a ++ b ++ 1#7]
  | .xcGath v a b => [15#4 ++ v ++ a ++ b ++ 2#7]
  | .xcScat v a b => [15#4 ++ v ++ a ++ b ++ 3#7]
  | .xcFill v a b => [15#4 ++ v ++ a ++ b ++ 4#7]
  | .xcStat v a => [15#4 ++ v ++ a ++ 5#14]
  | .xcCanc v a => [15#4 ++ v ++ a ++ 6#14]
  | .swBind v a b => [15#4 ++ v ++ a ++ b ++ 32#7]
  | .swUnbind v b => [15#4 ++ v ++ 0#7 ++ b ++ 32#7]
  | .swPass v a b => [15#4 ++ v ++ a ++ b ++ 33#7]
  | .swWake v a b => [15#4 ++ v ++ a ++ b ++ 34#7]
  | .swStat v a b => [15#4 ++ v ++ a ++ b ++ 35#7]
  | .gpBind v a b => [15#4 ++ v ++ a ++ b ++ 48#7]
  | .gpStep v a b => [15#4 ++ v ++ a ++ b ++ 49#7]
  | .gpMask v a b => [15#4 ++ v ++ a ++ b ++ 50#7]
  | .gpFork v a b => [15#4 ++ v ++ a ++ b ++ 51#7]
  | .gpRoll v a b => [15#4 ++ v ++ a ++ b ++ 52#7]
  | .gpSave v a b => [15#4 ++ v ++ a ++ b ++ 53#7]
  | .gpLoad v a b => [15#4 ++ v ++ a ++ b ++ 54#7]
  | .dtBuild v a => [15#4 ++ v ++ a ++ 64#14]
  | .ptLook v a => [15#4 ++ v ++ a ++ 72#14]
  | .ptPin v a => [15#4 ++ v ++ a ++ 73#14]
  | .ptUnpin v a => [15#4 ++ v ++ a ++ 74#14]
  | .ptIns v a b => [15#4 ++ v ++ a ++ b ++ 75#7]
  | .ptEvict v a => [15#4 ++ v ++ a ++ 76#14]
  | .xcScrb v a => [15#4 ++ v ++ a ++ 88#14]
  | .ksZero v a b => [15#4 ++ v ++ a ++ b ++ 89#7]
  | .clockStepChange => []
  | .budgetCapAdjust => []
  | .sliderPeriod => []
  | .pwrctlWrite => []
  | .thermalBandChange => []
  | .thermalCapTick => []
  | .thermalTrip => []
  | .thermalClear => []
  | .pageMigrationStart => []
  | .pageMigrated => []
  | .halfSwitch => []
  | .clusterFenced => []
  | .w1Entry => []
  | .w2Entry => []
  | .breakEvenHoldEnd => []
  | .clusterPowerUpDone => []
  | .w3Entry => []
  | .latencyToleranceReport => []
  | .gangFlitReceive => []
  | .ethFrameReceive => []
  | .heartbeatSend => []
  | .linkDown => []
  | .laneFailure => []
  | .fabcfgWrite => []
  | .collectiveItemDone => []
  | .collectiveCommit => []
  | .mergePeriodEnd => []
  | .mergeMessageReceive => []
  | .mrgtagWrite => []
  | .mrgparWrite => []
  | .packageLost => []
  | .qsubWrite => []
  | .slateAccept => []
  | .cmddbWrite => []
  | .create => []
  | .save => []
  | .restore => []
  | .switch => []
  | .destroy => []
  | .teardown => []
  | .drain => []
  | .drainTimeout => []
  | .undrain => []
  | .vfsuspend => []
  | .vfresume => []
  | .assign => []
  | .commandComplete => []
  | .dlsizeWrite => []
  | .ptrootWrite => []
  | .keyLoad => []
  | .keyZero => []
  | .keyZeroDone => []
  | .registerWrite => []
  | .scrubJobStart => []
  | .scrubUnitCommit => []
  | .scrubDone => []
  | .flrVf => []
  | .flrPf => []
  | .hotReset => []
  | .warmReset => []
  | .powerOn => []
  | .priResponse => []
  | .beatArrive => []
  | .btgtArrive => []
  | .controlPeriodEnd => []
  | .allocatorEpoch => []
  | .grantApply => []
  | .coreReleaseTimeout => []
  | .quantumEnd => []
  | .ageTick => []
  | .backfillTimeout => []
  | .crewPlace => []
  | .groupPlace => []
  | .takeSpillDone => []
  | .takeRestore => []
  | .controlThreadRestore => []
  | .engineCommandStart => []
  | .slateRetire => []
  | .deadlineExpiry => []
  | .binIssue => []
  | .divergenceYield => []
  | .passStart => []
  | .blockPass => []
  | .passEnd => []
  | .wakeApply => []
  | .pageWalkDone => []
  | .scratchpadAccessDone => []
  | .rowTransferEnd => []
  | .prechargeEnd => []
  | .rowForcedClose => []
  | .bankRefresh => []
  | .patrolScrub => []
  | .copyItemStart => []
  | .copyItemComplete => []
  | .grammarSlotPerform => []
  | .matrixExecStart => []
  | .matrixExecDone => []
  | .scaleFetchDone => []
  | .nop => [8#6 ++ 0#26]
  | .ret => [8#6 ++ 1#26]
  | .rjoin => [8#6 ++ 2#26]
  | .exit => [8#6 ++ 3#26]
  | .yield => [8#6 ++ 4#26]
  | .tret => [8#6 ++ 5#26]
  | .ifence => [8#6 ++ 6#26]
  | .mfence => [55#6 ++ 2#26]
  | .activateToFirstConsume => []
  | .writeBufferDrain => []
  | .sharedTileWriteDone => []
  | .hostPortAccess => []

/-- The instruction at the head of the bytes and how many bytes it takes: 4, or 8 for a prefixed pair (R315). -/
def decodeBytes (bs : List Byte) : Except DecodeError (Instr × Nat) :=
  match takeWord bs with
  | none => .error .short
  | some (w, rest) =>
    if fld w 26 6 = 0x3B then
      if fld w 0 8 ≠ 0 then .error .prefixBits else
      match takeWord rest with
      | none => .error .short
      | some (w2, _) =>
        if fld w2 26 6 = 0x3B || !(0x0C ≤ (fld w2 26 6).toNat && (fld w2 26 6).toNat ≤ 0x30)
        then .error .prefixBeforeOther else
        match decodeWord (some (pfxOf w)) w2 with
        | some i => .ok (i, 8)
        | none => .error .noRow
    else
      match decodeWord none w with
      | some i => .ok (i, 4)
      | none => .error .noRow

/-- The bytes of `n` bytes of a natural number, little-endian (R11). -/
def bytesLE : Nat → Nat → List Byte
  | 0, _ => []
  | n + 1, x => BitVec.ofNat 8 x :: bytesLE n (x / 256)

/-- The bytes of an instruction: its words, each little-endian, the first at the lowest address (R308). -/
def encodeBytes (i : Instr) : List Byte := (encode i).flatMap (fun w => bytesLE 4 w.toNat)

/-- How many bytes an instruction takes: 8 with a prefix, 4 without one (R308, R315), 0 for a step without a word. -/
def Instr.size (i : Instr) : Nat := 4 * (encode i).length

/-- The instruction that the decoder reads from the bits `w` of a row of `nbits` bits, with zero bits above them. -/
def decodeTableWord (nbits w : Nat) : Option Instr :=
  match decodeBytes (bytesLE (max 8 ((nbits + 7) / 8)) w) with
  | .ok (i, _) => some i
  | .error _ => none

/-! ### Which encodings are legal (R310-R315, R328) -/

/-- Registers that an operand of an int code takes (R310, R313). -/
def intRegs (t : BitVec 3) : Nat := if t.extractLsb' 0 2 = 3 then 2 else 1
/-- Registers that an operand of the low two bits of an int code takes. -/
def intRegs2 (t : BitVec 2) : Nat := if t = 3 then 2 else 1
/-- Registers of a raw code. -/
def rawRegs (t : BitVec 3) : Nat := if t = 4 then 4 else if t = 3 then 2 else 1
/-- Registers of a load-width code (R401). -/
def ldwRegs (w : BitVec 3) : Nat := if w = 6 then 4 else if w = 5 then 2 else 1
/-- Registers of an atomic type code (R408). -/
def atomRegs (t : BitVec 2) : Nat := if t.toNat ≥ 2 then 2 else 1

/-- Elements of a conversion format in a lane word (R321). -/
def elemsOf (c : Nat) : Nat := if c = 0 then 1 else if c ≤ 2 then 2 else if c ≤ 6 then 4 else 8
/-- The pairs of `CVTW` and its element index (R321): destination `x`, source `s`. -/
def cvtwAllowed (x s e : Nat) : Bool :=
  ((x == 0 && decide (1 ≤ s)) || ((x == 1 || x == 2) && decide (3 ≤ s))) && decide (e < elemsOf s)
/-- The pairs of `CVTN` and `CVTNE` and their element index (R321). -/
def cvtnAllowed (x s e : Nat) : Bool :=
  ((s == 0 && decide (1 ≤ x)) || ((s == 1 || s == 2) && decide (3 ≤ x))) && decide (e < elemsOf x)

/-- The assigned control-register numbers (R329). -/
def crAssigned (n : Nat) : Bool :=
  decide (n ≤ 0x00A) || n == 0x00C || n == 0x00D || (decide (0x010 ≤ n) && decide (n ≤ 0x01B)) || n == 0x020 || n == 0x021
    || (decide (0x028 ≤ n) && decide (n ≤ 0x037)) || (decide (0x040 ≤ n) && decide (n ≤ 0x04C))
    || (decide (0x050 ≤ n) && decide (n ≤ 0x057)) || (decide (0x060 ≤ n) && decide (n ≤ 0x07F))
    || (decide (0x080 ≤ n) && decide (n ≤ 0x083)) || (decide (0x100 ≤ n) && decide (n ≤ 0x1FF))
    || (decide (0x800 ≤ n) && decide (n ≤ 0x807)) || (decide (0x810 ≤ n) && decide (n ≤ 0x817))
/-- The privileged numbers (R326, R329). -/
def crPrivileged (n : Nat) : Bool := decide (0x800 ≤ n)
/-- The numbers whose map holds a field that `CWR` may write (R351): c.NMODE, c.FLAGS, c.PIDX, c.QSEL, c.QSHOTL, c.QSHOTH, c.QCFG, c.TVEC, c.TCFG,
c.TEN, c.TSKA, c.TEPCL, c.TEPCH, c.TKILL, c.MBXn and c.ARVn. -/
def crWritable (n : Nat) : Bool :=
  n == 0x000 || n == 0x001 || n == 0x002 || (decide (0x004 ≤ n) && decide (n ≤ 0x007)) || (decide (0x040 ≤ n) && decide (n ≤ 0x043))
    || n == 0x046 || n == 0x047 || n == 0x04C || (decide (0x050 ≤ n) && decide (n ≤ 0x057))
    || (decide (0x060 ≤ n) && decide (n ≤ 0x07F))
/-- Registers that `CRD` fills: a pair for the 64-bit ones (R329). -/
def crRegs (n : Nat) : Nat := if 0x810 ≤ n then 2 else 1

/-- What a prefix may hold before an instruction (R314, R279): a rounding override, a saturation override and a fourth
operand only where the instruction allows them, and no reserved override. -/
def pfxLegal (p : Option Pfx) (rnd sat op4 : Bool) : Bool :=
  match p with
  | none => true
  | some p =>
    (if rnd then decide (p.rnd.toNat ≤ 5) else p.rnd == 0) && (if sat then decide (p.sat.toNat ≤ 3) else p.sat == 0)
      && (op4 || p.op4 == 0)

/-- The field values that the opcode map allows (R311, R313-R328); a legal encoding may still be ILLEGAL where it is issued
(a register beyond NREGS, the wrong core, privilege, cue mode). (DEDUCED, log 22) -/
def Instr.fieldsLegal : Instr → Bool
  | .cwrQcfg _ => true
  | .cwrTkill _ => true
  | .cwrArv _ _ => true
  | .bra _ => true
  | .call _ => true
  | .trap _ => true
  | .brx _ _ => true
  | .brxAny _ _ => true
  | .brxAll _ _ => true
  | .brn _ _ => true
  | .brnAny _ _ => true
  | .brnAll _ _ => true
  | .brd _ _ => true
  | .brl _ _ => true
  | .loop _ _ => true
  | .arrw _ _ _ _ => true
  | .jmpi _ => true
  | .calli _ => true
  | .reform k _ => decide (k.toNat ≤ 7)
  | .beat _ c => decide (c.toNat ≤ 3)
  | .btgt _ m => decide (m.toNat ≤ 3)
  | .spawn _ _ _ => true
  | .cancel _ => true
  | .winb b => decide (b.toNat ≤ 24)
  | .winq _ => true
  | .tagq _ _ => true
  | .tagg _ => true
  | .elect k => (k != 0)
  | .rwr _ n => decide (n.toNat ≤ 7)
  | .cwait _ _ => true
  | .cwake _ => true
  | .cloc _ s => decide (s.toNat ≤ 4)
  | .crd _ n => crAssigned n.toNat
  | .cwr _ n => crWritable n.toNat
  | .iadd p _ _ _ _ => pfxLegal p false false false
  | .isub p _ _ _ _ => pfxLegal p false false false
  | .imul p _ _ _ _ => pfxLegal p false false false
  | .imulh p _ _ _ _ => pfxLegal p false false false
  | .imulhn p _ _ _ _ => pfxLegal p false false false
  | .imad p _ _ _ _ => pfxLegal p false false true
  | .idiv p _ _ _ _ => pfxLegal p false false false
  | .idivn p _ _ _ _ => pfxLegal p false false false
  | .irem p _ _ _ _ => pfxLegal p false false false
  | .iremn p _ _ _ _ => pfxLegal p false false false
  | .iabs p _ _ _ => pfxLegal p false false false
  | .imin p _ _ _ _ => pfxLegal p false false false
  | .iminn p _ _ _ _ => pfxLegal p false false false
  | .imax p _ _ _ _ => pfxLegal p false false false
  | .imaxn p _ _ _ _ => pfxLegal p false false false
  | .bfx p _ _ _ _ => pfxLegal p false false false
  | .bfxs p _ _ _ _ => pfxLegal p false false false
  | .bfi p _ _ _ t => (t == 2 || t == 3 || t == 6 || t == 7) && pfxLegal p false false false
  | .shl p _ _ _ _ => pfxLegal p false false false
  | .shr p _ _ _ _ => pfxLegal p false false false
  | .sar p _ _ _ _ => pfxLegal p false false false
  | .rol p _ _ _ _ => pfxLegal p false false false
  | .and p _ _ _ t => decide (t.toNat ≤ 4) && pfxLegal p false false false
  | .or p _ _ _ t => decide (t.toNat ≤ 4) && pfxLegal p false false false
  | .xor p _ _ _ t => decide (t.toNat ≤ 4) && pfxLegal p false false false
  | .andn p _ _ _ t => decide (t.toNat ≤ 4) && pfxLegal p false false false
  | .mov p _ _ t => decide (t.toNat ≤ 4) && pfxLegal p false false false
  | .popc p _ _ t => decide (t.toNat ≤ 4) && pfxLegal p false false false
  | .clz p _ _ t => decide (t.toNat ≤ 4) && pfxLegal p false false false
  | .ctz p _ _ t => decide (t.toNat ≤ 4) && pfxLegal p false false false
  | .brev p _ _ t => decide (t.toNat ≤ 4) && pfxLegal p false false false
  | .lea p _ _ _ _ => pfxLegal p false false false
  | .icmp p k _ _ _ t => (k != 0 && (t == 2 || t == 3 || t == 6 || t == 7)) && pfxLegal p false false false
  | .sel p _ _ _ _ _ => pfxLegal p false false false
  | .iaddi p _ _ _ => pfxLegal p false false false
  | .movi p _ _ => pfxLegal p false false false
  | .movh p _ _ => pfxLegal p false false false
  | .fadd p _ _ _ t => decide (t.toNat ≤ 2) && pfxLegal p true true false
  | .fsub p _ _ _ t => decide (t.toNat ≤ 2) && pfxLegal p true true false
  | .fmul p _ _ _ t => decide (t.toNat ≤ 2) && pfxLegal p true true false
  | .ffma p _ _ _ t => decide (t.toNat ≤ 2) && pfxLegal p true true true
  | .fmin p _ _ _ t => decide (t.toNat ≤ 2) && pfxLegal p true true false
  | .fmax p _ _ _ t => decide (t.toNat ≤ 2) && pfxLegal p true true false
  | .fdiv p _ _ _ t => decide (t.toNat ≤ 2) && pfxLegal p true true false
  | .fcpys p _ _ _ t => decide (t.toNat ≤ 2) && pfxLegal p true true false
  | .fabs p _ _ t => decide (t.toNat ≤ 2) && pfxLegal p true true false
  | .fneg p _ _ t => decide (t.toNat ≤ 2) && pfxLegal p true true false
  | .frnd p _ _ t => decide (t.toNat ≤ 2) && pfxLegal p true true false
  | .ffrac p _ _ t => decide (t.toNat ≤ 2) && pfxLegal p true true false
  | .fsqrt p _ _ t => decide (t.toNat ≤ 2) && pfxLegal p true true false
  | .frcp p _ _ t => decide (t.toNat ≤ 2) && pfxLegal p true true false
  | .frsq p _ _ t => decide (t.toNat ≤ 2) && pfxLegal p true true false
  | .fclass p _ _ t => decide (t.toNat ≤ 2) && pfxLegal p true true false
  | .fexp2 p _ _ t => decide (t.toNat ≤ 2) && pfxLegal p true true false
  | .flog2 p _ _ t => decide (t.toNat ≤ 2) && pfxLegal p true true false
  | .fsin p _ _ t => decide (t.toNat ≤ 2) && pfxLegal p true true false
  | .fcos p _ _ t => decide (t.toNat ≤ 2) && pfxLegal p true true false
  | .ftanh p _ _ t => decide (t.toNat ≤ 2) && pfxLegal p true true false
  | .ferf p _ _ t => decide (t.toNat ≤ 2) && pfxLegal p true true false
  | .fsigm p _ _ t => decide (t.toNat ≤ 2) && pfxLegal p true true false
  | .fcmp p k _ _ _ t => (k != 0 && decide (t.toNat ≤ 2)) && pfxLegal p true true false
  | .hadd2 p _ _ _ t => (t == 1 || t == 2) && pfxLegal p true true false
  | .hmul2 p _ _ _ t => (t == 1 || t == 2) && pfxLegal p true true false
  | .hfma2 p _ _ _ t => (t == 1 || t == 2) && pfxLegal p true true true
  | .hmin2 p _ _ _ t => (t == 1 || t == 2) && pfxLegal p true true false
  | .hmax2 p _ _ _ t => (t == 1 || t == 2) && pfxLegal p true true false
  | .rng p _ _ _ t => decide (t.toNat ≤ 1) && pfxLegal p true true false
  | .cvtpk p _ _ _ t => (t == 1 || t == 2) && pfxLegal p true true false
  | .cvtun p _ _ t => (t == 1 || t == 2) && pfxLegal p true true false
  | .cvtif p _ _ f _ => (f != 3) && pfxLegal p true true false
  | .cvtfi p _ _ f _ => (f != 3) && pfxLegal p true true false
  | .cvtw p _ _ x s e => cvtwAllowed x.toNat s.toNat e.toNat && pfxLegal p true true false
  | .cvtn p _ _ x s e => cvtnAllowed x.toNat s.toNat e.toNat && pfxLegal p true true false
  | .cvtne p _ _ x s e => (p.isSome && cvtnAllowed x.toNat s.toNat e.toNat) && pfxLegal p true true true
  | .mand p k _ _ => (k != 0) && pfxLegal p false false false
  | .mor p k _ _ => (k != 0) && pfxLegal p false false false
  | .mxor p k _ _ => (k != 0) && pfxLegal p false false false
  | .mandn p k _ _ => (k != 0) && pfxLegal p false false false
  | .mnot p k _ => (k != 0) && pfxLegal p false false false
  | .mmov p k _ => (k != 0) && pfxLegal p false false false
  | .mset p k _ => (k != 0) && pfxLegal p false false false
  | .mget p _ _ => pfxLegal p false false false
  | .mpop p _ _ => pfxLegal p false false false
  | .mffs p _ _ => pfxLegal p false false false
  | .shfl p _ _ _ _ _ => pfxLegal p false false false
  | .voteAny p _ _ => pfxLegal p false false false
  | .voteAll p _ _ => pfxLegal p false false false
  | .voteUni p _ _ => pfxLegal p false false false
  | .wred p _ _ o t => (o != 3 && decide (t.toNat ≤ 4)) && pfxLegal p (t == 4) false false
  | .wscan p _ _ o t => (o != 3 && decide (t.toNat ≤ 4)) && pfxLegal p (t == 4) false false
  | .ld p _ _ s k w => (k != 3 && (k != 0 || s == 0) && w != 7) && pfxLegal p false false false
  | .st p _ _ s k w => (k != 3 && (k != 0 || s == 0) && decide (w.toNat ≤ 4)) && pfxLegal p false false false
  | .ldl p _ _ _ w => (w != 7) && pfxLegal p false false false
  | .stl p _ _ _ w => decide (w.toNat ≤ 4) && pfxLegal p false false false
  | .ldc p _ _ w => (w != 7) && pfxLegal p false false false
  | .ldx p _ _ w => (w != 7) && pfxLegal p false false false
  | .stx p _ _ w => decide (w.toNat ≤ 4) && pfxLegal p false false false
  | .atom p _ _ _ _ o _ => (o != 7) && pfxLegal p false false false
  | .atomCas p _ _ _ _ _ => p.isSome && pfxLegal p false false true
  | .atoml p _ _ _ o _ => (o != 7) && pfxLegal p false false false
  | .atomlCas p _ _ _ _ => p.isSome && pfxLegal p false false true
  | .redm p _ _ k _ o t => ((k == 0 || k == 2) && (decide (o.toNat ≤ 5) || (o == 6 && t == 0))) && pfxLegal p false false false
  | .fenceAcq s => decide (s.toNat ≤ 7)
  | .fenceRel s => decide (s.toNat ≤ 7)
  | .fenceFull s => decide (s.toNat ≤ 7)
  | .bar _ n => decide (n.toNat ≤ 15)
  | .barTake _ n => decide (n.toNat ≤ 15)
  | .bara _ n => decide (n.toNat ≤ 15)
  | .barw n => decide (n.toNat ≤ 15)
  | .barq _ n => decide (n.toNat ≤ 15)
  | .pres _ _ => true
  | .pclr _ => true
  | .pset _ => true
  | .pref _ l => decide (l.toNat ≤ 1)
  | .cinv _ _ => true
  | .cwb _ _ => true
  | .cfls _ _ => true
  | .bci _ _ => true
  | .bca _ _ => true
  | .bcw _ _ => true
  | .ract _ => true
  | .rcon t _ => decide (t.toNat ≤ 15)
  | .rconWs _ _ => true
  | .rcls _ => true
  | .rstat _ _ => true
  | .tshape t _ => decide (t.toNat ≤ 15)
  | .tclr t => decide (t.toNat ≤ 15)
  | .omap t _ => decide (t.toNat ≤ 15)
  | .tld t _ _ => decide (t.toNat ≤ 15)
  | .tst t _ _ => decide (t.toNat ≤ 15)
  | .tfeed t _ _ => decide (t.toNat ≤ 15)
  | .mma c i j => (decide (c.toNat ≤ 7) && decide (i.toNat ≤ 15) && decide (j.toNat ≤ 15))
  | .mmas c i j => (decide (c.toNat ≤ 7) && decide (i.toNat ≤ 15) && decide (j.toNat ≤ 15))
  | .mmaq c i j => (decide (c.toNat ≤ 7) && decide (i.toNat ≤ 15) && decide (j.toNat ≤ 15))
  | .mzero c => decide (c.toNat ≤ 7)
  | .mload c _ => decide (c.toNat ≤ 7)
  | .mdrn c _ _ => decide (c.toNat ≤ 7)
  | .mcoop _ => true
  | .mwait l => decide (l.toNat ≤ 3)
  | .scpl _ _ => true
  | .scinv _ => true
  | .scq _ _ => true
  | .cbld c _ => decide (c.toNat ≤ 15)
  | .tlbi _ r => decide (r.toNat ≤ 1)
  | .xcCopy _ _ _ => true
  | .xcTcopy _ _ _ => true
  | .xcGath _ _ _ => true
  | .xcScat _ _ _ => true
  | .xcFill _ _ _ => true
  | .xcStat _ _ => true
  | .xcCanc _ _ => true
  | .swBind _ _ _ => true
  | .swUnbind _ _ => true
  | .swPass _ _ _ => true
  | .swWake _ _ _ => true
  | .swStat _ _ _ => true
  | .gpBind _ _ _ => true
  | .gpStep _ _ _ => true
  | .gpMask _ _ _ => true
  | .gpFork _ _ _ => true
  | .gpRoll _ _ _ => true
  | .gpSave _ _ _ => true
  | .gpLoad _ _ _ => true
  | .dtBuild _ _ => true
  | .ptLook _ _ => true
  | .ptPin _ _ => true
  | .ptUnpin _ _ => true
  | .ptIns _ _ _ => true
  | .ptEvict _ _ => true
  | .xcScrb _ _ => true
  | .ksZero _ _ _ => true
  | .clockStepChange => true
  | .budgetCapAdjust => true
  | .sliderPeriod => true
  | .pwrctlWrite => true
  | .thermalBandChange => true
  | .thermalCapTick => true
  | .thermalTrip => true
  | .thermalClear => true
  | .pageMigrationStart => true
  | .pageMigrated => true
  | .halfSwitch => true
  | .clusterFenced => true
  | .w1Entry => true
  | .w2Entry => true
  | .breakEvenHoldEnd => true
  | .clusterPowerUpDone => true
  | .w3Entry => true
  | .latencyToleranceReport => true
  | .gangFlitReceive => true
  | .ethFrameReceive => true
  | .heartbeatSend => true
  | .linkDown => true
  | .laneFailure => true
  | .fabcfgWrite => true
  | .collectiveItemDone => true
  | .collectiveCommit => true
  | .mergePeriodEnd => true
  | .mergeMessageReceive => true
  | .mrgtagWrite => true
  | .mrgparWrite => true
  | .packageLost => true
  | .qsubWrite => true
  | .slateAccept => true
  | .cmddbWrite => true
  | .create => true
  | .save => true
  | .restore => true
  | .switch => true
  | .destroy => true
  | .teardown => true
  | .drain => true
  | .drainTimeout => true
  | .undrain => true
  | .vfsuspend => true
  | .vfresume => true
  | .assign => true
  | .commandComplete => true
  | .dlsizeWrite => true
  | .ptrootWrite => true
  | .keyLoad => true
  | .keyZero => true
  | .keyZeroDone => true
  | .registerWrite => true
  | .scrubJobStart => true
  | .scrubUnitCommit => true
  | .scrubDone => true
  | .flrVf => true
  | .flrPf => true
  | .hotReset => true
  | .warmReset => true
  | .powerOn => true
  | .priResponse => true
  | .beatArrive => true
  | .btgtArrive => true
  | .controlPeriodEnd => true
  | .allocatorEpoch => true
  | .grantApply => true
  | .coreReleaseTimeout => true
  | .quantumEnd => true
  | .ageTick => true
  | .backfillTimeout => true
  | .crewPlace => true
  | .groupPlace => true
  | .takeSpillDone => true
  | .takeRestore => true
  | .controlThreadRestore => true
  | .engineCommandStart => true
  | .slateRetire => true
  | .deadlineExpiry => true
  | .binIssue => true
  | .divergenceYield => true
  | .passStart => true
  | .blockPass => true
  | .passEnd => true
  | .wakeApply => true
  | .pageWalkDone => true
  | .scratchpadAccessDone => true
  | .rowTransferEnd => true
  | .prechargeEnd => true
  | .rowForcedClose => true
  | .bankRefresh => true
  | .patrolScrub => true
  | .copyItemStart => true
  | .copyItemComplete => true
  | .grammarSlotPerform => true
  | .matrixExecStart => true
  | .matrixExecDone => true
  | .scaleFetchDone => true
  | .nop => true
  | .ret => true
  | .rjoin => true
  | .exit => true
  | .yield => true
  | .tret => true
  | .ifence => true
  | .mfence => true
  | .activateToFirstConsume => true
  | .writeBufferDrain => true
  | .sharedTileWriteDone => true
  | .hostPortAccess => true

/-- The addend of a fourth-operand instruction: the prefix's register, or the old destination without a prefix (R314). -/
def fourth (p : Option Pfx) (d : BitVec 7) (n : Nat) : List (BitVec 7 × Nat) :=
  match p with | none => [(d, n)] | some p => [(p.op4, n)]
/-- The fourth operand of an instruction that needs a prefix. -/
def fourthOnly (p : Option Pfx) (n : Nat) : List (BitVec 7 × Nat) :=
  match p with | none => [] | some p => [(p.op4, n)]

/-- The vector registers an instruction reads: first register and how many (R310). (DEDUCED, log 21) -/
def Instr.reads : Instr → List (BitVec 7 × Nat)
  | .cwrQcfg a => [(a, 1)]
  | .cwrTkill a => [(a, 1)]
  | .cwrArv a _ => [(a, 1)]
  | .bra _ => []
  | .call _ => []
  | .trap _ => []
  | .brx _ _ => []
  | .brxAny _ _ => []
  | .brxAll _ _ => []
  | .brn _ _ => []
  | .brnAny _ _ => []
  | .brnAll _ _ => []
  | .brd _ _ => []
  | .brl _ _ => []
  | .loop d _ => [(d, 1)]
  | .arrw _ a b _ => [(a, 1), (b, 1)]
  | .jmpi a => [(a, 2)]
  | .calli a => [(a, 2)]
  | .reform _ a => [(a, 1)]
  | .beat a _ => [(a, 1)]
  | .btgt a _ => [(a, 1)]
  | .spawn _ a b => [(a, 2), (b, 1)]
  | .cancel a => [(a, 1)]
  | .winb _ => []
  | .winq _ => []
  | .tagq _ a => [(a, 1)]
  | .tagg _ => []
  | .elect _ => []
  | .rwr a _ => [(a, 1)]
  | .cwait a b => [(a, 1), (b, 1)]
  | .cwake a => [(a, 1)]
  | .cloc _ _ => []
  | .crd _ _ => []
  | .cwr a _ => [(a, 1)]
  | .iadd _ _ a b t => [(a, intRegs t), (b, intRegs t)]
  | .isub _ _ a b t => [(a, intRegs t), (b, intRegs t)]
  | .imul _ _ a b t => [(a, intRegs t), (b, intRegs t)]
  | .imulh _ _ a b t => [(a, intRegs2 t), (b, intRegs2 t)]
  | .imulhn _ _ a b t => [(a, intRegs2 t), (b, intRegs2 t)]
  | .imad p d a b t => [(a, intRegs t), (b, intRegs t)] ++ fourth p d (intRegs t)
  | .idiv _ _ a b t => [(a, intRegs2 t), (b, intRegs2 t)]
  | .idivn _ _ a b t => [(a, intRegs2 t), (b, intRegs2 t)]
  | .irem _ _ a b t => [(a, intRegs2 t), (b, intRegs2 t)]
  | .iremn _ _ a b t => [(a, intRegs2 t), (b, intRegs2 t)]
  | .iabs _ _ a t => [(a, intRegs2 t)]
  | .imin _ _ a b t => [(a, intRegs2 t), (b, intRegs2 t)]
  | .iminn _ _ a b t => [(a, intRegs2 t), (b, intRegs2 t)]
  | .imax _ _ a b t => [(a, intRegs2 t), (b, intRegs2 t)]
  | .imaxn _ _ a b t => [(a, intRegs2 t), (b, intRegs2 t)]
  | .bfx _ _ a b t => [(a, (if t = 1 then 2 else 1)), (b, 1)]
  | .bfxs _ _ a b t => [(a, (if t = 1 then 2 else 1)), (b, 1)]
  | .bfi _ d a b t => [(d, intRegs t), (a, intRegs t), (b, 1)]
  | .shl _ _ a b t => [(a, intRegs t), (b, intRegs t)]
  | .shr _ _ a b t => [(a, intRegs t), (b, intRegs t)]
  | .sar _ _ a b t => [(a, intRegs t), (b, intRegs t)]
  | .rol _ _ a b t => [(a, intRegs t), (b, intRegs t)]
  | .and _ _ a b t => [(a, rawRegs t), (b, rawRegs t)]
  | .or _ _ a b t => [(a, rawRegs t), (b, rawRegs t)]
  | .xor _ _ a b t => [(a, rawRegs t), (b, rawRegs t)]
  | .andn _ _ a b t => [(a, rawRegs t), (b, rawRegs t)]
  | .mov _ _ a t => [(a, rawRegs t)]
  | .popc _ _ a t => [(a, rawRegs t)]
  | .clz _ _ a t => [(a, rawRegs t)]
  | .ctz _ _ a t => [(a, rawRegs t)]
  | .brev _ _ a t => [(a, rawRegs t)]
  | .lea _ _ a b _ => [(a, 2), (b, 1)]
  | .icmp _ _ a b _ t => [(a, intRegs t), (b, intRegs t)]
  | .sel _ _ a b w _ => [(a, (if w = 1 then 2 else 1)), (b, (if w = 1 then 2 else 1))]
  | .iaddi _ _ a _ => [(a, 1)]
  | .movi _ _ _ => []
  | .movh _ d _ => [(d, 1)]
  | .fadd _ _ a b _ => [(a, 1), (b, 1)]
  | .fsub _ _ a b _ => [(a, 1), (b, 1)]
  | .fmul _ _ a b _ => [(a, 1), (b, 1)]
  | .ffma p d a b _ => [(a, 1), (b, 1)] ++ fourth p d (1)
  | .fmin _ _ a b _ => [(a, 1), (b, 1)]
  | .fmax _ _ a b _ => [(a, 1), (b, 1)]
  | .fdiv _ _ a b _ => [(a, 1), (b, 1)]
  | .fcpys _ _ a b _ => [(a, 1), (b, 1)]
  | .fabs _ _ a _ => [(a, 1)]
  | .fneg _ _ a _ => [(a, 1)]
  | .frnd _ _ a _ => [(a, 1)]
  | .ffrac _ _ a _ => [(a, 1)]
  | .fsqrt _ _ a _ => [(a, 1)]
  | .frcp _ _ a _ => [(a, 1)]
  | .frsq _ _ a _ => [(a, 1)]
  | .fclass _ _ a _ => [(a, 1)]
  | .fexp2 _ _ a _ => [(a, 1)]
  | .flog2 _ _ a _ => [(a, 1)]
  | .fsin _ _ a _ => [(a, 1)]
  | .fcos _ _ a _ => [(a, 1)]
  | .ftanh _ _ a _ => [(a, 1)]
  | .ferf _ _ a _ => [(a, 1)]
  | .fsigm _ _ a _ => [(a, 1)]
  | .fcmp _ _ a b _ _ => [(a, 1), (b, 1)]
  | .hadd2 _ _ a b _ => [(a, 1), (b, 1)]
  | .hmul2 _ _ a b _ => [(a, 1), (b, 1)]
  | .hfma2 p d a b _ => [(a, 1), (b, 1)] ++ fourth p d (1)
  | .hmin2 _ _ a b _ => [(a, 1), (b, 1)]
  | .hmax2 _ _ a b _ => [(a, 1), (b, 1)]
  | .rng _ _ a b _ => [(a, 2), (b, 2)]
  | .cvtpk _ _ a b _ => [(a, 1), (b, 1)]
  | .cvtun _ _ a _ => [(a, 1)]
  | .cvtif _ _ a _ i => [(a, intRegs i)]
  | .cvtfi _ _ a _ _ => [(a, 1)]
  | .cvtw _ _ a _ _ _ => [(a, 1)]
  | .cvtn _ d a _ _ _ => [(d, 1), (a, 1)]
  | .cvtne _ d a _ _ _ => [(d, 1), (a, 1)]
  | .mand _ _ _ _ => []
  | .mor _ _ _ _ => []
  | .mxor _ _ _ _ => []
  | .mandn _ _ _ _ => []
  | .mnot _ _ _ => []
  | .mmov _ _ _ => []
  | .mset _ _ a => [(a, 1)]
  | .mget _ _ _ => []
  | .mpop _ _ _ => []
  | .mffs _ _ _ => []
  | .shfl _ _ a b _ w => [(a, (if w = 1 then 2 else 1)), (b, 1)]
  | .voteAny _ _ _ => []
  | .voteAll _ _ _ => []
  | .voteUni _ _ a => [(a, 1)]
  | .wred _ _ a _ t => [(a, (if t = 2 ∨ t = 3 then 2 else 1))]
  | .wscan _ _ a _ t => [(a, (if t = 2 ∨ t = 3 then 2 else 1))]
  | .ld _ _ a _ _ _ => [(a, 2)]
  | .st _ d a _ _ w => [(d, rawRegs w), (a, 2)]
  | .ldl _ _ a _ _ => [(a, 1)]
  | .stl _ d a _ w => [(d, rawRegs w), (a, 1)]
  | .ldc _ _ a _ => [(a, 2)]
  | .ldx _ _ a _ => [(a, 2)]
  | .stx _ d a w => [(d, rawRegs w), (a, 2)]
  | .atom _ d a _ _ _ t => [(d, atomRegs t), (a, 2)]
  | .atomCas p d a _ _ t => [(d, atomRegs t), (a, 2)] ++ fourthOnly p (atomRegs t)
  | .atoml _ d a _ _ t => [(d, atomRegs t), (a, 1)]
  | .atomlCas p d a _ t => [(d, atomRegs t), (a, 1)] ++ fourthOnly p (atomRegs t)
  | .redm _ d a _ _ _ t => [(d, atomRegs t), (a, 2)]
  | .fenceAcq _ => []
  | .fenceRel _ => []
  | .fenceFull _ => []
  | .bar a _ => [(a, 1)]
  | .barTake _ _ => []
  | .bara a _ => [(a, 1)]
  | .barw _ => []
  | .barq _ _ => []
  | .pres _ a => [(a, 1)]
  | .pclr a => [(a, 1)]
  | .pset a => [(a, 1)]
  | .pref a _ => [(a, 2)]
  | .cinv a b => [(a, 2), (b, 1)]
  | .cwb a b => [(a, 2), (b, 1)]
  | .cfls a b => [(a, 2), (b, 1)]
  | .bci a b => [(a, 1), (b, 1)]
  | .bca a b => [(a, 1), (b, 1)]
  | .bcw a b => [(a, 1), (b, 1)]
  | .ract a => [(a, 2)]
  | .rcon _ a => [(a, 2)]
  | .rconWs a b => [(a, 2), (b, 1)]
  | .rcls a => [(a, 2)]
  | .rstat _ a => [(a, 2)]
  | .tshape _ a => [(a, 2)]
  | .tclr _ => []
  | .omap _ a => [(a, 4)]
  | .tld _ a b => [(a, 2), (b, 1)]
  | .tst _ a b => [(a, 2), (b, 1)]
  | .tfeed _ a b => [(a, 1), (b, 2)]
  | .mma _ _ _ => []
  | .mmas _ _ _ => []
  | .mmaq _ _ _ => []
  | .mzero _ => []
  | .mload _ a => [(a, 2)]
  | .mdrn _ a b => [(a, 1), (b, 9)]
  | .mcoop a => [(a, 1)]
  | .mwait _ => []
  | .scpl a b => [(a, 2), (b, 1)]
  | .scinv a => [(a, 1)]
  | .scq _ a => [(a, 1)]
  | .cbld _ a => [(a, 2)]
  | .tlbi a _ => [(a, 2)]
  | .xcCopy _ a b => [(a, 2), (b, 1)]
  | .xcTcopy _ a b => [(a, 2), (b, 1)]
  | .xcGath _ a b => [(a, 2), (b, 1)]
  | .xcScat _ a b => [(a, 2), (b, 1)]
  | .xcFill _ a b => [(a, 2), (b, 1)]
  | .xcStat _ a => [(a, 1)]
  | .xcCanc _ a => [(a, 1)]
  | .swBind _ a b => [(a, 2), (b, 1)]
  | .swUnbind _ b => [(b, 1)]
  | .swPass _ a b => [(a, 1), (b, 2)]
  | .swWake _ a b => [(a, 1), (b, 2)]
  | .swStat _ a b => [(a, 1), (b, 2)]
  | .gpBind _ a b => [(a, 2), (b, 1)]
  | .gpStep _ a b => [(a, 1), (b, 1)]
  | .gpMask _ a b => [(a, 1), (b, 2)]
  | .gpFork _ a b => [(a, 1), (b, 1)]
  | .gpRoll _ a b => [(a, 1), (b, 1)]
  | .gpSave _ a b => [(a, 1), (b, 2)]
  | .gpLoad _ a b => [(a, 1), (b, 2)]
  | .dtBuild _ a => [(a, 2)]
  | .ptLook _ a => [(a, 2)]
  | .ptPin _ a => [(a, 2)]
  | .ptUnpin _ a => [(a, 1)]
  | .ptIns _ a b => [(a, 2), (b, 1)]
  | .ptEvict _ a => [(a, 1)]
  | .xcScrb _ a => [(a, 1)]
  | .ksZero _ a b => [(a, 1), (b, 2)]
  | .clockStepChange => []
  | .budgetCapAdjust => []
  | .sliderPeriod => []
  | .pwrctlWrite => []
  | .thermalBandChange => []
  | .thermalCapTick => []
  | .thermalTrip => []
  | .thermalClear => []
  | .pageMigrationStart => []
  | .pageMigrated => []
  | .halfSwitch => []
  | .clusterFenced => []
  | .w1Entry => []
  | .w2Entry => []
  | .breakEvenHoldEnd => []
  | .clusterPowerUpDone => []
  | .w3Entry => []
  | .latencyToleranceReport => []
  | .gangFlitReceive => []
  | .ethFrameReceive => []
  | .heartbeatSend => []
  | .linkDown => []
  | .laneFailure => []
  | .fabcfgWrite => []
  | .collectiveItemDone => []
  | .collectiveCommit => []
  | .mergePeriodEnd => []
  | .mergeMessageReceive => []
  | .mrgtagWrite => []
  | .mrgparWrite => []
  | .packageLost => []
  | .qsubWrite => []
  | .slateAccept => []
  | .cmddbWrite => []
  | .create => []
  | .save => []
  | .restore => []
  | .switch => []
  | .destroy => []
  | .teardown => []
  | .drain => []
  | .drainTimeout => []
  | .undrain => []
  | .vfsuspend => []
  | .vfresume => []
  | .assign => []
  | .commandComplete => []
  | .dlsizeWrite => []
  | .ptrootWrite => []
  | .keyLoad => []
  | .keyZero => []
  | .keyZeroDone => []
  | .registerWrite => []
  | .scrubJobStart => []
  | .scrubUnitCommit => []
  | .scrubDone => []
  | .flrVf => []
  | .flrPf => []
  | .hotReset => []
  | .warmReset => []
  | .powerOn => []
  | .priResponse => []
  | .beatArrive => []
  | .btgtArrive => []
  | .controlPeriodEnd => []
  | .allocatorEpoch => []
  | .grantApply => []
  | .coreReleaseTimeout => []
  | .quantumEnd => []
  | .ageTick => []
  | .backfillTimeout => []
  | .crewPlace => []
  | .groupPlace => []
  | .takeSpillDone => []
  | .takeRestore => []
  | .controlThreadRestore => []
  | .engineCommandStart => []
  | .slateRetire => []
  | .deadlineExpiry => []
  | .binIssue => []
  | .divergenceYield => []
  | .passStart => []
  | .blockPass => []
  | .passEnd => []
  | .wakeApply => []
  | .pageWalkDone => []
  | .scratchpadAccessDone => []
  | .rowTransferEnd => []
  | .prechargeEnd => []
  | .rowForcedClose => []
  | .bankRefresh => []
  | .patrolScrub => []
  | .copyItemStart => []
  | .copyItemComplete => []
  | .grammarSlotPerform => []
  | .matrixExecStart => []
  | .matrixExecDone => []
  | .scaleFetchDone => []
  | .nop => []
  | .ret => [(126, 2)]
  | .rjoin => []
  | .exit => []
  | .yield => []
  | .tret => []
  | .ifence => []
  | .mfence => []
  | .activateToFirstConsume => []
  | .writeBufferDrain => []
  | .sharedTileWriteDone => []
  | .hostPortAccess => []

/-- The vector registers an instruction writes: first register and how many (R310). -/
def Instr.writes : Instr → List (BitVec 7 × Nat)
  | .cwrQcfg _ => []
  | .cwrTkill _ => []
  | .cwrArv _ _ => []
  | .bra _ => []
  | .call _ => [(126, 2)]
  | .trap _ => []
  | .brx _ _ => []
  | .brxAny _ _ => []
  | .brxAll _ _ => []
  | .brn _ _ => []
  | .brnAny _ _ => []
  | .brnAll _ _ => []
  | .brd _ _ => []
  | .brl d _ => [(d, 2)]
  | .loop d _ => [(d, 1)]
  | .arrw d _ _ _ => [(d, 1)]
  | .jmpi _ => []
  | .calli _ => [(126, 2)]
  | .reform _ _ => []
  | .beat _ _ => []
  | .btgt _ _ => []
  | .spawn d _ _ => [(d, 1)]
  | .cancel _ => []
  | .winb _ => []
  | .winq d => [(d, 1)]
  | .tagq d _ => [(d, 1)]
  | .tagg d => [(d, 1)]
  | .elect _ => []
  | .rwr _ _ => []
  | .cwait _ _ => []
  | .cwake _ => []
  | .cloc d _ => [(d, 1)]
  | .crd d n => [(d, crRegs n.toNat)]
  | .cwr _ _ => []
  | .iadd _ d _ _ t => [(d, intRegs t)]
  | .isub _ d _ _ t => [(d, intRegs t)]
  | .imul _ d _ _ t => [(d, intRegs t)]
  | .imulh _ d _ _ t => [(d, intRegs2 t)]
  | .imulhn _ d _ _ t => [(d, intRegs2 t)]
  | .imad _ d _ _ t => [(d, intRegs t)]
  | .idiv _ d _ _ t => [(d, intRegs2 t)]
  | .idivn _ d _ _ t => [(d, intRegs2 t)]
  | .irem _ d _ _ t => [(d, intRegs2 t)]
  | .iremn _ d _ _ t => [(d, intRegs2 t)]
  | .iabs _ d _ t => [(d, intRegs2 t)]
  | .imin _ d _ _ t => [(d, intRegs2 t)]
  | .iminn _ d _ _ t => [(d, intRegs2 t)]
  | .imax _ d _ _ t => [(d, intRegs2 t)]
  | .imaxn _ d _ _ t => [(d, intRegs2 t)]
  | .bfx _ d _ _ t => [(d, (if t = 1 then 2 else 1))]
  | .bfxs _ d _ _ t => [(d, (if t = 1 then 2 else 1))]
  | .bfi _ d _ _ t => [(d, intRegs t)]
  | .shl _ d _ _ t => [(d, intRegs t)]
  | .shr _ d _ _ t => [(d, intRegs t)]
  | .sar _ d _ _ t => [(d, intRegs t)]
  | .rol _ d _ _ t => [(d, intRegs t)]
  | .and _ d _ _ t => [(d, rawRegs t)]
  | .or _ d _ _ t => [(d, rawRegs t)]
  | .xor _ d _ _ t => [(d, rawRegs t)]
  | .andn _ d _ _ t => [(d, rawRegs t)]
  | .mov _ d _ t => [(d, rawRegs t)]
  | .popc _ d _ t => [(d, rawRegs t)]
  | .clz _ d _ t => [(d, rawRegs t)]
  | .ctz _ d _ t => [(d, rawRegs t)]
  | .brev _ d _ t => [(d, rawRegs t)]
  | .lea _ d _ _ _ => [(d, 2)]
  | .icmp _ _ _ _ _ _ => []
  | .sel _ d _ _ w _ => [(d, (if w = 1 then 2 else 1))]
  | .iaddi _ d _ _ => [(d, 1)]
  | .movi _ d _ => [(d, 1)]
  | .movh _ d _ => [(d, 1)]
  | .fadd _ d _ _ _ => [(d, 1)]
  | .fsub _ d _ _ _ => [(d, 1)]
  | .fmul _ d _ _ _ => [(d, 1)]
  | .ffma _ d _ _ _ => [(d, 1)]
  | .fmin _ d _ _ _ => [(d, 1)]
  | .fmax _ d _ _ _ => [(d, 1)]
  | .fdiv _ d _ _ _ => [(d, 1)]
  | .fcpys _ d _ _ _ => [(d, 1)]
  | .fabs _ d _ _ => [(d, 1)]
  | .fneg _ d _ _ => [(d, 1)]
  | .frnd _ d _ _ => [(d, 1)]
  | .ffrac _ d _ _ => [(d, 1)]
  | .fsqrt _ d _ _ => [(d, 1)]
  | .frcp _ d _ _ => [(d, 1)]
  | .frsq _ d _ _ => [(d, 1)]
  | .fclass _ d _ _ => [(d, 1)]
  | .fexp2 _ d _ _ => [(d, 1)]
  | .flog2 _ d _ _ => [(d, 1)]
  | .fsin _ d _ _ => [(d, 1)]
  | .fcos _ d _ _ => [(d, 1)]
  | .ftanh _ d _ _ => [(d, 1)]
  | .ferf _ d _ _ => [(d, 1)]
  | .fsigm _ d _ _ => [(d, 1)]
  | .fcmp _ _ _ _ _ _ => []
  | .hadd2 _ d _ _ _ => [(d, 1)]
  | .hmul2 _ d _ _ _ => [(d, 1)]
  | .hfma2 _ d _ _ _ => [(d, 1)]
  | .hmin2 _ d _ _ _ => [(d, 1)]
  | .hmax2 _ d _ _ _ => [(d, 1)]
  | .rng _ d _ _ _ => [(d, 1)]
  | .cvtpk _ d _ _ _ => [(d, 1)]
  | .cvtun _ d _ _ => [(d, 2)]
  | .cvtif _ d _ _ _ => [(d, 1)]
  | .cvtfi _ d _ _ i => [(d, intRegs i)]
  | .cvtw _ d _ _ _ _ => [(d, 1)]
  | .cvtn _ d _ _ _ _ => [(d, 1)]
  | .cvtne p d _ _ _ _ => [(d, 1)] ++ fourthOnly p 1
  | .mand _ _ _ _ => []
  | .mor _ _ _ _ => []
  | .mxor _ _ _ _ => []
  | .mandn _ _ _ _ => []
  | .mnot _ _ _ => []
  | .mmov _ _ _ => []
  | .mset _ _ _ => []
  | .mget _ d _ => [(d, 1)]
  | .mpop _ d _ => [(d, 1)]
  | .mffs _ d _ => [(d, 1)]
  | .shfl _ d _ _ _ w => [(d, (if w = 1 then 2 else 1))]
  | .voteAny _ d _ => [(d, 1)]
  | .voteAll _ d _ => [(d, 1)]
  | .voteUni _ d _ => [(d, 1)]
  | .wred _ d _ _ t => [(d, (if t = 2 ∨ t = 3 then 2 else 1))]
  | .wscan _ d _ _ t => [(d, (if t = 2 ∨ t = 3 then 2 else 1))]
  | .ld _ d _ _ _ w => [(d, ldwRegs w)]
  | .st _ _ _ _ _ _ => []
  | .ldl _ d _ _ w => [(d, ldwRegs w)]
  | .stl _ _ _ _ _ => []
  | .ldc _ d _ w => [(d, ldwRegs w)]
  | .ldx _ d _ w => [(d, ldwRegs w)]
  | .stx _ _ _ _ => []
  | .atom _ d _ _ _ _ t => [(d, atomRegs t)]
  | .atomCas _ d _ _ _ t => [(d, atomRegs t)]
  | .atoml _ d _ _ _ t => [(d, atomRegs t)]
  | .atomlCas _ d _ _ t => [(d, atomRegs t)]
  | .redm _ _ _ _ _ _ _ => []
  | .fenceAcq _ => []
  | .fenceRel _ => []
  | .fenceFull _ => []
  | .bar _ _ => []
  | .barTake _ _ => []
  | .bara _ _ => []
  | .barw _ => []
  | .barq d _ => [(d, 1)]
  | .pres d _ => [(d, 1)]
  | .pclr _ => []
  | .pset _ => []
  | .pref _ _ => []
  | .cinv _ _ => []
  | .cwb _ _ => []
  | .cfls _ _ => []
  | .bci _ _ => []
  | .bca _ _ => []
  | .bcw _ _ => []
  | .ract _ => []
  | .rcon _ _ => []
  | .rconWs _ _ => []
  | .rcls _ => []
  | .rstat d _ => [(d, 1)]
  | .tshape _ _ => []
  | .tclr _ => []
  | .omap _ _ => []
  | .tld _ _ _ => []
  | .tst _ _ _ => []
  | .tfeed _ _ _ => []
  | .mma _ _ _ => []
  | .mmas _ _ _ => []
  | .mmaq _ _ _ => []
  | .mzero _ => []
  | .mload _ _ => []
  | .mdrn _ _ _ => []
  | .mcoop _ => []
  | .mwait _ => []
  | .scpl _ _ => []
  | .scinv _ => []
  | .scq d _ => [(d, 1)]
  | .cbld _ _ => []
  | .tlbi _ _ => []
  | .xcCopy v _ _ => [(v, 1)]
  | .xcTcopy v _ _ => [(v, 1)]
  | .xcGath v _ _ => [(v, 1)]
  | .xcScat v _ _ => [(v, 1)]
  | .xcFill v _ _ => [(v, 1)]
  | .xcStat v _ => [(v, 1)]
  | .xcCanc v _ => [(v, 1)]
  | .swBind v _ _ => [(v, 1)]
  | .swUnbind v _ => [(v, 1)]
  | .swPass v _ _ => [(v, 1)]
  | .swWake v _ _ => [(v, 1)]
  | .swStat v _ _ => [(v, 1)]
  | .gpBind v _ _ => [(v, 1)]
  | .gpStep v _ _ => [(v, 1)]
  | .gpMask v _ _ => [(v, 1)]
  | .gpFork v _ _ => [(v, 1)]
  | .gpRoll v _ _ => [(v, 1)]
  | .gpSave v _ _ => [(v, 1)]
  | .gpLoad v _ _ => [(v, 1)]
  | .dtBuild v _ => [(v, 1)]
  | .ptLook v _ => [(v, 1)]
  | .ptPin v _ => [(v, 1)]
  | .ptUnpin v _ => [(v, 1)]
  | .ptIns v _ _ => [(v, 1)]
  | .ptEvict v _ => [(v, 1)]
  | .xcScrb v _ => [(v, 1)]
  | .ksZero v _ _ => [(v, 1)]
  | .clockStepChange => []
  | .budgetCapAdjust => []
  | .sliderPeriod => []
  | .pwrctlWrite => []
  | .thermalBandChange => []
  | .thermalCapTick => []
  | .thermalTrip => []
  | .thermalClear => []
  | .pageMigrationStart => []
  | .pageMigrated => []
  | .halfSwitch => []
  | .clusterFenced => []
  | .w1Entry => []
  | .w2Entry => []
  | .breakEvenHoldEnd => []
  | .clusterPowerUpDone => []
  | .w3Entry => []
  | .latencyToleranceReport => []
  | .gangFlitReceive => []
  | .ethFrameReceive => []
  | .heartbeatSend => []
  | .linkDown => []
  | .laneFailure => []
  | .fabcfgWrite => []
  | .collectiveItemDone => []
  | .collectiveCommit => []
  | .mergePeriodEnd => []
  | .mergeMessageReceive => []
  | .mrgtagWrite => []
  | .mrgparWrite => []
  | .packageLost => []
  | .qsubWrite => []
  | .slateAccept => []
  | .cmddbWrite => []
  | .create => []
  | .save => []
  | .restore => []
  | .switch => []
  | .destroy => []
  | .teardown => []
  | .drain => []
  | .drainTimeout => []
  | .undrain => []
  | .vfsuspend => []
  | .vfresume => []
  | .assign => []
  | .commandComplete => []
  | .dlsizeWrite => []
  | .ptrootWrite => []
  | .keyLoad => []
  | .keyZero => []
  | .keyZeroDone => []
  | .registerWrite => []
  | .scrubJobStart => []
  | .scrubUnitCommit => []
  | .scrubDone => []
  | .flrVf => []
  | .flrPf => []
  | .hotReset => []
  | .warmReset => []
  | .powerOn => []
  | .priResponse => []
  | .beatArrive => []
  | .btgtArrive => []
  | .controlPeriodEnd => []
  | .allocatorEpoch => []
  | .grantApply => []
  | .coreReleaseTimeout => []
  | .quantumEnd => []
  | .ageTick => []
  | .backfillTimeout => []
  | .crewPlace => []
  | .groupPlace => []
  | .takeSpillDone => []
  | .takeRestore => []
  | .controlThreadRestore => []
  | .engineCommandStart => []
  | .slateRetire => []
  | .deadlineExpiry => []
  | .binIssue => []
  | .divergenceYield => []
  | .passStart => []
  | .blockPass => []
  | .passEnd => []
  | .wakeApply => []
  | .pageWalkDone => []
  | .scratchpadAccessDone => []
  | .rowTransferEnd => []
  | .prechargeEnd => []
  | .rowForcedClose => []
  | .bankRefresh => []
  | .patrolScrub => []
  | .copyItemStart => []
  | .copyItemComplete => []
  | .grammarSlotPerform => []
  | .matrixExecStart => []
  | .matrixExecDone => []
  | .scaleFetchDone => []
  | .nop => []
  | .ret => []
  | .rjoin => []
  | .exit => []
  | .yield => []
  | .tret => []
  | .ifence => []
  | .mfence => []
  | .activateToFirstConsume => []
  | .writeBufferDrain => []
  | .sharedTileWriteDone => []
  | .hostPortAccess => []

/-- A multi-register operand that passes `v127` (R310). -/
def passesEnd (o : BitVec 7 × Nat) : Bool := o.1 != 0 && decide (127 < o.1.toNat + o.2 - 1)

/-- The static half of R328. -/
def Instr.legal (i : Instr) : Bool := i.fieldsLegal && !(i.reads ++ i.writes).any passesEnd

end Sys2Proof
end

