-- ==== Sys2Proof/Machine/Aes.lean ====
section
/-! DEFINITION. AES-256 and its XTS mode as the key slots use them (R70, R79; FIPS 197 and IEEE 1619, which R79 names). A block
is a list of 16 numbers below 256, first byte first. -/

namespace Sys2Proof.Machine

/-- The substitution table: entry x at bits 8x+7..8x. -/
def aesSubst : Nat :=
  0x16bb54b00f2d99416842e6bf0d89a18cdf2855cee9871e9b948ed9691198f8e19e1dc186b95735610ef6034866b53e708a8bbd4b1f74dde8c6b4a61c2e2578ba08ae7a65eaf4566ca94ed58d6d37c8e779e4959162acd3c25c2406490a3a32e0db0b5ede14b8ee4688902a22dc4f816073195d643d7ea7c41744975fec130ccdd2f3ff1021dab6bcf5389d928f40a351a89f3c507f02f94585334d43fbaaefd0cf584c4a39becb6a5bb1fc20ed00d153842fe329b3d63b52a05a6e1b1a2c830975b227ebe28012079a059618c323c7041531d871f1e5a534ccf73f362693fdb7c072a49cafa2d4adf04759fa7dc982ca76abd7fe2b670130c56f6bf27b777c63

/-- The inverse substitution table, likewise. -/
def aesSubstInv : Nat :=
  0x7d0c2155631469e126d677ba7e042b17619953833cbbebc8b0f52aae4d3be0a0ef9cc9939f7ae52d0d4ab519a97f51605fec8027591012b131c7078833a8dd1ff45acd78fec0db9a2079d2c64b3e56fc1bbe18aa0e62b76f89c5291d711af1476edf751ce837f9e28535ade72274ac9673e6b4f0cecff297eadc674f4111913a6b8a130103bdafc1020f3fca8f1e2cd00645b3b80558e4f70ad3bc8c00abd890849d8da75746155edab9edfd5048706c92b6655dcc5ca4d41698688664f6f87225d18b6d49a25b76b224d92866a12e084ec3fa420b954cee3d23c2a632947b54cbe9dec444438e3487ff2f9b8239e37cfbd7f3819ea340bf38a53630d56a0952

def subByte (table x : Nat) : Nat := (table >>> (8 * x)) % 256

/-- Twice a byte in the field of the cipher. -/
def aesTwice (x : Nat) : Nat := if x < 128 then 2 * x else (2 * x - 256) ^^^ 0x1B
/-- The product of a byte and a constant below 16. -/
def aesTimes (c x : Nat) : Nat :=
  let x2 := aesTwice x
  let x4 := aesTwice x2
  let part (i y : Nat) : Nat := if c.testBit i then y else 0
  part 0 x ^^^ part 1 x2 ^^^ (part 2 x4 ^^^ part 3 (aesTwice x4))

def xorBytes (a b : List Nat) : List Nat := List.zipWith (· ^^^ ·) a b

/-! ### The key schedule -/

/-- The next four-byte word of the schedule after `i` words, the last of them first. -/
def nextKeyWord (i rcon : Nat) (ws : List (List Nat)) : List Nat :=
  let last := ws.headD []
  let t :=
    if i % 8 = 0 then xorBytes ((last.drop 1 ++ last.take 1).map (subByte aesSubst)) [rcon, 0, 0, 0]
    else if i % 8 = 4 then last.map (subByte aesSubst)
    else last
  xorBytes t (ws.getD 7 [])

/-- `n` further words, the last word first. -/
def growKey : Nat → Nat → Nat → List (List Nat) → List (List Nat)
  | 0, _, _, ws => ws
  | n + 1, i, rcon, ws => growKey n (i + 1) (if i % 8 = 0 then aesTwice rcon else rcon) (nextKeyWord i rcon ws :: ws)

/-- The bytes of the 15 round keys, one after another. -/
def roundKeys (key : List Nat) : List Nat :=
  let ws := (List.range 8).map fun i => (key.drop (4 * i)).take 4
  (growKey 52 8 1 ws.reverse).reverse.flatten

def roundKey (ks : List Nat) (r : Nat) : List Nat := (ks.drop (16 * r)).take 16

/-! ### Rounds -/

/-- Rows shifted: byte r + 4c comes from column c + r, or in the inverse from column c - r. -/
def shiftRows (back : Bool) (b : List Nat) : List Nat :=
  (List.range 16).map fun i => b.getD (i % 4 + 4 * ((i / 4 + (if back then 4 - i % 4 else i % 4)) % 4)) 0

/-- Columns mixed with the row `m` of the matrix. -/
def mixColumns (m : List Nat) (b : List Nat) : List Nat :=
  (List.range 16).map fun i => (List.range 4).foldl (fun x j =>
    x ^^^ aesTimes (m.getD ((4 + j - i % 4) % 4) 0) (b.getD (i / 4 * 4 + j) 0)) 0

/-- Rounds `r` to 14 of an encryption. -/
def encryptFrom (ks : List Nat) : Nat → Nat → List Nat → List Nat
  | 0, _, b => b
  | n + 1, r, b =>
    let b := shiftRows false (b.map (subByte aesSubst))
    encryptFrom ks n (r + 1) (xorBytes (if n = 0 then b else mixColumns [2, 3, 1, 1] b) (roundKey ks r))

/-- A block encrypted under round keys. -/
def aesEncrypt (ks b : List Nat) : List Nat := encryptFrom ks 14 1 (xorBytes b (roundKey ks 0))

/-- Rounds down from round `n` of a decryption. -/
def decryptFrom (ks : List Nat) : Nat → List Nat → List Nat
  | 0, b => b
  | n + 1, b =>
    let b := xorBytes ((shiftRows true b).map (subByte aesSubstInv)) (roundKey ks n)
    decryptFrom ks n (if n = 0 then b else mixColumns [14, 11, 13, 9] b)

/-- A block decrypted under round keys. -/
def aesDecrypt (ks b : List Nat) : List Nat := decryptFrom ks 14 (xorBytes b (roundKey ks 14))

/-! ### Key slots (R70, R79) -/

/-- Bytes of a number, least significant first. -/
def byteList : Nat → Nat → List Nat
  | 0, _ => []
  | n + 1, x => x % 256 :: byteList n (x / 256)

/-- The data key and the tweak key of a slot's 512 bits. (DESIGN CHOICE, log 8) -/
def dataKey (k : Nat) : List Nat := roundKeys (byteList 32 k)
def tweakKey (k : Nat) : List Nat := roundKeys (byteList 32 (k / 2 ^ 256))

/-- A tweak times alpha. -/
def xtsNext (t : Nat) : Nat := if t < 2 ^ 127 then 2 * t else (2 * t - 2 ^ 128) ^^^ 0x87
def xtsTweak (t : Nat) : Nat → Nat
  | 0 => t
  | n + 1 => xtsTweak (xtsNext t) n

def numOf (b : List Nat) : Nat := b.foldr (fun x a => x + 256 * a) 0

/-- A 16-byte block through the cipher under a slot's key: its data unit is 4 KiB, and the tweak is the address of the unit
divided by 4,096 (R79). -/
def xtsBlock (f : List Nat → List Nat → List Nat) (k pa : Nat) (b : List Nat) : List Nat :=
  let t := byteList 16 (xtsTweak (numOf (aesEncrypt (tweakKey k) (byteList 16 (pa / 4096)))) (pa % 4096 / 16))
  xorBytes (f (dataKey k) (xorBytes b t)) t

/-- A block at an address as memory stores it under a key, and as a reader under a key gets it. Key value 0 is plaintext, and
`k + 1` stands for the key bits `k`. -/
def sealBlock (key pa : Nat) (b : List Nat) : List Nat := if key = 0 then b else xtsBlock aesEncrypt (key - 1) pa b
def openBlock (key pa : Nat) (b : List Nat) : List Nat := if key = 0 then b else xtsBlock aesDecrypt (key - 1) pa b

/-- The key check value of a slot's key (R70): bytes 0-7 of sixteen bytes 4Bh encrypted under the data key. -/
def keyCheck (k : Nat) : BitVec 64 := BitVec.ofNat 64 (numOf ((aesEncrypt (dataKey k) (List.replicate 16 0x4B)).take 8))

end Sys2Proof.Machine
end

