-- ==== Sys2Proof/Config.lean ====
section
/-! DEFINITION. What one part fixes, and the values the manual leaves open. An `opaque` constant has no body: no proof can
see its value, so a statement proved of the model holds whatever the part does there. -/

namespace Sys2Proof.Config

/-- Which special function of R382 is meant by a free result. -/
inductive Special where
  | exp2 | log2 | sin | cos | tanh | erf | sigm
  deriving DecidableEq, Repr

/-- The result bits of a special function at an operand that is no exact point of R382 and R383. R382 bounds the error and
lets parts differ within the bound; the model leaves the value free. `fmt` is the flt code, `x` the magnitude bits. -/
opaque specialResult (f : Special) (fmt : Nat) (x : Nat) : BitVec 32

/-- A byte that the manual leaves open (a sector of a failed item
that may hold old or new bytes, R256): `n` is the counter of the state. -/
opaque freeByte (n : Nat) : BitVec 8

/-- A choice between two outcomes that the manual leaves open. -/
opaque freeBool (n : Nat) : Bool

/-- A number that the manual leaves open within a bound the reader of it applies. -/
opaque freeNat (n : Nat) : Nat

/-- The natural spacing of row activations and of ordinary-path commands of a stack in ps, which the factor of R27 multiplies. -/
opaque activateGap : Nat
opaque commandGap : Nat

end Sys2Proof.Config
end

