-- ==== Sys2Proof/Machine/Num.lean ====
section
/-! DEFINITION. Number formats and exact arithmetic (R259-R286): the values of every format, one rounding of an exact
result into a format, saturation, the flags, and the counter-based generator. A finite value is exact: a sign, a natural
significand and a power of two. -/

namespace Sys2Proof.Machine

/-- Sticky flag bits of `c.FLAGS` (R282). -/
abbrev Flags := BitVec 8
abbrev fIV : Flags := 1#8
abbrev fDZ : Flags := 2#8
abbrev fOF : Flags := 4#8
abbrev fUF : Flags := 8#8
abbrev fNX : Flags := 16#8
abbrev fSAT : Flags := 32#8
abbrev fIDZ : Flags := 64#8
abbrev fIOV : Flags := 128#8

/-- Rounding modes (R275). -/
inductive RMode where
  | rne | rtz | rup | rdn | rna
  deriving DecidableEq, Repr

/-- Saturation modes (R276). -/
inductive SatMode where
  | ieee | sat | satf
  deriving DecidableEq, Repr

/-- What a format does beyond its largest finite value (R261). -/
inductive Specials where
  /-- E all ones holds infinity and NaN. -/
  | infNan
  /-- Only E and F all ones is NaN; no infinity (E4M3). -/
  | nanTop
  /-- Every code is finite (E3M2, E2M3, E2M1). -/
  | finite
  deriving DecidableEq, Repr

/-- A floating format (R261): exponent bits, fraction bits, bias. -/
structure Fmt where
  eb : Nat
  fb : Nat
  bias : Nat
  spec : Specials
  deriving DecidableEq, Repr

def fp32 : Fmt := ⟨8, 23, 127, .infNan⟩
def fp16 : Fmt := ⟨5, 10, 15, .infNan⟩
def bf16 : Fmt := ⟨8, 7, 127, .infNan⟩
def e5m2 : Fmt := ⟨5, 2, 15, .infNan⟩
def e4m3 : Fmt := ⟨4, 3, 7, .nanTop⟩
def e3m2 : Fmt := ⟨3, 2, 3, .finite⟩
def e2m3 : Fmt := ⟨2, 3, 1, .finite⟩
def e2m1 : Fmt := ⟨2, 1, 1, .finite⟩
def acc56 : Fmt := ⟨10, 45, 511, .infNan⟩

/-- Bits of a code of the format. -/
abbrev Fmt.width (f : Fmt) : Nat := 1 + f.eb + f.fb
/-- The canonical NaN (R264); 0 for a format without NaN. -/
def Fmt.nan (f : Fmt) : Nat :=
  match f.spec with
  | .infNan => (2 ^ f.eb - 1) * 2 ^ f.fb + 2 ^ (f.fb - 1)
  | .nanTop => 2 ^ (f.eb + f.fb) - 1
  | .finite => 0
/-- The code of the largest finite magnitude L (R261). -/
def Fmt.maxCode (f : Fmt) : Nat :=
  match f.spec with
  | .infNan => (2 ^ f.eb - 1) * 2 ^ f.fb - 1
  | .nanTop => 2 ^ (f.eb + f.fb) - 2
  | .finite => 2 ^ (f.eb + f.fb) - 1
/-- The code of +infinity of a format that has one. -/
def Fmt.infCode (f : Fmt) : Nat := (2 ^ f.eb - 1) * 2 ^ f.fb

/-- A value: NaN (signalling or quiet), infinity, or the exact number (-1)^neg * m * 2^e. -/
inductive FVal where
  | nan (sig : Bool)
  | inf (neg : Bool)
  | fin (neg : Bool) (m : Nat) (e : Int)
  deriving DecidableEq, Repr

/-- The value of a code (R262, R264). -/
def Fmt.value (f : Fmt) (x : Nat) : FVal :=
  let s := bits x (f.eb + f.fb) 1 == 1
  let ex := bits x f.fb f.eb
  let fr := bits x 0 f.fb
  let fin : FVal := if ex = 0 then .fin s fr (1 - (f.bias : Int) - f.fb)
    else .fin s (fr + 2 ^ f.fb) ((ex : Int) - f.bias - f.fb)
  match f.spec with
  | .infNan =>
    if ex = 2 ^ f.eb - 1 then
      (if fr = 0 then .inf s
       else .nan (fr < 2 ^ (f.fb - 1) && (f.fb == 23 || f.fb == 10 || f.fb == 7)))
    else fin
  | .nanTop => if ex = 2 ^ f.eb - 1 ∧ fr = 2 ^ f.fb - 1 then .nan false else fin
  | .finite => fin

/-- The code with a sign bit. -/
def Fmt.signed (f : Fmt) (neg : Bool) (mag : Nat) : Nat := (if neg then 2 ^ (f.eb + f.fb) else 0) + mag

/-- Whether a truncated significand with remainder `r` of `2^s` goes up by one (R275). -/
def roundsUp (rm : RMode) (neg : Bool) (q r s : Nat) : Bool :=
  if r = 0 then false else
  match rm with
  | .rne => 2 * r > 2 ^ s || (2 * r == 2 ^ s && q % 2 == 1)
  | .rna => 2 * r ≥ 2 ^ s
  | .rtz => false
  | .rup => !neg
  | .rdn => neg

/-- `m * 2^e` as a multiple of `2^q`: the rounded significand and whether it is inexact. -/
def quantize (rm : RMode) (neg : Bool) (m : Nat) (e q : Int) : Nat × Bool :=
  if q ≤ e then (m <<< (e - q).toNat, false)
  else
    let s := (q - e).toNat
    let t := m >>> s
    let r := m % 2 ^ s
    (if roundsUp rm neg t r s then t + 1 else t, r != 0)

/-- Whether m1 * 2^e1 < m2 * 2^e2. -/
def magLt (m1 : Nat) (e1 : Int) (m2 : Nat) (e2 : Int) : Bool :=
  if e1 ≤ e2 then m1 < m2 <<< (e2 - e1).toNat else m1 <<< (e1 - e2).toNat < m2

/-- The code and flags of an out-of-range finite result (R276). -/
def Fmt.overflow (f : Fmt) (rm : RMode) (sm : SatMode) (neg : Bool) : Nat × Flags :=
  match sm with
  | .sat => (f.signed neg f.maxCode, fNX)
  | .satf => (f.signed neg f.maxCode, fSAT ||| fNX)
  | .ieee =>
    let toInf : Bool := match rm with
      | .rne => true | .rna => true | .rtz => false | .rup => !neg | .rdn => neg
    match f.spec with
    | .infNan => (f.signed neg (if toInf then f.infCode else f.maxCode), fOF ||| fNX)
    | .nanTop => (if toInf then f.nan else f.signed neg f.maxCode, fOF ||| fNX)
    | .finite => (f.signed neg f.maxCode, fOF ||| fNX)

/-- One rounding of an exact non-zero magnitude `m * 2^e` into the format, with the flags OF, UF, NX, SAT (R275, R276).
Tininess is detected after rounding to the format's precision with an unbounded exponent. -/
def Fmt.round (f : Fmt) (rm : RMode) (sm : SatMode) (neg : Bool) (m : Nat) (e : Int) : Nat × Flags :=
  if m = 0 then (f.signed neg 0, 0) else
  let emin : Int := 1 - (f.bias : Int)
  let top : Int := e + (Nat.log2 m : Int)
  let q : Int := (if top < emin then emin else top) - f.fb
  let (mr, inexact) := quantize rm neg m e q
  let (lm, le) := match f.value f.maxCode with
    | .fin _ a b => (a, b)
    | _ => (0, 0)
  if magLt lm le mr q then f.overflow rm sm neg
  else
    let tiny := top < emin &&
      (let (mu, _) := quantize rm neg m e (top - f.fb)
       magLt mu (top - f.fb) 1 emin)
    let code := if mr < 2 ^ f.fb then mr
      else if mr = 2 ^ (f.fb + 1) then ((q + f.fb + 1 + f.bias).toNat) * 2 ^ f.fb
      else ((q + f.fb + f.bias).toNat) * 2 ^ f.fb + (mr - 2 ^ f.fb)
    (f.signed neg code, (if inexact then fNX else 0) ||| (if tiny && inexact then fUF else 0))

/-- The NaN result of a format: canonical, or +0 with IV where there is none (R264). -/
def Fmt.nanResult (f : Fmt) : Nat × Flags :=
  match f.spec with
  | .finite => (0, fIV)
  | _ => (f.nan, 0)

/-- An infinite input converted to the format (R276). -/
def Fmt.infConvert (f : Fmt) (sm : SatMode) (neg : Bool) : Nat × Flags :=
  match sm, f.spec with
  | .ieee, .infNan => (f.signed neg f.infCode, 0)
  | .ieee, .nanTop => (f.nan, 0)
  | _, _ => (f.signed neg f.maxCode, 0)

/-- A value narrowed or converted to the format (R275, R276): a signalling NaN sets IV. -/
def Fmt.convert (f : Fmt) (rm : RMode) (sm : SatMode) (v : FVal) : Nat × Flags :=
  match v with
  | .nan sig => let (c, fl) := f.nanResult; (c, fl ||| (if sig then fIV else 0))
  | .inf n => f.infConvert sm n
  | .fin n m e => f.round rm sm n m e

/-- An arithmetic result: an exactly infinite result stays infinite in every saturation mode (R370). -/
def Fmt.result (f : Fmt) (rm : RMode) (sm : SatMode) (v : FVal) : Nat × Flags :=
  match v with
  | .nan _ => f.nanResult
  | .inf n => (f.signed n f.infCode, 0)
  | .fin n m e => f.round rm sm n m e

/-- A signed exact significand. -/
def smag (neg : Bool) (m : Nat) : Int := if neg then -(m : Int) else m

/-- The exact sum of two dyadic numbers as a sign, a magnitude and an exponent (sign false at zero). -/
def addExact (n1 : Bool) (m1 : Nat) (e1 : Int) (n2 : Bool) (m2 : Nat) (e2 : Int) : Bool × Nat × Int :=
  let e := if e1 ≤ e2 then e1 else e2
  let s := smag n1 (m1 <<< (e1 - e).toNat) + smag n2 (m2 <<< (e2 - e).toNat)
  (decide (s < 0), s.natAbs, e)

/-- The sign of an exact zero sum (R375): -0 when every term is -0 or under RDN. -/
def zeroSign (rm : RMode) (allNeg : Bool) : Bool := allNeg || rm == .rdn

/-- IV of a signalling NaN operand (R371). -/
def sigIV : FVal → Flags
  | .nan true => fIV
  | _ => 0

/-- Whether a value is a NaN. -/
def FVal.isNan : FVal → Bool
  | .nan _ => true
  | _ => false

/-- The negated value. -/
def FVal.neg : FVal → FVal
  | .nan s => .nan s
  | .inf n => .inf (!n)
  | .fin n m e => .fin (!n) m e

/-- a + b (R374, R375) before the one rounding, and the IV it raises (R371). -/
def addV (rm : RMode) (a b : FVal) : FVal × Flags :=
  match a, b with
  | .nan s, .nan t => (.nan false, if s || t then fIV else 0)
  | .nan s, _ => (.nan false, if s then fIV else 0)
  | _, .nan t => (.nan false, if t then fIV else 0)
  | .inf n, .inf k => if n == k then (.inf n, 0) else (.nan false, fIV)
  | .inf n, .fin .. => (.inf n, 0)
  | .fin .., .inf n => (.inf n, 0)
  | .fin n1 m1 e1, .fin n2 m2 e2 =>
    let (n, m, e) := addExact n1 m1 e1 n2 m2 e2
    if m = 0 then (.fin (zeroSign rm (m1 = 0 && m2 = 0 && n1 && n2)) 0 0, 0) else (.fin n m e, 0)

/-- a * b exactly, and the IV it raises (R371). -/
def mulV (a b : FVal) : FVal × Flags :=
  match a, b with
  | .nan s, .nan t => (.nan false, if s || t then fIV else 0)
  | .nan s, _ => (.nan false, if s then fIV else 0)
  | _, .nan t => (.nan false, if t then fIV else 0)
  | .inf n, .inf k => (.inf (n != k), 0)
  | .inf n, .fin k m _ => if m = 0 then (.nan false, fIV) else (.inf (n != k), 0)
  | .fin n m _, .inf k => if m = 0 then (.nan false, fIV) else (.inf (n != k), 0)
  | .fin n m1 e1, .fin k m2 e2 => (.fin (n != k) (m1 * m2) (e1 + e2), 0)

/-- a * b + c with no rounding between (R374): 0 * inf sets IV even when c is a quiet NaN. -/
def fmaV (rm : RMode) (a b c : FVal) : FVal × Flags :=
  let (p, f1) := mulV a b
  let (r, f2) := addV rm p c
  (r, f1 ||| f2)

/-- FADD, FSUB, FMUL, FFMA of codes of a format: the code and the flags (R374). -/
def faddC (f : Fmt) (rm : RMode) (sm : SatMode) (x y : Nat) : Nat × Flags :=
  let (v, g) := addV rm (f.value x) (f.value y)
  let (c, h) := f.result rm sm v
  (c, g ||| h)
def fsubC (f : Fmt) (rm : RMode) (sm : SatMode) (x y : Nat) : Nat × Flags :=
  let (v, g) := addV rm (f.value x) (f.value y).neg
  let (c, h) := f.result rm sm v
  (c, g ||| h)
def fmulC (f : Fmt) (rm : RMode) (sm : SatMode) (x y : Nat) : Nat × Flags :=
  let (v, g) := mulV (f.value x) (f.value y)
  let (c, h) := f.result rm sm v
  (c, g ||| h)
def ffmaC (f : Fmt) (rm : RMode) (sm : SatMode) (x y z : Nat) : Nat × Flags :=
  let (v, g) := fmaV rm (f.value x) (f.value y) (f.value z)
  let (c, h) := f.result rm sm v
  (c, g ||| h)

/-- A quotient of naturals with at least `p` significant bits and a sticky bit below them: the value is at least as fine as
any rounding to `p - 2` bits needs. -/
def quotSticky (p a b : Nat) : Nat × Int :=
  let sh := p + Nat.log2 b + 1
  let q := (a <<< sh) / b
  (2 * q + (if (a <<< sh) % b = 0 then 0 else 1), -(sh : Int) - 1)

/-- FDIV (R374, R381). -/
def fdivC (f : Fmt) (rm : RMode) (sm : SatMode) (x y : Nat) : Nat × Flags :=
  match f.value x, f.value y with
  | .nan s, .nan t => (f.nan, if s || t then fIV else 0)
  | .nan s, _ => (f.nan, if s then fIV else 0)
  | _, .nan t => (f.nan, if t then fIV else 0)
  | .inf _, .inf _ => (f.nan, fIV)
  | .inf n, .fin k _ _ => (f.signed (n != k) f.infCode, 0)
  | .fin n _ _, .inf k => (f.signed (n != k) 0, 0)
  | .fin n m1 e1, .fin k m2 e2 =>
    if m2 = 0 then (if m1 = 0 then (f.nan, fIV) else (f.signed (n != k) f.infCode, fDZ))
    else if m1 = 0 then (f.signed (n != k) 0, 0)
    else
      let (q, e) := quotSticky (f.fb + 4) m1 m2
      f.round rm sm (n != k) q (e + e1 - e2)

/-- Integer square root by one binary digit at a time: `k` digits below the trial bit. -/
def isqrtAux : Nat → Nat → Nat → Nat
  | 0, _, r => r
  | k + 1, x, r =>
    let t := r + 2 ^ k
    isqrtAux k x (if t * t ≤ x then t else r)

/-- The integer square root. -/
def isqrt (x : Nat) : Nat := isqrtAux (Nat.log2 x / 2 + 1) x 0

/-- A square root of `m * 2^e` with a sticky bit. -/
def sqrtSticky (p m : Nat) (e : Int) : Nat × Int :=
  -- scale by an even power so that the root has more than p bits
  let sh0 := 2 * (p + 1)
  let odd := (e - sh0) % 2 ≠ 0
  let sh := if odd then sh0 + 1 else sh0
  let x := m <<< sh
  let r := isqrt x
  (2 * r + (if r * r = x then 0 else 1), (e - sh) / 2 - 1)

/-- FSQRT (R381). -/
def fsqrtC (f : Fmt) (rm : RMode) (sm : SatMode) (x : Nat) : Nat × Flags :=
  match f.value x with
  | .nan s => (f.nan, if s then fIV else 0)
  | .inf n => if n then (f.nan, fIV) else (f.infCode, 0)
  | .fin n m e =>
    if m = 0 then (f.signed n 0, 0)
    else if n then (f.nan, fIV)
    else let (r, e') := sqrtSticky (f.fb + 4) m e; f.round rm sm false r e'

/-- FRCP (R381). -/
def frcpC (f : Fmt) (rm : RMode) (sm : SatMode) (x : Nat) : Nat × Flags :=
  match f.value x with
  | .nan s => (f.nan, if s then fIV else 0)
  | .inf n => (f.signed n 0, 0)
  | .fin n m e =>
    if m = 0 then (f.signed n f.infCode, fDZ)
    else let (q, e') := quotSticky (f.fb + 4) 1 m; f.round rm sm n q (e' - e)

/-- FRSQ (R381): 1 / sqrt(a), rounded once. The root of the exact reciprocal is taken with a sticky bit. -/
def frsqC (f : Fmt) (rm : RMode) (sm : SatMode) (x : Nat) : Nat × Flags :=
  match f.value x with
  | .nan s => (f.nan, if s then fIV else 0)
  | .inf n => if n then (f.nan, fIV) else (0, 0)
  | .fin n m e =>
    if m = 0 then (f.signed n f.infCode, fDZ)
    else if n then (f.nan, fIV)
    else
      -- 1/sqrt(m*2^e) = sqrt(2^(2k) / m) * 2^(-k - e/2); choose the power so that the root has enough bits
      let odd := e % 2 ≠ 0
      let m' := if odd then 2 * m else m
      let e' := if odd then e - 1 else e
      let k := f.fb + 6 + Nat.log2 m'
      let y := 2 ^ (2 * k)
      let r := isqrt (y / m')
      f.round rm sm false (2 * r + (if r * r * m' = y then 0 else 1)) (-(k : Int) - e' / 2 - 1)

/-- a < b on finite or infinite values, -0 equal to +0 (R379). -/
def ltV (a b : FVal) : Bool :=
  match a, b with
  | .nan _, _ => false
  | _, .nan _ => false
  | .inf n, .inf k => n && !k
  | .inf n, .fin .. => n
  | .fin .., .inf k => !k
  | .fin n1 m1 e1, .fin n2 m2 e2 => (addExact n1 m1 e1 (!n2) m2 e2).1

/-- a = b on finite or infinite values, -0 equal to +0 (R379). -/
def eqV (a b : FVal) : Bool :=
  match a, b with
  | .nan _, _ => false
  | _, .nan _ => false
  | .inf n, .inf k => n == k
  | .inf _, .fin .. => false
  | .fin .., .inf _ => false
  | .fin n1 m1 e1, .fin n2 m2 e2 => (addExact n1 m1 e1 (!n2) m2 e2).2.1 == 0

/-- The sign bit of a code. -/
def Fmt.sign (f : Fmt) (x : Nat) : Bool := bits x (f.eb + f.fb) 1 == 1

/-- FMIN (`mx` false) and FMAX (`mx` true): one operand's bits, -0 below +0 (R376). -/
def fminmaxC (f : Fmt) (mx : Bool) (x y : Nat) : Nat × Flags :=
  let a := f.value x
  let b := f.value y
  let g := sigIV a ||| sigIV b
  if a.isNan && b.isNan then (f.nan, g)
  else if a.isNan then (y, g)
  else if b.isNan then (x, g)
  else
    let less := ltV a b || (eqV a b && f.sign x && !f.sign y)
    (if mx then (if less then y else x)
     else (if less then x else if ltV b a || (f.sign y && !f.sign x) then y else x), g)

/-- FCMP (R379): the bit and the flags; `cc` is 0 EQ, 1 NE, 2 LT, 3 LE. -/
def fcmpC (f : Fmt) (cc : Nat) (x y : Nat) : Bool × Flags :=
  let a := f.value x
  let b := f.value y
  if a.isNan || b.isNan then
    (cc == 1, if cc ≥ 2 then fIV else sigIV a ||| sigIV b)
  else
    (match cc with
      | 0 => eqV a b
      | 1 => !eqV a b
      | 2 => ltV a b
      | _ => ltV a b || eqV a b, 0)

/-- FCLASS (R380). -/
def fclassC (f : Fmt) (x : Nat) : Nat :=
  match f.value x with
  | .nan s => if s then 256 else 512
  | .inf n => if n then 1 else 128
  | .fin n m _ =>
    if m = 0 then (if n then 8 else 16)
    else if m < 2 ^ f.fb then (if n then 4 else 32)
    else (if n then 2 else 64)

/-- FRND (R378): an integral value in the format, keeping the sign, without NX. -/
def frndC (f : Fmt) (rm : RMode) (x : Nat) : Nat × Flags :=
  match f.value x with
  | .nan s => (f.nan, if s then fIV else 0)
  | .inf n => (f.signed n f.infCode, 0)
  | .fin n m e =>
    let (q, _) := quantize rm n m e (if e < 0 then 0 else e)
    ((f.round .rne .ieee n q (if e < 0 then 0 else e)).1, 0)

/-- FFRAC (R378): a - trunc(a), of a's sign. -/
def ffracC (f : Fmt) (x : Nat) : Nat × Flags :=
  match f.value x with
  | .nan s => (f.nan, if s then fIV else 0)
  | .inf n => (f.signed n 0, 0)
  | .fin n m e =>
    if 0 ≤ e then (f.signed n 0, 0)
    else (((f.round .rne .ieee n (m % 2 ^ (-e).toNat) e)).1, 0)

/-- A value converted to an integer type of `w` bits (R277): the code modulo 2^w and the flags. `im` is the flag mode of the
integer class. -/
def toIntC (signed : Bool) (w : Nat) (rm : RMode) (im : Nat) (v : FVal) : Nat × Flags :=
  let lo : Int := if signed then -(2 ^ (w - 1) : Nat) else 0
  let hi : Int := if signed then (2 ^ (w - 1) : Nat) - 1 else (2 ^ w : Nat) - 1
  let oor : Flags := match im with
    | 1 => 0
    | 2 => fSAT
    | _ => fIV
  let code (z : Int) : Nat := (z % (2 ^ w : Nat)).toNat
  match v with
  | .nan s => (0, oor ||| (if s then fIV else 0))
  | .inf n => (code (if n then lo else hi), oor)
  | .fin n m e =>
    let (q, inexact) := quantize rm n m e (if e < 0 then 0 else e)
    let z : Int := smag n (if e < 0 then q else q <<< e.toNat)
    if z < lo then (code lo, oor)
    else if hi < z then (code hi, oor)
    else (code z, if inexact then fNX else 0)

/-- An integer as a value. -/
def intV (z : Int) : FVal := .fin (decide (z < 0)) z.natAbs 0

/-- An element of `w` bits read as signed or natural (R259). -/
def intOf (signed : Bool) (w x : Nat) : Int :=
  if signed && decide (2 ^ (w - 1) ≤ x % 2 ^ w) then (x % 2 ^ w : Nat) - (2 ^ w : Nat) else ((x % 2 ^ w : Nat) : Int)

/-- An integer reduced modulo 2^w. -/
def wrapI (w : Nat) (z : Int) : Nat := (z % ((2 ^ w : Nat) : Int)).toNat

/-- The residual of error-feedback narrowing (R281): `v` the exact input, `q` the narrowed value, in FP32 by RNE. -/
def residualC (v q : FVal) : Nat :=
  match v, q with
  | .nan _, _ => fp32.nan
  | .inf _, _ => 0
  | .fin n m e, .fin k m2 e2 =>
    let (s, d, e3) := addExact n m e (!k) m2 e2
    if d = 0 then 0 else (fp32.round .rne .ieee s d e3).1
  | .fin n m e, _ => (fp32.round .rne .ieee n m e).1

/-- The rounding mode of a 3-bit field of `c.NMODE` (R278). -/
def rmOfMode (x : Nat) : RMode :=
  match x with
  | 1 => .rtz | 2 => .rup | 3 => .rdn | 4 => .rna | _ => .rne
/-- The saturation mode of a 2-bit field of `c.NMODE` (R278). -/
def smOfMode (x : Nat) : SatMode :=
  match x with
  | 1 => .sat | 2 => .satf | _ => .ieee

/-- The conversion formats of R313 (cvf codes). -/
def cvf (c : Nat) : Fmt :=
  match c with
  | 0 => fp32 | 1 => fp16 | 2 => bf16 | 3 => e4m3 | 4 => e5m2 | 5 => e3m2 | 6 => e2m3 | _ => e2m1
/-- Bits that one element takes in a lane word (R265, R321): 6 for the 6-bit formats. -/
def cvfBits (c : Nat) : Nat := (cvf c).width
/-- Elements of the format in a lane word (R321). -/
def cvfElems (c : Nat) : Nat :=
  match c with
  | 0 => 1 | 1 => 2 | 2 => 2 | 7 => 8 | _ => 4
/-- The flt formats of R313. -/
def fltFmt (c : Nat) : Fmt := match c with | 0 => fp32 | 1 => fp16 | _ => bf16

/-- The place of a destination class in `c.NMODE` (R278), by cvf code. -/
def modeShift (c : Nat) : Nat :=
  match c with
  | 0 => 0 | 1 => 5 | 2 => 10 | 3 => 15 | 4 => 20 | _ => 25

/-- One round of the counter-based generator (R285). -/
def cbgRound (k0 k1 : BitVec 32) (i rot : Nat) (ab : BitVec 32 × BitVec 32) : BitVec 32 × BitVec 32 :=
  let k := (if i % 2 = 0 then k0 else k1) + BitVec.ofNat 32 (i * 0x9E3779B9)
  let a := ab.1 + ab.2 + k
  (a, ab.2.rotateLeft rot ^^^ a)

/-- The counter-based generator CBG (R285). -/
def cbg (k0 k1 a b : BitVec 32) : BitVec 32 :=
  let r := cbgRound k0 k1 7 24 <| cbgRound k0 k1 6 16 <| cbgRound k0 k1 5 29 <| cbgRound k0 k1 4 17 <|
    cbgRound k0 k1 3 6 <| cbgRound k0 k1 2 26 <| cbgRound k0 k1 1 15 <| cbgRound k0 k1 0 13 (a, b)
  r.1 ^^^ r.2

/-- The uniform variate of a generator value: (y >> 8) * 2^-24 as FP32, exact (R286). -/
def cbgUniform (y : BitVec 32) : Nat := (fp32.round .rne .ieee false (y.toNat / 256) (-24)).1

end Sys2Proof.Machine
end

