-- ==== Sys2Proof/Machine/State.lean ====
section
/-! DEFINITION. The state of the machine as plain data: everything the manual gives the package, and the fields of the
model's own that it names (the agenda of inputs, the counter of free values, the focus). A table holds only the entries
that differ from their reset value; the accessors of Machine/Ops.lean name what an absent entry reads as. -/

namespace Sys2Proof.Machine

/-- A table with natural keys: absent keys read as a default that the reader names. Keys rise strictly. -/
abbrev Tbl (α : Type) := List (Nat × α)

/-- A memory: address and byte pairs, addresses strictly rising and no byte zero; an unlisted address reads as zero. -/
abbrev Cells := List Host.Cell

/-! ### Warps and crews (R3, R147-R191) -/

/-- A vector register of a warp with its shape tag (R5, R312): uniform, affine in the crew index (R167), or one word for
each of the 32 lane positions. -/
inductive VReg where
  | uniform (v : Word)
  | affine (base stride : Word)
  | general (vals : List Word)
  deriving DecidableEq, Repr

/-- What a side of a warp waits on. An instruction that cannot issue yet is issued again when the wait ends. (DEDUCED, log 12) -/
inductive Wait where
  | none
  /-- Its threads stand in the arrival set of crew barrier `n` (R415). -/
  | bar (n : Nat)
  /-- `ARRW` on counter `n` of its cluster, with its target and its destination register (R360). -/
  | arrw (n : Nat) (tgt : Word) (d : BitVec 7)
  /-- `BCW` on the byte-count word at a scratchpad offset (R418). -/
  | bytes (off : Nat)
  /-- Parked on an absent scratchpad line (R226). -/
  | line (j : Nat)
  /-- A page walk is in flight for its access (R214). -/
  | walk (page : Nat)
  /-- A page request has been sent (R62). -/
  | pri (page : Nat)
  /-- Held at the home slice of a line, of host memory or of the device, by the engine items that owned it at its arrival (R223). -/
  | owned (host : Bool) (line : Nat) (items : List Nat)
  /-- A write to a page that is migrating is stalled (R33). -/
  | migrating (page : Nat)
  /-- A scratchpad bank queue is full (R225). -/
  | bank (b : Nat)
  /-- A row instruction stalls on the bus (R235). -/
  | row
  /-- The control thread waits on matrix work, a queue entry, a scale fetch or a scoreboarded tile (R433, R434, R455). -/
  | matrix
  /-- `MWAIT` of a class, or `MFENCE` (class 4), past its issue (R455, R456). -/
  | mwait (cls : Nat)
  /-- The control thread waits on the other members of a cooperation group (R458). -/
  | coop
  /-- An engine queue has no room (R462). -/
  | engine
  /-- A merge-table, key or command interlock of an engine command. -/
  | submit
  deriving DecidableEq, Repr

/-- A side of a warp: lanes that run together (R160). The running side of a warp and each entry of its divergence list. -/
structure Side where
  pc : VAddr
  lanes : BitVec 32
  wbase : BitVec 5
  wait : Wait
  deriving DecidableEq, Repr

/-- A cause code and what the trap reports with it (R176, R177). -/
structure TrapInfo where
  cause : Nat
  detail : Nat := 0
  taddr : Nat := 0
  lanes : BitVec 32 := 0
  pidx : Nat := 0
  /-- EPC when it is not the address of the faulting word. -/
  epc : Option VAddr := none
  deriving DecidableEq, Repr

/-- What an earlier try of the access now re-issued has found (R214, R62, R223): a page whose translation failed, with the cause to
report, or a line whose owners at its arrival are done. (DEDUCED, log 31) -/
structure BadPage where
  page : Nat
  cause : Nat
  line : Option (Bool × Nat) := none
  deriving DecidableEq, Repr

/-- A warp (R157-R162). -/
structure Warp where
  /-- The running side: its lanes are `m0`. -/
  run : Side
  /-- The divergence list, front first (R160). -/
  div : List Side := []
  /-- The crew index of the thread at each of 32 positions 4s + l; none for a tail lane or a position not held (R159). -/
  lanes : List (Option Nat)
  /-- Mask registers `m1`-`m15` (R5). -/
  masks : Tbl (BitVec 32) := []
  /-- Physical registers that are not uniform zero (R310, R342). -/
  regs : Tbl VReg := []
  /-- Poisoned lanes of physical registers (R239). -/
  poison : Tbl (BitVec 32) := []
  quad : Nat := 0
  /-- Instructions issued since the running side last became running (R161). -/
  issued : Nat := 0
  /-- `YIELD` gave up the warp's next turn (R346). -/
  skipTurn : Bool := false
  /-- The pending progress index and the PC it belongs to (R189). -/
  pending : Option (VAddr × Nat) := none
  /-- What earlier tries of the access that re-issues have found. -/
  badPages : List BadPage := []
  /-- Outstanding scratchpad lane requests, and whether one of them returns a value: its destination is busy until all have
  completed (R225). -/
  spadOut : Nat := 0
  spadBusy : Bool := false
  /-- The warp its threads came from at a reform, for tags (R167). -/
  src : Nat := 0
  /-- The slice positions that it holds since it was made, with or without live threads (R180). -/
  held : Nat := 0
  /-- The quadrant cycle from which on it is in the issue rotation (R165). -/
  since : Nat := 0
  /-- While its crew is stopped: its instructions that retired after the trap was raised, and the cause of a trap of its own (R178, R179). -/
  skid : Nat := 0
  ownTrap : Option Nat := none
  /-- Of a cue warp: the mode register of the warp (R278) and what its threads run for (R199). -/
  nmode : Word := 0
  deriving DecidableEq, Repr

/-- A trap frame (R182). -/
structure Frame where
  epc : VAddr
  cause : Nat
  detail : Nat
  taddr : Nat
  lanes : BitVec 32
  mask : BitVec 32
  pidx : Word
  wbase : BitVec 5
  div : List Side
  wid : Nat
  deriving DecidableEq, Repr

/-- A trap that was raised and is not taken yet (R178, R179, R182): the faulting warp, the time at which it was raised, what it reports,
and for each sibling that goes on how many instructions it may still issue. -/
structure Stopping where
  wid : Nat
  at' : Nat
  trap : TrapInfo
  left : Tbl Nat
  deriving DecidableEq, Repr

/-- A crew barrier with at least one arrival (R414). (DEDUCED, log 37) -/
structure Barrier where
  arrived : List Nat
  exp : Nat
  take : Bool
  carry : Nat
  deriving DecidableEq, Repr

/-- A thread filed at a `REFORM` (R163): its carry values with the tags of its source warp, its mask bits. -/
structure Filed where
  thread : Nat
  src : Nat
  masks : Tbl Bool
  regs : Tbl VReg
  value : Tbl Word
  deriving DecidableEq, Repr

/-- The key of a bin (R164). -/
structure BinKey where
  rpc : VAddr
  carry : Nat
  wbase : BitVec 5
  deriving DecidableEq, Repr

/-- A bin of a quadrant (R164), filed at quadrant cycle `born`; one that has issued is not free before the next cycle (R165). -/
structure Bin where
  key : BinKey
  threads : List Filed
  born : Nat
  spent : Bool := false
  deriving DecidableEq, Repr

/-- What a crew record stands for. -/
inductive CrewKind where
  /-- A crew of a slate on a vector core. -/
  | vector
  /-- The control thread of a cluster (R169). -/
  | control
  /-- Cue runs of a binding on a vector core (R199). -/
  | cue
  deriving DecidableEq, Repr

/-- The marks that a thread's `FENCE.REL` gives its later stores (R250). -/
structure RelFence where
  scope : Nat
  mark : Nat
  deriving DecidableEq, Repr

/-- A crew on a core, a control thread, or the cue runs of a binding on a core (R3, R171, R199). -/
structure Crew where
  kind : CrewKind
  /-- The device context. -/
  ctx : Nat
  /-- The slate instance it belongs to. -/
  slate : Nat := 0
  /-- `c.CRIX` (R152). -/
  crix : Nat := 0
  /-- The member of the lowest cluster-bound level it belongs to (R149, R171). -/
  member : Nat := 0
  /-- Package core number: 10 x cluster + core, or 320 + cluster for a control core. -/
  core : Nat
  /-- Threads at placement. -/
  n : Nat
  q0 : Nat := 0
  warps : Tbl Warp := []
  nextWid : Nat := 0
  bars : Tbl Barrier := []
  /-- Bins by quadrant and number, 16 x quadrant + bin (R164). -/
  bins : Tbl Bin := []
  /-- Hold lists by quadrant (R164). -/
  hold : Tbl (List (BinKey × Filed)) := []
  /-- `c.NMODE`, `c.FLAGS`, `c.QSEL` (R278, R282, R135). -/
  nmode : Word := 0
  flags : Flags := 0
  qsel : Word := 0
  /-- Trap registers (R181). -/
  tvec : Word := 0
  tcfg : Word := 0
  ten : Word := 0
  tska : Word := 0
  /-- The trap stack, top first (R182), and a trap whose siblings still issue. -/
  frames : List Frame := []
  stop : Option Stopping := none
  /-- From the kernel header and the slate (R331, R124). -/
  header : VAddr := 0
  nregs : Nat := 128
  spadBase : Nat := 0
  spadSize : Nat := 0
  carry : List (List Nat) := []
  /-- Marks of `FENCE.REL` by crew index (R250). -/
  relFence : Tbl RelFence := []
  /-- Coordinates of levels at which the crew stands (R151). -/
  parked : Bool := false
  /-- The crew completed a take barrier and its record is being written (R137): the carry set. -/
  takeCarry : Option Nat := none
  /-- It was pre-empted and its KIND 2 record is being written (R137, R143). -/
  spill2 : Bool := false
  /-- It ends as cancelled at its next barrier (R142, R156). -/
  cancelled : Bool := false
  /-- The binding of cue runs (R199). -/
  binding : Nat := 0
  /-- Its threads have ended, with this cause; it leaves its core once the copy items that use its window are done (R224). -/
  ending : Option Nat := none
  deriving DecidableEq, Repr

/-! ### Memories (R212-R258) -/

/-- A translation that a TLB holds (R215, R217). -/
structure TlbEnt where
  ctx : Nat
  /-- First address of the page and its size in address bits. -/
  base : Nat
  lg : Nat
  pa : Nat
  r : Bool
  w : Bool
  x : Bool
  ord : Nat
  host : Bool
  aff : Nat
  slot : Nat
  deriving DecidableEq, Repr

/-- A non-leaf entry that a die's walkers hold (R217): the table of `level` for the address bits above it. -/
structure WalkEnt where
  ctx : Nat
  level : Nat
  tag : Nat
  table : Nat
  deriving DecidableEq, Repr

/-- A page walk in flight (R214, R217). -/
structure Walk where
  ctx : Nat
  page : Nat
  core : Nat
  deriving DecidableEq, Repr

/-- A 128-byte line of an L1 data cache (R219): line number in the physical or host space, data, one dirty bit a byte,
ordering kind and key slot of its page, and the sectors that one store wrote whole since it was filled (R239). The list of a core holds the most recently used line first. -/
structure L1Line where
  line : Nat
  host : Bool
  data : BitVec 1024
  dirty : BitVec 128
  ord : Nat
  slot : Nat
  whole : BitVec 4 := 0
  deriving DecidableEq, Repr

/-- A line of an instruction cache (R220), as its page's key slot gives it. The list of a core holds the most recently used
line first. (DEDUCED, log 25) -/
structure ILine where
  line : Nat
  host : Bool
  slot : Nat
  data : BitVec 1024
  deriving DecidableEq, Repr

/-- A store that waits in a banked write buffer (R248). -/
structure WBuf where
  crew : Nat
  thread : Nat
  pa : Nat
  bytes : List Byte
  bankGroup : Nat
  /-- The translation that it used (R422). -/
  ent : TlbEnt
  deriving DecidableEq, Repr

/-- A side of a warp that parked on an absent scratchpad line (R226). -/
structure ParkedOn where
  crew : Nat
  warp : Nat
  lanes : BitVec 32
  line : Nat
  deriving DecidableEq, Repr

/-- A core or a control core (R157, R217-R226, R251). (DESIGN CHOICE, log 10) -/
structure CoreSt where
  tlb : List TlbEnt := []
  l1 : List L1Line := []
  icache : List ILine := []
  /-- The write accumulator (R251). -/
  accum : BitVec 1024 := 0
  /-- ACQMARK (R253). -/
  acqMark : Nat := 0
  /-- Scratchpad bytes that are not zero (R224). -/
  spad : Cells := []
  /-- Absent scratchpad lines (R226). -/
  absent : List Nat := []
  /-- Lines that accepted, incomplete copy items will fill, one entry an item with its name (R226, R412). -/
  filling : List (Nat × Nat) := []
  /-- Marks of the engine items that added to a byte-count word, by its offset in the core's scratchpad (R418). -/
  bcMark : Tbl Nat := []
  /-- Poisoned 32-byte scratchpad sectors (R238). -/
  spadPoison : List Nat := []
  /-- Requests in the scratchpad bank queues: bank, crew, warp, oldest first (R225). -/
  bankQ : List (Nat × Nat × Nat) := []
  /-- Sides that parked on absent lines and whose accesses have not been performed, in the order in which they parked (R226). -/
  parkQ : List ParkedOn := []
  /-- The banked write buffers, oldest first (R248). -/
  wbuf : List WBuf := []
  /-- The warp each quadrant issued last (R159). -/
  last : Tbl (Nat × Nat) := []
  /-- Cycles of each quadrant so far (R164). -/
  cycle : Tbl Nat := []
  /-- The order of the hold list of each quadrant: the crew of each entry, oldest first (R164). -/
  holdOrder : Tbl (List Nat) := []
  /-- Bytes that wait to be written home and that a cue run wrote to its own element's data, with its binding: they wake
  nothing (R204). -/
  own : List (Nat × Nat) := []
  deriving DecidableEq, Repr

/-- A byte that a cue run has stored to its own element's data, which no other agent sees before the run's write-back or a release
by the run (R203): its element, its address, its page and the byte. -/
structure Hidden where
  elem : Nat
  va : Nat
  ent : TlbEnt
  byte : Byte
  deriving DecidableEq, Repr

/-- State of a row tracker entry (R233). -/
inductive RowState where
  | opened
  | closing
  | expired
  deriving DecidableEq, Repr

/-- A row tracker entry that is not FREE (R233). Times in ps. -/
structure RowEnt where
  bank : Nat
  row : Nat
  st : RowState
  tAct : Nat
  /-- When its precharge starts; none while it is open. -/
  tPre : Option Nat
  /-- The row as it stood at its activate (R237): 2 KiB as memory stores them, and the key slot of its page (R232). -/
  data : List Byte
  slot : Nat
  poisoned : Bool
  deriving DecidableEq, Repr

/-- A 2 KiB transfer on a row port (R235): its end in ps, the bank, the tile and byte or the weight-stage offset it goes to,
and the row. -/
structure RowXfer where
  bank : Nat
  tEnd : Nat
  tile : Option Nat
  off : Nat
  data : List Byte
  deriving DecidableEq, Repr

/-- The directory entry of a line at its home slice (R222, R223, R253). -/
structure DirEnt where
  mark : Nat := 0
  owners : List Nat := []
  remote : Bool := false
  remoteDirty : Bool := false
  deriving DecidableEq, Repr

/-- A line in the L2 of a die (R221, R108): the context it is charged to, whether it belongs to the background share, and whether it
was written since it was filled. The list holds the most recently used line first. -/
structure L2Line where
  host : Bool
  line : Nat
  die : Nat
  owner : Option Nat
  background : Bool
  dirty : Bool
  /-- The key slot of its page (R79), and of a dirty line of a slot the four sectors as memory held them before, each with the key
  value it was written under: they are what a discard leaves (R81). -/
  slot : Nat := 0
  old : List (Nat × List Byte) := []
  deriving DecidableEq, Repr

/-! ### Engines (R193-R211, R287-R307, R462-R474) -/

/-- A tensor bound to the dolly of a cluster (R193), with its passes (R198) and counters (R211). -/
structure Binding where
  ctx : Nat
  dbase : Nat
  cbase : Nat
  sbase : Nat
  ubase : Nat
  nelem : Nat
  esize : Nat
  stw : Bool
  ncore : Nat
  cue : Nat
  cparm : Nat
  /-- The pass number of the pass last started, and the number last assigned (R198, R471). -/
  pass : Nat := 0
  assigned : Nat := 0
  /-- Passes queued: number, completion word (0 for none), slate. -/
  queued : List (Nat × Nat × Nat) := []
  /-- The running pass: number, completion word, slate. -/
  running : Option (Nat × Nat × Nat) := none
  cursor : Nat := 0
  /-- Elements latched and not yet packed, with their contexts as latched, ascending (R209). -/
  latched : List (Nat × Nat) := []
  /-- Elements whose runs have not ended, with their contexts as latched (R199, R210). -/
  live : Tbl Nat := []
  /-- Cue warps saved under R209. -/
  saved : List Warp := []
  runs : Nat := 0
  faults : Nat := 0
  fidx : Nat := 0
  fcause : Nat := 0
  failed : Nat := 0
  flags : Flags := 0
  /-- The signature of the contexts written back in the running pass, and the mark of the last pass end (R208). -/
  sig : BitVec 1024 := 0
  endMark : Nat := 0
  /-- Cores whose cue runs or stores its wakes release (R204). -/
  wakers : List Nat := []
  /-- Stores of its cue runs that no other agent sees yet, oldest first (R203). -/
  hidden : List Hidden := []
  deriving DecidableEq, Repr

/-- A command of a dolly (R471): a pass of a binding, or the wakes of a list that have not completed. -/
inductive DollyWork where
  | pass
  | wake (idx : List Nat)
  deriving DecidableEq, Repr

/-- An unfinished command of a dolly, with its binding number, the issuer's context and slate. -/
structure DollyCmd where
  ctx : Nat
  num : Nat
  slate : Nat
  work : DollyWork
  started : Bool := false
  deriving DecidableEq, Repr

/-- The copy commands of R465-R469. -/
inductive CopyOp where
  | copy
  | tcopy
  | gath
  | scat
  | fill
  | coll
  deriving DecidableEq, Repr

/-- A copy command (R465, R466): its issuer, the header of its descriptor, and its progress. -/
structure CopyCmd where
  ctx : Nat
  handle : Nat
  /-- Its place in the package's one order of acceptance (R223), and of a collective its place, for each peer on this package, among
  the context's commands on its group that have an item with that peer (R54). -/
  seq : Nat := 0
  round : Tbl Nat := []
  op : CopyOp
  cluster : Nat
  /-- The issuing crew's core, window and slate, and its placement (absent for a control thread). -/
  core : Nat
  win : Nat
  winSize : Nat
  slate : Nat
  crew : Nat
  sspc : Nat
  dspc : Nat
  scope : Nat
  cop : Nat
  gchk : Bool
  ctype : Nat
  item : Nat
  gsel : Nat
  src : Nat
  dst : Nat
  len : Nat
  gen : Nat
  sword : Nat
  aux0 : Nat
  aux1 : Nat
  xstat : Nat
  /-- Dimensions of `XC.TCOPY`: count, source and destination strides (R469). -/
  dims : List (Nat × Int × Int) := []
  /-- The index list of `XC.GATH` and `XC.SCAT`, and which indices were poisoned, as read at acceptance (R462, R467). -/
  idxs : List (Nat × Bool) := []
  /-- Runs written to a granule of a typed buffer that later items go on with: address, bytes, poison; and their bytes not yet added
  to the byte-count word (R231). -/
  held : List (Nat × List Byte × Bool) := []
  late : Nat := 0
  /-- The byte-count word, as an offset in the core's scratchpad (R466). -/
  bword : Option Nat := none
  /-- Items in all; statuses of the items that ended, first item first. -/
  items : Nat
  stats : List Nat := []
  /-- Arbitration has started it (R119); the next item has started and not ended. -/
  started : Bool := false
  running : Bool := false
  /-- Remaining items end with this status (R466, R470, R463). -/
  stop : Option Nat := none
  done : Bool := false
  /-- The release mark its observers acquire (R256). -/
  mark : Nat := 0
  /-- The signature of what it wrote. -/
  sig : BitVec 1024 := 0
  /-- Of a collective (R468): members as package and context, own rank, root or peer rank, the status of each peer's item,
  and the contributions received, by rank. -/
  members : List (Nat × Nat) := []
  rank : Nat := 0
  root : Nat := 0
  peer : Tbl Nat := []
  contrib : Tbl (List Byte) := []
  deriving DecidableEq, Repr

/-- A bound grammar slot (R291): its 64 stack entries with the bottom first, of which `depth` count, and its 32 log words with the
oldest first, of which `logn` count. -/
structure GSlot where
  owner : Nat
  gbase : Nat := 0
  state : Nat := 0
  depth : Nat := 0
  stack : List Nat := List.replicate 64 0
  gsel : Nat := 0
  gen : Nat := 0
  logn : Nat := 0
  log : List Nat := List.replicate 32 0
  steps : Nat := 0
  deriving DecidableEq, Repr

/-- A command accepted by a grammar slot and not performed yet (R289, R483). -/
inductive GWork where
  /-- `GP.MASK` at an address, its completion word's address found at acceptance. -/
  | mask (a word : Nat)
  | save (a : Nat)
  deriving DecidableEq, Repr

structure GCmd where
  slot : Nat
  ctx : Nat
  slate : Nat
  work : GWork
  started : Bool := false
  deriving DecidableEq, Repr

/-- A valid entry of a prefix table (R304). -/
structure PtEnt where
  hash : Nat
  parent : Option Nat
  pins : Nat
  deriving DecidableEq, Repr

/-! ### The matrix unit (R229-R231, R430-R460) -/

/-- The control words of a tile (R431). -/
structure TileCtl where
  shape : Nat := 0
  fmt : Nat := 0
  map0 : Nat := 0
  bbase : Nat := 0
  bstr : Nat := 0
  voff : Nat := 0
  deriving DecidableEq, Repr

/-- A queued matrix instruction (R433). -/
inductive MOp where
  | mma
  | mmas
  | mmaq
  | mzero
  | mdrn
  deriving DecidableEq, Repr

/-- An entry of the matrix queue with what it latched at issue (R434): the accumulator, the tiles with their control words,
`c.NMODE`, and of a drain its offset and its block of nine registers. `prog` items are done (R435). -/
structure MItem where
  op : MOp
  acc : Nat
  /-- The slate that waits for it (R172, R435). -/
  slate : Nat := 0
  ti : Nat := 0
  tj : Nat := 0
  ca : TileCtl := {}
  cb : TileCtl := {}
  nmode : Word := 0
  off : Nat := 0
  drain : List Nat := []
  prog : Nat := 0
  /-- It is executing (R433). -/
  started : Bool := false
  /-- The scale codes it uses, by id x 2^32 + block: one value a block throughout (R267). -/
  scales : Tbl Nat := []
  /-- The scale blocks it still misses. -/
  missing : List (Nat × Nat) := []
  deriving DecidableEq, Repr

/-- A line of the scale cache (R452): id, line number, its bytes; a byte of an absent part is none. -/
structure ScaleLine where
  id : Nat
  line : Nat
  bytes : List (Option Nat)
  deriving DecidableEq, Repr

/-- What a rank-0 control thread wrote to a shared tile, on its way to another member (R459). -/
inductive SharedWhat where
  | bytes (off : Nat) (data : List Byte)
  | shape (shape fmt : Nat)
  | fmt (fmt : Nat)
  deriving DecidableEq, Repr

structure SharedWrite where
  member : Nat
  tile : Nat
  what : SharedWhat
  deriving DecidableEq, Repr

/-- The matrix unit of a cluster and the typed buffers (R229): they belong to the owner of the control core. -/
structure MatrixSt where
  /-- Weight stage (6 MiB) and activation stage (3 MiB). -/
  weight : Cells := []
  activ : Cells := []
  /-- Tile file: tile `t` at 16,384 x t (R431). -/
  tiles : Cells := []
  /-- Accumulator entries that are not +0 (R272, R443). -/
  acc : Tbl Nat := []
  tctl : Tbl TileCtl := []
  /-- Codebook `c` at 1,024 x c (R269). -/
  cbooks : Cells := []
  /-- Scale bindings: base address by id; misses since binding (R451, R453). -/
  scBase : Tbl Nat := []
  scMiss : Tbl Nat := []
  /-- The scale cache, most recently used line first (R452). -/
  scCache : List ScaleLine := []
  /-- The queue, oldest first (R433). -/
  queue : List MItem := []
  /-- Poisoned granules: weight (256 bytes), activation (64 bytes), tile (32 bytes) and accumulator entries (R238). -/
  wPoison : List Nat := []
  aPoison : List Nat := []
  tPoison : List Nat := []
  accPoison : List Nat := []
  /-- Poisoned drains that no wait has reported yet (R450). -/
  drainPoison : Nat := 0
  /-- The cooperation group: FIRST and SIZE (R458), and the descriptor at which the control thread waits. -/
  coop : Option (Nat × Nat) := none
  coopAt : Option Nat := none
  /-- Writes of rank 0 to shared tiles that have not reached a member (R459). -/
  shared : List SharedWrite := []
  deriving DecidableEq, Repr

/-- What only the owner of a cluster's control core reaches, and the cluster's own structures (R169-R174, R217, R232). -/
structure ClusterSt where
  /-- The context that owns the control core (R173). -/
  owner : Option Nat := none
  /-- `c.MBXn` and, for a value that `RWR` wrote, the mark its readers acquire (R173, R174). -/
  mbx : Tbl Word := []
  mbxMark : Tbl Nat := []
  /-- `c.ARVn` and the largest mark an arrival released (R173, R174). -/
  arv : Tbl Word := []
  arvMark : Tbl Nat := []
  /-- The second-level TLB (R217). -/
  tlb2 : List TlbEnt := []
  /-- The row tracker: its entries that are not FREE (R233). -/
  rows : List RowEnt := []
  /-- Transfers on the four row ports (R232, R235). -/
  xfers : List RowXfer := []
  mx : MatrixSt := {}
  /-- Unfinished copy commands, in issue order, as keys of the table of copy commands (R463). -/
  copyQ : List Nat := []
  /-- Unfinished dolly commands and accepted grammar commands, in issue order. -/
  dollyQ : List DollyCmd := []
  grammarQ : List GCmd := []
  deriving DecidableEq, Repr

/-- When a bank's last precharge and its last refresh end, in ps (R235, R236). -/
structure BankSt where
  preEnd : Nat := 0
  refEnd : Nat := 0
  /-- When its next refresh is due, and whether that refresh waits for an open row to close (R236). -/
  refDue : Nat := 0
  refWaits : Bool := false
  deriving DecidableEq, Repr

/-- Memory of the package and of the host, and what the home slices and the release arbiter hold. -/
structure MemSt where
  /-- Device DRAM, as plain bytes (R218). -/
  dram : Cells := []
  /-- Host memory (R63). -/
  hostMem : Cells := []
  /-- The key under which a 32-byte sector was written: a key value, absent for plaintext (R79). -/
  keyTag : Tbl Nat := []
  /-- Poisoned sectors (R238) and those already reported (R240). -/
  poison : List Nat := []
  reported : List Nat := []
  /-- Directory entries that are not empty (R222, R253). -/
  dir : Tbl DirEnt := []
  hostDir : Tbl DirEnt := []
  /-- L2 lines, most recently used first (R221). -/
  l2 : List L2Line := []
  /-- The release log, newest first, at most 512 entries, and the sequence number of the newest (R253). -/
  relLog : List (BitVec 1024) := []
  logSeq : Nat := 0
  /-- Banks by 384 x stack + bank (R218). -/
  banks : Tbl BankSt := []
  /-- Corrected errors of a 2 KiB row not reported yet, with the tick of its last record (R240). -/
  eccRows : Tbl (Option Nat × Nat) := []
  walks : List Walk := []
  /-- Status and completion words that engines have written, by twice the address of the byte that holds DONE, plus one in host memory:
  the mark and the scope that a load which sees DONE acquires (R256, R287). -/
  doneWords : Tbl (Nat × Nat) := []
  walkCache : Tbl (List WalkEnt) := []
  deriving DecidableEq, Repr

/-! ### Loops, contexts and queues (R61-R70, R89-R118, R135-R141) -/

/-- The loop record of a context (R113), as its fields. -/
structure Loop where
  t : BitVec 32 := 0
  m : BitVec 32 := 0
  i : BitVec 32 := 0
  u : BitVec 32 := 0
  kp : BitVec 16 := 0x0400
  ki : BitVec 16 := 0x0080
  imax : BitVec 32 := 0x7FFFFFFF
  umax : BitVec 32 := 0x7FFFFFFF
  db : BitVec 32 := 0
  mode : Nat := 0
  hi : Bool := false
  lo : Bool := false
  clip : Bool := false
  gclip : Bool := false
  cls : Nat := 2
  weight : Nat := 16
  bshift : Nat := 0
  fshift : Nat := 0
  /-- RUNGS: floors and ceilings of the five rungs (R98, R114). -/
  los : List Nat := [1, 1, 0, 1, 0]
  his : List Nat := [16, 0, 0, 0, 25]
  fgrp : Nat := 0
  demand : Nat := 0
  grant : Nat := 0
  miss : Nat := 0
  wdog : Nat := 0
  cnt0 : Nat := 0
  /-- Ticks elapsed in the period when the record was saved, and periods completed. -/
  phase : Nat := 0
  periods : Nat := 0
  /-- MODE has changed from 0 to 1 since the last period end (R95). -/
  rise : Bool := false
  deriving DecidableEq, Repr

/-- A context (R65): the function it belongs to, its translation root and what it holds. -/
structure Ctx where
  /-- The root in force and the stored `PTROOT` (R213). -/
  root : Nat := 0
  rootReg : Nat := 0
  func : Nat := 0
  resident : Bool := false
  /-- It was saved into a continuity record (R69). -/
  saved : Bool := false
  priv : Bool := false
  /-- Its key slot, 0 for an unprotected context (R70). -/
  kslot : Nat := 0
  /-- Stopped by DRAIN, with the tick at which its crews are pre-empted (R73). -/
  drained : Bool := false
  drainEnd : Nat := 0
  /-- Generations `c.GENn` (R141). -/
  gen : Tbl Word := []
  /-- The cores it holds, ascending (R99, R100). -/
  cores : List Nat := []
  /-- Cores that are being withdrawn, with the tick at which that began (R100, R143); and what a control core's owner held that
  waits for a cluster (R171). -/
  leaving : Tbl Nat := []
  stray : Tbl ClusterSt := []
  /-- Grants in force by rung (R105): wave slots, cores, ways, memory share, clock notches; `asked` is the clock step it asks
  for on its clusters (R99). -/
  granted : List Nat := [1, 1, 0, 1, 0]
  asked : Nat := 0
  /-- Grants of the last epoch that have not reached the actuators (R105). -/
  pending : Option (List Nat) := none
  /-- An allocator epoch has begun since it became resident (R107, R489). -/
  joined : Bool := false
  /-- The demand on which the grants in force were made (R106). -/
  used : Nat := 0
  loop : Loop := {}
  /-- Running counts `c.BEATn`, beats so far in this period, and `c.BRATEn` (R89-R91). -/
  beats : Tbl Nat := []
  beatCur : Tbl Nat := []
  beatRate : Tbl Nat := []
  /-- Beats and targets that retired and have not reached the controller, oldest first, with the ticks at which they retired (R93,
  R356); and what reached it on the tick that ends the running period or later: it belongs to the next. -/
  beatsOnWay : List (Nat × Nat × Nat) := []
  btgtOnWay : List (Word × Nat × Nat) := []
  beatNext : Tbl Nat := []
  btgtNext : Option (Word × Nat) := none
  /-- The tick at which D was last posted and the demand before it; the tick of the last epoch that set G and CLIP, and CLIP before it
  (R107). -/
  demandAt : Nat := 0
  demandOld : Nat := 0
  clipAt : Nat := 0
  clipOld : Bool := false
  /-- `c.STMISSn` (R135). -/
  stmiss : Tbl Nat := []
  /-- A pulse arrived in this period; consecutive silent periods; the record of this silence is posted (R117, R118). -/
  pulse : Bool := false
  silent : Nat := 0
  wdPosted : Bool := false
  /-- The tick at which the running control period ends (R92, R116). -/
  due : Nat := 0
  /-- The merged value of its group, its clip bit and its age in periods (R55, R111). -/
  merged : Option (BitVec 32 × Bool) := none
  mergedAge : Nat := 0
  /-- Copy commands accepted so far, of which the handle is the low part (R466). -/
  handles : Nat := 0
  /-- For each group of its collectives, the items that it has had with each peer on this package, by rank (R54). -/
  rounds : List (List (Nat × Nat) × Tbl Nat) := []
  /-- The prefix table, and its valid entries with the most recently used first (R304). -/
  ptab : Tbl PtEnt := []
  ptAge : List Nat := []
  deriving DecidableEq, Repr

/-- An entry of a shot list (R133). -/
structure Shot where
  lo : List Nat
  hi : List Nat
  entry : Nat
  pad : Nat
  deriving DecidableEq, Repr

/-- A hardware queue, by device queue number (R65-R67, R122, R129, R133). -/
structure Queue where
  func : Nat := 0
  /-- The context it belongs to. -/
  ctx : Option Nat := none
  cap : Nat := 64
  rej : Nat := 0
  miss : Nat := 0
  /-- Submissions accepted whose slates the device has not read yet, oldest first (R68). -/
  incoming : List Nat := []
  /-- Slates accepted and not yet dispatched (R66, R128). -/
  depth : Nat := 0
  /-- Parked takes and READY slates in the order of R129. -/
  takes : List Nat := []
  ready : List Nat := []
  shotL : Word := 0
  shotH : Word := 0
  nshot : Nat := 0
  shots : List Shot := []
  /-- The tick from which AGE counts: of the last start of an item, or of its first ready item after it held none (R122). -/
  ageFrom : Nat := 0
  /-- When its winning item first won without being placed, in ticks (R123). -/
  wonAt : Option Nat := none
  deriving DecidableEq, Repr

/-- A slate that the device has accepted (R124-R128): the fields it copied, and what the kernel header gives. -/
structure Slate where
  va : Nat := 0
  ctx : Nat := 0
  queue : Nat := 0
  /-- 1 WAITING, 2 READY, 3 RUNNING (R127). -/
  state : Nat := 1
  entry : Nat := 0
  param : Nat := 0
  succ : List Nat := []
  ovf : Nat := 0
  prio : Nat := 0
  flags : Nat := 0
  deadline : Nat := 0
  shapes : List Nat := []
  gen : Nat := 0
  gsel : Nat := 0
  bch : Nat := 0
  tro : Nat := 0
  /-- The tick on which its deadline expires (R139), and DLMISS. -/
  expiry : Option Nat := none
  dlmiss : Bool := false
  /-- The time at which it entered READY (R129). -/
  readyAt : Nat := 0
  /-- The clusters chosen for its next crew or group, which wake (R41). -/
  chosen : List Nat := []
  /-- It has been checked as head of its queue (R148), and what it runs. -/
  checked : Bool := false
  kernel : Nat := 0
  pad : Option (Nat × Nat) := none
  codeOff : Nat := 0
  nregs : Nat := 16
  trSize : Nat := 0
  spad : Nat := 0
  tvec : Word := 0
  carry : List (List Nat) := []
  /-- The launch record (R147): number of levels, lane levels, sizes, domains, co-resident flags, control entry. -/
  nlev : Nat := 0
  lanesL : Nat := 0
  sizes : List Nat := []
  doms : List Nat := []
  lvf : List Nat := []
  ccent : Option Nat := none
  /-- Crews of the slate, crews placed so far, crews that ended. -/
  ncrews : Nat := 0
  placed : Nat := 0
  ended : Nat := 0
  /-- Engine commands of its crews that have not completed (R128, R130). -/
  cmds : Nat := 0
  /-- Its deadline expired while its context was saved: steps 2, 4 and 5 of R139 are due (R495). -/
  owedMiss : Bool := false
  /-- The cause and DETAIL of the last stop of kind S of one of its crews (R176). -/
  stop : Option (Nat × Nat) := none
  /-- A crew was cancelled (R137), or failed with a CAUSE of R125. -/
  cancelled : Bool := false
  fail : Nat := 0
  /-- The unit chosen for each member of the levels bound to cluster or die, by 2^32 x level + member (R149). -/
  units : Tbl Nat := []
  /-- Members whose control thread has started, and those whose thread has exited (R171, R172). -/
  ctlStarted : List Nat := []
  ctlEnded : List Nat := []
  deriving DecidableEq, Repr

/-- A parked take (R137, R138), or a saved crew that waits to be restored: the crew as it left its core. -/
structure Take where
  slate : Nat
  kind : Nat
  carry : Nat := 0
  crew : Crew
  /-- The scratchpad window of a KIND 2 save (R190). -/
  spad : Cells := []
  /-- Poisoned sectors of that window (R239). -/
  spadPoison : List Nat := []
  /-- Of a control thread: the rows recorded as EXPIRED (R428). -/
  rows : List (Nat × Nat) := []
  /-- It is being restored with the whole of its co-resident group (R156). -/
  group : Option Nat := none
  /-- The bytes of its record as they were written to memory; none when they could not be (R138). -/
  image : Option (List Byte) := none
  /-- The clusters chosen for its restore, which wake (R41). -/
  chosen : List Nat := []
  deriving DecidableEq, Repr

/-! ### Links and fabric (R42-R60) -/

/-- A gang link or a scale-out lane (R46, R47): failed lanes, the register's fields, and when it last received and sent. (DEDUCED, log 83) -/
structure Link where
  up : Bool := false
  lanes : Nat := 0
  /-- Lanes that have failed (R46). -/
  failed : Nat := 0
  fenced : Bool := false
  peer : Nat := 0
  retry : Nat := 0
  lastRx : Nat := 0
  lastTx : Nat := 0
  deriving DecidableEq, Repr

/-- A child of a merge-tree node (R55): the value and clip bit last received, its age in periods, whether it counts. -/
structure MergeChild where
  value : Nat
  clip : Bool
  age : Nat := 0
  fresh : Bool := true
  deriving DecidableEq, Repr

/-- An entry of the merge table (R57): the registers as written, those in force since the last period end, what each member on the
package reported in this period, and what the node last sent up and down. -/
structure MergeEnt where
  fgrp : Nat := 0
  par : Nat := 0
  fgrpIn : Nat := 0
  parIn : Nat := 0
  own : Tbl (Nat × Bool) := []
  children : Tbl MergeChild := []
  up : Option (Nat × Bool) := none
  down : Option (Nat × Bool) := none
  deriving DecidableEq, Repr

/-- The fabric registers and tables of a package. -/
structure FabricSt where
  links : Tbl Link := []
  etype : Nat := 0x88B5
  ports : Nat := 0
  pos : Nat := 0
  pkgid : Nat := 0
  mrgsel : Nat := 0
  merge : Tbl MergeEnt := []
  /-- Packages declared lost (R58). -/
  lost : List Nat := []
  /-- The tick of the last period end of this package as a node of the merge trees (R57). -/
  mergeAt : Nat := 0
  deriving DecidableEq, Repr

/-! ### Continuity records (R69, R190, R191) -/

/-- What a continuity record holds beside its header (R191): everything of the context. -/
structure Saved where
  ctx : Nat
  cx : Ctx
  takes : Tbl Take := []
  queues : Tbl Queue := []
  slates : Tbl Slate := []
  bindings : Tbl Binding := []
  dollyCmds : Tbl (List DollyCmd) := []
  copies : Tbl CopyCmd := []
  gslots : Tbl GSlot := []
  /-- Clusters whose control core it owned, with what belongs to the owner (R173, R229). -/
  owned : Tbl ClusterSt := []
  deriving DecidableEq, Repr

/-! ### Host interface (R61-R88) -/

/-- A dailies record (R85). -/
structure Rec where
  code : Nat
  cls : Nat := 0
  unit : Nat := 0x5000
  ctx : Nat := 0xFFFF
  /-- FLAGS [2:0]: ranges valid, more records follow. -/
  flags : Nat := 0
  tick : Nat := 0
  a0 : Nat := 0
  l0 : Nat := 0
  a1 : Nat := 0
  l1 : Nat := 0
  d0 : Nat := 0
  d1 : Nat := 0
  seq : Nat := 0
  space : Nat := 0
  deriving DecidableEq, Repr

/-- A command block being executed (R72). -/
structure Cmd where
  block : Nat
  op : Nat
  flags : Nat
  ctx : Nat
  addr : Nat
  arg : Nat
  size : Nat
  /-- What it waits for: 0 nothing, 1 crews to stop, 2 a scrub job to start, 3 a scrub job to end, 4 step in a suspended save. -/
  stage : Nat := 0
  /-- The tick at which it began. -/
  began : Nat := 0
  deriving DecidableEq, Repr

/-- A function's window and its assignment (R64-R76, R85, R86). -/
structure Func where
  dlbase : Nat := 0
  /-- The base in force since the ring was enabled. -/
  ringBase : Nat := 0
  dlsize : Nat := 0
  dltail : Nat := 0
  dlhead : Nat := 0
  dllost : Nat := 0
  /-- The phase bit of the lap. -/
  lap : Bool := false
  seq : Nat := 0
  /-- Sectors of device memory that the function has written since it last submitted a slate (R68, R255). -/
  wrote : BitVec 1024 := 0
  backlog : List Rec := []
  /-- Addresses of command blocks that wait, oldest first; DROP; the command that runs. -/
  waiting : List Nat := []
  drop : Bool := false
  running : Option Cmd := none
  suspended : Bool := false
  /-- Assignment (R76): class ceiling, quanta, ways, share. The PF holds what the VFs leave. -/
  ceil : Nat := 0
  quanta : Nat := 0
  ways : Nat := 0
  share : Nat := 0
  /-- The capacity that its queues take (R76). -/
  qcap : Nat := 64
  /-- The pools of cores, ways and share that its allocator still uses, from a change to its next epoch (R76, R487). -/
  pools : Option (List Nat) := none
  /-- The number of its next allocator epoch (R105). -/
  epoch : Nat := 0
  deriving DecidableEq, Repr

/-- A scrub job (R81-R84). -/
structure Scrub where
  ctx : Nat := 0
  phase : Nat := 0
  busy : Bool := false
  rst : Bool := false
  units : Nat := 0
  remain : Nat := 0
  total : Nat := 0
  /-- The function that started it, and whether a TEARDOWN waits for it. -/
  starter : Nat := 0
  command : Bool := false
  kslot : Nat := 0
  /-- Cores, clusters whose control core the context owned, and page ranges (device physical address and 4 KiB units) that
  remain to be zeroed in the current phase. -/
  cores : List Nat := []
  spadUnits : Nat := 0
  clusters : List Nat := []
  pages : List (Nat × Nat) := []
  deriving DecidableEq, Repr

/-- A level-1 and level-2 arbiter (R119-R121). -/
structure Arbiter where
  /-- The quantum of the round that began at tick `since`. -/
  quantum : Nat := 0
  since : Nat := 0
  /-- Deficits by context, and by function the context being visited. -/
  def' : Tbl Nat := []
  visit : Tbl Nat := []
  deriving DecidableEq, Repr

/-- A KS.ZERO whose completion word waits for its slot to read EMPTY (R474). -/
structure KeyWord where
  slot : Nat
  ctx : Nat
  va : Nat
  core : Nat
  deriving DecidableEq, Repr

/-- A 64 KiB-granular page being moved (R33): its context, virtual address, size, old and new physical addresses. -/
structure Migration where
  ctx : Nat
  va : Nat
  lg : Nat
  old : Nat
  new : Nat
  deriving DecidableEq, Repr

/-! ### Power and heat (R21-R41) -/

/-- Power and clock state of a cluster (R22-R25, R34-R41). -/
structure ClusterPw where
  /-- Actual clock step and the step granted by the loop (R25). -/
  step : Nat := 0
  grant : Nat := 0
  /-- The budget cap (R27); no cap at reset. -/
  cap : Nat := 100
  /-- Active physical halves of the matrix arrays and of the control-core banks (R34). -/
  half0 : Bool := false
  half1 : Bool := false
  cbank : Bool := false
  /-- Since when the active half of each pair has been active, in ps: arrays 0 and 1, control-core banks at 2. -/
  since : Tbl Nat := []
  /-- Power state: 0, 1 or 2 for W0, W1, W2 (R37). -/
  w : Nat := 0
  /-- The break-even hold runs, and a wake request is latched in it (R40). -/
  hold : Bool := false
  latched : Bool := false
  /-- When it last issued, when a crew last left it, and when it entered W2, in ps (R37, R40). -/
  lastIssue : Nat := 0
  lastCrew : Nat := 0
  downAt : Nat := 0
  /-- Fenced on a suspected cracked connection (R35, R36). -/
  fenced : Bool := false
  deriving DecidableEq, Repr

/-- A stack (R30, R31): its thermal band, its thermal cap, and when a row was last activated on it. (DESIGN CHOICE, log 11) -/
structure StackSt where
  band : Nat := 0
  cap : Nat := 100
  /-- The tick at which it came into its band (R32). -/
  bandTick : Nat := 0
  lastAct : Option Nat := none
  /-- When the last ordinary-path command was spaced (R27). -/
  lastCmd : Option Nat := none
  deriving DecidableEq, Repr

/-- What the management core holds for the package (R26-R32, R37-R40). -/
structure PowerSt where
  plim : Nat := 3200
  mshr : Nat := 16
  slfix : Bool := false
  mfix : Nat := 16
  /-- The one factor by which the memory side spaces row activations and ordinary-path commands; 0 without a limit (R27). -/
  memFactor : Nat := 0
  /-- That side's share limited it in the running slider period (R28), and the tick at which that period began. -/
  memcap : Bool := false
  cmpcap : Bool := false
  sliderAt : Nat := 0
  /-- By die, the tick from which the next page may be moved: 1 GiB a second (R33). -/
  moveNext : Tbl Nat := []
  /-- The compute rails are off since a thermal trip, and the tick at which they went off (R31, R32). -/
  tripped : Bool := false
  tripTick : Nat := 0
  /-- The package is in W3 or on its way out: a cluster has not powered up yet (R39). -/
  w3 : Bool := false
  /-- The stacks are in self-refresh, and the links in low-power idle (R37). -/
  selfRefresh : Bool := false
  linkIdle : Bool := false
  /-- The host's latency tolerance in ns; none when it reported no requirement (R38). -/
  tolerance : Option Nat := none
  /-- In-rush FIFOs of the dies, first to be served first, and when the first one's power-up began, in ps (R40). -/
  inrush : Tbl (List Nat) := []
  inrushAt : Tbl Nat := []
  clusters : Tbl ClusterPw := []
  hbms : Tbl StackSt := []
  deriving DecidableEq, Repr

/-- What an agent outside the instruction stream supplies with a step that no word encodes: which unit it is about, further
numbers, the value written. Each meaning says what it takes from where. (DESIGN CHOICE, log 81) -/
structure Input where
  unit : Nat := 0
  sub : Nat := 0
  val : Nat := 0
  aux : Nat := 0
  func : Nat := 0
  flag : Bool := false
  list : List Nat := []
  deriving DecidableEq, Repr

/-- Which agent issues instructions: a quadrant of a core (R159), a control core, or none. -/
inductive Focus where
  | none
  | quad (core q : Nat)
  | control (cluster : Nat)
  deriving DecidableEq, Repr

/-- One entry of the agenda: after `dt` ps, an agent issues, or a step that no word encodes takes place. (DESIGN CHOICE, log 1, 4) -/
inductive Act where
  | issue (f : Focus)
  | event (i : Instr) (inp : Input)
  deriving DecidableEq, Repr

structure Item where
  dt : Nat
  act : Act
  deriving DecidableEq, Repr

/-- The state of the machine. -/
structure State where
  /-- MODEL: what happens next, oldest first: the order in which agents act and the inputs from outside. -/
  agenda : List Item := []
  /-- MODEL: the agent that issues when the agenda is empty. -/
  focus : Focus := .none
  /-- MODEL: the crew and warp whose instruction is being executed. -/
  cur : Option (Nat × Nat) := none
  /-- MODEL: the input of the step being taken. -/
  inp : Input := {}
  /-- MODEL: a counter that free values are read at. -/
  fresh : Nat := 0
  /-- Time since power-on in ps. -/
  now : Nat := 0
  crews : Tbl Crew := []
  nextCrew : Nat := 0
  /-- Cores by package number, and control cores at 320 + cluster. -/
  cores : Tbl CoreSt := []
  clusters : Tbl ClusterSt := []
  mem : MemSt := {}
  power : PowerSt := {}
  ctxs : Tbl Ctx := []
  slates : Tbl Slate := []
  nextSlate : Nat := 0
  takes : Tbl Take := []
  nextTake : Nat := 0
  queues : Tbl Queue := []
  funcs : Tbl Func := []
  /-- Owner of a core when it is not the PF (R76). -/
  coreFunc : Tbl Nat := []
  /-- Owner of a key slot when it is not the PF, the context that holds it (R70), slots that are being zeroed (R80), and
  pending completion words of `KS.ZERO`. -/
  slotFunc : Tbl Nat := []
  slotHeld : Tbl Nat := []
  zeroing : List Nat := []
  keyWords : List KeyWord := []
  /-- `KSSEL` and the words of `KSDATA` (R80). -/
  kssel : Nat := 0
  ksdata : Nat := 0
  scrubs : Tbl Scrub := []
  /-- Teardowns and resets that wait for a free scrub job: context, starting function, whether a command waits (R83). -/
  scrubQueue : List (Nat × Nat × Bool) := []
  arbiters : Tbl Arbiter := []
  /-- MSI-X vectors raised, by 32 x function + vector (R61, R71, R85). -/
  vectors : Tbl Nat := []
  migrations : List Migration := []
  /-- Bindings by 4 x cluster + number (R471), copy commands by context x 2^24 + handle, grammar slots by 64 x cluster + slot. -/
  bindings : Tbl Binding := []
  copies : Tbl CopyCmd := []
  /-- Copy commands accepted by the package. -/
  copySeq : Nat := 0
  gslots : Tbl GSlot := []
  fabric : FabricSt := {}
  /-- What continuity records hold, by the number that the record's body begins with (R69), which its copies share. -/
  records : Tbl Saved := []
  /-- ATS and PRI are enabled (R62); page requests that wait for a response: context, page, core. -/
  ats : Bool := false
  pri : Bool := false
  priWaits : List (Nat × Nat × Nat) := []
  /-- 64 KiB pages of device memory whose contents are being migrated: writes to them stall (R33). -/
  migrating : List Nat := []
  /-- CXL.cache is trained (R63). -/
  cxl : Bool := false
  /-- Key values of the key slots that are loaded (R80). -/
  keys : Tbl Nat := []
  deriving DecidableEq, Repr

/-- Why the machine stops with a fault. -/
inductive Fault where
  /-- An instruction was executed with no warp to issue it; raised by every meaning of an instruction word, in states that
  no step reaches. Safe: nothing is claimed of such a state. -/
  | noIssuer
  deriving DecidableEq, Repr

/-- Why an instruction has no meaning here. -/
inductive Refusal where
  /-- Not modelled yet; raised only by arms of `exec`. Safe. -/
  | notModelled (mnemonic : String)
  deriving DecidableEq, Repr

/-- The machine right after power-on. -/
def State.reset : State := {}

end Sys2Proof.Machine
end

