-- ==== Sys2Proof/Machine/Table.lean ====
section
/-! DEFINITION. Tables with natural keys and memories as lists of cells, in canonical form: keys strictly rising, and in a
memory no entry equal to what an unlisted address reads as, which is zero. -/

namespace Sys2Proof.Machine

/-- The entry of a key, or the default. -/
def Tbl.get {α : Type} (d : α) : Tbl α → Nat → α
  | [], _ => d
  | (k, v) :: t, n => if k = n then v else if n < k then d else Tbl.get d t n

/-- The entry of a key, if there is one. -/
def Tbl.find {α : Type} : Tbl α → Nat → Option α
  | [], _ => none
  | (k, v) :: t, n => if k = n then some v else if n < k then none else Tbl.find t n

/-- The table with an entry written. -/
def Tbl.set {α : Type} : Tbl α → Nat → α → Tbl α
  | [], n, v => [(n, v)]
  | (k, u) :: t, n, v =>
    if k = n then (n, v) :: t else if n < k then (n, v) :: (k, u) :: t else (k, u) :: Tbl.set t n v

/-- The table without an entry. -/
def Tbl.del {α : Type} : Tbl α → Nat → Tbl α
  | [], _ => []
  | (k, u) :: t, n => if k = n then t else if n < k then (k, u) :: t else (k, u) :: Tbl.del t n

/-- The table with a function applied to one entry (from the default when it is absent). -/
def Tbl.upd {α : Type} (d : α) (t : Tbl α) (n : Nat) (f : α → α) : Tbl α := t.set n (f (t.get d n))

/-- The table with a function applied to every value. -/
def Tbl.mapV {α : Type} (f : Nat → α → α) (t : Tbl α) : Tbl α := t.map (fun (k, v) => (k, f k v))

/-- A sorted list of numbers with one put in. -/
def insertNat : List Nat → Nat → List Nat
  | [], n => [n]
  | k :: t, n => if k = n then k :: t else if n < k then n :: k :: t else k :: insertNat t n

/-- The list without a number. -/
def removeNat (l : List Nat) (n : Nat) : List Nat := l.filter (fun k => k != n)

/-- One byte of a memory. (DESIGN CHOICE, log 9) -/
def Cells.get : Cells → Nat → Byte
  | [], _ => 0
  | (k, v) :: t, n => if k = n then v else if n < k then 0 else Cells.get t n

/-- A memory with one byte written, in canonical form. -/
def Cells.set : Cells → Nat → Byte → Cells
  | [], n, v => if v = 0 then [] else [(n, v)]
  | (k, u) :: t, n, v =>
    if k = n then (if v = 0 then t else (n, v) :: t)
    else if n < k then (if v = 0 then (k, u) :: t else (n, v) :: (k, u) :: t)
    else (k, u) :: Cells.set t n v

/-- Addresses rise strictly from above `lo`, and no entry is zero. -/
def Cells.wfFrom : Option Nat → Cells → Bool
  | _, [] => true
  | lo, (k, v) :: t => (match lo with | none => true | some l => decide (l < k)) && v != 0 && Cells.wfFrom (some k) t

/-- The canonical form of a memory. -/
def Cells.wf (m : Cells) : Bool := Cells.wfFrom none m

/-- `n` bytes from an address, first byte first. -/
def Cells.read (m : Cells) (a : Nat) : Nat → List Byte
  | 0 => []
  | n + 1 => m.get a :: Cells.read m (a + 1) n

/-- Bytes written from an address upward. -/
def Cells.write (m : Cells) (a : Nat) : List Byte → Cells
  | [] => m
  | b :: bs => Cells.write (m.set a b) (a + 1) bs

/-- The number that bytes hold, little-endian (R11). -/
def leNat : List Byte → Nat
  | [] => 0
  | b :: bs => b.toNat + 256 * leNat bs

/-- A number of `n` bytes of a memory, little-endian. -/
def Cells.num (m : Cells) (a n : Nat) : Nat := leNat (m.read a n)

/-- Every address of a range without its bytes: the range reads as zero. -/
def Cells.zero (m : Cells) (a n : Nat) : Cells := m.filter (fun c => c.1 < a || a + n ≤ c.1)

end Sys2Proof.Machine
end

