-- ==== Sys2Proof/Machine/Mem.lean ====
section
/-! DEFINITION. The memory system: home memory, L1 caches, write buffers, translation, releases and acquires
(R79, R212-R223, R242-R258), and the scratchpad (R224-R228). -/

namespace Sys2Proof.Machine

/-! ### Accessors -/

def State.core (s : State) (k : Nat) : CoreSt := s.cores.get {} k
def State.setCore (s : State) (k : Nat) (c : CoreSt) : State := { s with cores := s.cores.set k c }
def State.updCore (s : State) (k : Nat) (f : CoreSt → CoreSt) : State := s.setCore k (f (s.core k))
def State.cluster (s : State) (k : Nat) : ClusterSt := s.clusters.get {} k
def State.setCluster (s : State) (k : Nat) (c : ClusterSt) : State := { s with clusters := s.clusters.set k c }
def State.updCluster (s : State) (k : Nat) (f : ClusterSt → ClusterSt) : State := s.setCluster k (f (s.cluster k))
def State.ctx (s : State) (k : Nat) : Ctx := s.ctxs.get {} k
def State.updCtx (s : State) (k : Nat) (f : Ctx → Ctx) : State := { s with ctxs := s.ctxs.set k (f (s.ctx k)) }
def State.updMem (s : State) (f : MemSt → MemSt) : State := { s with mem := f s.mem }

/-- The cluster of a core: ten cores a cluster, and control cores at 320 + cluster. -/
def clusterOf (core : Nat) : Nat := if core < 320 then core / 10 else core - 320
/-- Whether a core number is a control core's. -/
def isControlCore (core : Nat) : Bool := 320 ≤ core
/-- The die of a cluster (R7): 16 clusters a die. -/
def dieOf (cluster : Nat) : Nat := cluster / 16
/-- The stack over a cluster (R218): stack s lies over clusters 2s and 2s + 1. -/
def stackOf (cluster : Nat) : Nat := cluster / 2

/-- Bytes of package DRAM: 576 GiB (R218). -/
abbrev dramSize : Nat := 0x9000000000
/-- Bytes of one stack: 36 GiB (R218). -/
abbrev stackSize : Nat := 0x900000000
/-- The stack, bank in the stack (0-383) and row of a device physical address (R218). -/
def stackOfPa (pa : Nat) : Nat := pa / stackSize
def bankOfPa (pa : Nat) : Nat :=
  let o := pa % stackSize
  32 * (o / 0xC0000000) + bits (o % 0xC0000000) 11 5
def rowOfPa (pa : Nat) : Nat := bits (pa % stackSize % 0xC0000000) 16 16

/-- Time passes to `t` ps, or to a tick, at least. -/
def State.until (s : State) (t : Nat) : State := { s with now := max s.now t }
def State.untilTick (s : State) (t : Nat) : State := s.until (5000 * t)

/-- A value that the manual leaves open, one for each read. (DESIGN CHOICE, log 6) -/
def State.nextFree (s : State) : State := { s with fresh := s.fresh + 1 }

/-! ### Codes -/

/-- Ordering kinds of a page (R215). -/
abbrev ordRC : Nat := 0
abbrev ordSO : Nat := 1
abbrev ordUN : Nat := 2

/-- Scope codes (R313). -/
abbrev scThread : Nat := 0
abbrev scCrew : Nat := 1
abbrev scCore : Nat := 2
abbrev scCluster : Nat := 3
abbrev scDie : Nat := 4
abbrev scPackage : Nat := 5
abbrev scNode : Nat := 6
abbrev scSystem : Nat := 7

/-! ### Home memory -/

/-- The key value of a slot: slot 0 is plaintext (R79). -/
def State.keyOf (s : State) (slot : Nat) : Nat := if slot = 0 then 0 else 1 + s.keys.get 0 slot

/-- A byte at home as a reader under key value `key` gets it: what the cipher makes of the block that stands in memory (R79). -/
def MemSt.homeByte (m : MemSt) (key pa : Nat) : Byte :=
  let tag := m.keyTag.get 0 (pa / 32)
  if tag = key then m.dram.get pa
  else
    let base := pa / 16 * 16
    BitVec.ofNat 8 ((openBlock key base (sealBlock tag base ((m.dram.read base 16).map (·.toNat)))).getD (pa % 16) 0)

/-- The 16-byte block at an address as memory stores it, which a row activate takes (R232). -/
def MemSt.storedBlock (m : MemSt) (base : Nat) : List Byte :=
  let tag := m.keyTag.get 0 (base / 32)
  let b := m.dram.read base 16
  if tag = 0 then b else (sealBlock tag base (b.map (·.toNat))).map (BitVec.ofNat 8)

/-- Stored bytes from an address on, decrypted under a key. -/
def openStored (key pa : Nat) (data : List Byte) : List Byte :=
  if key = 0 then data
  else (List.range (data.length / 16)).flatMap fun i =>
    (openBlock key (pa + 16 * i) (((data.drop (16 * i)).take 16).map (·.toNat))).map (BitVec.ofNat 8)

/-- The whole sector of `pa` as a reader under `key` gets it, stored under `key`. -/
def MemSt.rekey (m : MemSt) (key pa : Nat) : MemSt :=
  if m.keyTag.get 0 (pa / 32) = key then m else
  let base := pa / 32 * 32
  let bs := (List.range 32).map (fun i => m.homeByte key (base + i))
  { m with dram := m.dram.write base bs,
           keyTag := if key = 0 then m.keyTag.del (pa / 32) else m.keyTag.set (pa / 32) key }

/-- A byte written at home under a key. -/
def MemSt.setHomeByte (m : MemSt) (key pa : Nat) (b : Byte) : MemSt :=
  let m := m.rekey key pa
  { m with dram := m.dram.set pa b }

/-- Bytes at home, in device DRAM under a key or in host memory. -/
def State.homeRead (s : State) (host : Bool) (slot pa n : Nat) : List Byte :=
  if host then s.mem.hostMem.read pa n
  else (List.range n).map (fun i => s.mem.homeByte (s.keyOf slot) (pa + i))

/-- Bytes written at home, one after another. -/
def MemSt.homeWriteAux (key : Nat) (m : MemSt) (pa : Nat) : List Byte → MemSt
  | [] => m
  | b :: bs => MemSt.homeWriteAux key (m.setHomeByte key pa b) (pa + 1) bs

/-- The sectors that a write of `n` bytes at `pa` covers whole. (DEDUCED, log 33) -/
def wholeSectors (pa n : Nat) : List Nat :=
  (List.range (n / 32 + 1)).filterMap (fun i =>
    let k := (pa + 31) / 32 + i
    if 32 * k + 32 ≤ pa + n then some k else none)

/-- Bytes put at home; a sector written whole is no longer poisoned (R239). -/
def State.homePut (s : State) (host : Bool) (slot pa : Nat) (bs : List Byte) : State :=
  if host then s.updMem fun m => { m with hostMem := m.hostMem.write pa bs }
  else s.updMem fun m =>
    let m := MemSt.homeWriteAux (s.keyOf slot) m pa bs
    let ws := wholeSectors pa bs.length
    if m.poison = [] then m
    else { m with poison := m.poison.filter (fun k => !ws.contains k),
                  reported := m.reported.filter (fun k => !ws.contains k) }

/-! ### Walks (R213-R216) -/

/-- The physical address of an address in the page of an entry. -/
def TlbEnt.addr (e : TlbEnt) (va : Nat) : Nat := e.pa + va % 2 ^ e.lg

/-- Index of a level, and the bits of a leaf there (R214). -/
def walkIndex (level va : Nat) : Nat :=
  match level with
  | 0 => bits va 48 9 | 1 => bits va 39 9 | 2 => bits va 30 9 | 3 => bits va 21 9 | _ => bits va 16 5
def leafBits (level : Nat) : Nat := match level with | 2 => 30 | 3 => 21 | _ => 16

/-- A page-table entry is malformed (R215, R216). -/
def pteMalformed (level : Nat) (e : Nat) : Bool :=
  let leaf := bits e 1 1 == 1
  if leaf then
    let lg := leafBits level
    level < 2 || bits e 5 2 == 3 || bits e 8 2 ≥ 2 || bits e 10 6 != 0 || bits e 61 3 != 0
      || (bits e 16 37 * 65536) % 2 ^ lg != 0
      || (bits e 7 1 == 1 && (bits e 53 8 != 0 || bits e 8 2 == 1))
      || (bits e 7 1 == 0 && bits e 16 37 * 65536 ≥ dramSize)
  else
    level == 4 || bits e 2 10 != 0 || bits e 53 11 != 0 || bits e 12 41 * 4096 ≥ dramSize

/-- The outcome of a walk. -/
inductive WalkRes where
  | leaf (e : TlbEnt)
  | pageFault
  deriving DecidableEq, Repr

/-- A walk from a level down, `fuel` levels at most (R214): tables are read as slot-0 plaintext. -/
def walkFrom (m : MemSt) (ctx va : Nat) : Nat → Nat → Nat → WalkRes
  | 0, _, _ => .pageFault
  | fuel + 1, level, table =>
    let e := leNat ((List.range 8).map fun i => m.homeByte 0 (table + 8 * walkIndex level va + i))
    if bits e 0 1 = 0 || pteMalformed level e then .pageFault
    else if bits e 1 1 = 1 then
      let lg := leafBits level
      .leaf ⟨ctx, va / 2 ^ lg * 2 ^ lg, lg, bits e 16 37 * 65536, bits e 2 1 == 1, bits e 3 1 == 1, bits e 4 1 == 1,
        bits e 5 2, bits e 7 1 == 1, bits e 8 2, bits e 53 8⟩
    else walkFrom m ctx va fuel (level + 1) (bits e 12 41 * 4096)

/-- The walk of an address of a context from its root (R213, R214). -/
def State.walk (s : State) (ctx va : Nat) : WalkRes :=
  if 2 ^ 57 ≤ va then .pageFault else walkFrom s.mem ctx va 5 0 (s.ctx ctx).root

/-! ### Element contexts at their home slices (R197, R204, R207) -/

/-- The page of device memory that holds an address of a context now; none for host memory or without a translation. -/
def State.home (s : State) (ctx va : Nat) : Option TlbEnt :=
  match s.walk ctx va with
  | .leaf e => if e.host then none else some e
  | .pageFault => none

/-- A number of `n` bytes at home, at an address of a context aligned to `n`. -/
def State.homeNum (s : State) (ctx va n : Nat) : Nat :=
  match s.home ctx va with
  | some e => leNat (s.homeRead false e.slot (e.addr va) n)
  | none => 0

/-- A number of `n` bytes put at home, likewise. -/
def State.putNum (s : State) (ctx va n x : Nat) : State :=
  match s.home ctx va with
  | some e => s.homePut false e.slot (e.addr va) (bytesLE n x)
  | none => s

/-- A bit of an array from an address of a context. -/
def State.homeBit (s : State) (ctx base i : Nat) : Bool := bits (s.homeNum ctx (base + i / 8) 1) (i % 8) 1 == 1
def State.putBit (s : State) (ctx base i : Nat) (v : Bool) : State :=
  let b := s.homeNum ctx (base + i / 8) 1
  let k := 2 ^ (i % 8)
  s.putNum ctx (base + i / 8) 1 (if v then b ||| k else b - (b &&& k))

/-- A wake of element `e` takes effect (R204): WOKEN and the summary bit of its block, in one update. -/
def State.wakeElem (s : State) (b : Binding) (e : Nat) : State :=
  (s.putBit b.ctx b.sbase (2 * e + 1) true).putBit b.ctx b.ubase (e / 256) true

/-- The offset in an array of `len` bytes from `base` that a physical address, of host memory or of the device, is at. -/
def State.offsetIn (s : State) (host : Bool) (ctx base len pa : Nat) : Option Nat :=
  (List.range ((base + len - 1) / 65536 - base / 65536 + 1)).findSome? fun i =>
    let p := (base / 65536 + i) * 65536
    match s.walk ctx p with
    | .leaf e =>
      if e.host == host && e.addr p / 65536 == pa / 65536 then
        let va := p + pa % 65536
        if base ≤ va && va < base + len then some (va - base) else none
      else none
    | .pageFault => none

/-- What the saved contexts left, each by its latest save. -/
def State.savedRecords (s : State) : Tbl Saved :=
  s.records.filter fun r => (s.ctx r.2.ctx).saved && !s.records.any fun q => q.2.ctx == r.2.ctx && decide (r.1 % 2 ^ 64 < q.1 % 2 ^ 64)

/-- The bindings in force anywhere in the package (R194): those on the dollies, and those that saved contexts keep, which stand
under the keys from 128 on. -/
def State.allBindings (s : State) : List (Nat × Binding) :=
  s.bindings ++ s.savedRecords.flatMap fun (_, r) =>
    r.bindings.map fun (k, b) => (128 + k, { b with ctx := r.ctx })

/-- Bytes of the arrays of a binding (R193, R197). -/
def Binding.skipLen (b : Binding) : Nat := (b.nelem + 255) / 256 * 64
def Binding.sumLen (b : Binding) : Nat := (b.nelem + 131071) / 131072 * 64
def Binding.blocks (b : Binding) : Nat := (b.nelem + 255) / 256

/-- Whether a range of device physical addresses meets an array of `len` bytes from `base`. -/
def State.meets (s : State) (ctx base len pa n : Nat) : Bool :=
  (List.range ((base + len - 1) / 65536 - base / 65536 + 1)).any fun i =>
    let p := (base / 65536 + i) * 65536
    match s.home ctx p with
    | some e =>
      let lo := max base p
      let hi := min (base + len) (p + 65536)
      decide (e.addr lo < pa + n) && decide (pa < e.addr lo + (hi - lo))
    | none => false

/-- Whether a range of device memory meets the context, skip or summary array of a bound tensor (R207). -/
def State.boundArray (s : State) (pa n : Nat) : Bool :=
  s.allBindings.any fun (_, b) =>
    s.meets b.ctx b.cbase (8 * b.nelem) pa n || s.meets b.ctx b.sbase b.skipLen pa n || s.meets b.ctx b.ubase b.sumLen pa n

/-- The lines that the dolly owns (R207): of the summary map the one at the cursor of a running pass, and the skip and context lines of
the elements that it has latched and not written back. -/
def State.dollyOwns (s : State) (pa : Nat) : Bool :=
  s.bindings.any fun (_, b) =>
    let at' (va : Nat) : Bool := match s.home b.ctx va with | some e => e.addr va / 128 == pa / 128 | none => false
    let busy := b.latched.map (·.1) ++ b.live.map (·.1)
    (b.running.isSome && at' (b.ubase + b.cursor / 512 * 64))
      || busy.any fun e => at' (b.cbase + 8 * e) || at' (b.sbase + e / 256 * 64)

/-- The wakes that a write of `n` bytes at `pa` makes when it reaches its home slice (R204): of every element of a binding
with store wakes whose data it touches, but for bytes that a cue run wrote to its own element's data. -/
def State.storeWakes (s : State) (core : Option Nat) (host : Bool) (pa n : Nat) : State :=
  s.allBindings.foldl (fun s (key, b) =>
    if !b.stw then s else
    let own := match core with | some k => (s.core k).own | none => []
    let es := (List.range n).filterMap fun i =>
      if own.contains (key, pa + i) then none
      else (s.offsetIn host b.ctx b.dbase (b.nelem * 2 ^ b.esize) (pa + i)).map (· / 2 ^ b.esize)
    let s := es.foldl (fun s e => s.wakeElem b e) s
    match core with
    | some k => if es = [] || 128 ≤ key then s else { s with bindings := s.bindings.set key { b with wakers := insertNat b.wakers k } }
    | none => s) s

/-! ### Directory -/

def MemSt.dirOf (m : MemSt) (host : Bool) (line : Nat) : DirEnt := if host then m.hostDir.get {} line else m.dir.get {} line
def MemSt.setDir (m : MemSt) (host : Bool) (line : Nat) (e : DirEnt) : MemSt :=
  if host then { m with hostDir := m.hostDir.set line e } else { m with dir := m.dir.set line e }
/-- The line's MARK raised to at least `n` (R252). -/
def MemSt.raiseMark (m : MemSt) (host : Bool) (line n : Nat) : MemSt :=
  let e := m.dirOf host line
  if n ≤ e.mark then m else m.setDir host line { e with mark := n }

/-! ### L2 lines and their owners (R108, R221, R222) -/

/-- The home slice in its die, and the set, of a line (R221). -/
def l2Place (line : Nat) : Nat × Nat :=
  let a := 128 * line
  (bits a 7 7 ^^^ bits a 14 7 ^^^ bits a 21 7 ^^^ bits a 28 7 ^^^ bits a 35 5, bits a 14 10)

/-- The die on which a line has its home (R221). -/
def homeDie (host : Bool) (line : Nat) : Nat := if host then 0 else stackOfPa (128 * line) / 8

def L2Line.is (x : L2Line) (die : Nat) (host : Bool) (line : Nat) : Bool := x.die == die && x.host == host && x.line == line

/-- The line that a fill displaces (R108), among the context ways of its set, most recently used first: `quota` gives the granted
ways of each context, and `ctx` fills. -/
def l2Victim (quota : Nat → Nat) (ctx : Nat) (set : List L2Line) : Option L2Line :=
  let count (o : Nat) : Nat := (set.filter fun x => x.owner == some o).length
  let mine := set.filter fun x => x.owner == some ctx
  if quota ctx ≠ 0 && decide (quota ctx ≤ mine.length) then mine.getLast?
  else if set.length < 15 then none
  else if quota ctx = 0 then set.getLast?
  else
    let free := set.filter fun x => match x.owner with | none => true | some o => decide (quota o < count o)
    match free.getLast? with
    | some v => some v
    | none => match mine.getLast? with
      | some v => some v
      | none => set.getLast?

/-- A line accessed in an L2: a write moves ownership to the writer, and a line that turns dirty or changes its key slot keeps what
memory holds. -/
def L2Line.hit (x : L2Line) (ctx slot : Nat) (write : Bool) (old : List (Nat × List Byte)) : L2Line :=
  let same := x.dirty && x.slot == slot
  { x with dirty := same || write, slot := slot, old := if same then x.old else if write then old else [],
           owner := if write then some ctx else x.owner }

/-- An access to a line in the L2 of a die (R108): a hit is free; a miss fills the line, charged to the context. The line displaced,
if there is one. -/
def l2Put (quota : Nat → Nat) (die ctx : Nat) (host : Bool) (slot line : Nat) (write : Bool) (old : List (Nat × List Byte))
    (l : List L2Line) : List L2Line × Option L2Line :=
  match l.find? fun x => x.is die host line with
  | some x => (x.hit ctx slot write old :: l.filter fun y => !y.is die host line, none)
  | none =>
    let v := l2Victim quota ctx (l.filter fun y => y.die == die && l2Place y.line == l2Place line && !y.background)
    let rest := match v with
      | none => l
      | some v => l.filter fun y => y != v
    let new (o : Option Nat) : L2Line := ⟨host, line, die, o, false, write, slot, if write then old else []⟩
    if quota ctx = 0 then (rest ++ [new none], v) else (new (some ctx) :: rest, v)

/-- The context for which a core accesses memory: the one that holds it, or the owner of a control core. -/
def State.ctxOfCore (s : State) (core : Nat) : Option Nat :=
  if isControlCore core then (s.cluster (clusterOf core)).owner
  else (s.ctxs.find? fun x => x.2.cores.contains core || (x.2.leaving.find core).isSome).map (·.1)

def State.stack (s : State) (k : Nat) : StackSt := s.power.hbms.get {} k
def State.updStack (s : State) (k : Nat) (f : StackSt → StackSt) : State :=
  { s with power := { s.power with hbms := s.power.hbms.set k (f (s.stack k)) } }

/-- An ordinary-path command to the stack of a line waits for the spacing that the memory side's limit asks for (R27). (DESIGN CHOICE, log 82) -/
def State.dramCommand (s : State) (host : Bool) (line : Nat) : State :=
  if host || s.power.memFactor = 0 then s
  else
    let k := stackOfPa (128 * line)
    let s := match (s.stack k).lastCmd with
      | none => s
      | some t => s.until (t + Config.commandGap * s.power.memFactor)
    s.updStack k fun x => { x with lastCmd := some s.now }

/-- The sectors of a line of a key slot as memory holds them, with the key values they were written under. -/
def MemSt.lineKept (m : MemSt) (host : Bool) (slot line : Nat) : List (Nat × List Byte) :=
  if host || slot = 0 then []
  else (List.range 4).map fun i => (m.keyTag.get 0 (4 * line + i), m.dram.read (128 * line + 32 * i) 32)

/-- The copy of a line in the other die is written to the home slice, and stays there clean or is dropped (R222, R248). -/
def State.recall (s : State) (host : Bool) (line : Nat) (keep : Bool) : State :=
  let hd := homeDie host line
  let far (x : L2Line) : Bool := x.die != hd && x.host == host && x.line == line
  s.updMem fun m =>
    let take (x : L2Line) : L2Line :=
      match m.l2.find? far with
      | some f => if x.is hd host line && f.dirty && !x.dirty then { x with dirty := true, slot := f.slot, old := f.old } else x
      | none => x
    let l := m.l2.map take
    let l := if keep then l.map fun x => if far x then { x with dirty := false, old := [] } else x else l.filter fun x => !far x
    { m.setDir host line { m.dirOf host line with remote := keep && (m.dirOf host line).remote, remoteDirty := false } with l2 := l }

/-- One L2 accessed for a context, with a command to DRAM where a home slice misses; a copy that leaves the other die is no longer
recorded at its home (R222). -/
def State.l2One (s : State) (die ctx : Nat) (host : Bool) (slot line : Nat) (write : Bool) : State :=
  let quota (c : Nat) : Nat := (s.ctx c).granted.getD 2 0
  let s := if die = homeDie host line && !(s.mem.l2.any fun x => x.is die host line) then s.dramCommand host line else s
  let put (s : State) : List L2Line × Option L2Line :=
    l2Put quota die ctx host slot line write (if write then s.mem.lineKept host slot line else []) s.mem.l2
  let s := match (put s).2 with
    | some v => if v.die = homeDie v.host v.line then s else s.recall v.host v.line false
    | none => s
  s.updMem fun m => { m with l2 := (put s).1 }

/-- An access from a die for a context (R108, R222): at the home slice, or through a copy in the other die, which a write makes
modified and which the home slice recalls before it answers its own die. An access that `home` says is performed at the home slice
leaves no copy in the other die (R246, R248). Host lines are held only under CXL.cache (R63). (DEDUCED, log 34) -/
def State.l2Access (s : State) (who : Option Nat) (die : Nat) (host : Bool) (slot line : Nat) (write home : Bool) : State :=
  match who with
  | none => s
  | some ctx =>
    if host && !s.cxl then s else
    let hd := homeDie host line
    let d := s.mem.dirOf host line
    if die = hd || home then
      let s := if d.remoteDirty || (write && d.remote) then s.recall host line (!write) else s
      s.l2One hd ctx host slot line write
    else
      let s := if s.mem.l2.any fun x => x.is die host line then s else s.l2One hd ctx host slot line false
      let s := s.l2One die ctx host slot line write
      if d.remote && (d.remoteDirty || !write) then s
      else s.updMem fun m => m.setDir host line { m.dirOf host line with remote := true, remoteDirty := d.remoteDirty || write }

/-- An access by a core. -/
def State.l2Core (s : State) (core : Nat) (host : Bool) (slot line : Nat) (write home : Bool) : State :=
  s.l2Access (s.ctxOfCore core) (dieOf (clusterOf core)) host slot line write home

/-- Bytes written at home by a core, or by another unit; `home` says that the access itself is performed at the home slice. -/
def State.homeWrite (s : State) (core : Option Nat) (home host : Bool) (slot pa : Nat) (bs : List Byte) : State :=
  let s := match core with | some k => s.l2Core k host slot (pa / 128) true home | none => s
  let s := s.homePut host slot pa bs
  if s.allBindings.all (fun x => !x.2.stw) then s else s.storeWakes core host pa bs.length

/-! ### Signatures (R251) -/

/-- The signature bit of a sector (R251). -/
def sigBit (pa : Nat) : Nat :=
  let x := bits pa 5 35
  (bits x 0 10 ^^^ bits x 10 10) ^^^ (bits x 20 10 ^^^ bits x 30 5)

/-- A signature with one sector in it. -/
def sigOf (pa : Nat) : BitVec 1024 := BitVec.ofNat 1024 (1 <<< sigBit pa)

/-- The signature of every sector of a range. -/
def sigRange (pa n : Nat) : BitVec 1024 :=
  if n = 0 then 0 else
  (List.range ((pa + n - 1) / 32 - pa / 32 + 1)).foldl (fun a i => a ||| sigOf (pa / 32 * 32 + 32 * i)) 0

/-! ### L1 (R219) -/

/-- 128 bytes as one vector, byte i at bits 8i+7..8i. -/
def lineOf (bs : List Byte) : BitVec 1024 := BitVec.ofNat 1024 (leNat bs)

/-- Byte `i` of a line. -/
def lineByte (d : BitVec 1024) (i : Nat) : Byte := d.extractLsb' (8 * i) 8

/-- A line with byte `i` written. -/
def lineSet (d : BitVec 1024) (i : Nat) (b : Byte) : BitVec 1024 :=
  let sh := BitVec.ofNat 1024 (255 <<< (8 * i))
  (d &&& ~~~sh) ||| (BitVec.ofNat 1024 (b.toNat <<< (8 * i)))

/-- The L1 set of a line: 256 sets (R219). (DESIGN CHOICE, log 28) -/
def l1Set (line : Nat) : Nat := line % 256

/-- The dirty bytes of a line written back at home, merged by byte (R244). A sector that one store wrote whole loses its poison; any
other keeps it, and goes in parts (R239). -/
def State.writeBack (s : State) (core : Nat) (l : L1Line) : State :=
  if l.dirty = 0 then s else
  (List.range 4).foldl (fun s k =>
    if l.dirty.extractLsb' (32 * k) 32 = BitVec.allOnes 32 then
      let part (a n : Nat) (s : State) : State :=
        s.homeWrite (some core) false l.host l.slot (128 * l.line + 32 * k + a) ((List.range n).map fun i => lineByte l.data (32 * k + a + i))
      if l.whole.getLsbD k then part 0 32 s else part 16 16 (part 0 16 s)
    else
      (List.range 32).foldl (fun s i =>
        if l.dirty.getLsbD (32 * k + i) then
          s.homeWrite (some core) false l.host l.slot (128 * l.line + 32 * k + i) [lineByte l.data (32 * k + i)]
        else s) s) s

def L1Line.is (l : L1Line) (line : Nat) (host : Bool) (slot : Nat) : Bool :=
  l.line == line && l.host == host && l.slot == slot

/-- The line in an L1, if it is held. -/
def CoreSt.l1Find (c : CoreSt) (line : Nat) (host : Bool) (slot : Nat) : Option L1Line :=
  c.l1.find? (fun l => l.is line host slot)

/-- A store of a write buffer performed at its home slice; the accumulator takes its sectors (R251). -/
def State.performStore (s : State) (core : Nat) (w : WBuf) : State :=
  let s := if w.ent.ord = 0 then s.updCore core fun c => { c with accum := c.accum ||| sigRange w.pa w.bytes.length } else s
  s.homeWrite (some core) true w.ent.host w.ent.slot w.pa w.bytes

/-- The core's pending stores to a line are performed (R248): at any time, and always before the core touches the line. -/
def State.drainLine (s : State) (core line : Nat) (host : Bool) : State :=
  let c := s.core core
  if c.wbuf = [] then s else
  let (hit, rest) := c.wbuf.partition (fun w => w.pa / 128 == line && w.ent.host == host)
  if hit = [] then s else
  hit.foldl (fun s w => s.performStore core w) (s.setCore core { c with wbuf := rest })

/-- The line moved to the front of its L1, or filled from home; the least recently used line of its set is written back
and dropped when the set holds eight others (R219). -/
def State.l1Fill (s : State) (core line : Nat) (host : Bool) (slot ord : Nat) : State × L1Line :=
  let s := s.drainLine core line host
  let c := s.core core
  match c.l1Find line host slot with
  | some l => (s.setCore core { c with l1 := l :: c.l1.filter (fun x => !x.is line host slot) }, l)
  | none =>
    let l : L1Line := ⟨line, host, lineOf (s.homeRead host slot (128 * line) 128), 0, ord, slot, 0⟩
    let same := c.l1.filter (fun x => l1Set x.line == l1Set line)
    let victim := if 8 ≤ same.length then same.getLast? else none
    let s := match victim with | some v => s.writeBack core v | none => s
    let kept := match victim with
      | some v => c.l1.filter (fun x => !x.is v.line v.host v.slot)
      | none => c.l1
    ((s.l2Core core host slot line false false).setCore core { c with l1 := l :: kept }, l)

/-- One byte through L1. -/
def State.l1Byte (s : State) (core : Nat) (host : Bool) (slot ord pa : Nat) : State × Byte :=
  let (s, l) := s.l1Fill core (pa / 128) host slot ord
  (s, lineByte l.data (pa % 128))

/-- One byte written in L1 (write allocate). -/
def State.l1SetByte (s : State) (core : Nat) (host : Bool) (slot ord pa : Nat) (b : Byte) : State :=
  let (s, l) := s.l1Fill core (pa / 128) host slot ord
  let l' := { l with data := lineSet l.data (pa % 128) b, dirty := l.dirty ||| BitVec.ofNat 128 (1 <<< (pa % 128)) }
  let c := s.core core
  s.setCore core { c with l1 := l' :: c.l1.filter (fun x => !x.is l.line host slot) }

/-- Lines that satisfy a test are written back, and then dropped from L1 or left clean (R252, R254, R421). -/
def State.flushLines (s : State) (core : Nat) (keep : Bool) (p : L1Line → Bool) : State :=
  let c := s.core core
  let hit := c.l1.filter p
  let s := hit.foldl (fun s l => s.writeBack core l) s
  let l1' := if keep then c.l1.map (fun l => if p l then { l with dirty := 0, whole := 0 } else l) else c.l1.filter (fun l => !p l)
  s.updCore core fun c => { c with l1 := l1' }

/-- The sectors that ranges of bytes cover whole together. -/
def coveredSectors (l : List (Nat × Nat)) : List Nat :=
  let touched := l.foldl (fun t (a, n) =>
    (List.range ((a + n - 1) / 32 - a / 32 + 1)).foldl (fun t i => insertNat t (a / 32 + i)) t) []
  touched.filter fun k => (List.range 32).all fun i => l.any fun (a, n) => decide (a ≤ 32 * k + i) && decide (32 * k + i < a + n)

/-- A store has written sectors of device memory whole: their poison is gone, at home or with the line of the core's L1 that holds
them (R239). -/
def State.wroteWhole (s : State) (core : Nat) (ks : List Nat) : State :=
  ks.foldl (fun s k =>
    let mine (l : L1Line) : Bool := l.line == k / 4 && !l.host
    if (s.core core).l1.any mine then
      let note (l : L1Line) : L1Line := if mine l then { l with whole := l.whole ||| BitVec.ofNat 4 (2 ^ (k % 4)) } else l
      s.updCore core fun c => { c with l1 := c.l1.map note }
    else s.updMem fun m => { m with poison := m.poison.filter (· != k), reported := m.reported.filter (· != k) }) s

/-- A line written back and dropped from the issuing core's L1, before an access to it at home (R248). -/
def State.l1Drop (s : State) (core line : Nat) (host : Bool) : State :=
  let s := s.drainLine core line host
  if ((s.core core).l1.any fun l => l.line == line && l.host == host)
  then s.flushLines core false (fun l => l.line == line && l.host == host) else s

/-! ### Translation (R213-R217) -/

/-- The entry of a TLB that covers an address of a context. -/
def tlbFind (l : List TlbEnt) (ctx va : Nat) : Option TlbEnt :=
  l.find? (fun e => e.ctx == ctx && e.base == va / 2 ^ e.lg * 2 ^ e.lg)

/-- A TLB with an entry put in, newest first, at most `cap` entries. (DESIGN CHOICE, log 29) -/
def tlbPut (cap : Nat) (l : List TlbEnt) (e : TlbEnt) : List TlbEnt :=
  (e :: l.filter (fun x => !(x.ctx == e.ctx && x.base == e.base && x.lg == e.lg))).take cap

/-- The translation a core holds, in its own TLB or its cluster's (R217). -/
def State.tlbHit (s : State) (core ctx va : Nat) : Option TlbEnt :=
  match tlbFind (s.core core).tlb ctx va with
  | some e => some e
  | none => tlbFind (s.cluster (clusterOf core)).tlb2 ctx va

/-- A second-level TLB with an entry put in, newest first: 8 ways in each of 256 sets (R217). (DESIGN CHOICE, log 29) -/
def tlb2Put (l : List TlbEnt) (e : TlbEnt) : List TlbEnt :=
  let set (x : TlbEnt) : Nat := x.base / 2 ^ x.lg % 256
  let rest := l.filter fun x => !(x.ctx == e.ctx && x.base == e.base && x.lg == e.lg)
  let same := rest.filter fun x => set x == set e
  e :: match (if 8 ≤ same.length then same.getLast? else none) with
    | none => rest
    | some v => rest.filter (· != v)

/-- A translation put into a core's TLB and its cluster's (R217). -/
def State.tlbFill (s : State) (core : Nat) (e : TlbEnt) : State :=
  (s.updCore core fun c => { c with tlb := tlbPut 64 c.tlb e }).updCluster (clusterOf core)
    fun c => { c with tlb2 := tlb2Put c.tlb2 e }

/-! ### Access checks (R216, R402) -/

/-- Cause codes of R176. -/
abbrev cILLEGAL : Nat := 0x01
abbrev cDIVERGE : Nat := 0x02
abbrev cINTDZ : Nat := 0x03
abbrev cINTOV : Nat := 0x04
abbrev cFMT : Nat := 0x05
abbrev cSOFTWARE : Nat := 0x06
abbrev cPAGE : Nat := 0x08
abbrev cACCESS : Nat := 0x09
abbrev cPROTECT : Nat := 0x0A
abbrev cALIGN : Nat := 0x0B
abbrev cTYPED : Nat := 0x0C
abbrev cPOISON : Nat := 0x0D
abbrev cROWFAR : Nat := 0x10
abbrev cROWEXPIRED : Nat := 0x11
abbrev cROWCONFLICT : Nat := 0x12
abbrev cROWPOISON : Nat := 0x13
abbrev cROWCLOSED : Nat := 0x14
abbrev cTHERMAL : Nat := 0x20
abbrev cFENCED : Nat := 0x21
abbrev cRESET : Nat := 0x22
abbrev cESCALATED : Nat := 0x23

/-- What an access needs. -/
structure Need where
  n : Nat
  write : Bool := false
  exec : Bool := false
  atomic : Bool := false
  aligned : Bool := false
  /-- An alignment other than its size. -/
  align : Nat := 0
  /-- It is performed at the home slice even when L1 holds the line. -/
  home : Bool := false
  deriving DecidableEq, Repr

/-- DETAIL of causes 0x08-0x0D (R176). (DEDUCED, log 26) -/
def Need.detail (q : Need) : Nat :=
  (if q.write || q.atomic then 1 else 0) + (if q.exec then 2 else 0) + (if q.atomic then 4 else 0)

/-- The outcome of checking one access. -/
inductive Chk where
  /-- The translation of its first byte, and of its last when that lies in another page. -/
  | ok (e : TlbEnt) (e2 : Option TlbEnt)
  /-- No TLB holds the page: a walk is needed. -/
  | miss (va : Nat)
  /-- It must wait. -/
  | stall (w : Wait)
  | bad (cause : Nat) (taddr : Nat)
  deriving DecidableEq, Repr

/-- A page meets one that a scrub job holds (R82). -/
def State.pageHeld (s : State) (e : TlbEnt) : Bool :=
  !e.host && s.scrubs.any fun (_, j) => j.busy && j.pages.any fun (pa, n) => decide (pa < e.pa + 2 ^ e.lg) && decide (e.pa < pa + 4096 * n)

/-- Permission of a page for an access (R216, R80, R408). A mapping of a page that a scrub job holds gives no access: it faults as one
that does not translate (R82). (DESIGN CHOICE, log 109) -/
def State.permits (s : State) (e : TlbEnt) (q : Need) : Option Nat :=
  if (q.exec && !e.x) || (q.atomic && !(e.r && e.w)) || (q.write && !q.atomic && !e.w)
      || (!q.write && !q.exec && !q.atomic && !e.r) || (q.atomic && e.host && !s.cxl) then some cACCESS
  else if e.slot ≠ 0 && (s.keys.find e.slot).isNone then some cPROTECT
  else if s.pageHeld e then some cPAGE
  else none

/-- Whether the access to an address goes to the home slice: by its page, because it asks to (R404), or because the dolly owns the
line (R207). -/
def atHome (s : State) (e : TlbEnt) (pa : Nat) (home : Bool) : Bool :=
  home || e.ord == ordSO || (e.host && !s.cxl) || (!e.host && s.bindings != [] && s.dollyOwns pa)

/-- Whether a sector that an access reads is poisoned and has not been written whole in the core's L1 (R239). -/
def State.poisoned (s : State) (core : Nat) (e : TlbEnt) (pa n : Nat) : Bool :=
  !e.host && s.mem.poison.any fun k =>
    k * 32 < pa + n && pa < k * 32 + 32 &&
    !((s.core core).l1.any fun l => l.line == k / 4 && !l.host
        && l.whole.getLsbD (k % 4))

/-- The first line of an access that engine items own and that the access must reach at home (R223, R256); lines whose owners at its
arrival are done hold it no longer. -/
def State.ownedLine (s : State) (core : Nat) (e : TlbEnt) (pa n : Nat) (home : Bool) (seen : List BadPage) : Option Nat :=
  ((List.range ((pa + n - 1) / 128 - pa / 128 + 1)).map (pa / 128 + ·)).find? fun k =>
    (s.mem.dirOf e.host k).owners ≠ [] && !(seen.any fun b => b.line == some (e.host, k)) && (home || ((s.core core).l1Find k e.host e.slot).isNone)

/-- One part of an access within one page. -/
def State.checkPart (s : State) (core ctx va n : Nat) (bad : List BadPage) (q : Need) : Chk :=
  match bad.find? (fun b => b.page == va / 65536) with
  | some b => .bad b.cause va
  | none =>
  match s.tlbHit core ctx va with
  | none => .miss va
  | some e =>
    match s.permits e q with
    | some c => .bad c va
    | none =>
      let pa := e.addr va
      if (q.write || q.atomic) && !e.host && s.boundArray pa n then .bad cACCESS va
      else if (q.write || q.atomic) && s.migrating.contains (pa / 65536) && !e.host then .stall (.migrating (pa / 65536))
      else
        match s.ownedLine core e pa n (atHome s e pa q.home) bad with
        | some k => .stall (.owned e.host k (s.mem.dirOf e.host k).owners)
        | none =>
        if (!q.write || q.atomic) && !q.exec && s.poisoned core e pa n then .bad cPOISON va
        else .ok e none

/-- One access checked: address bits, alignment, translation, permission, ownership, poison (R216, R310, R402). The address
is the 64-bit pair. -/
def State.checkAccess (s : State) (core ctx va : Nat) (bad : List BadPage) (q : Need) : Chk :=
  if 2 ^ 57 ≤ va then .bad cPAGE va
  else if (q.align ≠ 0 && va % q.align ≠ 0) || (q.aligned && va % q.n ≠ 0) then
    -- PAGE and ACCESS of the same access come first (R402)
    match s.checkPart core ctx va 1 bad q with
    | .ok .. => .bad cALIGN va
    | .bad c t => if c < cALIGN then .bad c t else .bad cALIGN va
    | r => r
  else
    let inPage := 65536 - va % 65536
    if q.n ≤ inPage then s.checkPart core ctx va q.n bad q
    else
      match s.checkPart core ctx va inPage bad q with
      | .ok e _ =>
        let va2 := (va + inPage) % 2 ^ 57
        (match s.checkPart core ctx va2 (q.n - inPage) bad q with
          | .ok e2 _ => .ok e (some e2)
          | r => r)
      | r => r

/-! ### Performing accesses -/

/-- Who accesses: the core, the crew and the thread of the crew. -/
structure Agent where
  core : Nat
  crew : Nat
  thread : Nat
  deriving DecidableEq, Repr

/-- The translation and the address of byte `i` of a checked access. -/
def partOf (va i : Nat) (e : TlbEnt) (e2 : Option TlbEnt) : TlbEnt × Nat :=
  match e2 with
  | none => (e, e.addr va + i)
  | some e2 => if va % 65536 + i < 65536 then (e, e.addr va + i) else (e2, e2.addr ((va + i) % 2 ^ 57))

/-- One byte read where its page and kind say (R404). -/
def State.loadByte (s : State) (core : Nat) (e : TlbEnt) (pa : Nat) (home : Bool) : State × Byte :=
  if atHome s e pa home then
    let s := (s.l1Drop core (pa / 128) e.host).l2Core core e.host e.slot (pa / 128) false true
    (s, ((s.homeRead e.host e.slot pa 1).headD 0))
  else s.l1Byte core e.host e.slot e.ord pa

/-- `n` bytes read, first byte first. -/
def State.loadBytes (s : State) (core va : Nat) (e : TlbEnt) (e2 : Option TlbEnt) (home : Bool) : Nat → Nat → State × List Byte
  | _, 0 => (s, [])
  | i, n + 1 =>
    let (f, pa) := partOf va i e e2
    let (s, b) := s.loadByte core f pa home
    let (s, bs) := State.loadBytes s core va e e2 home (i + 1) n
    (s, b :: bs)

/-- The accumulator bit of a store to a release-consistent page (R251). -/
def State.noteStore (s : State) (core : Nat) (e : TlbEnt) (pa : Nat) : State :=
  if e.ord = ordRC then s.updCore core fun c => { c with accum := c.accum ||| sigOf pa } else s

/-- Bytes that a core is about to store for a thread: while they wait to be written home they wake nothing when the thread is
a cue run of the element whose data they are (R204). `self` names that binding and element. -/
def State.claim (s : State) (core : Nat) (self : Option (Nat × Nat)) (va pa n : Nat) : State :=
  if s.bindings = [] then s else
  let left := (s.core core).own.filter fun x => !(decide (pa ≤ x.2) && decide (x.2 < pa + n))
  let mine := match self with
    | some (key, e) =>
      (match s.bindings.find key with
        | some b => (List.range n).filterMap fun i =>
            let a := va + i
            if b.dbase + e * 2 ^ b.esize ≤ a && a < b.dbase + (e + 1) * 2 ^ b.esize then some (key, pa + i) else none
        | none => [])
    | none => []
  s.updCore core fun c => { c with own := left ++ mine }

/-- One byte stored where its page and kind say (R404). -/
def State.storeByte (s : State) (core : Nat) (e : TlbEnt) (pa : Nat) (home : Bool) (b : Byte) : State :=
  let s := s.noteStore core e pa
  if atHome s e pa home then
    (s.l1Drop core (pa / 128) e.host).homeWrite (some core) true e.host e.slot pa [b]
  else s.l1SetByte core e.host e.slot e.ord pa b

/-- Bytes stored, first byte first. -/
def State.storeBytes (s : State) (core va : Nat) (e : TlbEnt) (e2 : Option TlbEnt) (home : Bool) : Nat → List Byte → State
  | _, [] => s
  | i, b :: bs =>
    let (f, pa) := partOf va i e e2
    State.storeBytes (s.storeByte core f pa home b) core va e e2 home (i + 1) bs

/-- Hidden stores of some elements of a binding become visible, as stores that wake nothing of their own element (R203, R204): on a
core, or at their home slices. -/
def State.reveal (s : State) (core : Option Nat) (key : Nat) (p : Nat → Bool) : State :=
  match s.bindings.find key with
  | none => s
  | some b =>
    if b.hidden = [] then s
    else
      let (hit, rest) := b.hidden.partition fun h => p h.elem
      hit.foldl (fun s h =>
        let e := match s.walk b.ctx h.va with | .leaf e => e | .pageFault => h.ent
        match core with
        | some k => (s.claim k (some (key, h.elem)) h.va (e.addr h.va) 1).storeByte k e (e.addr h.va) false h.byte
        | none => s.homePut e.host e.slot (e.addr h.va) [h.byte])
        { s with bindings := s.bindings.set key { b with hidden := rest } }

/-- Whether an address lies in the data of an element of a binding. -/
def Binding.ownData (b : Binding) (e va : Nat) : Bool :=
  decide (b.dbase + e * 2 ^ b.esize ≤ va) && decide (va < b.dbase + (e + 1) * 2 ^ b.esize)

/-- Bytes stored by a cue run of an element: those of its own data stay hidden (R203). -/
def State.storeHidden (s : State) (core key elem va : Nat) (e : TlbEnt) (e2 : Option TlbEnt) : Nat → List Byte → State
  | _, [] => s
  | i, x :: bs =>
    let (f, pa) := partOf va i e e2
    let s := match s.bindings.find key with
      | some b => if b.ownData elem (va + i) && !atHome s f pa false
          then { s with bindings := s.bindings.set key { b with hidden := b.hidden ++ [⟨elem, va + i, f, x⟩] } }
          else s.storeByte core f pa false x
      | none => s.storeByte core f pa false x
    State.storeHidden s core key elem va e e2 (i + 1) bs

/-- What a cue run reads of bytes that it has stored itself and that are hidden. -/
def State.seeHidden (s : State) (key elem va : Nat) (bs : List Byte) : List Byte :=
  let l := match s.bindings.find key with | some b => b.hidden | none => []
  if l = [] then bs
  else bs.zipIdx.map fun (b, i) =>
    match l.reverse.find? fun h => h.elem == elem && h.va == va + i with
    | some h => h.byte
    | none => b

/-- The hidden stores of a thread become visible when it releases, if it is a cue run. -/
def State.revealThread (s : State) (core : Nat) (who : Option (Nat × Nat)) : State :=
  match who with
  | none => s
  | some (cr, t) =>
    match s.crews.find cr with
    | some c => if c.kind = .cue then s.reveal (some core) c.binding (· == t) else s
    | none => s

/-- Every pending store of one thread is performed; `none` for every thread of the core. -/
def State.drainThread (s : State) (core : Nat) (who : Option (Nat × Nat)) : State :=
  let s := s.revealThread core who
  let c := s.core core
  if c.wbuf = [] then s else
  let (hit, rest) := c.wbuf.partition (fun w => match who with | none => true | some (cr, t) => w.crew == cr && w.thread == t)
  hit.foldl (fun s w => s.performStore core w) (s.setCore core { c with wbuf := rest })

/-! ### Releases and acquires (R251-R254) -/

/-- Whether a line matches a signature: the bit of any of its four sectors is set (R251). -/
def sigMatches (sig : BitVec 1024) (line : Nat) : Bool :=
  (List.range 4).any fun k => sig.getLsbD (sigBit (128 * line + 32 * k))

/-- A signature appended to the release log, which holds the latest 512; its sequence number is the new `logSeq` (R253). -/
def State.logAppend (s : State) (sig : BitVec 1024) : State :=
  s.updMem fun m => { m with relLog := (sig :: m.relLog).take 512, logSeq := m.logSeq + 1 }

/-- Steps 1 to 3 of a release by a thread at a scope (R252), and the mark. A release below cluster scope runs step 1 only. -/
def State.release (s : State) (core : Nat) (who : Option (Nat × Nat)) (scope : Nat) : State × Nat :=
  let s := s.drainThread core who
  if scope < scCluster then (s, 0) else
  let s := s.flushLines core true (fun l => l.ord == ordRC && l.dirty != 0)
  let c := s.core core
  let s := if c.accum = 0 then s else (s.logAppend c.accum).setCore core { c with accum := 0 }
  (s, s.mem.logSeq)

/-- An acquire of mark `n` by a core (R254): lines that match the log entries since ACQMARK are written back and dropped, or
every line of a release-consistent page when an entry it needs has left the log. -/
def State.acquire (s : State) (core n : Nat) : State :=
  let c := s.core core
  if n ≤ c.acqMark then s else
  let h := s.mem.logSeq
  let s :=
    if h - c.acqMark ≤ 512 then
      -- entries ACQMARK+1 .. n: the log is newest first, entry h first
      let sig := ((s.mem.relLog.drop (h - n)).take (n - c.acqMark)).foldl (· ||| ·) 0
      s.flushLines core false (fun l => l.ord == ordRC && sigMatches sig l.line)
    else s.flushLines core false (fun l => l.ord == ordRC)
  s.updCore core fun c => { c with acqMark := n }

/-- An acquire of the log head (R250, R255). -/
def State.acquireHead (s : State) (core : Nat) : State := s.acquire core s.mem.logSeq

/-- The release and acquire of a placement or an end at package scope (R255). -/
def State.releaseAll (s : State) (core : Nat) : State := (s.release core none scPackage).1

/-- `FENCE.FULL` on a core's L1 (R250): every dirty sector is written back and every line of release-consistent and
unordered pages dropped. -/
def State.fullFence (s : State) (core : Nat) : State :=
  let s := s.drainThread core none
  s.flushLines core false (fun _ => true)

/-- An SR store at cluster scope or wider waits in a banked write buffer (R248); the line leaves the issuing core's L1. (DEDUCED, log 30) -/
def State.bufferStore (s : State) (a : Agent) (e : TlbEnt) (pa : Nat) (bs : List Byte) : State :=
  let s := if ((s.core a.core).l1.any fun l => l.line == pa / 128 && l.host == e.host)
    then s.flushLines a.core false (fun l => l.line == pa / 128 && l.host == e.host) else s
  s.updCore a.core fun c =>
    { c with wbuf := c.wbuf ++ [⟨a.crew, a.thread, pa, bs, bits pa 7 2, e⟩] }

/-- A load that sees DONE in a status or completion word of an engine acquires the command's mark at its scope (R256, R287). -/
def State.observe (s : State) (core va : Nat) (e : TlbEnt) (e2 : Option TlbEnt) (bs : List Byte) : State :=
  if s.mem.doneWords = [] then s
  else bs.zipIdx.foldl (fun s (b, i) =>
    if b.toNat < 128 then s
    else
      let (f, pa) := partOf va i e e2
      match s.mem.doneWords.find (2 * pa + if f.host then 1 else 0) with
      | some (mark, scope) => if scCluster ≤ scope then s.acquire core mark else s
      | none => s) s

/-- `n` bytes loaded by a thread, which observes the completion words among them. -/
def State.loadSeen (s : State) (core va : Nat) (e : TlbEnt) (e2 : Option TlbEnt) (home : Bool) (n : Nat) : State × List Byte :=
  let (s, bs) := s.loadBytes core va e e2 home 0 n
  (s.observe core va e e2 bs, bs)

/-! ### Scratchpad (R224-R228) -/

/-- A scratchpad byte of a core. -/
def CoreSt.spadByte (c : CoreSt) (off : Nat) : Byte := c.spad.get off

end Sys2Proof.Machine
end

