-- ==== Sys2Proof/Machine/Bus.lean ====
section
/-! DEFINITION. The open-row bus below the instructions: its times, the row trackers and their timers, the typed buffers as
row ports and shared writes reach them (R229-R237, R428, R459). -/

namespace Sys2Proof.Machine

/-! ### Times (R234), in ps -/

abbrev tFirst : Nat := 12000
abbrev tOpenMin : Nat := 28000
abbrev tOpenMax : Nat := 2800000
abbrev tPrecharge : Nat := 12000
abbrev tRefresh : Nat := 120000
abbrev tRefreshInterval : Nat := 3900000

def State.pw (s : State) (cl : Nat) : ClusterPw := s.power.clusters.get {} cl
def State.updPw (s : State) (cl : Nat) (f : ClusterPw → ClusterPw) : State :=
  { s with power := { s.power with clusters := s.power.clusters.set cl (f (s.pw cl)) } }

/-- The length of eight cluster cycles (R22, R425). -/
def State.xferPs (s : State) (cl : Nat) : Nat := 8000000 / (800 + 25 * (s.pw cl).step)

/-- A bank of the package by stack. -/
def bankKey (stack bank : Nat) : Nat := 384 * stack + bank
def State.bank (s : State) (stack bank : Nat) : BankSt := s.mem.banks.get {} (bankKey stack bank)
def State.updBank (s : State) (stack bank : Nat) (f : BankSt → BankSt) : State :=
  s.updMem fun m => { m with banks := m.banks.set (bankKey stack bank) (f (s.bank stack bank)) }


/-! ### Typed buffers as row ports and instructions write them -/

def State.mx (s : State) (cl : Nat) : MatrixSt := (s.cluster cl).mx
def State.updMx (s : State) (cl : Nat) (f : MatrixSt → MatrixSt) : State :=
  s.updCluster cl fun c => { c with mx := f c.mx }

/-- Sizes of the stages and of the tile file (R212). -/
abbrev weightSize : Nat := 0x600000
abbrev activSize : Nat := 0x300000
abbrev tileSize : Nat := 16384

/-- The units of a size that a range covers whole, and those it touches. -/
def wholeUnits (g a n : Nat) : List Nat :=
  (List.range (n / g + 1)).filterMap fun i => let k := (a + g - 1) / g + i; if g * k + g ≤ a + n then some k else none
def touchedUnits (g a n : Nat) : List Nat :=
  if n = 0 then [] else (List.range ((a + n - 1) / g - a / g + 1)).map (a / g + ·)

/-- Poisoned units after a write of clean bytes (R239). -/
def clearPoison (g : Nat) (p : List Nat) (a n : Nat) : List Nat :=
  if p = [] then [] else p.filter fun k => !(wholeUnits g a n).contains k

def MatrixSt.writeTile (m : MatrixSt) (a : Nat) (bs : List Byte) : MatrixSt :=
  { m with tiles := m.tiles.write a bs, tPoison := clearPoison 32 m.tPoison a bs.length }
def MatrixSt.writeWeight (m : MatrixSt) (a : Nat) (bs : List Byte) : MatrixSt :=
  { m with weight := m.weight.write a bs, wPoison := clearPoison 256 m.wPoison a bs.length }
def MatrixSt.writeActiv (m : MatrixSt) (a : Nat) (bs : List Byte) : MatrixSt :=
  { m with activ := m.activ.write a bs, aPoison := clearPoison 64 m.aPoison a bs.length }

/-- The rank of a cluster in its group: its number within the die less FIRST (R458). -/
def MatrixSt.rank (m : MatrixSt) (cl : Nat) : Option Nat := m.coop.map fun g => cl % 16 - g.1

/-- The other members of a cluster's group. -/
def MatrixSt.others (m : MatrixSt) (cl : Nat) : List Nat :=
  match m.coop with
  | none => []
  | some (f, n) => ((List.range (n + 1)).map fun i => 16 * dieOf cl + f + i).filter (· != cl)

/-- A write that rank 0 makes to a tile: a shared tile's write goes to every member, and is under way until it has reached
each of them (R459). -/
def State.shareTile (s : State) (cl t : Nat) (w : SharedWhat) : State :=
  let m := s.mx cl
  if 12 ≤ t && m.rank cl == some 0 then
    s.updMx cl fun m => { m with shared := m.shared ++ (m.others cl).map fun k => ⟨k, t, w⟩ }
  else s

/-- A write to a shared tile by a member other than rank 0 is ILLEGAL (R459). -/
def State.sharedIllegal (s : State) (cl t : Nat) : Bool :=
  12 ≤ t && (match (s.mx cl).rank cl with | some r => r != 0 | none => false)

/-- Bytes written to tile storage by a cluster's control thread or its row ports, shared as R459 lays down. -/
def State.tileWrite (s : State) (cl t off : Nat) (bs : List Byte) : State :=
  (s.updMx cl fun m => m.writeTile (tileSize * t + off) bs).shareTile cl t (.bytes off bs)

/-! ### The tracker and its timers -/

/-- A row transfer that has ended: its bytes stand in the tile or in the weight stage (R425). -/
def State.endXfer (s : State) (cl : Nat) (x : RowXfer) : State :=
  match x.tile with
  | some t => s.tileWrite cl t x.off x.data
  | none => s.updMx cl fun m => m.writeWeight x.off x.data

/-- The transfers of a cluster that have ended by `now`, in the order of their ends. -/
def State.settleXfers (s : State) (cl : Nat) : State :=
  let (done, rest) := (s.cluster cl).xfers.partition fun x => x.tEnd ≤ s.now
  done.foldl (fun s x => s.endXfer cl x) (s.updCluster cl fun c => { c with xfers := rest })

/-- The end of the last transfer of a bank, at or after `t`. -/
def ClusterSt.xferEnd (c : ClusterSt) (bank t : Nat) : Nat :=
  c.xfers.foldl (fun m x => if x.bank = bank && m < x.tEnd then x.tEnd else m) t

/-- A refresh of a bank that starts at a time: the next is due one interval after this one was, and not before an activate that waits
can have been issued (R235, R236). -/
def BankSt.refresh (b : BankSt) (t : Nat) : BankSt :=
  { b with refEnd := t + tRefresh, refWaits := false,
           refDue := max (b.refDue + tRefreshInterval) (t + tRefresh + tOpenMin + tPrecharge) }

/-- A precharge of an entry starts at a time (R235, R236): the bank is busy until it ends, and a refresh that waited for the row
follows. -/
def State.startPrecharge (s : State) (cl bank t : Nat) (st : RowState) : State :=
  let s := s.updCluster cl fun c => { c with rows := c.rows.map fun r =>
    if r.bank = bank then { r with st := st, tPre := some t, data := [] } else r }
  s.updBank (stackOf cl) bank fun b =>
    let b := { b with preEnd := t + tPrecharge }
    if b.refWaits then b.refresh (t + tPrecharge) else b

/-- An entry open at the end of its window is closed by the device (R236). -/
def State.forceClose (s : State) (cl : Nat) (r : RowEnt) : State :=
  s.startPrecharge cl r.bank ((s.cluster cl).xferEnd r.bank (r.tAct + tOpenMax)) .expired

/-- Timers of a cluster's tracker brought up to `now`: transfers that ended, windows that passed, precharges that ended. -/
def State.settleCluster (s : State) (cl : Nat) : State :=
  let due := (s.cluster cl).rows.filter fun r => r.st == .opened && r.tAct + tOpenMax ≤ s.now
  let s := due.foldl (fun s r => s.forceClose cl r) s
  let s := s.settleXfers cl
  let keep (r : RowEnt) : Bool := match r.st, r.tPre with
    | .closing, some t => s.now < t + tPrecharge
    | _, _ => true
  if (s.cluster cl).rows.all keep then s else s.updCluster cl fun c => { c with rows := c.rows.filter keep }

/-- The trackers of both clusters under a stack brought up to `now`. -/
def State.settleStack (s : State) (stack : Nat) : State := (s.settleCluster (2 * stack)).settleCluster (2 * stack + 1)

/-- The entry of a bank. -/
def ClusterSt.row (c : ClusterSt) (bank : Nat) : Option RowEnt := c.rows.find? fun r => r.bank == bank

/-- Busy entries of a cluster (R233, R427). -/
def ClusterSt.busyRows (c : ClusterSt) (now : Nat) : Nat :=
  (c.rows.filter fun r => match r.st, r.tPre with
    | .expired, some t => decide (now < t + tPrecharge)
    | _, _ => true).length

/-- Whether the spacing of R27 and R30 lets a row be activated on a stack. -/
def State.mayActivate (s : State) (stack : Nat) : Bool :=
  let k := s.stack stack
  let factor := Config.activateGap * s.power.memFactor
  let gap := if k.band = 3 then max factor 64000 else factor
  match k.lastAct with
  | none => true
  | some t => decide (t + gap ≤ s.now)

/-- Every open row of a cluster is closed as by a forced close, after its transfers, and the device waits for every
precharge: the banks are left EXPIRED (R428). (DEDUCED, log 40) -/
def State.closeRowsNow (s : State) (cl : Nat) : State :=
  let s := s.until ((s.cluster cl).xfers.foldl (fun m x => max m x.tEnd) s.now)
  let s := s.settleCluster cl
  let s := (s.cluster cl).rows.foldl (fun s r => if r.st == .opened then s.startPrecharge cl r.bank s.now .expired else s) s
  let ends := (s.cluster cl).rows.foldl (fun m r => match r.tPre with | some t => max m (t + tPrecharge) | none => m) s.now
  let s := s.until ends
  s.updCluster cl fun c => { c with rows := c.rows.filterMap fun r => if r.st == .closing then none else some r }

end Sys2Proof.Machine
end

