-- ==== Sys2Proof/Machine/Dailies.lean ====
section
/-! DEFINITION. Time in ticks, dailies records and their rings (R85-R88), MSI-X vectors, and what the end of a crew means for
its slate (R137, R186). -/

namespace Sys2Proof.Machine

/-- The management core's 200 MHz tick count (R85). -/
def State.tick (s : State) : Nat := s.now / 5000

def State.func (s : State) (f : Nat) : Func := s.funcs.get {} f
def State.updFunc (s : State) (f : Nat) (g : Func → Func) : State := { s with funcs := s.funcs.set f (g (s.func f)) }
/-- The function that a context belongs to (R65). -/
def State.funcOf (s : State) (ctx : Nat) : Nat := (s.ctx ctx).func

/-- A vector of a function is raised. -/
def State.raiseVector (s : State) (f v : Nat) : State :=
  { s with vectors := s.vectors.set (32 * f + v) (s.vectors.get 0 (32 * f + v) + 1) }

/-- The bytes of a record (R85). -/
def Rec.bytes (r : Rec) (lap : Bool) : List Byte :=
  bytesLE 2 r.code ++ bytesLE 1 r.cls ++ bytesLE 1 (r.flags + 8 * lap.toNat) ++ bytesLE 2 r.ctx ++ bytesLE 2 r.unit
    ++ bytesLE 8 r.tick ++ bytesLE 8 r.a0 ++ bytesLE 8 r.l0 ++ bytesLE 8 r.a1 ++ bytesLE 8 r.l1 ++ bytesLE 8 r.d0
    ++ bytesLE 4 r.d1 ++ bytesLE 2 r.seq ++ bytesLE 1 r.space ++ bytesLE 1 0

/-- A value of `DLSIZE` that enables the ring: a power of two from 64 to 65,536 (R86). -/
def ringEnabled (n : Nat) : Bool := decide (64 ≤ n) && decide (n ≤ 65536) && n == 2 ^ Nat.log2 n

/-- A record written at the head of the ring, or dropped when the ring is full (R85). -/
def State.ringPut (s : State) (f : Nat) (r : Rec) : State :=
  let x := s.func f
  if (x.dlhead + 1) % x.dlsize = x.dltail % x.dlsize then
    s.updFunc f fun x => { x with dllost := x.dllost ||| 2 ^ r.cls }
  else
    let s := s.updMem fun m => { m with hostMem := m.hostMem.write (x.ringBase + 64 * x.dlhead) (r.bytes x.lap) }
    let h := (x.dlhead + 1) % x.dlsize
    (s.updFunc f fun x => { x with dlhead := h, lap := if h = 0 then !x.lap else x.lap }).raiseVector f 0

/-- A record posted to a function's ring: it takes its number and its tick; with the ring disabled it goes to the backlog of
64, or is dropped (R86). -/
def State.post (s : State) (f : Nat) (r : Rec) : State :=
  let x := s.func f
  let r := { r with seq := x.seq, tick := s.tick }
  let s := s.updFunc f fun x => { x with seq := (x.seq + 1) % 65536 }
  if ringEnabled x.dlsize then s.ringPut f r
  else if x.backlog.length < 64 then s.updFunc f fun x => { x with backlog := x.backlog ++ [r] }
  else s.updFunc f fun x => { x with dllost := x.dllost ||| 2 ^ r.cls }

/-- Codes of R87. The PC and slate addresses that a record names are virtual (SPACE 1). (DEDUCED, log 27) -/
abbrev recSubmitReject : Rec := { code := 0x0001 }
abbrev recDeadlineMiss : Rec := { code := 0x0002 }
abbrev recWatchdog : Rec := { code := 0x0003, cls := 2 }
abbrev recEccCorrected : Rec := { code := 0x0010, cls := 1 }
abbrev recEccUncorrected : Rec := { code := 0x0011, cls := 2 }
abbrev recRowPoison : Rec := { code := 0x0012, cls := 2 }
abbrev recSoftError : Rec := { code := 0x0013, cls := 1 }
abbrev recPageMigrated : Rec := { code := 0x0020 }
abbrev recClusterFenced : Rec := { code := 0x0021, cls := 3 }
abbrev recThermalTrip : Rec := { code := 0x0022, cls := 3 }
abbrev recThermalClear : Rec := { code := 0x0023 }
abbrev recLinkState : Rec := { code := 0x0030 }
abbrev recMergeStale : Rec := { code := 0x0031 }
abbrev recPackageLost : Rec := { code := 0x0032, cls := 3 }
abbrev recVfReset : Rec := { code := 0x0040 }
abbrev recScrubDone : Rec := { code := 0x0041 }
abbrev recTrapEscalated : Rec := { code := 0x0042, cls := 2 }

/-- UNIT by kind and number (R85). -/
def unitOf (kind n : Nat) : Nat := 4096 * kind + n % 4096

/-! ### Poisoned memory reported (R240) -/

/-- Sorted numbers cut into runs: first and length. -/
def runsOf : List Nat → List (Nat × Nat)
  | [] => []
  | k :: t =>
    match runsOf t with
    | [] => [(k, 1)]
    | (a, n) :: r => if a = k + 1 then (k, n + 1) :: r else (k, 1) :: (a, n) :: r

/-- Records of one cause, ascending, FLAGS [2] on every one but the last (R88). -/
def State.postRanges (s : State) (f : Nat) (r : Rec) : List (Nat × Nat) → State
  | [] => s
  | [(a, n)] => s.post f { r with a0 := a, l0 := n, flags := 1 }
  | (a, n) :: rest => State.postRanges (s.post f { r with a0 := a, l0 := n, flags := 5 }) f r rest

/-- The first detection of poisoned sectors by an access for a context (none for a background task): the PF's records in
device physical addresses, and for a VF's context its own in device virtual ones. `vas` gives each sector's virtual address. -/
def State.reportSectors (s : State) (code : Rec) (ctx : Option Nat) (sectors : List (Nat × Nat)) : State :=
  let new := sectors.filter fun x => !s.mem.reported.contains x.1
  match new with
  | [] => s
  | (k, _) :: _ =>
    let ks := (new.map (·.1)).foldl insertNat []
    let s := s.updMem fun m => { m with reported := ks.foldl insertNat m.reported }
    let c := ctx.getD 0xFFFF
    let r : Rec := { code with ctx := c, unit := unitOf 1 (stackOfPa (32 * k)) }
    let s := s.postRanges 0 r ((runsOf ks).map fun (a, n) => (32 * a, 32 * n))
    match ctx with
    | none => s
    | some c =>
      if s.funcOf c = 0 then s
      else
        let vs := (new.map fun x => x.2 / 32).foldl insertNat []
        s.postRanges (s.funcOf c) { r with space := 1 } ((runsOf vs).map fun (a, n) => (32 * a, 32 * n))

/-! ### Slates and the end of crews -/

def State.queue (s : State) (d : Nat) : Queue := s.queues.get {} d
def State.updQueue (s : State) (d : Nat) (f : Queue → Queue) : State := { s with queues := s.queues.set d (f (s.queue d)) }
def State.slate (s : State) (k : Nat) : Option Slate := s.slates.find k
def State.updSlate (s : State) (k : Nat) (f : Slate → Slate) : State :=
  match s.slates.find k with
  | some x => { s with slates := s.slates.set k (f x) }
  | none => s

/-- The CAUSE of R125 that a crew's stop gives its slate (R186): 0 for an end by exit. (DEDUCED, log 76) -/
def failOf (cause : Nat) : Nat :=
  if cause = 0 || cause = 0xFF then 0 else if cause = cFENCED then 6 else if cause = cRESET then 3 else 2

/-- A crew or a control thread has ended: its slate counts it, and keeps the first cause of failure. `cause` is 0 for an end
by exit, 0xFF for one as cancelled. -/
def State.crewEnded (s : State) (_cid : Nat) (c : Crew) (cause : Nat) : State :=
  s.updSlate c.slate fun x =>
    let x := { x with cancelled := x.cancelled || cause == 0xFF, fail := if x.fail = 0 then failOf cause else x.fail }
    match c.kind with
    | .control => { x with ctlEnded := insertNat x.ctlEnded c.member }
    | .vector => { x with ended := x.ended + 1 }
    | .cue => x

end Sys2Proof.Machine
end

