-- ==== Sys2Proof/Machine/Tensor.lean ====
section
/-! DEFINITION. Element contexts of bound tensors (R193-R197, R199, R201, R211, R502): reading them, writing them back with
their LIVE bits, and counting faults. -/

namespace Sys2Proof.Machine

/-- The key of binding `n` of a cluster's dolly. -/
def bindKey (cl n : Nat) : Nat := 4 * cl + n % 4
def State.updBinding (s : State) (key : Nat) (f : Binding → Binding) : State :=
  match s.bindings.find key with
  | some b => { s with bindings := s.bindings.set key (f b) }
  | none => s

/-- Fields of a context (R195). -/
def ctxCuepc (w : Nat) : Nat := bits w 0 16
def ctxWait (w : Nat) : Nat := bits w 16 4
def ctxArg (w : Nat) : Nat := bits w 20 8
def ctxFlt (w : Nat) : Bool := bits w 28 1 == 1
def ctxData (w : Nat) : Nat := bits w 32 32

/-- A context put together; `rest` is bits [31:29]. -/
def ctxWord (cuepc wait arg : Nat) (flt : Bool) (rest data : Nat) : Nat :=
  cuepc % 65536 + 65536 * (wait % 16) + 2 ^ 20 * (arg % 256) + 2 ^ 28 * flt.toNat + 2 ^ 29 * (rest % 8) + 2 ^ 32 * (data % 2 ^ 32)

/-- The context of an element as it stands at home. -/
def State.context (s : State) (b : Binding) (e : Nat) : Nat := s.homeNum b.ctx (b.cbase + 8 * e) 8

/-- The dolly's access to a line of a bound tensor's arrays, for the context of the binding (R108, R207). -/
def State.dollyLine (s : State) (key : Nat) (b : Binding) (va : Nat) (write : Bool) : State :=
  match s.home b.ctx va with
  | some e => s.l2Access (some b.ctx) (dieOf (key / 4)) e.host e.slot (e.addr va / 128) write false
  | none => s

/-- A context written back, and in the same step LIVE of its element (R199): 1 while WAIT is RUN or TIMED. What its run has stored to the
element's data is performed first (R203). -/
def State.putContext (s : State) (key : Nat) (b : Binding) (e w : Nat) : State :=
  let core := (s.crews.find? fun c => c.2.kind == .cue && c.2.binding == key && c.2.warps.any fun x => x.2.lanes.contains (some e)).map (·.2.core)
  let s := ((s.reveal core key (· == e)).dollyLine key b (b.cbase + 8 * e) true).dollyLine key b (b.sbase + e / 256 * 64) true
  let s := s.putNum b.ctx (b.cbase + 8 * e) 8 w
  let s := s.putBit b.ctx b.sbase (2 * e) (!ctxFlt w && (ctxWait w == 0 || ctxWait w == 2))
  let sig := match s.home b.ctx (b.cbase + 8 * e) with
    | some t => sigOf (t.addr (b.cbase + 8 * e))
    | none => 0
  s.updBinding key fun b => { b with live := b.live.del e, sig := b.sig ||| sig }

/-- A count of 32 bits raised by one, saturating (R211). -/
def sat32 (n : Nat) : Nat := min (n + 1) 0xFFFFFFFF

/-- A fault counted in a binding, the first with its index and cause (R201, R502). -/
def Binding.countFault (b : Binding) (e cause : Nat) : Binding :=
  if b.faults = 0 then { b with faults := 1, fidx := e, fcause := cause } else { b with faults := sat32 b.faults }

/-- An element's run ends in a fault at word `off` from CUE (R201): FLT and HALT, the other fields kept. An offset that
CUEPC cannot hold leaves a value that the manual does not state. (DESIGN CHOICE, log 51) -/
def State.faultElem (s : State) (key e cause : Nat) (off : Int) : State :=
  match s.bindings.find key with
  | none => s
  | some b =>
    let w := s.context b e
    let (pc, s) := if 0 ≤ off && off < 65536 then (off.toNat, s) else (Config.freeNat s.fresh % 65536, s.nextFree)
    (s.putContext key b e (ctxWord pc 3 (ctxArg w) true (bits w 29 3) (ctxData w))).updBinding key fun b => b.countFault e cause

end Sys2Proof.Machine
end

