-- ==== Sys2Proof/Machine/Ops.lean ====
section
/-! DEFINITION. The named operations over crews, warps, registers and masks; the divergence list; taking a trap and
returning from one (R157-R186); ending a crew; parking and waking. -/

namespace Sys2Proof.Machine

/-! ### Crews and warps -/

def State.crew (s : State) (cid : Nat) : Option Crew := s.crews.find cid
def State.setCrew (s : State) (cid : Nat) (c : Crew) : State := { s with crews := s.crews.set cid c }
def State.updCrew (s : State) (cid : Nat) (f : Crew → Crew) : State :=
  match s.crew cid with
  | some c => s.setCrew cid (f c)
  | none => s

/-- The crew and the warp that issue an instruction. -/
structure Iss where
  cid : Nat
  wid : Nat
  crew : Crew
  warp : Warp
  deriving DecidableEq, Repr

/-- The issuer that the state names, if that crew and warp exist. -/
def State.issuer (s : State) : Option Iss :=
  match s.cur with
  | none => none
  | some (cid, wid) =>
    match s.crew cid with
    | none => none
    | some c =>
      match c.warps.find wid with
      | none => none
      | some w => some ⟨cid, wid, c, w⟩

/-- The state with the issuer's crew and warp as they now are. -/
def Iss.put (I : Iss) (s : State) : State :=
  s.setCrew I.cid { I.crew with warps := I.crew.warps.set I.wid I.warp }

/-- Whether the issuer is a control thread (R169). -/
def Iss.ctl (I : Iss) : Bool := I.crew.kind == .control
def Iss.core (I : Iss) : Nat := I.crew.core
def Iss.cluster (I : Iss) : Nat := clusterOf I.crew.core

/-! ### Lanes -/

/-- The positions of a warp that hold a live thread, as a vector of bits. -/
def lanesMask (l : List (Option Nat)) : BitVec 32 :=
  BitVec.ofNat 32 (leBits (l.map Option.isSome))
where
  leBits : List Bool → Nat
    | [] => 0
    | b :: t => b.toNat + 2 * leBits t

def Warp.threads (w : Warp) : BitVec 32 := lanesMask w.lanes
/-- `m0` (R159). -/
def Warp.m0 (w : Warp) : BitVec 32 := w.run.lanes
/-- The crew index at a position; 0 where there is no thread. -/
def Warp.index (w : Warp) (l : Nat) : Nat := ((w.lanes[l]?).getD none).getD 0
/-- The set positions of a mask, ascending. -/
def laneList (m : BitVec 32) : List Nat := (List.range 32).filter (fun i => m.getLsbD i)
/-- One bit of a mask. -/
def laneBit (i : Nat) : BitVec 32 := BitVec.ofNat 32 (1 <<< i)
/-- The mask of the positions that satisfy a test. -/
def maskOf (f : Nat → Bool) : BitVec 32 :=
  (List.range 32).foldl (fun a i => if f i then a ||| laneBit i else a) 0
/-- The lowest position of a mask (32 for none). -/
def lowest (m : BitVec 32) : Nat := (laneList m).headD 32
/-- Crew indices of the lanes of a mask, ascending by position. -/
def Warp.indices (w : Warp) (m : BitVec 32) : List Nat :=
  (laneList m).filterMap (fun i => (w.lanes[i]?).getD none)
/-- The lowest crew index of a warp's threads. -/
def Warp.lowestIndex (w : Warp) : Nat := (w.indices w.threads).foldl (fun a i => if i < a then i else a) 0xFFFF

/-! ### Masks (R5, R159, R314) -/

/-- A mask register: `m0` is the active mask; a position the warp does not hold reads zero. -/
def Warp.mask (w : Warp) (k : Nat) : BitVec 32 :=
  if k = 0 then w.m0 else w.masks.get 0 k &&& w.threads

/-- The effective mask of an instruction (R314). -/
def Warp.eff (w : Warp) (p : Option Pfx) : BitVec 32 :=
  match p with
  | none => w.m0
  | some p => w.m0 &&& w.mask p.mask.toNat

/-- Mask bits written: `vals` in the lanes of `e`; active lanes outside `e` are kept or, under zero, cleared (R314). `m0` is
never written, and on a control core a write with an empty effective mask is suppressed (R169). -/
def Warp.setMask (w : Warp) (ctl : Bool) (k : Nat) (e : BitVec 32) (zero : Bool) (vals : BitVec 32) : Warp :=
  if k = 0 || (ctl && !e.getLsbD 0) then w else
  let old := w.masks.get 0 k
  let cleared := if zero then old &&& ~~~(w.m0 &&& ~~~e) else old
  { w with masks := w.masks.set k ((cleared &&& ~~~e) ||| (vals &&& e)) }

/-- Whether a prefix asks for zero. -/
def zeroing (p : Option Pfx) : Bool := match p with | none => false | some p => p.zero

/-! ### Registers (R310, R339) -/

/-- The value of a register for the thread of crew index `idx` at a position (R167). -/
def VReg.at (v : VReg) (idx lane : Nat) : Word :=
  match v with
  | .uniform x => x
  | .affine b st => b + st * BitVec.ofNat 32 idx
  | .general vs => vs.getD lane 0

/-- The physical register of a field in a window (R310). -/
def physReg (wbase : BitVec 5) (n : BitVec 7) : Nat := 16 * wbase.toNat + n.toNat

/-- A register of the window in force; field 0 reads zero with a uniform tag (R310). -/
def Warp.reg (w : Warp) (n : BitVec 7) : VReg :=
  if n = 0 then .uniform 0 else w.regs.get (.uniform 0) (physReg w.run.wbase n)

/-- The register after a field in a multi-register operand: nothing follows a field of 0 (R310). -/
def regPlus (n : BitVec 7) (k : Nat) : BitVec 7 := if n = 0 then 0 else n + BitVec.ofNat 7 k

/-- A lane's word of a register. -/
def Warp.lane (w : Warp) (n : BitVec 7) (l : Nat) : Word := (w.reg n).at (w.index l) l

/-- A lane's value of `cnt` registers, low word first (R310). -/
def Warp.laneNat (w : Warp) (n : BitVec 7) (l : Nat) : Nat → Nat
  | 0 => 0
  | cnt + 1 => Warp.laneNat w n l cnt + 2 ^ (32 * cnt) * (w.lane (regPlus n cnt) l).toNat

/-- The warp operand: the value in the lowest lane of `m0` (R338). -/
def Warp.operand (w : Warp) (n : BitVec 7) : Word := w.lane n (lowest w.m0)
def Warp.operand64 (w : Warp) (n : BitVec 7) : Nat := w.laneNat n (lowest w.m0) 2

/-- The tag that a full write gives (R339). -/
inductive Tag where
  | uni
  | aff (base stride : Word)
  | gen
  deriving DecidableEq, Repr

/-- A register written: `f` in the lanes of `e`; active lanes outside `e` kept, or zero under `zero`; every other lane kept.
A full write takes the tag, a partial one makes the register general (R339). A write to `v0` has no effect. On a control
core a write with an empty effective mask is suppressed and every register stays uniform (R169). -/
def Warp.setReg (w : Warp) (ctl : Bool) (n : BitVec 7) (e : BitVec 32) (zero : Bool) (t : Tag) (f : Nat → Word) : Warp :=
  if n = 0 then w else
  let p := physReg w.run.wbase n
  if ctl then (if e.getLsbD 0 then { w with regs := w.regs.set p (.uniform (f 0)), poison := w.poison.del p } else w) else
  let old := w.reg n
  let keep (l : Nat) : Word :=
    if e.getLsbD l then f l
    else if zero && w.m0.getLsbD l then 0
    else old.at (w.index l) l
  let full := w.threads &&& ~~~e = 0
  let v : VReg :=
    if full then
      match t with
      | .uni => .uniform (f (lowest e))
      | .aff b st => .affine b st
      | .gen => .general ((List.range 32).map keep)
    else .general ((List.range 32).map keep)
  let po := w.poison.get 0 p &&& ~~~(if zero then e ||| w.m0 else e)
  { w with regs := w.regs.set p v, poison := if po = 0 then w.poison.del p else w.poison.set p po }

/-- Whether a write with an effective mask is full (R339). -/
def Warp.isFull (w : Warp) (ctl : Bool) (e : BitVec 32) : Bool := ctl || w.threads &&& ~~~e == 0

/-- A value of `cnt` registers written, each with its own tag; nothing under a first field of 0 (R310, R341). -/
def Warp.setRegs (w : Warp) (ctl : Bool) (n : BitVec 7) (e : BitVec 32) (zero : Bool) (tags : Nat → Tag) (f : Nat → Nat) :
    Nat → Warp
  | 0 => w
  | cnt + 1 =>
    (Warp.setRegs w ctl n e zero tags f cnt).setReg ctl (regPlus n cnt) e zero (tags cnt)
      (fun l => BitVec.ofNat 32 (f l >>> (32 * cnt)))

/-! ### Sides (R160-R162) -/

/-- The side with nothing in it: the place of a running side that left. -/
def noSide : Side := ⟨0, 0, 0, .none⟩

/-- Whether a side still waits: at a barrier while a thread of it stands in the arrival set; on anything else until the wait
is ended. -/
def Side.blocked (c : Crew) (w : Warp) (sd : Side) : Bool :=
  match sd.wait with
  | .none => false
  | .bar n =>
    (match c.bars.find n with
      | none => false
      | some b => (w.indices sd.lanes).any (fun i => b.arrived.contains i))
  | _ => true

/-- The first side from the front that can issue, and the others in their order (R161). -/
def pickFront (c : Crew) (w : Warp) : List Side → Option (Side × List Side)
  | [] => none
  | sd :: t =>
    if sd.blocked c w then
      match pickFront c w t with
      | none => none
      | some (x, rest) => some (x, sd :: rest)
    else some (sd, t)

/-- Entries with the running side's PC and window base, none of them waiting, merge into it (R161). -/
def Warp.merge (c : Crew) (w : Warp) : Warp :=
  let same (sd : Side) : Bool := sd.pc == w.run.pc && sd.wbase == w.run.wbase && !sd.blocked c w
  let lanes := w.div.foldl (fun a sd => if same sd then a ||| sd.lanes else a) w.run.lanes
  { w with run := { w.run with lanes := lanes, wait := .none }, div := w.div.filter (fun sd => !same sd) }

/-- The front entry runs (R161): the first that can issue; with none, the warp has no running side. -/
def Warp.frontRuns (c : Crew) (w : Warp) : Warp :=
  match pickFront c w w.div with
  | none => { w with run := noSide, issued := 0 }
  | some (sd, rest) => ({ w with run := sd, div := rest, issued := 0 } : Warp).merge c

/-- The running side goes to the back of the list and the front entry runs (R161). -/
def Warp.yieldSide (c : Crew) (w : Warp) : Warp :=
  if w.run.lanes = 0 then w.frontRuns c
  else { w with div := w.div ++ [w.run] }.frontRuns c

/-- A warp whose running side left or waits takes the first side that can issue, if there is one now. -/
def Warp.settle (c : Crew) (w : Warp) : Warp :=
  if w.run.lanes = 0 then w.frontRuns c
  else if w.run.wait = .none then w
  else if w.run.blocked c w then w
  else { w with run := { w.run with wait := .none } }

/-! ### Retiring -/

/-- The issued instruction is done: the running side's PC moves to `pc`, the pending progress index and the failed
translations are gone (R189), and the issue count rises (R161). -/
def Iss.retireTo (I : Iss) (pc : VAddr) : Iss :=
  { I with warp := { I.warp with run := { I.warp.run with pc := pc }, pending := none, badPages := [], issued := I.warp.issued + 1 } }

/-- The next word after an instruction of `size` bytes. -/
def Iss.nextPc (I : Iss) (size : Nat) : VAddr := I.warp.run.pc + BitVec.ofNat 57 size

def Iss.retire (I : Iss) (size : Nat) : Iss := I.retireTo (I.nextPc size)

/-- What executing an instruction on an issuer gives: the state after it, or a trap with the state it is taken in. -/
abbrev Eff := Except (State × TrapInfo) State

/-- A trap with no effect beyond it. -/
def trapEff (s : State) (t : TrapInfo) : Eff := .error (s, t)

/-- ILLEGAL (R328). -/
def illegalT : TrapInfo := { cause := cILLEGAL }

/-! ### Waiting -/

/-- The running side waits where it is and holds its warp: the instruction is issued again when the wait ends. -/
def Iss.stall (I : Iss) (s : State) (wt : Wait) : State :=
  { I with warp := { I.warp with run := { I.warp.run with wait := wt } } }.put s

/-- The running side parks and gives way to the warp's other sides (R161). (DEDUCED, log 13) -/
def Iss.park (I : Iss) (s : State) (wt : Wait) : State :=
  let w := { I.warp with run := { I.warp.run with wait := wt } }
  let s := match wt with
    | .line j => s.updCore I.crew.core fun c => { c with parkQ := c.parkQ ++ [⟨I.cid, I.wid, w.run.lanes, j⟩] }
    | _ => s
  ({ I with warp := if w.div = [] then w else w.yieldSide I.crew } : Iss).put s

/-- Sides that satisfy a test stop waiting, throughout a crew. -/
def Crew.wake (c : Crew) (p : Side → Bool) : Crew :=
  let f (sd : Side) : Side := if p sd then { sd with wait := .none } else sd
  { c with warps := c.warps.mapV fun _ w => { w with run := f w.run, div := w.div.map f } }

/-- Sides that satisfy a test stop waiting, in every crew that satisfies another. -/
def State.wake (s : State) (pc : Crew → Bool) (p : Side → Bool) : State :=
  { s with crews := s.crews.mapV fun _ c => if pc c then c.wake p else c }

/-! ### Traps (R176-R186) -/

/-- Bytes of a record field, little-endian. -/
def fieldLE (n x : Nat) : List Byte := bytesLE n x

/-- The slice positions that hold a thread. -/
def sliceMap (m : BitVec 32) : Nat :=
  (List.range 8).foldl (fun a k => if m.extractLsb' (4 * k) 4 ≠ 0 then a + 2 ^ k else a) 0

/-- The slice positions that a warp holds (R180). -/
def Warp.slicesHeld (w : Warp) : Nat := w.held ||| sliceMap w.threads

/-- The STATE code of a warp in a stop list (R180). -/
def stopState (c : Crew) (w : Warp) (faulting : Bool) : Nat :=
  if faulting then 4 else if w.ownTrap.isSome then 3 else
  let code (wt : Wait) : Nat := match wt with | .none => 0 | .bar _ => 1 | _ => 2
  if w.run.lanes ≠ 0 then (if w.run.blocked c w then code w.run.wait else 0)
  else match w.div with
    | [] => 0
    | sd :: _ => if sd.blocked c w then code sd.wait else 0

/-- Sorted by the lowest crew index of a warp (R180). -/
def insertWarp (x : Nat × Warp) : List (Nat × Warp) → List (Nat × Warp)
  | [] => [x]
  | y :: t => if x.2.lowestIndex ≤ y.2.lowestIndex then x :: y :: t else y :: insertWarp x t
def sortWarps : List (Nat × Warp) → List (Nat × Warp)
  | [] => []
  | x :: t => insertWarp x (sortWarps t)

/-- The stop list (R180): header and one entry a warp. `fw` is the faulting warp, which stopped at item `pidx`. -/
def stopList (c : Crew) (cause depth : Nat) (fw : Option Nat) (epc : VAddr) (pidx : Nat) : List Byte :=
  let ws := sortWarps c.warps
  let fwi := (ws.findIdx? (fun x => some x.1 == fw)).getD 0
  fieldLE 1 cause ++ fieldLE 1 depth ++ fieldLE 2 ws.length ++ fieldLE 2 fwi ++ fieldLE 2 0
    ++ fieldLE 4 c.crix ++ fieldLE 4 0 ++ fieldLE 8 epc.toNat ++ fieldLE 8 0
    ++ ws.flatMap (fun (k, w) =>
        let pc := if w.run.lanes ≠ 0 then w.run.pc else (w.div.head?.map (·.pc)).getD 0
        let at' := match w.pending with | some (_, i) => i | none => 0
        fieldLE 8 pc.toNat ++ fieldLE 4 w.run.lanes.toNat ++ fieldLE 4 (if some k == fw then pidx else at')
          ++ fieldLE 1 w.skid ++ fieldLE 1 w.quad ++ fieldLE 1 w.slicesHeld
          ++ fieldLE 1 (stopState c w (some k == fw)) ++ fieldLE 1 (if some k == fw then 0 else w.ownTrap.getD 0)
          ++ List.replicate 11 0)

/-- Bytes the device stores at a virtual address of a context, through a core's L1 as a warp's own stores would be; none when
a page does not translate or refuses the write. -/
def State.devStore (s : State) (core ctx va : Nat) : List Byte → Option State
  | [] => some s
  | b :: bs =>
    let e := match s.tlbHit core ctx va with
      | some e => WalkRes.leaf e
      | none => s.walk ctx va
    match e with
    | .pageFault => none
    | .leaf e =>
      if !e.w then none else
      State.devStore (s.storeByte core e (e.addr va) false b) core ctx (va + 1) bs

/-- The stop list written at PARAM + 64 x `c.TSKA`; none when a page fault forbids it (R180). -/
def State.writeStopList (s : State) (c : Crew) (cause depth : Nat) (fw : Option Nat) (epc : VAddr) (pidx : Nat := 0) : Option State :=
  if c.tska = 0 then some s
  else s.devStore c.core c.ctx ((s.slates.get {} c.slate).param + 64 * c.tska.toNat) (stopList c cause depth fw epc pidx)

/-- An unfinished copy command that reads or writes the issuing crew's window, or adds to a byte-count word in it (R224). -/
def CopyCmd.usesWindow (c : CopyCmd) : Bool := !c.done && (c.sspc == 1 || c.dspc == 1 || c.bword.isSome)
def State.windowBusy (s : State) (cid : Nat) : Bool := s.copies.any fun (_, c) => c.usesWindow && c.crew == cid

/-- The clock step granted to a cluster: the highest that a context with cores on it asks for (R101). -/
def State.regrant (s : State) : State :=
  (List.range 32).foldl (fun s cl =>
    let g := s.ctxs.foldl (fun m (_, c) => if c.resident && c.cores.any (fun k => k / 10 == cl) then max m c.asked else m) 0
    if (s.pw cl).grant = min 100 g then s else s.updPw cl fun p => { p with grant := min 100 g }) s

/-- Cores that are being withdrawn from a context and that none of its crews stands on any more leave it (R100); a control thread of
the context on a cluster where it then holds no core is pre-empted (R143, R171). -/
def State.settleCores (s : State) (ctx : Nat) : State :=
  let gone := ((s.ctx ctx).leaving.filter fun x => !(s.crews.any fun c => c.2.ctx == ctx && c.2.core == x.1)).map (·.1)
  if gone = [] then s
  else
    let left := (s.ctx ctx).cores.filter fun k => !gone.contains k
    let s := (s.updCtx ctx fun c => { c with cores := left, leaving := c.leaving.filter fun x => !gone.contains x.1 }).regrant
    { s with crews := s.crews.mapV fun _ d =>
        if d.ctx == ctx && d.kind == .control && d.ending.isNone && !(left.any fun k => clusterOf k == clusterOf d.core)
        then { d with spill2 := true } else d }

/-- A crew has left a cluster (R37). -/
def State.crewLeft (s : State) (core : Nat) : State := s.updPw (clusterOf core) fun p => { p with lastCrew := s.now }

/-- The DETAIL of a stop of kind S is kept with the slate (R176). -/
def State.noteStop (s : State) (slate cause detail : Nat) : State := s.updSlate slate fun x => { x with stop := some (cause, detail) }

/-- Crews in one co-resident group of a slate (R153); none when no level is co-resident. The largest group governs. -/
def Slate.groupSize (x : Slate) : Option Nat :=
  let top := (List.range x.nlev).foldl (fun (m : Option Nat) k =>
    if x.lanesL ≤ k && bits (x.lvf.getD k 0) 0 1 == 1 then some k else m) none
  top.map fun k => (List.range (k + 1)).foldl (fun a j => if x.lanesL ≤ j && x.doms.getD j 0 < 4 then a * x.sizes.getD j 1 else a) 1

/-- The group number of a crew index. -/
def Slate.groupOf (x : Slate) (crix : Nat) : Option Nat := x.groupSize.map fun n => crix / n

/-- A parked take joins the ready list of its slate's queue, behind those that parked before (R129). -/
def State.queueTake (s : State) (d id : Nat) : State :=
  s.updQueue d fun q => { q with takes := q.takes ++ [id], ageFrom := if q.takes = [] && q.ready = [] then s.tick else q.ageFrom }

/-- Whether other crews of a slate's group still stand on cores. -/
def State.groupOnCores (s : State) (slate g : Nat) : Bool :=
  let x := s.slates.get {} slate
  s.crews.any fun (_, d) => d.kind == .vector && d.slate == slate && x.groupOf d.crix == some g && d.ending.isNone

/-- The parked crews of a group join the ready list as one item once the last crew of the group has left its core (R156). -/
def State.queueGroup (s : State) (slate g : Nat) : State :=
  if s.groupOnCores slate g then s else
  match s.takes.find? fun t => t.2.slate == slate && t.2.group == some g with
  | none => s
  | some (id, _) =>
    let d := (s.slates.get {} slate).queue
    if (s.queue d).takes.contains id then s else s.queueTake d id

/-- The crew leaves its core (R186, R224): its warps, bins, barriers and window go, and its slate counts it. `cause` is 0 for
an end by the exit of its threads, otherwise the cause of the stop. A control thread's rows are closed (R428). Copy items
that use the window are waited for. -/
def State.endCrew (s : State) (cid : Nat) (cause : Nat) : State :=
  match s.crew cid with
  | none => s
  | some c =>
    -- an end of a crew or control thread is a release at package scope (R255)
    let s := s.releaseAll c.core
    let s : State := { s with cur := match s.cur with | some (k, _) => if k = cid then none else s.cur | none => none }
    let s := if c.hold = [] then s else
      s.updCore c.core fun k => { k with holdOrder := k.holdOrder.mapV fun _ l => l.filter (· != cid) }
    if s.windowBusy cid then
      s.setCrew cid { c with warps := [], bins := [], hold := [], bars := [], ending := some (c.ending.getD cause) }
    else
      let s := s.updCore c.core fun k => { k with
        spad := k.spad.zero c.spadBase c.spadSize,
        absent := k.absent.filter (fun j => !(c.spadBase ≤ 128 * j && 128 * j < c.spadBase + c.spadSize)),
        bankQ := k.bankQ.filter (fun q => q.2.1 != cid) }
      let s := if c.kind = .control then s.closeRowsNow (clusterOf c.core) else s
      let s := s.crewEnded cid c cause
      let s := s.crewLeft c.core
      let s := ({ s with crews := s.crews.del cid } : State).settleCores c.ctx
      match if c.kind = .vector then (s.slates.get {} c.slate).groupOf c.crix else none with
      | some g => s.queueGroup c.slate g
      | none => s

/-- A crew that waits to leave its core leaves it once nothing uses its window. -/
def State.reap (s : State) (cid : Nat) : State :=
  match s.crew cid with
  | none => s
  | some c =>
    match c.ending with
    | none => s
    | some cause => if s.windowBusy cid then s else s.endCrew cid cause

/-- The lanes of a warp cut down to those of a mask (true) or to the others (false). -/
def keepLanes (l : List (Option Nat)) (m : BitVec 32) (inside : Bool) : List (Option Nat) :=
  (List.range 32).map fun i => if m.getLsbD i == inside then (l[i]?).getD none else none

/-- Lanes of a cue warp whose runs have ended leave it, and its list runs when the running side is empty (R475). -/
def Iss.dropLanes (I : Iss) (m : BitVec 32) : Iss :=
  let w := I.warp
  let w1 : Warp := { w with lanes := keepLanes w.lanes m false, run := { w.run with lanes := w.run.lanes &&& ~~~m } }
  { I with warp := if w1.run.lanes = 0 then w1.frontRuns I.crew else w1 }

/-- The issuer put back; a warp without threads is gone. -/
def Iss.putOrDrop (I : Iss) (s : State) : State :=
  if I.warp.threads = 0 then s.setCrew I.cid { I.crew with warps := I.crew.warps.del I.wid } else I.put s

/-- The word offset of a PC from the base of a cue program. -/
def cueOff (s : State) (key : Nat) (pc : VAddr) : Int :=
  match s.bindings.find key with
  | some b => ((pc.toNat : Int) - b.cue) / 4
  | none => 0

/-- A trap in a cue run (R201): the lanes it names, or every lane, fault; the others go on, and a long instruction among them
goes on behind the item that faulted. -/
def Iss.cueFault (I : Iss) (s : State) (t : TrapInfo) : State :=
  let w := I.warp
  let m := if t.lanes &&& w.m0 = 0 then w.m0 else t.lanes &&& w.m0
  let off := cueOff s I.crew.binding w.run.pc
  let s := (w.indices m).foldl (fun s e => s.faultElem I.crew.binding e t.cause off) s
  let w1 : Warp := { w with badPages := [], pending := if t.pidx = 0 then none else some (w.run.pc, t.pidx) }
  ({ I with warp := w1 } : Iss).dropLanes m |>.putOrDrop s

/-- A crew ends on an escalated trap, whose cause is the DETAIL of the stop (R176, R185). -/
def State.escalate (s : State) (cid : Nat) (c : Crew) (wid : Nat) (epc : VAddr) (cause : Nat) : State :=
  let s := (s.writeStopList c cESCALATED 0 (some wid) epc).getD s
  let s := s.noteStop c.slate cESCALATED cause
  let s := s.post (s.funcOf c.ctx) { recTrapEscalated with ctx := c.ctx, unit := unitOf 0 (clusterOf c.core), a0 := epc.toNat, space := 1 }
  s.endCrew cid cESCALATED

/-- The frame that a trap pushes (R181, R182). For the control thread TLANE holds `m0`, but for FMT_DIVERGE the dissenting lanes. -/
def Iss.trapFrame (I : Iss) (t : TrapInfo) : Frame :=
  ⟨t.epc.getD I.warp.run.pc, t.cause, t.detail, t.taddr,
    if (I.ctl && t.cause != cFMT) || t.lanes = 0 then I.warp.m0 else t.lanes, I.warp.m0, BitVec.ofNat 32 t.pidx,
    I.warp.run.wbase, I.warp.div, I.wid⟩

/-- A warp at the handler (R182). -/
def Crew.handlerWarp (c : Crew) (w : Warp) : Warp :=
  let hw := c.tcfg.toNat % 32
  { w with
    run := ⟨c.header + BitVec.ofInt 57 (4 * c.tvec.toInt), w.run.lanes, BitVec.ofNat 5 (if 24 < hw then 24 else hw), .none⟩,
    div := [], issued := 0, pending := none, badPages := [] }

/-- A trap taken once the siblings have stopped (R182): the frame keeps EPC, cause, detail, address, lanes, `m0`, progress index, window
base and divergence list; the stop list is written; the window base becomes HWIN, the list empties and the PC goes to the handler. -/
def Iss.enterHandler (I : Iss) (s : State) (t : TrapInfo) : State :=
  let fr := I.trapFrame t
  let c' := { I.crew with frames := fr :: I.crew.frames, stop := none }
  match s.writeStopList { c' with warps := I.crew.warps.set I.wid I.warp } t.cause c'.frames.length (some I.wid) fr.epc t.pidx with
  | none => s.escalate I.cid I.crew I.wid fr.epc t.cause
  | some s => ({ I with crew := c', warp := I.crew.handlerWarp I.warp } : Iss).put s

/-- Whether a warp has a side that can issue. -/
def Warp.canIssue (w : Warp) (c : Crew) : Bool :=
  let w := w.settle c
  !w.spadBusy && w.run.lanes != 0 && !w.run.blocked c w

/-- The siblings of a warp that could issue when it traps, each with the number of instructions that it may still issue, 0 to 16, which
the manual leaves open (R178). -/
def Crew.siblings (c : Crew) (wid fresh : Nat) : Tbl Nat :=
  (c.warps.filter fun x => x.1 != wid && x.2.canIssue c).map fun x => (x.1, Config.freeNat (fresh + x.1) % 17)

/-- The smallest crew index among the active threads of a warp. -/
def Warp.firstActive (w : Warp) : Nat := (w.indices w.m0).foldl min 0xFFFF

/-- A sibling that traps within its skid stops at its instruction, which does not retire (R179). -/
def Warp.stopOwn (w : Warp) (t : TrapInfo) : Warp :=
  { w with ownTrap := some t.cause, badPages := [], pending := if t.pidx = 0 then w.pending else some (w.run.pc, t.pidx) }

/-- A trap raised by a warp whose crew is stopping for another's (R179): in the same cycle the one with the smaller crew index takes the
trap; otherwise the earlier one does. -/
def Iss.trapWithin (I : Iss) (s : State) (st : Stopping) (t : TrapInfo) : State :=
  let left := st.left.del I.wid
  match I.crew.warps.find st.wid with
  | some w =>
    if s.now = st.at' && w.quad != I.warp.quad && decide (I.warp.firstActive < w.firstActive) then
      ({ I with crew := { I.crew with warps := I.crew.warps.set st.wid (w.stopOwn st.trap),
                                      stop := some { st with wid := I.wid, trap := t, left := left } } } : Iss).put s
    else
      ({ I with crew := { I.crew with stop := some { st with left := left } }, warp := I.warp.stopOwn t } : Iss).put s
  | none => ({ I with crew := { I.crew with stop := some { st with left := left } }, warp := I.warp.stopOwn t } : Iss).put s

/-- Taking a trap of kind P or X in the current warp (R177, R178, R182). With no handler, or four frames held, the trap escalates (R185).
While siblings of the crew go on within their skid it is only raised; otherwise it is taken at once. (DESIGN CHOICE, log 15; DEDUCED, log 23) -/
def State.takeTrap (s : State) (t : TrapInfo) : State :=
  match s.issuer with
  | none => s
  | some I =>
    let c := I.crew
    if c.kind = .cue then I.cueFault s t else
    match c.stop with
    | some st => I.trapWithin s st t
    | none =>
      if c.tvec = 0 || 4 ≤ c.frames.length then s.escalate I.cid c I.wid (t.epc.getD I.warp.run.pc) t.cause else
      let sib := if c.frames = [] then c.siblings I.wid s.fresh else []
      let left := sib.filter fun x => x.2 != 0
      let s : State := if sib = [] then s else { s with fresh := s.fresh + c.nextWid }
      if left = [] then I.enterHandler s t
      else ({ I with crew := { c with stop := some ⟨I.wid, s.now, t, left⟩ } } : Iss).put s

/-- The trap of a stopping crew is taken once no sibling goes on within its skid, or at once by `force`. -/
def State.endStop (s : State) (cid : Nat) (force : Bool) : State :=
  match s.crew cid with
  | none => s
  | some c =>
    match c.stop with
    | none => s
    | some st =>
      if !force && st.left.any (fun x => x.2 != 0 && (match c.warps.find x.1 with | some w => w.canIssue c | none => false)) then s
      else match c.warps.find st.wid with
        | none => s.setCrew cid { c with stop := none }
        | some w => (⟨cid, st.wid, c, w⟩ : Iss).enterHandler s st.trap

/-- Siblings of a warp of a quadrant whose trap is raised have one instruction less to issue. -/
def Crew.turnPasses (c : Crew) (q : Nat) : Crew :=
  match c.stop with
  | none => c
  | some st =>
    if (c.warps.find st.wid).any fun w => w.quad == q then
      { c with stop := some { st with left := st.left.mapV fun _ n => n - 1 } }
    else c

/-- A turn of a quadrant on a core passes: siblings of a warp of the quadrant whose trap is raised have one instruction less to issue, and
a trap that nothing holds up is taken before the turn. (DESIGN CHOICE, log 15) -/
def State.endStops (s : State) (core q : Nat) : State :=
  if (s.crews.all fun x => x.2.stop.isNone) then s else
  (s.crews.filter fun x => x.2.core == core && x.2.stop.isSome).foldl (fun s (cid, _) => (s.updCrew cid (·.turnPasses q)).endStop cid false) s

/-- An instruction of a sibling retired within its skid (R178). -/
def Crew.skidded (c : Crew) (wid : Nat) : Crew :=
  match c.stop with
  | none => c
  | some st =>
    let c := { c with stop := some { st with left := if (c.warps.find wid).isNone then st.left.del wid
                                                     else st.left.mapV fun k n => if k = wid then n - 1 else n } }
    match c.warps.find wid with
    | some w => { c with warps := c.warps.set wid { w with skid := w.skid + 1 } }
    | none => c

/-- A warp of a crew that resumes after its last frame (R183). -/
def Warp.resumed (w : Warp) : Warp := { w with skid := 0, ownTrap := none }

/-- Returning from the top frame (R183): PC, `m0`, window base and divergence list come from the frame, the pending progress
index from `c.PIDX`. -/
def Iss.trapReturn (I : Iss) : Iss :=
  match I.crew.frames with
  | [] => I
  | fr :: rest =>
    { I with
      crew := { I.crew with frames := rest, warps := if rest = [] then I.crew.warps.mapV fun _ w => w.resumed else I.crew.warps },
      warp := { (if rest = [] then I.warp.resumed else I.warp) with
        run := ⟨fr.epc, fr.mask &&& I.warp.threads, fr.wbase, .none⟩, div := fr.div, issued := 0, badPages := [],
        pending := if fr.pidx = 0 then none else some (fr.epc, fr.pidx.toNat) } }

end Sys2Proof.Machine
end

