-- ==== Sys2Proof/WellFormed.lean ====
section
/-! DEFINITION. Well-formed instructions: those with a word, whose fields the opcode map allows (`Instr.legal`, R328), and
which are the row that their own word decodes to where two rows share a word. -/

namespace Sys2Proof

/-- The constructor is the row that its word decodes to: a `CWR` of `c.QCFG`, `c.TKILL` or `c.ARVn` is a row of its own, and
a `SW.BIND` word with a zero and b not zero is `SW.UNBIND` (R471). -/
def Instr.ownRow : Instr → Bool
  | .cwr _ n => n != 7 && n != 76 && n.extractLsb' 5 7 != 3
  | .swBind _ a b => !(a == 0 && b != 0)
  | .swUnbind _ b => b != 0
  | _ => true

/-- A well-formed instruction. -/
def Instr.wf (i : Instr) : Bool := decide (encode i ≠ []) && i.legal && i.ownRow

end Sys2Proof
end

