-- ==== Sys2Proof/Machine/Operands.lean ====
section
/-! DEFINITION. What every instruction of a program does alike: the legality of its use (R328), reading and writing its
operands in the lanes of its effective mask, the tags of its results (R337-R341), and retiring. -/

namespace Sys2Proof.Machine

/-- The matrix, tile and row instructions, which only a control core issues (R169, R423). -/
def controlOnly : Instr → Bool
  | .ract _ | .rcon _ _ | .rconWs _ _ | .rcls _ | .rstat _ _
  | .tshape _ _ | .tclr _ | .omap _ _ | .tld _ _ _ | .tst _ _ _ | .tfeed _ _ _
  | .mma _ _ _ | .mmas _ _ _ | .mmaq _ _ _ | .mzero _ | .mload _ _ | .mdrn _ _ _
  | .mcoop _ | .mwait _ | .mfence | .scpl _ _ | .scinv _ | .scq _ _ | .cbld _ _ => true
  | _ => false

/-- The instructions that a control core refuses (R170, R352, R353, R429). -/
def vectorOnly : Instr → Bool
  | .shfl .. | .voteAny .. | .voteAll .. | .voteUni .. | .wred .. | .wscan .. | .elect _
  | .ldx .. | .stx .. | .brd _ _ | .reform _ _ | .rjoin | .bar _ _ | .barTake _ _ | .bara _ _ | .barw _ | .barq _ _
  | .tagg _ | .ldl .. | .stl .. | .atoml .. | .atomlCas .. | .pres _ _ | .pclr _ | .pset _
  | .bci _ _ | .bca _ _ | .bcw _ _ => true
  | _ => false

/-- The privileged encodings (R326). -/
def privilegedOnly : Instr → Bool
  | .tlbi _ _ | .xcScrb _ _ | .ksZero _ _ _ => true
  | .crd _ n => crPrivileged n.toNat
  | .cwr _ n => crPrivileged n.toNat
  | _ => false

/-- The instructions that raise ILLEGAL in a trap handler (R176). -/
def handlerIllegal : Instr → Bool
  | .bar _ _ | .barTake _ _ | .bara _ _ | .barw _ | .barq _ _ | .brd _ _ | .reform _ _ => true
  | _ => false

/-- The cue-mode instructions (R201). -/
def cueOnly : Instr → Bool
  | .cwait _ _ | .cwake _ | .cloc _ _ => true
  | _ => false

/-- The instructions that are illegal in cue mode (R201). -/
def cueForbidden : Instr → Bool
  | .bar _ _ | .barTake _ _ | .bara _ _ | .barw _ | .barq _ _ | .brd _ _ | .reform _ _ | .rjoin | .winb _
  | .spawn _ _ _ | .trap _ | .cwrTkill _ | .shfl .. | .voteAny .. | .voteAll .. | .voteUni .. | .wred .. | .wscan ..
  | .elect _ | .tret => true
  | _ => false

/-- A register operand beyond NREGS in the window in force (R310). -/
def beyondNregs (I : Iss) (o : BitVec 7 × Nat) : Bool :=
  o.1 != 0 && decide (I.crew.nregs ≤ physReg I.warp.run.wbase o.1 + o.2 - 1)

/-- Whether an instruction is ILLEGAL where it is issued (R328). -/
def illegal (i : Instr) (s : State) (I : Iss) : Bool :=
  !i.legal || (i.reads ++ i.writes).any (beyondNregs I)
    || (controlOnly i && I.crew.kind != .control)
    || (vectorOnly i && I.crew.kind == .control)
    || (privilegedOnly i && !(s.ctx I.crew.ctx).priv)
    || (handlerIllegal i && I.crew.frames != [])
    || (cueOnly i && I.crew.kind != .cue)
    || (cueForbidden i && I.crew.kind == .cue)

/-- The prefix of an instruction. -/
def Instr.pfx? (i : Instr) : Option Pfx :=
  match encode i with
  | [w, _] => some (pfxOf w)
  | _ => none

/-- Lanes of the effective mask in which an instruction would read a poisoned register (R239). -/
def poisonedLanes (i : Instr) (I : Iss) : BitVec 32 :=
  if I.warp.poison = [] then 0 else
  let e := I.warp.eff (Instr.pfx? i)
  i.reads.foldl (fun a o =>
    if o.1 = 0 then a else
    (List.range o.2).foldl (fun a k => a ||| (e &&& I.warp.poison.get 0 (physReg I.warp.run.wbase o.1 + k))) a) 0

/-- The first detection of poison by accesses of the issuer's context that ended with a cause (R240): each access is an
address and a count of bytes. -/
def Iss.reportAt (I : Iss) (s : State) (cause : Nat) (acc : List (Nat × Nat)) : State :=
  if cause ≠ cPOISON then s else
  let secs := acc.flatMap fun (va, n) =>
    (List.range (n / 32 + 2)).filterMap fun i =>
      let v := va / 32 * 32 + 32 * i
      if va + n ≤ v then none else
      match s.tlbHit I.crew.core I.crew.ctx v with
      | some e => if !e.host && s.mem.poison.contains (e.addr v / 32) then some (e.addr v / 32, v) else none
      | none => none
  s.reportSectors recEccUncorrected (some I.crew.ctx) secs

/-- The same for the lanes that a trap names, by an address operand. -/
def Iss.reportLanes (I : Iss) (s : State) (t : TrapInfo) (a : BitVec 7) (n : Nat) : State :=
  I.reportAt s t.cause ((laneList t.lanes).map fun l => (I.warp.laneNat a l 2, n))

/-- The runs of the lanes of `m0` end (R199): each context takes the resume point after this instruction, and WAIT, ARG and
DATA by lane and old DATA. A resume point that CUEPC cannot hold is ILLEGAL. -/
def Iss.endRuns (I : Iss) (s : State) (f : Nat → Nat → Nat × Nat × Nat) : Eff :=
  let off := cueOff s I.crew.binding I.warp.run.pc + 1
  if off < 0 || 65536 ≤ off then .error (s, { cause := cILLEGAL, lanes := I.warp.m0 })
  else
    let s1 := (laneList I.warp.m0).foldl (fun s l =>
      match s.bindings.find I.crew.binding with
      | none => s
      | some b =>
        let e := I.warp.index l
        let (wt, arg, data) := f l (ctxData (s.context b e))
        s.putContext I.crew.binding b e (ctxWord off.toNat wt arg false 0 data)) s
    .ok ((I.dropLanes I.warp.m0).putOrDrop s1)

/-- `EXIT` in a cue run: WAIT 3, ARG 0, DATA unchanged (R199). -/
def Iss.cueExit (I : Iss) (s : State) : Eff := I.endRuns s fun _ d => (3, 0, d)

/-- An instruction executed by the issuer that the state names: ILLEGAL and POISON come before any effect; then its own
effect, or the trap it raises. -/
def runInstr (i : Instr) (s : State) (f : Iss → Eff) : Host.Outcome State Fault Refusal :=
  match s.issuer with
  | none => .fault .noIssuer
  | some I =>
    if illegal i s I then .next (s.takeTrap illegalT)
    else if poisonedLanes i I ≠ 0 then .next (s.takeTrap { cause := cPOISON, lanes := poisonedLanes i I })
    else
      match f I with
      | .ok s' => .next s'
      | .error (s', t) => .next (s'.takeTrap t)

/-- Bytes of an instruction with an optional prefix. -/
def sizeP (p : Option Pfx) : Nat := if p.isSome then 8 else 4

/-! ### Tags (R339-R341) -/

/-- Whether a register is uniform. -/
def VReg.isUni : VReg → Bool
  | .uniform _ => true
  | _ => false

/-- A uniform or affine register as base and stride. -/
def VReg.aff? : VReg → Option (Word × Word)
  | .uniform v => some (v, 0)
  | .affine b s => some (b, s)
  | .general _ => none

/-- The registers of an operand. -/
def Warp.regsOf (w : Warp) (n : BitVec 7) (cnt : Nat) : List VReg := (List.range cnt).map fun k => w.reg (regPlus n k)

/-- Uniform when every source is, general otherwise (R339, R372). (DEDUCED, log 19) -/
def uniOrGen (vs : List VReg) : Tag := if vs.all VReg.isUni then .uni else .gen

/-- The high register of a 64-bit result is uniform when every written lane holds the same high word (R341). -/
def hiTag (e : BitVec 32) (f : Nat → Nat) (k : Nat) : Tag :=
  let ws := (laneList e).map fun l => bits (f l) (32 * k) 32
  if ws.all (fun x => x == ws.headD 0) then .uni else .gen

/-- The tags of a result: the first register's by R339, the second register's of a 64-bit result by R341, and every
register's the same in a 128-bit result. -/
def tagsOf (t : Tag) (cnt : Nat) (e : BitVec 32) (f : Nat → Nat) : Nat → Tag :=
  fun k => if k = 0 then t else if cnt = 2 then hiTag e f k else (match t with | .uni => .uni | _ => .gen)

/-- Flags set at retirement: in the crew, or in the flag word of a cue run's binding (R283, R284). -/
def Iss.addFlags (I : Iss) (fl : Flags) : Iss := { I with crew := { I.crew with flags := I.crew.flags ||| fl } }

/-- A register result written in the effective mask, flags set, and the instruction retired. -/
def Iss.writeD (I : Iss) (s : State) (p : Option Pfx) (d : BitVec 7) (cnt : Nat) (t : Tag) (f : Nat → Nat) (fl : Flags) : State :=
  let e := I.warp.eff p
  let w := I.warp.setRegs I.ctl d e (zeroing p) (tagsOf t cnt e f) f cnt
  ((({ I with warp := w } : Iss).addFlags fl).retire (sizeP p)).put s

/-- A mask result written in the effective mask, flags set, and the instruction retired. -/
def Iss.writeM (I : Iss) (s : State) (p : Option Pfx) (k : BitVec 4) (vals : BitVec 32) (fl : Flags) : State :=
  let w := I.warp.setMask I.ctl k.toNat (I.warp.eff p) (zeroing p) vals
  ((({ I with warp := w } : Iss).addFlags fl).retire (sizeP p)).put s

/-- A result of two or three register sources of equal width, lane by lane. -/
def Iss.lane2 (I : Iss) (s : State) (p : Option Pfx) (d a b : BitVec 7) (cnt : Nat) (t : Tag) (f : Nat → Nat → Nat) : State :=
  I.writeD s p d cnt t (fun l => f (I.warp.laneNat a l cnt) (I.warp.laneNat b l cnt)) 0

/-! ### Packed elements (R259, R340) -/

/-- The elements of `w` bits of a value of `tot` bits. -/
def elems (w tot x : Nat) : List Nat := (List.range (tot / w)).map fun i => bits x (w * i) w

/-- A value put together from elements of `w` bits. -/
def packElems (w : Nat) : List Nat → Nat
  | [] => 0
  | x :: t => x % 2 ^ w + 2 ^ w * packElems w t

/-- The width of an int code and the width of what it acts on: the lane word, or the pair. -/
def intW (t : Nat) : Nat := 8 * 2 ^ (t % 4)
def intTot (t : Nat) : Nat := if t % 4 = 3 then 64 else 32
/-- Whether an int code is signed. -/
def intS (t : Nat) : Bool := t < 4

/-- An element function applied to the packed elements of two values. -/
def elemwise (w tot : Nat) (f : Nat → Nat → Nat) (x y : Nat) : Nat :=
  packElems w (List.zipWith f (elems w tot x) (elems w tot y))

end Sys2Proof.Machine
end

