-- ==== Sys2Proof/Machine/Flags.lean ====
section
/-! DEFINITION. The flag computations of R274-R284 that more than one family uses: the rounding and saturation in force for
a destination class, the collection of flags over lanes, and reading and writing `c.FLAGS`. -/

namespace Sys2Proof.Machine

/-- The mode word in force: of the crew, or of the cue warp (R278). -/
def Iss.nmode (I : Iss) : Word := match I.crew.kind with | .cue => I.warp.nmode | _ => I.crew.nmode

/-- The rounding mode for a destination class (cvf code), or the prefix's override (R279). -/
def Iss.rmode (I : Iss) (p : Option Pfx) (cls : Nat) : RMode :=
  match p with
  | some p => (match p.rnd.toNat with
      | 1 => .rne | 2 => .rtz | 3 => .rup | 4 => .rdn | 5 => .rna
      | _ => rmOfMode (bits I.nmode.toNat (modeShift cls) 3))
  | none => rmOfMode (bits I.nmode.toNat (modeShift cls) 3)

/-- The saturation mode for a destination class, or the prefix's override (R279). -/
def Iss.smode (I : Iss) (p : Option Pfx) (cls : Nat) : SatMode :=
  match p with
  | some p => (match p.sat.toNat with
      | 1 => .ieee | 2 => .sat | 3 => .satf
      | _ => smOfMode (bits I.nmode.toNat (modeShift cls + 3) 2))
  | none => smOfMode (bits I.nmode.toNat (modeShift cls + 3) 2)

/-- The flag mode of integer destinations (R277): INTS, or the prefix's saturation override in the same order. -/
def Iss.imode (I : Iss) (p : Option Pfx) : Nat :=
  match p with
  | some p => (match p.sat.toNat with
      | 1 => 0 | 2 => 1 | 3 => 2
      | _ => bits I.nmode.toNat 30 2)
  | none => bits I.nmode.toNat 30 2

/-- Flags ORed over the lanes of a mask (R283). -/
def orFlags (e : BitVec 32) (f : Nat → Flags) : Flags := (laneList e).foldl (fun a l => a ||| f l) 0

/-- A lane function that gives a result and flags: the result written and the flags of the effective lanes set. -/
def Iss.laneF (I : Iss) (s : State) (p : Option Pfx) (d : BitVec 7) (cnt : Nat) (t : Tag) (f : Nat → Nat × Flags) : State :=
  I.writeD s p d cnt t (fun l => (f l).1) (orFlags (I.warp.eff p) fun l => (f l).2)

/-- A lane predicate that gives a mask bit and flags. -/
def Iss.laneM (I : Iss) (s : State) (p : Option Pfx) (k : BitVec 4) (f : Nat → Bool × Flags) : State :=
  I.writeM s p k (maskOf fun l => (f l).1) (orFlags (I.warp.eff p) fun l => (f l).2)

end Sys2Proof.Machine
end

