-- ==== Sys2Proof/Machine/Integer.lean ====
section
/-! DEFINITION. Integer and address instructions, majors 0x0C-0x17 (R187, R260, R339-R343, R361-R366). -/

namespace Sys2Proof.Machine

/-! ### Tags of results that may be affine (R339) -/

/-- The tag by the general rows: uniform when every source register is, general otherwise. -/
def Iss.tag2 (I : Iss) (a b : BitVec 7) (cnt : Nat) : Tag := uniOrGen (I.warp.regsOf a cnt ++ I.warp.regsOf b cnt)
def Iss.tag1 (I : Iss) (a : BitVec 7) (cnt : Nat) : Tag := uniOrGen (I.warp.regsOf a cnt)

/-- Affine when both sources are uniform or affine, under a function of bases and strides. -/
def affTag (x y : VReg) (f : Word × Word → Word × Word → Word × Word) : Tag :=
  match x.aff?, y.aff? with
  | some u, some v => if x.isUni && y.isUni then .uni else .aff (f u v).1 (f u v).2
  | _, _ => .gen

/-- The tag of `IADD`, `ISUB`. -/
def Iss.addTag (I : Iss) (t : Nat) (sub : Bool) (a b : BitVec 7) : Tag :=
  if t % 4 = 2 then affTag (I.warp.reg a) (I.warp.reg b)
    (fun u v => if sub then (u.1 - v.1, u.2 - v.2) else (u.1 + v.1, u.2 + v.2))
  else I.tag2 a b (if t % 4 = 3 then 2 else 1)

/-- The tag of a 32-bit product: affine with uniform. -/
def mulTag (x y : VReg) : Tag :=
  match x, y with
  | .uniform _, .uniform _ => .uni
  | .affine b s, .uniform v => .aff (b * v) (s * v)
  | .uniform v, .affine b s => .aff (b * v) (s * v)
  | _, _ => .gen

/-- The tag of a 32-bit product with an addend: affine when the product is affine and the addend uniform or affine. -/
def madTag (x y z : VReg) : Tag :=
  match mulTag x y with
  | .uni => uniOrGen [z]
  | .aff b s => (match z.aff? with
    | some v => .aff (b + v.1) (s + v.2)
    | none => .gen)
  | .gen => .gen

/-- An element-wise integer instruction of two sources. -/
def Iss.int2 (I : Iss) (s : State) (p : Option Pfx) (d a b : BitVec 7) (t : Nat) (tag : Tag) (f : Nat → Nat → Nat → Nat) : State :=
  I.lane2 s p d a b (intTot t / 32) tag (elemwise (intW t) (intTot t) (f (intW t)))

/-- `IADD` (R361). -/
def execIadd (p : Option Pfx) (d a b : BitVec 7) (t : BitVec 3) (s : State) : Host.Outcome State Fault Refusal :=
  runInstr (.iadd p d a b t) s fun I =>
    .ok (I.int2 s p d a b t.toNat (I.addTag t.toNat false a b) fun _ x y => x + y)

/-- `ISUB` (R361). -/
def execIsub (p : Option Pfx) (d a b : BitVec 7) (t : BitVec 3) (s : State) : Host.Outcome State Fault Refusal :=
  runInstr (.isub p d a b t) s fun I =>
    .ok (I.int2 s p d a b t.toNat (I.addTag t.toNat true a b) fun w x y => x + (2 ^ w - y))

/-- `IMUL` (R361). -/
def execImul (p : Option Pfx) (d a b : BitVec 7) (t : BitVec 3) (s : State) : Host.Outcome State Fault Refusal :=
  runInstr (.imul p d a b t) s fun I =>
    let tag := if t.toNat % 4 = 2 then mulTag (I.warp.reg a) (I.warp.reg b) else I.tag2 a b (intRegs t)
    .ok (I.int2 s p d a b t.toNat tag fun _ x y => x * y)

/-- Bits [2w-1:w] of the exact product (R361). -/
def mulHigh (signed : Bool) (w x y : Nat) : Nat :=
  wrapI w ((intOf signed w x * intOf signed w y) / ((2 ^ w : Nat) : Int))

/-- `IMULH` (R361). -/
def execImulh (p : Option Pfx) (d a b : BitVec 7) (t : BitVec 2) (s : State) : Host.Outcome State Fault Refusal :=
  runInstr (.imulh p d a b t) s fun I =>
    .ok (I.int2 s p d a b t.toNat (I.tag2 a b (intRegs2 t)) fun w x y => mulHigh true w x y)

/-- `IMULHN` (R361). -/
def execImulhn (p : Option Pfx) (d a b : BitVec 7) (t : BitVec 2) (s : State) : Host.Outcome State Fault Refusal :=
  runInstr (.imulhn p d a b t) s fun I =>
    .ok (I.int2 s p d a b t.toNat (I.tag2 a b (intRegs2 t)) fun w x y => mulHigh false w x y)

/-- The register of the third source: the prefix's fourth operand, or the old destination (R314). -/
def thirdReg (p : Option Pfx) (d : BitVec 7) : BitVec 7 := match p with | none => d | some p => p.op4

/-- `IMAD` (R361). -/
def execImad (p : Option Pfx) (d a b : BitVec 7) (t : BitVec 3) (s : State) : Host.Outcome State Fault Refusal :=
  runInstr (.imad p d a b t) s fun I =>
    let c := thirdReg p d
    let n := intRegs t
    let tag :=
      if t.toNat % 4 = 2 then madTag (I.warp.reg a) (I.warp.reg b) (I.warp.reg c)
      else uniOrGen (I.warp.regsOf a n ++ I.warp.regsOf b n ++ I.warp.regsOf c n)
    let w := intW t.toNat
    let tot := intTot t.toNat
    .ok (I.writeD s p d n tag (fun l =>
      elemwise w tot (fun x y => x + y) (elemwise w tot (fun x y => x * y) (I.warp.laneNat a l n) (I.warp.laneNat b l n))
        (I.warp.laneNat c l n)) 0)

/-! ### Division (R187, R260) -/

/-- Quotient and remainder of one element with its edge cases. -/
def divElem (signed : Bool) (w x y : Nat) : Nat × Nat :=
  if y % 2 ^ w = 0 then (2 ^ w - 1, x)
  else (wrapI w ((intOf signed w x).tdiv (intOf signed w y)), wrapI w ((intOf signed w x).tmod (intOf signed w y)))

/-- Whether some element of a lane divides by zero. -/
def laneDZ (w tot y : Nat) : Bool := (elems w tot y).any (· == 0)
/-- Whether some element of a lane overflows. -/
def laneOV (signed : Bool) (w tot x y : Nat) : Bool :=
  signed && (List.zip (elems w tot x) (elems w tot y)).any fun (u, v) => u == 2 ^ (w - 1) && v == 2 ^ w - 1

/-- `IDIV`, `IDIVN`, `IREM`, `IREMN` (R187): every active lane is evaluated before any is written. -/
def Iss.divide (I : Iss) (s : State) (p : Option Pfx) (d a b : BitVec 7) (t : BitVec 2) (signed rem : Bool) : Eff :=
  let w := intW t.toNat
  let tot := intTot t.toNat
  let n := intRegs2 t
  let e := I.warp.eff p
  let x (l : Nat) := I.warp.laneNat a l n
  let y (l : Nat) := I.warp.laneNat b l n
  let dz := e &&& maskOf fun l => laneDZ w tot (y l)
  let ov := e &&& maskOf fun l => laneOV signed w tot (x l) (y l)
  let en := (if I.crew.ten.getLsbD 0 then dz else 0) ||| (if I.crew.ten.getLsbD 1 then ov else 0)
  if en ≠ 0 then
    .error (s, { cause := if en &&& dz ≠ 0 then cINTDZ else cINTOV,
                 detail := (if dz ≠ 0 then 1 else 0) + (if ov ≠ 0 then 2 else 0), lanes := en })
  else
    .ok (I.writeD s p d n (I.tag2 a b n)
      (fun l => elemwise w tot (fun u v => if rem then (divElem signed w u v).2 else (divElem signed w u v).1) (x l) (y l))
      ((if dz ≠ 0 then fIDZ else 0) ||| (if ov ≠ 0 then fIOV else 0)))

/-- `IDIV` (R187). -/
def execIdiv (p : Option Pfx) (d a b : BitVec 7) (t : BitVec 2) (s : State) : Host.Outcome State Fault Refusal :=
  runInstr (.idiv p d a b t) s fun I => I.divide s p d a b t true false

/-- `IDIVN` (R187). -/
def execIdivn (p : Option Pfx) (d a b : BitVec 7) (t : BitVec 2) (s : State) : Host.Outcome State Fault Refusal :=
  runInstr (.idivn p d a b t) s fun I => I.divide s p d a b t false false

/-- `IREM` (R187). -/
def execIrem (p : Option Pfx) (d a b : BitVec 7) (t : BitVec 2) (s : State) : Host.Outcome State Fault Refusal :=
  runInstr (.irem p d a b t) s fun I => I.divide s p d a b t true true

/-- `IREMN` (R187). -/
def execIremn (p : Option Pfx) (d a b : BitVec 7) (t : BitVec 2) (s : State) : Host.Outcome State Fault Refusal :=
  runInstr (.iremn p d a b t) s fun I => I.divide s p d a b t false true

/-- `IABS` (R361). -/
def execIabs (p : Option Pfx) (d a : BitVec 7) (t : BitVec 2) (s : State) : Host.Outcome State Fault Refusal :=
  runInstr (.iabs p d a t) s fun I =>
    .ok (I.int2 s p d a a t.toNat (I.tag1 a (intRegs2 t)) fun w x _ => wrapI w (intOf true w x).natAbs)

/-! ### Minimum and maximum -/

/-- `IMIN` (R361). -/
def execImin (p : Option Pfx) (d a b : BitVec 7) (t : BitVec 2) (s : State) : Host.Outcome State Fault Refusal :=
  runInstr (.imin p d a b t) s fun I =>
    .ok (I.int2 s p d a b t.toNat (I.tag2 a b (intRegs2 t)) fun w x y => if intOf true w y < intOf true w x then y else x)

/-- `IMINN` (R361). -/
def execIminn (p : Option Pfx) (d a b : BitVec 7) (t : BitVec 2) (s : State) : Host.Outcome State Fault Refusal :=
  runInstr (.iminn p d a b t) s fun I =>
    .ok (I.int2 s p d a b t.toNat (I.tag2 a b (intRegs2 t)) fun _ x y => if y < x then y else x)

/-- `IMAX` (R361). -/
def execImax (p : Option Pfx) (d a b : BitVec 7) (t : BitVec 2) (s : State) : Host.Outcome State Fault Refusal :=
  runInstr (.imax p d a b t) s fun I =>
    .ok (I.int2 s p d a b t.toNat (I.tag2 a b (intRegs2 t)) fun w x y => if intOf true w x < intOf true w y then y else x)

/-- `IMAXN` (R361). -/
def execImaxn (p : Option Pfx) (d a b : BitVec 7) (t : BitVec 2) (s : State) : Host.Outcome State Fault Refusal :=
  runInstr (.imaxn p d a b t) s fun I =>
    .ok (I.int2 s p d a b t.toNat (I.tag2 a b (intRegs2 t)) fun _ x y => if x < y then y else x)

/-! ### Bit fields (R362) -/

/-- Position and length of a field descriptor. -/
def fieldPos (b : Word) : Nat := bits b.toNat 0 8
def fieldLen (b : Word) : Nat := bits b.toNat 8 8

/-- The field of `BFX` and `BFXS`: bits of the element at positions w and above read as zero. -/
def bitField (a p n : Nat) : Nat := (a >>> p) % 2 ^ n

/-- `BFX` (R362). -/
def execBfx (p : Option Pfx) (d a b : BitVec 7) (t : BitVec 1) (s : State) : Host.Outcome State Fault Refusal :=
  runInstr (.bfx p d a b t) s fun I =>
    let n := if t = 1 then 2 else 1
    .ok (I.writeD s p d n (uniOrGen (I.warp.regsOf a n ++ [I.warp.reg b])) (fun l =>
      let q := I.warp.lane b l
      let f := bitField (I.warp.laneNat a l n) (fieldPos q) (fieldLen q)
      if fieldLen q = 0 then f else wrapI (32 * n) (intOf true (fieldLen q) f)) 0)

/-- `BFXS` (R362). -/
def execBfxs (p : Option Pfx) (d a b : BitVec 7) (t : BitVec 1) (s : State) : Host.Outcome State Fault Refusal :=
  runInstr (.bfxs p d a b t) s fun I =>
    let n := if t = 1 then 2 else 1
    .ok (I.writeD s p d n (uniOrGen (I.warp.regsOf a n ++ [I.warp.reg b])) (fun l =>
      let q := I.warp.lane b l
      bitField (I.warp.laneNat a l n) (fieldPos q) (fieldLen q)) 0)

/-- `BFI` (R362). -/
def execBfi (p : Option Pfx) (d a b : BitVec 7) (t : BitVec 3) (s : State) : Host.Outcome State Fault Refusal :=
  runInstr (.bfi p d a b t) s fun I =>
    let n := intRegs t
    let w := 32 * n
    .ok (I.writeD s p d n (uniOrGen (I.warp.regsOf a n ++ I.warp.regsOf d n ++ [I.warp.reg b])) (fun l =>
      let q := I.warp.lane b l
      let m := ((2 ^ fieldLen q - 1) <<< fieldPos q) % 2 ^ w
      (I.warp.laneNat d l n &&& (2 ^ w - 1 - m)) ||| ((I.warp.laneNat a l n <<< fieldPos q) &&& m)) 0)

/-! ### Shifts (R363) -/

/-- `SHL` (R363). -/
def execShl (p : Option Pfx) (d a b : BitVec 7) (t : BitVec 3) (s : State) : Host.Outcome State Fault Refusal :=
  runInstr (.shl p d a b t) s fun I =>
    let tag := if t.toNat % 4 = 2 then
        (match I.warp.reg a, I.warp.reg b with
          | .uniform _, .uniform _ => .uni
          | .affine x st, .uniform v => .aff (x <<< v.toNat) (st <<< v.toNat)
          | _, _ => .gen)
      else I.tag2 a b (intRegs t)
    .ok (I.int2 s p d a b t.toNat tag fun w x y => if w ≤ y then 0 else x <<< y)

/-- `SHR` (R363). -/
def execShr (p : Option Pfx) (d a b : BitVec 7) (t : BitVec 3) (s : State) : Host.Outcome State Fault Refusal :=
  runInstr (.shr p d a b t) s fun I =>
    .ok (I.int2 s p d a b t.toNat (I.tag2 a b (intRegs t)) fun w x y => if w ≤ y then 0 else x >>> y)

/-- `SAR` (R363). -/
def execSar (p : Option Pfx) (d a b : BitVec 7) (t : BitVec 3) (s : State) : Host.Outcome State Fault Refusal :=
  runInstr (.sar p d a b t) s fun I =>
    .ok (I.int2 s p d a b t.toNat (I.tag2 a b (intRegs t)) fun w x y =>
      wrapI w (intOf true w x / ((2 ^ (if w ≤ y then w else y) : Nat) : Int)))

/-- `ROL` (R363). -/
def execRol (p : Option Pfx) (d a b : BitVec 7) (t : BitVec 3) (s : State) : Host.Outcome State Fault Refusal :=
  runInstr (.rol p d a b t) s fun I =>
    .ok (I.int2 s p d a b t.toNat (I.tag2 a b (intRegs t)) fun w x y =>
      (x <<< (y % w)) ||| (x >>> (w - y % w)))

/-! ### Bitwise forms -/

/-- The width of a raw code and the width of what it acts on. -/
def rawW (t : Nat) : Nat := 8 * 2 ^ t
def rawTot (t : Nat) : Nat := if t = 4 then 128 else if t = 3 then 64 else 32

/-- `AND` (R361). -/
def execAnd (p : Option Pfx) (d a b : BitVec 7) (t : BitVec 3) (s : State) : Host.Outcome State Fault Refusal :=
  runInstr (.and p d a b t) s fun I => .ok (I.lane2 s p d a b (rawRegs t) (I.tag2 a b (rawRegs t)) fun x y => x &&& y)

/-- `OR` (R361). -/
def execOr (p : Option Pfx) (d a b : BitVec 7) (t : BitVec 3) (s : State) : Host.Outcome State Fault Refusal :=
  runInstr (.or p d a b t) s fun I => .ok (I.lane2 s p d a b (rawRegs t) (I.tag2 a b (rawRegs t)) fun x y => x ||| y)

/-- `XOR` (R361). -/
def execXor (p : Option Pfx) (d a b : BitVec 7) (t : BitVec 3) (s : State) : Host.Outcome State Fault Refusal :=
  runInstr (.xor p d a b t) s fun I => .ok (I.lane2 s p d a b (rawRegs t) (I.tag2 a b (rawRegs t)) fun x y => x ^^^ y)

/-- `ANDN` (R361). -/
def execAndn (p : Option Pfx) (d a b : BitVec 7) (t : BitVec 3) (s : State) : Host.Outcome State Fault Refusal :=
  runInstr (.andn p d a b t) s fun I =>
    .ok (I.lane2 s p d a b (rawRegs t) (I.tag2 a b (rawRegs t)) fun x y => x &&& (2 ^ rawTot t.toNat - 1 - y))

/-- The tag of a register, as a tag to write. -/
def VReg.tag : VReg → Tag
  | .uniform _ => .uni
  | .affine b s => .aff b s
  | .general _ => .gen

/-- A result whose registers take the tags of a source, register by register (`MOV`, R339; `SEL`, R366). -/
def Iss.writeTagged (I : Iss) (s : State) (p : Option Pfx) (d : BitVec 7) (cnt : Nat) (tags : Nat → Tag) (f : Nat → Nat) : State :=
  (({ I with warp := I.warp.setRegs I.ctl d (I.warp.eff p) (zeroing p) tags f cnt } : Iss).retire (sizeP p)).put s

/-- The tag that a result of a type narrower than 32 bits keeps: it is never affine (R339). -/
def Tag.narrow (t : BitVec 3) : Tag → Tag
  | .aff b s => if t.toNat < 2 then .gen else .aff b s
  | .uni => .uni
  | .gen => .gen

/-- `MOV` (R361). (DEDUCED, log 19) -/
def execMov (p : Option Pfx) (d a : BitVec 7) (t : BitVec 3) (s : State) : Host.Outcome State Fault Refusal :=
  runInstr (.mov p d a t) s fun I =>
    .ok (I.writeTagged s p d (rawRegs t) (fun k => (I.warp.reg (regPlus a k)).tag.narrow t) fun l => I.warp.laneNat a l (rawRegs t))

/-- Set bits of a natural number below `w`. -/
def popcount (w x : Nat) : Nat := ((List.range w).filter fun i => x.testBit i).length
/-- Leading zeros of a `w`-bit value: w for zero. -/
def clz (w x : Nat) : Nat := if x = 0 then w else w - 1 - Nat.log2 x
/-- Trailing zeros of a `w`-bit value: w for zero. -/
def ctz (w x : Nat) : Nat := ((List.range w).find? fun i => x.testBit i).getD w
/-- Bit j moved to bit w - 1 - j. -/
def bitrev (w x : Nat) : Nat := ((List.range w).filter fun i => x.testBit i).foldl (fun a i => a + 2 ^ (w - 1 - i)) 0

/-- A unary element-wise form of a raw code. -/
def Iss.raw1 (I : Iss) (s : State) (p : Option Pfx) (d a : BitVec 7) (t : BitVec 3) (f : Nat → Nat → Nat) : State :=
  I.writeD s p d (rawRegs t) (I.tag1 a (rawRegs t))
    (fun l => packElems (rawW t.toNat) ((elems (rawW t.toNat) (rawTot t.toNat) (I.warp.laneNat a l (rawRegs t))).map (f (rawW t.toNat)))) 0

/-- `POPC` (R361). -/
def execPopc (p : Option Pfx) (d a : BitVec 7) (t : BitVec 3) (s : State) : Host.Outcome State Fault Refusal :=
  runInstr (.popc p d a t) s fun I => .ok (I.raw1 s p d a t popcount)

/-- `CLZ` (R361). -/
def execClz (p : Option Pfx) (d a : BitVec 7) (t : BitVec 3) (s : State) : Host.Outcome State Fault Refusal :=
  runInstr (.clz p d a t) s fun I => .ok (I.raw1 s p d a t clz)

/-- `CTZ` (R361). -/
def execCtz (p : Option Pfx) (d a : BitVec 7) (t : BitVec 3) (s : State) : Host.Outcome State Fault Refusal :=
  runInstr (.ctz p d a t) s fun I => .ok (I.raw1 s p d a t ctz)

/-- `BREV` (R361). -/
def execBrev (p : Option Pfx) (d a : BitVec 7) (t : BitVec 3) (s : State) : Host.Outcome State Fault Refusal :=
  runInstr (.brev p d a t) s fun I => .ok (I.raw1 s p d a t bitrev)

/-! ### Addresses, comparison, selection, immediates -/

/-- `LEA` (R364). -/
def execLea (p : Option Pfx) (d a b : BitVec 7) (sh : BitVec 3) (s : State) : Host.Outcome State Fault Refusal :=
  runInstr (.lea p d a b sh) s fun I =>
    let k := sh.toNat
    let tag := match I.warp.regsOf a 2, I.warp.reg b with
      | [.uniform _, .uniform _], .uniform _ => .uni
      | [.uniform lo, .uniform _], .affine bt st => .aff (lo + (bt <<< k)) (st <<< k)
      | _, _ => .gen
    .ok (I.writeD s p d 2 tag (fun l =>
      wrapI 64 ((I.warp.laneNat a l 2 : Int) + intOf true 32 (I.warp.lane b l).toNat * ((2 ^ k : Nat) : Int))) 0)

/-- `ICMP` (R365). -/
def execIcmp (p : Option Pfx) (k : BitVec 4) (a b : BitVec 7) (c : BitVec 2) (t : BitVec 3) (s : State) :
    Host.Outcome State Fault Refusal :=
  runInstr (.icmp p k a b c t) s fun I =>
    let n := intRegs t
    let w := intW t.toNat
    .ok (I.laneM s p k fun l =>
      let x := intOf (intS t.toNat) w (I.warp.laneNat a l n)
      let y := intOf (intS t.toNat) w (I.warp.laneNat b l n)
      (match c.toNat with
        | 0 => decide (x = y) | 1 => decide (x ≠ y) | 2 => decide (x < y) | _ => decide (x ≤ y), 0))

/-- The tag of one register of a `SEL` result (R366). -/
def selTag (full : Bool) (e m : BitVec 32) (x y : VReg) : Tag :=
  if full && e &&& ~~~m == 0 then x.tag
  else if full && e &&& m == 0 then y.tag
  else match x, y with
    | .uniform u, .uniform v => if u = v then .uni else .gen
    | _, _ => .gen

/-- `SEL` (R366). -/
def execSel (p : Option Pfx) (d a b : BitVec 7) (w : BitVec 1) (k : BitVec 4) (s : State) : Host.Outcome State Fault Refusal :=
  runInstr (.sel p d a b w k) s fun I =>
    let n := if w = 1 then 2 else 1
    let e := I.warp.eff p
    let m := I.warp.mask k.toNat
    .ok (I.writeTagged s p d n
      (fun j => selTag (I.warp.isFull I.ctl e) e m (I.warp.reg (regPlus a j)) (I.warp.reg (regPlus b j)))
      fun l => if m.getLsbD l then I.warp.laneNat a l n else I.warp.laneNat b l n)

/-- `IADDI` (R365). -/
def execIaddi (p : Option Pfx) (d a : BitVec 7) (i : BitVec 12) (s : State) : Host.Outcome State Fault Refusal :=
  runInstr (.iaddi p d a i) s fun I =>
    let v : Word := i.signExtend 32
    .ok (I.writeD s p d 1 (affTag (I.warp.reg a) (.uniform v) fun u w => (u.1 + w.1, u.2 + w.2))
      (fun l => (I.warp.lane a l + v).toNat) 0)

/-- `MOVI` (R365). -/
def execMovi (p : Option Pfx) (d : BitVec 7) (i : BitVec 19) (s : State) : Host.Outcome State Fault Refusal :=
  runInstr (.movi p d i) s fun I => .ok (I.writeD s p d 1 .uni (fun _ => (i.signExtend 32).toNat) 0)

/-- `MOVH` (R365). -/
def execMovh (p : Option Pfx) (d : BitVec 7) (i : BitVec 19) (s : State) : Host.Outcome State Fault Refusal :=
  runInstr (.movh p d i) s fun I =>
    .ok (I.writeD s p d 1 (I.tag1 d 1) (fun l => i.toNat * 2 ^ 13 + (I.warp.lane d l).toNat % 2 ^ 13) 0)

end Sys2Proof.Machine
end

