-- ==== Sys2Proof/Machine/Special.lean ====
section
/-! DEFINITION. The special functions of R382: each function's exact value computed to 320 fraction bits, and the choice of
a result within the error bound that R382 gives. Which admissible result a part gives is open (R19, R382). -/

namespace Sys2Proof.Machine

/-- Fraction bits of the fixed-point values below. -/
abbrev fracBits : Nat := 320

/-- One, in fixed point. -/
abbrev fixOne : Nat := 2 ^ fracBits

/-- `m * 2^e` in fixed point. -/
def fixOf (m : Nat) (e : Int) : Nat :=
  if 0 ≤ e + fracBits then m <<< (e + fracBits).toNat else m >>> (-(e + fracBits)).toNat

/-- The product of two fixed-point values. -/
def fixMul (x y : Nat) : Nat := (x * y) >>> fracBits

/-- Pi. -/
def fixPi : Nat := 0x3243f6a8885a308d313198a2e03707344a4093822299f31d0082efa98ec4e6c89452821e638d01377
/-- The natural logarithm of 2. -/
def fixLn2 : Nat := 0xb17217f7d1cf79abc9e3b39803f2f6af40f343267298b62d8a0d175b8baafa2be7b876206debac98
/-- The base-2 logarithm of e. -/
def fixLog2e : Nat := 0x171547652b82fe1777d0ffda0d23a7d11d6aef551bad2b4b1164a2cd9a342648fbc3887eeaa2ed9ac
/-- 2 divided by the square root of pi. -/
def fixTwoRtPi : Nat := 0x120dd750429b6d11ae3a914fed7fd8688281341d7587cea2e7342b06199cc416180eb39f0b24e1e22

/-- The sum of the exponential series from a term on: each term is the last times `x / k`. -/
def expSum (x : Nat) : Nat → Nat → Nat → Nat
  | 0, _, term => term
  | fuel + 1, k, term => term + expSum x fuel (k + 1) (fixMul term x / k)

/-- 2 to a fixed-point power, from 0 up to 1. -/
def pow2Frac (u : Nat) : Nat := expSum (fixMul u fixLn2) 80 1 fixOne

/-- 2 to a fixed-point power. -/
def pow2Fix (neg : Bool) (u : Nat) : Nat :=
  let k := u / fixOne
  let f := u % fixOne
  if neg then (if f = 0 then fixOne >>> k else pow2Frac (fixOne - f) >>> (k + 1))
  else pow2Frac f <<< k

/-- The alternating sum of the sine series from a term on; `x2` is the square of the argument. -/
def sinSum (x2 : Nat) : Nat → Nat → Nat → Nat
  | 0, _, term => term
  | fuel + 1, k, term => term - sinSum x2 fuel (k + 2) (fixMul term x2 / (k * (k + 1)))

/-- sin of pi times a fixed-point number of half-turns: its sign and magnitude. -/
def sinPiFix (u : Nat) : Bool × Nat :=
  let r := u % (2 * fixOne)
  let neg := decide (fixOne ≤ r)
  let r := r % fixOne
  let r := if 2 * r > fixOne then fixOne - r else r
  let x := fixMul r fixPi
  (neg, sinSum (fixMul x x) 60 2 x)

/-- The sum of the series of the inverse hyperbolic tangent from a term on; `power` is the odd power of the argument. -/
def atanhSum (z2 : Nat) : Nat → Nat → Nat → Nat
  | 0, _, _ => 0
  | fuel + 1, k, power => power / k + atanhSum z2 fuel (k + 2) (fixMul power z2)

/-- The base-2 logarithm of `m * 2^e`: its sign and magnitude. -/
def log2Fix (m : Nat) (e : Int) : Bool × Nat :=
  let k := Nat.log2 m
  let y := (m <<< fracBits) >>> k
  let z := ((y - fixOne) <<< fracBits) / (y + fixOne)
  let v : Int := (e + k) * fixOne + fixMul (2 * atanhSum (fixMul z z) 110 1 z) fixLog2e
  (decide (v < 0), v.natAbs)

/-- The sum of the positive series of the error function from a term on; `w` is twice the square of the argument. -/
def erfSum (w : Nat) : Nat → Nat → Nat → Nat
  | 0, _, term => term
  | fuel + 1, k, term => term + erfSum w fuel (k + 2) (fixMul term w / k)

/-- e to minus a fixed-point value. -/
def expNegFix (x : Nat) : Nat := pow2Fix true (fixMul x fixLog2e)

/-- The value of a special function at `m * 2^e` (R382), sign and magnitude to 320 fraction bits. Beyond the clamps the
value is a limit to within far less than the error bound. -/
def specialValue (fn : Config.Special) (neg : Bool) (m : Nat) (e : Int) : Bool × Nat :=
  let clamp (k : Nat) : Nat := if magLt m e k 0 then fixOf m e else k * fixOne
  match fn with
  | .exp2 => (false, pow2Fix neg (clamp 250))
  | .log2 => log2Fix m e
  | .sin => let (n, v) := sinPiFix (fixOf m e); (n != neg, v)
  | .cos => sinPiFix (fixOf m e + fixOne / 2)
  | .tanh => let q := expNegFix (2 * clamp 100); (neg, ((fixOne - q) <<< fracBits) / (fixOne + q))
  | .erf =>
    let x := clamp 7
    (neg, fixMul fixTwoRtPi (fixMul (expNegFix (fixMul x x)) (erfSum (2 * fixMul x x) 250 3 x)))
  | .sigm =>
    let q := expNegFix (clamp 170)
    (false, (if neg then q <<< fracBits else fixOne <<< fracBits) / (fixOne + q))

/-- The error that R382 allows at a value: 2 units in the last place for FP32 (or 2^-22 for `FSIN` and `FCOS`), 1 for FP16
and BF16; and 2^-20 of that more, which covers the value's own truncation. -/
def specialBound (fn : Config.Special) (t : Nat) (v : Nat) : Nat :=
  let f := fltFmt t
  let ulp := 2 ^ (max (Nat.log2 v) (fracBits + 1 - f.bias) - f.fb)
  let b := if t = 0 then 2 * ulp else ulp
  let b := if t = 0 && (fn == .sin || fn == .cos) then max b (2 ^ (fracBits - 22)) else b
  b + b >>> 20

/-- Whether a code is a result that R382 allows where the function's value is `v`: a finite code within the bound, or the
infinity of an overflow that the bound reaches. (DESIGN CHOICE, log 7) -/
def specialAllows (fn : Config.Special) (t : Nat) (v : Bool × Nat) (code : Nat) : Bool :=
  match (fltFmt t).value code with
  | .fin n m e => decide ((smag n (fixOf m e) - smag v.1 v.2).natAbs ≤ specialBound fn t v.2)
  | .inf n => n == v.1 && decide (2 ^ ((fltFmt t).bias + 1 + fracBits) ≤ v.2 + specialBound fn t v.2)
  | .nan _ => false

/-- The result of a special function at an operand that is no exact point: any result the bound allows, the correctly
rounded one where the free choice is not allowed. NX is set, UF for a non-zero subnormal result, and overflow follows
R276. -/
def specialC (fn : Config.Special) (t : Nat) (sm : SatMode) (neg : Bool) (m : Nat) (e : Int) (x : Nat) : Nat × Flags :=
  let f := fltFmt t
  let v := specialValue fn neg m e
  let c := (Config.specialResult fn t x).toNat % 2 ^ f.width
  let (r, fl) := if specialAllows fn t v c then
      (match f.value c with
        | .inf n => f.overflow .rne sm n
        | _ => (c, 0))
    else f.round .rne sm v.1 v.2 (-fracBits)
  (r, fNX ||| (fl &&& ~~~ fUF) ||| (match f.value r with
    | .fin _ m _ => if m ≠ 0 && m < 2 ^ f.fb then fUF else 0
    | _ => 0))

end Sys2Proof.Machine
end

