-- ==== Sys2Proof/Machine/Float.lean ====
section
/-! DEFINITION. Floating-point and conversion instructions, majors 0x18-0x23 (R275-R286, R368-R391). -/

namespace Sys2Proof.Machine

/-- A source lane of a flt code: the word, or its low half (R369). -/
def Iss.flt (I : Iss) (t : Nat) (n : BitVec 7) (l : Nat) : Nat :=
  if t = 0 then (I.warp.lane n l).toNat else (I.warp.lane n l).toNat % 65536

/-- A rounding instruction of two sources. -/
def Iss.fbin (I : Iss) (s : State) (p : Option Pfx) (d a b : BitVec 7) (t : BitVec 3)
    (f : Fmt → RMode → SatMode → Nat → Nat → Nat × Flags) : State :=
  let k := t.toNat
  I.laneF s p d 1 (I.tag2 a b 1) fun l => f (fltFmt k) (I.rmode p k) (I.smode p k) (I.flt k a l) (I.flt k b l)

/-- An instruction of one source. -/
def Iss.fun1 (I : Iss) (s : State) (p : Option Pfx) (d a : BitVec 7) (t : BitVec 3)
    (f : Fmt → RMode → SatMode → Nat → Nat × Flags) : State :=
  let k := t.toNat
  I.laneF s p d 1 (I.tag1 a 1) fun l => f (fltFmt k) (I.rmode p k) (I.smode p k) (I.flt k a l)

/-- `FADD` (R374). -/
def execFadd (p : Option Pfx) (d a b : BitVec 7) (t : BitVec 3) (s : State) : Host.Outcome State Fault Refusal :=
  runInstr (.fadd p d a b t) s fun I => .ok (I.fbin s p d a b t faddC)

/-- `FSUB` (R374). -/
def execFsub (p : Option Pfx) (d a b : BitVec 7) (t : BitVec 3) (s : State) : Host.Outcome State Fault Refusal :=
  runInstr (.fsub p d a b t) s fun I => .ok (I.fbin s p d a b t fsubC)

/-- `FMUL` (R374). -/
def execFmul (p : Option Pfx) (d a b : BitVec 7) (t : BitVec 3) (s : State) : Host.Outcome State Fault Refusal :=
  runInstr (.fmul p d a b t) s fun I => .ok (I.fbin s p d a b t fmulC)

/-- `FFMA` (R374). -/
def execFfma (p : Option Pfx) (d a b : BitVec 7) (t : BitVec 3) (s : State) : Host.Outcome State Fault Refusal :=
  runInstr (.ffma p d a b t) s fun I =>
    let c := thirdReg p d
    let k := t.toNat
    .ok (I.laneF s p d 1 (uniOrGen [I.warp.reg a, I.warp.reg b, I.warp.reg c]) fun l =>
      ffmaC (fltFmt k) (I.rmode p k) (I.smode p k) (I.flt k a l) (I.flt k b l) (I.flt k c l))

/-- `FMIN` (R376). -/
def execFmin (p : Option Pfx) (d a b : BitVec 7) (t : BitVec 3) (s : State) : Host.Outcome State Fault Refusal :=
  runInstr (.fmin p d a b t) s fun I => .ok (I.fbin s p d a b t fun f _ _ x y => fminmaxC f false x y)

/-- `FMAX` (R376). -/
def execFmax (p : Option Pfx) (d a b : BitVec 7) (t : BitVec 3) (s : State) : Host.Outcome State Fault Refusal :=
  runInstr (.fmax p d a b t) s fun I => .ok (I.fbin s p d a b t fun f _ _ x y => fminmaxC f true x y)

/-- `FDIV` (R381). -/
def execFdiv (p : Option Pfx) (d a b : BitVec 7) (t : BitVec 3) (s : State) : Host.Outcome State Fault Refusal :=
  runInstr (.fdiv p d a b t) s fun I => .ok (I.fbin s p d a b t fdivC)

/-- Bits of a code without its sign. -/
def Fmt.mag (f : Fmt) (x : Nat) : Nat := x % 2 ^ (f.eb + f.fb)

/-- `FCPYS` (R377). -/
def execFcpys (p : Option Pfx) (d a b : BitVec 7) (t : BitVec 3) (s : State) : Host.Outcome State Fault Refusal :=
  runInstr (.fcpys p d a b t) s fun I => .ok (I.fbin s p d a b t fun f _ _ x y => (f.signed (f.sign y) (f.mag x), 0))

/-- `FABS` (R377). -/
def execFabs (p : Option Pfx) (d a : BitVec 7) (t : BitVec 3) (s : State) : Host.Outcome State Fault Refusal :=
  runInstr (.fabs p d a t) s fun I => .ok (I.fun1 s p d a t fun f _ _ x => (f.mag x, 0))

/-- `FNEG` (R377). -/
def execFneg (p : Option Pfx) (d a : BitVec 7) (t : BitVec 3) (s : State) : Host.Outcome State Fault Refusal :=
  runInstr (.fneg p d a t) s fun I => .ok (I.fun1 s p d a t fun f _ _ x => (f.signed (!f.sign x) (f.mag x), 0))

/-- `FRND` (R378). -/
def execFrnd (p : Option Pfx) (d a : BitVec 7) (t : BitVec 3) (s : State) : Host.Outcome State Fault Refusal :=
  runInstr (.frnd p d a t) s fun I => .ok (I.fun1 s p d a t fun f rm _ x => frndC f rm x)

/-- `FFRAC` (R378). -/
def execFfrac (p : Option Pfx) (d a : BitVec 7) (t : BitVec 3) (s : State) : Host.Outcome State Fault Refusal :=
  runInstr (.ffrac p d a t) s fun I => .ok (I.fun1 s p d a t fun f _ _ x => ffracC f x)

/-- `FSQRT` (R381). -/
def execFsqrt (p : Option Pfx) (d a : BitVec 7) (t : BitVec 3) (s : State) : Host.Outcome State Fault Refusal :=
  runInstr (.fsqrt p d a t) s fun I => .ok (I.fun1 s p d a t fsqrtC)

/-- `FRCP` (R381). -/
def execFrcp (p : Option Pfx) (d a : BitVec 7) (t : BitVec 3) (s : State) : Host.Outcome State Fault Refusal :=
  runInstr (.frcp p d a t) s fun I => .ok (I.fun1 s p d a t frcpC)

/-- `FRSQ` (R381). -/
def execFrsq (p : Option Pfx) (d a : BitVec 7) (t : BitVec 3) (s : State) : Host.Outcome State Fault Refusal :=
  runInstr (.frsq p d a t) s fun I => .ok (I.fun1 s p d a t frsqC)

/-- `FCLASS` (R380). -/
def execFclass (p : Option Pfx) (d a : BitVec 7) (t : BitVec 3) (s : State) : Host.Outcome State Fault Refusal :=
  runInstr (.fclass p d a t) s fun I => .ok (I.fun1 s p d a t fun f _ _ x => (fclassC f x, 0))

/-! ### Special functions (R382, R383) -/

/-- A finite value as a multiple of one half, when it is one: twice the value. -/
def halves (m : Nat) (e : Int) : Option Nat :=
  if 0 ≤ e + 1 then some (m <<< (e + 1).toNat)
  else if m % 2 ^ (-(e + 1)).toNat = 0 then some (m >>> (-(e + 1)).toNat) else none

/-- An exact result: no flag. -/
def Fmt.exact (f : Fmt) (neg : Bool) (m : Nat) (e : Int) : Nat × Flags := ((f.round .rne .ieee neg m e).1, 0)

/-- A special function at a non-exact operand whose sign the function carries through (odd) or drops (even): the function
of the magnitude, and the sign put back (R382, symmetry). -/
def oddSpecial (fn : Config.Special) (t : Nat) (sm : SatMode) (flip : Bool) (m : Nat) (e : Int) (mag : Nat) : Nat × Flags :=
  let f := fltFmt t
  let (r, fl) := specialC fn t sm false m e mag
  (if flip then f.signed (!f.sign r) (f.mag r) else r, fl)

/-- `FEXP2`: 2^a. (DEDUCED, log 113) -/
def exp2C (t : Nat) (sm : SatMode) (x : Nat) : Nat × Flags :=
  let f := fltFmt t
  match f.value x with
  | .nan s => (f.nan, if s then fIV else 0)
  | .inf n => if n then (0, 0) else (f.infCode, 0)
  | .fin n m e =>
    if !n && !magLt m e (f.bias + 1) 0 then f.overflow .rne sm false
    else match halves m e with
      | some h =>
        let z := smag n (h / 2)
        if h % 2 = 0 && decide (1 - (f.bias : Int) - f.fb ≤ z) then
          ((f.exact false 1 z).1, if z < 1 - (f.bias : Int) then fUF else 0)
        else specialC .exp2 t sm n m e x
      | none => specialC .exp2 t sm n m e x

/-- `FLOG2`: the base-2 logarithm. -/
def log2C (t : Nat) (sm : SatMode) (x : Nat) : Nat × Flags :=
  let f := fltFmt t
  match f.value x with
  | .nan s => (f.nan, if s then fIV else 0)
  | .inf n => if n then (f.nan, fIV) else (f.infCode, 0)
  | .fin n m e =>
    if m = 0 then (f.signed true f.infCode, fDZ)
    else if n then (f.nan, fIV)
    else if m = 2 ^ Nat.log2 m then
      let z := e + (Nat.log2 m : Int)
      if z = 0 then (0, 0) else f.exact (decide (z < 0)) z.natAbs 0
    else specialC .log2 t sm n m e x

/-- `FSIN`: sin(pi a), odd. -/
def sinC (t : Nat) (sm : SatMode) (x : Nat) : Nat × Flags :=
  let f := fltFmt t
  match f.value x with
  | .nan s => (f.nan, if s then fIV else 0)
  | .inf _ => (f.nan, fIV)
  | .fin n m e =>
    match halves m e with
    | some h =>
      if h % 2 = 0 then (f.signed n 0, 0)
      else f.exact (n != (h / 2 % 2 == 1)) 1 0
    | none => oddSpecial .sin t sm n m e (f.mag x)

/-- `FCOS`: cos(pi a), even. -/
def cosC (t : Nat) (sm : SatMode) (x : Nat) : Nat × Flags :=
  let f := fltFmt t
  match f.value x with
  | .nan s => (f.nan, if s then fIV else 0)
  | .inf _ => (f.nan, fIV)
  | .fin _ m e =>
    match halves m e with
    | some h => if h % 2 = 1 then (0, 0) else f.exact (h / 2 % 2 == 1) 1 0
    | none => oddSpecial .cos t sm false m e (f.mag x)

/-- `FTANH` and `FERF`: odd, with limits of -1 and +1. -/
def oddC (fn : Config.Special) (t : Nat) (sm : SatMode) (x : Nat) : Nat × Flags :=
  let f := fltFmt t
  match f.value x with
  | .nan s => (f.nan, if s then fIV else 0)
  | .inf n => f.exact n 1 0
  | .fin n m e => if m = 0 then (f.signed n 0, 0) else oddSpecial fn t sm n m e (f.mag x)

/-- `FSIGM`: 1 / (1 + e^-a). -/
def sigmC (t : Nat) (sm : SatMode) (x : Nat) : Nat × Flags :=
  let f := fltFmt t
  match f.value x with
  | .nan s => (f.nan, if s then fIV else 0)
  | .inf n => if n then (0, 0) else f.exact false 1 0
  | .fin n m e => if m = 0 then f.exact false 1 (-1) else specialC .sigm t sm n m e x

/-- `FEXP2` (R382). -/
def execFexp2 (p : Option Pfx) (d a : BitVec 7) (t : BitVec 3) (s : State) : Host.Outcome State Fault Refusal :=
  runInstr (.fexp2 p d a t) s fun I => .ok (I.fun1 s p d a t fun _ _ sm x => exp2C t.toNat sm x)

/-- `FLOG2` (R382). -/
def execFlog2 (p : Option Pfx) (d a : BitVec 7) (t : BitVec 3) (s : State) : Host.Outcome State Fault Refusal :=
  runInstr (.flog2 p d a t) s fun I => .ok (I.fun1 s p d a t fun _ _ sm x => log2C t.toNat sm x)

/-- `FSIN` (R382). -/
def execFsin (p : Option Pfx) (d a : BitVec 7) (t : BitVec 3) (s : State) : Host.Outcome State Fault Refusal :=
  runInstr (.fsin p d a t) s fun I => .ok (I.fun1 s p d a t fun _ _ sm x => sinC t.toNat sm x)

/-- `FCOS` (R382). -/
def execFcos (p : Option Pfx) (d a : BitVec 7) (t : BitVec 3) (s : State) : Host.Outcome State Fault Refusal :=
  runInstr (.fcos p d a t) s fun I => .ok (I.fun1 s p d a t fun _ _ sm x => cosC t.toNat sm x)

/-- `FTANH` (R382). -/
def execFtanh (p : Option Pfx) (d a : BitVec 7) (t : BitVec 3) (s : State) : Host.Outcome State Fault Refusal :=
  runInstr (.ftanh p d a t) s fun I => .ok (I.fun1 s p d a t fun _ _ sm x => oddC .tanh t.toNat sm x)

/-- `FERF` (R382). -/
def execFerf (p : Option Pfx) (d a : BitVec 7) (t : BitVec 3) (s : State) : Host.Outcome State Fault Refusal :=
  runInstr (.ferf p d a t) s fun I => .ok (I.fun1 s p d a t fun _ _ sm x => oddC .erf t.toNat sm x)

/-- `FSIGM` (R382). -/
def execFsigm (p : Option Pfx) (d a : BitVec 7) (t : BitVec 3) (s : State) : Host.Outcome State Fault Refusal :=
  runInstr (.fsigm p d a t) s fun I => .ok (I.fun1 s p d a t fun _ _ sm x => sigmC t.toNat sm x)

/-- `FCMP` (R379). -/
def execFcmp (p : Option Pfx) (k : BitVec 4) (a b : BitVec 7) (c : BitVec 2) (t : BitVec 3) (s : State) :
    Host.Outcome State Fault Refusal :=
  runInstr (.fcmp p k a b c t) s fun I =>
    .ok (I.laneM s p k fun l => fcmpC (fltFmt t.toNat) c.toNat (I.flt t.toNat a l) (I.flt t.toNat b l))

/-! ### Packed pairs (R384) -/

/-- A half of a packed pair. -/
def half (i x : Nat) : Nat := bits x (16 * i) 16

/-- The two halves of a pair result, and both halves' flags. -/
def pairOf (f : Nat → Nat × Flags) : Nat × Flags := ((f 0).1 % 65536 + 65536 * ((f 1).1 % 65536), (f 0).2 ||| (f 1).2)

def Iss.hbin (I : Iss) (s : State) (p : Option Pfx) (d a b : BitVec 7) (t : BitVec 3)
    (f : Fmt → RMode → SatMode → Nat → Nat → Nat × Flags) : State :=
  let k := t.toNat
  I.laneF s p d 1 (I.tag2 a b 1) fun l => pairOf fun i =>
    f (fltFmt k) (I.rmode p k) (I.smode p k) (half i (I.warp.lane a l).toNat) (half i (I.warp.lane b l).toNat)

/-- `HADD2` (R384). -/
def execHadd2 (p : Option Pfx) (d a b : BitVec 7) (t : BitVec 3) (s : State) : Host.Outcome State Fault Refusal :=
  runInstr (.hadd2 p d a b t) s fun I => .ok (I.hbin s p d a b t faddC)

/-- `HMUL2` (R384). -/
def execHmul2 (p : Option Pfx) (d a b : BitVec 7) (t : BitVec 3) (s : State) : Host.Outcome State Fault Refusal :=
  runInstr (.hmul2 p d a b t) s fun I => .ok (I.hbin s p d a b t fmulC)

/-- `HFMA2` (R384). -/
def execHfma2 (p : Option Pfx) (d a b : BitVec 7) (t : BitVec 3) (s : State) : Host.Outcome State Fault Refusal :=
  runInstr (.hfma2 p d a b t) s fun I =>
    let c := thirdReg p d
    let k := t.toNat
    .ok (I.laneF s p d 1 (uniOrGen [I.warp.reg a, I.warp.reg b, I.warp.reg c]) fun l => pairOf fun i =>
      ffmaC (fltFmt k) (I.rmode p k) (I.smode p k) (half i (I.warp.lane a l).toNat) (half i (I.warp.lane b l).toNat)
        (half i (I.warp.lane c l).toNat))

/-- `HMIN2` (R384). -/
def execHmin2 (p : Option Pfx) (d a b : BitVec 7) (t : BitVec 3) (s : State) : Host.Outcome State Fault Refusal :=
  runInstr (.hmin2 p d a b t) s fun I => .ok (I.hbin s p d a b t fun f _ _ x y => fminmaxC f false x y)

/-- `HMAX2` (R384). -/
def execHmax2 (p : Option Pfx) (d a b : BitVec 7) (t : BitVec 3) (s : State) : Host.Outcome State Fault Refusal :=
  runInstr (.hmax2 p d a b t) s fun I => .ok (I.hbin s p d a b t fun f _ _ x y => fminmaxC f true x y)

/-! ### Random numbers (R391) -/

/-- `RNG` (R391). -/
def execRng (p : Option Pfx) (d a b : BitVec 7) (t : BitVec 3) (s : State) : Host.Outcome State Fault Refusal :=
  runInstr (.rng p d a b t) s fun I =>
    .ok (I.writeD s p d 1 (uniOrGen (I.warp.regsOf a 2 ++ I.warp.regsOf b 2)) (fun l =>
      let y := cbg (I.warp.lane a l) (I.warp.lane (regPlus a 1) l) (I.warp.lane b l) (I.warp.lane (regPlus b 1) l)
      if t = 0 then cbgUniform y else y.toNat) 0)

/-! ### Conversions (R385-R390) -/

/-- `CVTPK` (R387). -/
def execCvtpk (p : Option Pfx) (d a b : BitVec 7) (t : BitVec 3) (s : State) : Host.Outcome State Fault Refusal :=
  runInstr (.cvtpk p d a b t) s fun I =>
    let k := t.toNat
    .ok (I.laneF s p d 1 (I.tag2 a b 1) fun l => pairOf fun i =>
      (fltFmt k).convert (I.rmode p k) (I.smode p k) (fp32.value (I.warp.lane (if i = 0 then a else b) l).toNat))

/-- A value widened exactly: canonical NaN, IV for a signalling one (R387, R388). -/
def Fmt.widen (f : Fmt) (v : FVal) : Nat × Flags :=
  match v with
  | .nan s => (f.nan, if s then fIV else 0)
  | .inf n => (f.signed n f.infCode, 0)
  | .fin n m e => f.exact n m e

/-- `CVTUN` (R387). -/
def execCvtun (p : Option Pfx) (d a : BitVec 7) (t : BitVec 3) (s : State) : Host.Outcome State Fault Refusal :=
  runInstr (.cvtun p d a t) s fun I =>
    let k := t.toNat
    let g (i l : Nat) : Nat × Flags := fp32.widen ((fltFmt k).value (half i (I.warp.lane a l).toNat))
    let J := I.addFlags (orFlags (I.warp.eff p) fun l => (g 0 l).2 ||| (g 1 l).2)
    .ok (J.writeTagged s p d 2 (fun _ => I.tag1 a 1) fun l => (g 0 l).1 + 2 ^ 32 * (g 1 l).1)

/-- `CVTIF` (R385). -/
def execCvtif (p : Option Pfx) (d a : BitVec 7) (f : BitVec 2) (i : BitVec 3) (s : State) : Host.Outcome State Fault Refusal :=
  runInstr (.cvtif p d a f i) s fun I =>
    let k := f.toNat
    .ok (I.laneF s p d 1 (I.tag1 a (intRegs i)) fun l =>
      (fltFmt k).convert (I.rmode p k) (I.smode p k)
        (intV (intOf (intS i.toNat) (intW i.toNat) (I.warp.laneNat a l (intRegs i)))))

/-- `CVTFI` (R386). -/
def execCvtfi (p : Option Pfx) (d a : BitVec 7) (f : BitVec 2) (i : BitVec 3) (s : State) : Host.Outcome State Fault Refusal :=
  runInstr (.cvtfi p d a f i) s fun I =>
    let w := intW i.toNat
    let sg := intS i.toNat
    .ok (I.laneF s p d (intRegs i) (I.tag1 a 1) fun l =>
      let r := toIntC sg w (I.rmode p 0) (I.imode p) ((fltFmt f.toNat).value (I.flt f.toNat a l))
      (if w < 32 then wrapI 32 (intOf sg w r.1) else r.1, r.2))

/-- Element `e` of a lane word in a conversion format (R265). -/
def cvElem (c e x : Nat) : Nat := bits x (cvfBits c * e) (cvfBits c)

/-- A lane word with element `e` replaced; bits [31:24] are zero for a 6-bit format (R389). -/
def cvInsert (c e old code : Nat) : Nat :=
  let w := cvfBits c
  let m := (2 ^ w - 1) <<< (w * e)
  let r := (old &&& (2 ^ 32 - 1 - m)) ||| ((code % 2 ^ w) <<< (w * e))
  if w = 6 then r % 2 ^ 24 else r

/-- `CVTW` (R388). -/
def execCvtw (p : Option Pfx) (d a : BitVec 7) (x sc e : BitVec 3) (s : State) : Host.Outcome State Fault Refusal :=
  runInstr (.cvtw p d a x sc e) s fun I =>
    .ok (I.laneF s p d 1 (I.tag1 a 1) fun l =>
      (cvf x.toNat).widen ((cvf sc.toNat).value (cvElem sc.toNat e.toNat (I.warp.lane a l).toNat)))

/-- The source of `CVTN` and `CVTNE`: FP32 whole, or a half (R389). -/
def Iss.cvSrc (I : Iss) (sc : Nat) (a : BitVec 7) (l : Nat) : FVal := (cvf sc).value (I.flt sc a l)

/-- The narrowed code and its flags. -/
def Iss.narrow (I : Iss) (p : Option Pfx) (a : BitVec 7) (x sc : Nat) (l : Nat) : Nat × Flags :=
  (cvf x).convert (I.rmode p x) (I.smode p x) (I.cvSrc sc a l)

/-- `CVTN` (R389). -/
def execCvtn (p : Option Pfx) (d a : BitVec 7) (x sc e : BitVec 3) (s : State) : Host.Outcome State Fault Refusal :=
  runInstr (.cvtn p d a x sc e) s fun I =>
    .ok (I.laneF s p d 1 (I.tag2 a d 1) fun l =>
      let q := I.narrow p a x.toNat sc.toNat l
      (cvInsert x.toNat e.toNat (I.warp.lane d l).toNat q.1, q.2))

/-- `CVTNE` (R390). -/
def execCvtne (p : Option Pfx) (d a : BitVec 7) (x sc e : BitVec 3) (s : State) : Host.Outcome State Fault Refusal :=
  runInstr (.cvtne p d a x sc e) s fun I =>
    let q (l : Nat) := I.narrow p a x.toNat sc.toNat l
    let r (l : Nat) : Nat := residualC (I.cvSrc sc.toNat a l) ((cvf x.toNat).value (q l).1)
    let ef := I.warp.eff p
    let w := I.warp.setReg I.ctl d ef (zeroing p) (I.tag2 a d 1) fun l =>
      BitVec.ofNat 32 (cvInsert x.toNat e.toNat (I.warp.lane d l).toNat (q l).1)
    let w := w.setReg I.ctl (match p with | some p => p.op4 | none => 0) ef (zeroing p) (I.tag1 a 1) fun l => BitVec.ofNat 32 (r l)
    .ok (((({ I with warp := w } : Iss).addFlags (orFlags ef fun l => (q l).2)).retire (sizeP p)).put s)

end Sys2Proof.Machine
end

