-- ==== Sys2Proof/Machine/Mask.lean ====
section
/-! DEFINITION. Mask and cross-lane instructions, majors 0x24-0x29 (R392-R397). -/

namespace Sys2Proof.Machine

/-- A mask combination in each lane of the effective mask (R392). -/
def Iss.mask2 (I : Iss) (s : State) (p : Option Pfx) (k j i : BitVec 4) (f : BitVec 32 → BitVec 32 → BitVec 32) : State :=
  I.writeM s p k (f (I.warp.mask j.toNat) (I.warp.mask i.toNat)) 0

/-- `MAND` (R392). -/
def execMand (p : Option Pfx) (k j i : BitVec 4) (s : State) : Host.Outcome State Fault Refusal :=
  runInstr (.mand p k j i) s fun I => .ok (I.mask2 s p k j i (· &&& ·))

/-- `MOR` (R392). -/
def execMor (p : Option Pfx) (k j i : BitVec 4) (s : State) : Host.Outcome State Fault Refusal :=
  runInstr (.mor p k j i) s fun I => .ok (I.mask2 s p k j i (· ||| ·))

/-- `MXOR` (R392). -/
def execMxor (p : Option Pfx) (k j i : BitVec 4) (s : State) : Host.Outcome State Fault Refusal :=
  runInstr (.mxor p k j i) s fun I => .ok (I.mask2 s p k j i (· ^^^ ·))

/-- `MANDN` (R392). -/
def execMandn (p : Option Pfx) (k j i : BitVec 4) (s : State) : Host.Outcome State Fault Refusal :=
  runInstr (.mandn p k j i) s fun I => .ok (I.mask2 s p k j i fun x y => x &&& ~~~y)

/-- `MNOT` (R392). -/
def execMnot (p : Option Pfx) (k j : BitVec 4) (s : State) : Host.Outcome State Fault Refusal :=
  runInstr (.mnot p k j) s fun I => .ok (I.mask2 s p k j 0 fun x _ => ~~~x)

/-- `MMOV` (R392). -/
def execMmov (p : Option Pfx) (k j : BitVec 4) (s : State) : Host.Outcome State Fault Refusal :=
  runInstr (.mmov p k j) s fun I => .ok (I.mask2 s p k j 0 fun x _ => x)

/-- `MSET` takes the warp operand's bits (R393). -/
def execMset (p : Option Pfx) (k : BitVec 4) (a : BitVec 7) (s : State) : Host.Outcome State Fault Refusal :=
  runInstr (.mset p k a) s fun I => .ok (I.writeM s p k (I.warp.operand a) 0)

/-- One value for the whole warp: uniform when written fully (R372). -/
def Iss.whole (I : Iss) (s : State) (p : Option Pfx) (d : BitVec 7) (v : Nat) : State := I.writeD s p d 1 .uni (fun _ => v) 0

/-- `MGET` (R393). -/
def execMget (p : Option Pfx) (d : BitVec 7) (j : BitVec 4) (s : State) : Host.Outcome State Fault Refusal :=
  runInstr (.mget p d j) s fun I => .ok (I.whole s p d (I.warp.mask j.toNat).toNat)

/-- `MPOP` (R393). -/
def execMpop (p : Option Pfx) (d : BitVec 7) (j : BitVec 4) (s : State) : Host.Outcome State Fault Refusal :=
  runInstr (.mpop p d j) s fun I => .ok (I.whole s p d (laneList (I.warp.eff p &&& I.warp.mask j.toNat)).length)

/-- `MFFS` (R393). -/
def execMffs (p : Option Pfx) (d : BitVec 7) (j : BitVec 4) (s : State) : Host.Outcome State Fault Refusal :=
  runInstr (.mffs p d j) s fun I => .ok (I.whole s p d (lowest (I.warp.eff p &&& I.warp.mask j.toNat)))

/-- The source lane of `SHFL` (R395): none beyond the warp. -/
def shflLane (md i v : Nat) : Option Nat :=
  let j : Int := match md with
    | 0 => v % 32 | 1 => (i : Int) - v | 2 => (i : Int) + v | _ => ((i ^^^ (v % 32) : Nat) : Int)
  if 0 ≤ j ∧ j < 32 then some j.toNat else none

/-- `SHFL` (R395). -/
def execShfl (p : Option Pfx) (d a b : BitVec 7) (m : BitVec 2) (w : BitVec 1) (s : State) : Host.Outcome State Fault Refusal :=
  runInstr (.shfl p d a b m w) s fun I =>
    let n := if w = 1 then 2 else 1
    let e := I.warp.eff p
    .ok (I.writeD s p d n (I.tag1 a n) (fun l =>
      let j := match shflLane m.toNat l (I.warp.lane b l).toNat with
        | some j => if e.getLsbD j then j else l
        | none => l
      I.warp.laneNat a j n) 0)

/-- A vote's result in every participating lane; nothing when none participates (R396). -/
def Iss.vote (I : Iss) (s : State) (p : Option Pfx) (d : BitVec 7) (v : Bool) : State :=
  if I.warp.eff p = 0 then (I.retire (sizeP p)).put s else I.whole s p d v.toNat

/-- `VOTE_ANY` (R396). -/
def execVoteAny (p : Option Pfx) (d : BitVec 7) (j : BitVec 4) (s : State) : Host.Outcome State Fault Refusal :=
  runInstr (.voteAny p d j) s fun I => .ok (I.vote s p d (I.warp.eff p &&& I.warp.mask j.toNat != 0))

/-- `VOTE_ALL` (R396). -/
def execVoteAll (p : Option Pfx) (d : BitVec 7) (j : BitVec 4) (s : State) : Host.Outcome State Fault Refusal :=
  runInstr (.voteAll p d j) s fun I => .ok (I.vote s p d (I.warp.eff p &&& ~~~(I.warp.mask j.toNat) == 0))

/-- `VOTE_UNI` (R396). -/
def execVoteUni (p : Option Pfx) (d a : BitVec 7) (s : State) : Host.Outcome State Fault Refusal :=
  runInstr (.voteUni p d a) s fun I =>
    let ls := laneList (I.warp.eff p)
    .ok (I.vote s p d (ls.all fun l => I.warp.lane a l == I.warp.lane a (ls.headD 0)))

/-- One combination of `WRED` and `WSCAN` (R397): op 0 ADD, 1 MIN, 2 MAX; t 0-3 integer, 4 FP32. -/
def Iss.combine (I : Iss) (p : Option Pfx) (o t : Nat) (x y : Nat) : Nat × Flags :=
  if t = 4 then
    (match o with
      | 0 => faddC fp32 (I.rmode p 0) (I.smode p 0) x y
      | 1 => fminmaxC fp32 false x y
      | _ => fminmaxC fp32 true x y)
  else
    let w := if t ≥ 2 then 64 else 32
    let lt := decide (intOf (t % 2 == 0) w x < intOf (t % 2 == 0) w y)
    (match o with
      | 0 => (x + y) % 2 ^ w
      | 1 => if lt then x else y
      | _ => if lt then y else x, 0)

/-- The running combination over the participating lanes, ascending: each lane's value and the flags. -/
def Iss.scan (I : Iss) (p : Option Pfx) (o t cnt : Nat) (a : BitVec 7) : List Nat → Option Nat → List (Nat × Nat) × Flags
  | [], _ => ([], 0)
  | l :: ls, acc =>
    let v := I.warp.laneNat a l cnt
    let r := match acc with | none => (v, (0 : Flags)) | some u => I.combine p o t u v
    let rest := Iss.scan I p o t cnt a ls (some r.1)
    ((l, r.1) :: rest.1, r.2 ||| rest.2)

/-- `WRED` (R397). -/
def execWred (p : Option Pfx) (d a : BitVec 7) (o : BitVec 2) (t : BitVec 3) (s : State) : Host.Outcome State Fault Refusal :=
  runInstr (.wred p d a o t) s fun I =>
    let n := if t = 2 ∨ t = 3 then 2 else 1
    let r := I.scan p o.toNat t.toNat n a (laneList (I.warp.eff p)) none
    .ok (I.writeD s p d n .uni (fun _ => (r.1.getLast?.map (·.2)).getD 0) r.2)

/-- `WSCAN` (R397). -/
def execWscan (p : Option Pfx) (d a : BitVec 7) (o : BitVec 2) (t : BitVec 3) (s : State) : Host.Outcome State Fault Refusal :=
  runInstr (.wscan p d a o t) s fun I =>
    let n := if t = 2 ∨ t = 3 then 2 else 1
    let r := I.scan p o.toNat t.toNat n a (laneList (I.warp.eff p)) none
    let same := r.1.all fun x => x.2 == (r.1.head?.map (·.2)).getD 0
    .ok (I.writeD s p d n (if same then .uni else .gen) (fun l => ((r.1.find? fun x => x.1 == l).map (·.2)).getD 0) r.2)

end Sys2Proof.Machine
end

