-- ==== Sys2Proof/Machine/Control.lean ====
section
/-! DEFINITION. Control flow: branches, calls and jumps, divergence, reform, exit, the register window, tags and traps
(majors 0x01-0x08; R160-R168, R183, R344-R354). -/

namespace Sys2Proof.Machine

/-! ### Branches (R344) -/

/-- An entry pushed at the front of the divergence list. -/
def Warp.push (w : Warp) (sd : Side) : Warp := { w with div := sd :: w.div }

/-- Warps of every crew in a quadrant of a core (R158). -/
def State.warpsIn (s : State) (core q : Nat) : Nat :=
  s.crews.foldl (fun a (_, c) => if c.core = core then a + (c.warps.filter fun (_, w) => w.quad == q).length else a) 0

/-- The slices of `BRD` that go to a new warp (R162): every active lane falls through, and no listed lane. -/
def brdMoved (w : Warp) (t : BitVec 32) : BitVec 32 :=
  let listed := w.div.foldl (fun a sd => a ||| sd.lanes) 0
  maskOf fun i =>
    let k := 4 * (i / 4)
    let act := w.m0.extractLsb' k 4
    act != 0 && (t.extractLsb' k 4) &&& act == 0 && listed.extractLsb' k 4 == 0

/-- A conditional branch resolved (R344): `t` the taking lanes. A taken backward branch yields (R161). (DEDUCED, log 14) -/
def Iss.branch (I : Iss) (s : State) (t : BitVec 32) (target : VAddr) (brd : Bool) : Eff :=
  let w := I.warp
  let pc := w.run.pc
  let nxt := pc + 4
  let backward : Bool := target.toNat ≤ pc.toNat
  let fin (I : Iss) : Iss := if backward && I.warp.div ≠ [] then { I with warp := I.warp.yieldSide I.crew } else I
  if t = w.m0 then .ok ((fin (I.retireTo target)).put s)
  else if t = 0 then .ok ((I.retireTo nxt).put s)
  else
    let moved := if brd && s.warpsIn I.crew.core w.quad < 64 then brdMoved w t else 0
    let fall := w.m0 &&& ~~~t &&& ~~~moved
    if fall ≠ 0 && w.div.length ≥ 16 then .error (s, { cause := cDIVERGE, lanes := w.m0 })
    else
      let w1 : Warp := { w with
        run := ⟨target, t, w.run.wbase, .none⟩, lanes := if moved = 0 then w.lanes else keepLanes w.lanes moved false,
        held := if moved = 0 then w.held else w.slicesHeld - (w.slicesHeld &&& sliceMap moved) }
      let w1 := if fall = 0 then w1 else w1.push ⟨nxt, fall, w.run.wbase, .none⟩
      let I1 : Iss := { I with warp := w1 }
      let I2 := fin (I1.retireTo target)
      if moved = 0 then .ok (I2.put s)
      else
        let wn : Warp := { w with
          run := ⟨nxt, w.m0 &&& moved, w.run.wbase, .none⟩, div := [],
          lanes := keepLanes w.lanes moved true, issued := 0, pending := none, badPages := [], held := sliceMap moved }
        .ok (s.setCrew I.cid { I2.crew with
          warps := (I2.crew.warps.set I.wid I2.warp).set I2.crew.nextWid wn, nextWid := I2.crew.nextWid + 1 })

/-- The target of a BR or VL offset (R316). -/
def Iss.target {n : Nat} (I : Iss) (o : BitVec n) : VAddr := I.warp.run.pc + BitVec.ofInt 57 (4 * o.toInt)

/-- A return address written to a pair in every lane of `m0`: uniform in both registers (R344). -/
def Iss.linkTo (I : Iss) (d : BitVec 7) : Iss :=
  { I with warp := I.warp.setRegs I.ctl d I.warp.m0 false (fun _ => .uni) (fun _ => (I.warp.run.pc + 4).toNat) 2 }

/-- The lanes of `m0` in which a mask bit has a value. -/
def Iss.lanesWith (I : Iss) (m : BitVec 4) (v : Bool) : BitVec 32 :=
  let k := I.warp.mask m.toNat
  I.warp.m0 &&& (if v then k else ~~~k)

/-- `BRA` (R344). -/
def execBra (o : BitVec 20) (s : State) : Host.Outcome State Fault Refusal :=
  runInstr (.bra o) s fun I => I.branch s I.warp.m0 (I.target o) false

/-- `CALL` (R344). -/
def execCall (o : BitVec 20) (s : State) : Host.Outcome State Fault Refusal :=
  runInstr (.call o) s fun I => (I.linkTo 126).branch s I.warp.m0 (I.target o) false

/-- `BRX` (R344). -/
def execBrx (m : BitVec 4) (o : BitVec 20) (s : State) : Host.Outcome State Fault Refusal :=
  runInstr (.brx m o) s fun I => I.branch s (I.lanesWith m true) (I.target o) false

/-- `BRX_ANY` (R344). -/
def execBrxAny (m : BitVec 4) (o : BitVec 20) (s : State) : Host.Outcome State Fault Refusal :=
  runInstr (.brxAny m o) s fun I => I.branch s (if I.lanesWith m true ≠ 0 then I.warp.m0 else 0) (I.target o) false

/-- `BRX_ALL` (R344). -/
def execBrxAll (m : BitVec 4) (o : BitVec 20) (s : State) : Host.Outcome State Fault Refusal :=
  runInstr (.brxAll m o) s fun I => I.branch s (if I.lanesWith m true = I.warp.m0 then I.warp.m0 else 0) (I.target o) false

/-- `BRN` (R344). -/
def execBrn (m : BitVec 4) (o : BitVec 20) (s : State) : Host.Outcome State Fault Refusal :=
  runInstr (.brn m o) s fun I => I.branch s (I.lanesWith m false) (I.target o) false

/-- `BRN_ANY` (R344). -/
def execBrnAny (m : BitVec 4) (o : BitVec 20) (s : State) : Host.Outcome State Fault Refusal :=
  runInstr (.brnAny m o) s fun I => I.branch s (if I.lanesWith m false ≠ 0 then I.warp.m0 else 0) (I.target o) false

/-- `BRN_ALL` (R344). -/
def execBrnAll (m : BitVec 4) (o : BitVec 20) (s : State) : Host.Outcome State Fault Refusal :=
  runInstr (.brnAll m o) s fun I => I.branch s (if I.lanesWith m false = I.warp.m0 then I.warp.m0 else 0) (I.target o) false

/-- `BRD` (R162). -/
def execBrd (m : BitVec 4) (o : BitVec 20) (s : State) : Host.Outcome State Fault Refusal :=
  runInstr (.brd m o) s fun I => I.branch s (I.lanesWith m true) (I.target o) true

/-- `BRL` (R344). -/
def execBrl (d : BitVec 7) (o : BitVec 19) (s : State) : Host.Outcome State Fault Refusal :=
  runInstr (.brl d o) s fun I => (I.linkTo d).branch s I.warp.m0 (I.target o) false

/-- `LOOP` (R344). -/
def execLoop (d : BitVec 7) (o : BitVec 19) (s : State) : Host.Outcome State Fault Refusal :=
  runInstr (.loop d o) s fun I =>
    let v (l : Nat) : Word := I.warp.lane d l - 1
    let J : Iss := { I with warp := I.warp.setReg I.ctl d I.warp.m0 false (I.tag1 d 1) v }
    J.branch s (I.warp.m0 &&& maskOf fun l => v l != 0) (I.target o) false

/-! ### Jumps (R345) -/

/-- The distinct targets in the order of the lowest lane that holds each. -/
def groupTargets (f : Nat → Nat) : List Nat → List (Nat × BitVec 32)
  | [] => []
  | l :: ls =>
    let rest := groupTargets f ls
    match rest.find? (fun g => g.1 == f l) with
    | none => (f l, laneBit l) :: rest
    | some g => (f l, laneBit l ||| g.2) :: rest.filter (fun x => x.1 != f l)

/-- `JMPI`, `CALLI`, `RET`: each lane of `m0` goes to its own target. -/
def Iss.jump (I : Iss) (s : State) (a : BitVec 7) (link : Bool) : Eff :=
  let w := I.warp
  let tgt (l : Nat) : Nat := w.laneNat a l 2
  let odd := w.m0 &&& maskOf fun l => tgt l % 4 != 0
  let far := w.m0 &&& maskOf fun l => decide (2 ^ 57 ≤ tgt l)
  if odd ≠ 0 then .error (s, { cause := cILLEGAL, lanes := odd })
  else if far ≠ 0 then .error (s, { cause := cPAGE, detail := 2, taddr := tgt (lowest far) % 2 ^ 57, lanes := far })
  else
    let g := groupTargets tgt (laneList w.m0)
    if w.div.length + g.length - 1 > 16 then .error (s, { cause := cDIVERGE, lanes := w.m0 })
    else
      let I1 := if link then I.linkTo 126 else I
      match g with
      | [] => .ok ((I.retire 4).put s)
      | (t0, l0) :: rest =>
        let side (t : Nat) (l : BitVec 32) : Side := ⟨BitVec.ofNat 57 t, l, w.run.wbase, .none⟩
        let w1 : Warp := { I1.warp with run := side t0 l0, div := rest.map (fun (t, l) => side t l) ++ w.div }
        .ok ((({ I1 with warp := w1 } : Iss).retireTo (BitVec.ofNat 57 t0)).put s)

/-- `JMPI` (R345). -/
def execJmpi (a : BitVec 7) (s : State) : Host.Outcome State Fault Refusal :=
  runInstr (.jmpi a) s fun I => I.jump s a false

/-- `CALLI` (R345). -/
def execCalli (a : BitVec 7) (s : State) : Host.Outcome State Fault Refusal :=
  runInstr (.calli a) s fun I => I.jump s a true

/-- `RET` (R345). -/
def execRet (s : State) : Host.Outcome State Fault Refusal :=
  runInstr .ret s fun I => I.jump s 126 false

/-! ### The flow group without operands (R346) -/

/-- `NOP` (R346). -/
def execNop (s : State) : Host.Outcome State Fault Refusal :=
  runInstr .nop s fun I => .ok ((I.retire 4).put s)

/-- `RJOIN` (R346). -/
def execRjoin (s : State) : Host.Outcome State Fault Refusal :=
  runInstr .rjoin s fun I =>
    let I := I.retire 4
    .ok ((if I.warp.div = [] then I else { I with warp := I.warp.yieldSide I.crew }).put s)

/-- `YIELD` (R346). -/
def execYield (s : State) : Host.Outcome State Fault Refusal :=
  runInstr .yield s fun I =>
    let I := I.retire 4
    let I : Iss := if I.warp.div = [] then I else { I with warp := I.warp.yieldSide I.crew }
    .ok ((if I.ctl then I else { I with warp := { I.warp with skipTurn := true } }).put s)

/-- `TRET` (R183): ILLEGAL without a frame, and when a target bit [1:0] is set (R328). -/
def execTret (s : State) : Host.Outcome State Fault Refusal :=
  runInstr .tret s fun I =>
    match I.crew.frames with
    | [] => .error (s, illegalT)
    | fr :: _ => if fr.epc.toNat % 4 ≠ 0 then .error (s, illegalT) else .ok (I.trapReturn.put s)

/-! ### Barriers and the end of threads -/

/-- The live threads of a crew: those in warps, bins and hold lists. -/
def Crew.live (c : Crew) : List Nat :=
  c.warps.flatMap (fun (_, w) => w.indices w.threads) ++ c.bins.flatMap (fun (_, b) => b.threads.map (·.thread))
    ++ c.hold.flatMap (fun (_, h) => h.map (·.2.thread))

/-- Whether barrier `b` is complete (R415). -/
def Crew.barDone (c : Crew) (b : Barrier) : Bool :=
  if b.arrived = [] then false else if b.exp = 0 then c.live.all (fun i => b.arrived.contains i) else decide (b.exp ≤ b.arrived.length)

/-- The generation check of a slate (R142). -/
def State.genOk (s : State) (x : Slate) : Bool :=
  bits x.flags 0 1 == 0 || x.gen == ((s.ctx x.ctx).gen.get 0 x.gsel).toNat

/-- A crew is at a take boundary (R137, R142, R156): a failed generation check ends it as cancelled, and with it at their next
barriers the other crews of its co-resident group; a crew of such a group otherwise goes on; any other crew spills. -/
def State.takeBoundary (s : State) (cid carry : Nat) : State :=
  match s.crew cid with
  | none => s
  | some c =>
    let x := s.slates.get {} c.slate
    if s.genOk x then
      if x.groupSize.isSome then s else s.setCrew cid { c with takeCarry := some carry }
    else
      let s := if x.groupSize.isSome then
          { s with crews := s.crews.mapV fun _ d =>
              if d.slate = c.slate && d.kind == .vector && x.groupOf d.crix == x.groupOf c.crix then { d with cancelled := true } else d }
        else s
      s.endCrew cid 0xFF

/-- A barrier completes: its set is cleared, EXP and the take flag stay until the next phase (R415), and the threads that wait on it continue; at a take boundary the crew then leaves
its core (R137, R415, R416). -/
def State.completeBar (s : State) (cid n : Nat) : State :=
  match s.crew cid with
  | none => s
  | some c =>
    match c.bars.find n with
    | none => s
    | some b =>
      if c.barDone b then
        let s := s.setCrew cid { c with bars := c.bars.set n { b with arrived := [] } }
        if c.cancelled then s.endCrew cid 0xFF
        else if b.take then s.takeBoundary cid b.carry
        else s
      else s

/-- The test of every live-mode barrier made again after an exit (R348, R415). -/
def State.recheckBars (s : State) (cid : Nat) : State :=
  match s.crew cid with
  | none => s
  | some c => c.bars.foldl (fun s (n, b) => if b.exp = 0 then s.completeBar cid n else s) s

/-- The threads of `m0` end (R348). -/
def Iss.exitThreads (I : Iss) (s : State) : State :=
  let w := I.warp
  let gone := w.m0
  let w1 : Warp := { w with
    lanes := keepLanes w.lanes gone false, run := noSide,
    masks := w.masks.mapV fun _ m => m &&& ~~~gone, pending := none, badPages := [] }
  let c := { I.crew with relFence := I.crew.relFence.filter fun (i, _) => !(w.indices gone).contains i }
  let c := if w1.threads = 0 then { c with warps := c.warps.del I.wid } else { c with warps := c.warps.set I.wid (w1.frontRuns c) }
  let s := s.setCrew I.cid c
  if c.live = [] then s.endCrew I.cid 0 else s.recheckBars I.cid

/-- The crew ends by a write of 1 to `c.TKILL` (R186): the stop list is written and every thread ends. -/
def Iss.kill (I : Iss) (s : State) : State :=
  let s := (s.writeStopList I.crew 0 0 (some I.wid) I.warp.run.pc).getD s
  s.endCrew I.cid cESCALATED

/-- `EXIT` (R348). -/
def execExit (s : State) : Host.Outcome State Fault Refusal :=
  runInstr .exit s fun I =>
    if I.crew.kind = .cue then I.cueExit s
    else if I.crew.frames ≠ [] then .ok (I.kill s)
    else .ok (I.exitThreads s)

/-! ### Reform (R163-R168, R347) -/

/-- The registers of a carry set, without `v0`. -/
def Crew.carrySet (c : Crew) (k : Nat) : List Nat := ((c.carry[k]?).getD []).filter (· ≠ 0)

/-- A thread as it is filed: the carry registers with the tags of its warp, and its mask bits. -/
def Warp.file (w : Warp) (wid : Nat) (set : List Nat) (l : Nat) : Filed :=
  let r (j : Nat) : Nat := 16 * w.run.wbase.toNat + j
  ⟨w.index l, wid, w.masks.map (fun (k, m) => (k, m.getLsbD l)),
    set.map (fun j => (r j, w.regs.get (.uniform 0) (r j))),
    set.map (fun j => (r j, (w.regs.get (.uniform 0) (r j)).at (w.index l) l))⟩

/-- Sorted by crew index. -/
def insertFiled (x : Filed) : List Filed → List Filed
  | [] => [x]
  | y :: t => if x.thread ≤ y.thread then x :: y :: t else y :: insertFiled x t
def sortFiled : List Filed → List Filed
  | [] => []
  | x :: t => insertFiled x (sortFiled t)

/-- The tag and value of one carry register of an issued bin (R167). -/
def carryReg (ts : List Filed) (r : Nat) : VReg :=
  let v (f : Filed) : Word := f.value.get 0 r
  let gen : VReg := .general ((List.range 32).map fun i => match ts[i]? with | some f => v f | none => 0)
  match ts with
  | [] => .uniform 0
  | f :: _ =>
    match f.regs.get (.uniform 0) r with
    | .uniform x => if ts.all (fun g => g.regs.get (.uniform 0) r == .uniform x) then .uniform x else gen
    | .affine b st => if ts.all (fun g => g.regs.get (.uniform 0) r == .affine b st) then .affine b st else gen
    | .general _ => gen

/-- A warp made of filed threads in ascending crew index at lanes 0 onward (R165). -/
def warpOf (q : Nat) (key : BinKey) (ts0 : List Filed) : Warp :=
  let ts := sortFiled ts0
  let n := ts.length
  let keys : List Nat := match ts with | [] => [] | f :: _ => f.regs.map (fun x => x.1)
  { run := ⟨key.rpc, BitVec.ofNat 32 (2 ^ n - 1), key.wbase, .none⟩,
    lanes := (List.range 32).map fun i => (ts[i]?).map (·.thread),
    masks := (List.range 15).map fun k => (k + 1, maskOf fun i => match ts[i]? with | some f => f.masks.get false (k + 1) | none => false),
    regs := keys.map fun r => (r, carryReg ts r),
    quad := q, held := 2 ^ ((n + 3) / 4) - 1 }

/-- A bin issues at a quadrant cycle as a new warp, which joins the rotation in the next cycle; the bin is free in that cycle (R165). -/
def Crew.issueBin (c : Crew) (cycle slot : Nat) : Crew :=
  match c.bins.find slot with
  | none => c
  | some b =>
    if b.spent then c else
    { c with bins := c.bins.set slot { b with threads := [], spent := true },
             warps := c.warps.set c.nextWid { warpOf (slot / 16) b.key b.threads with since := cycle + 1 }, nextWid := c.nextWid + 1 }

/-- Warps of a crew in a quadrant. -/
def Crew.warpsIn (c : Crew) (q : Nat) : Nat := (c.warps.filter fun x => x.2.quad == q).length

/-- Bins of a crew in a quadrant. -/
def Crew.binsIn (c : Crew) (q : Nat) : Nat := (c.bins.filter fun x => x.1 / 16 == q).length

/-- A thread joins a bin of its key with room, or opens a free one when `mayOpen`: the crew, and the bin; none when it can do neither.
`others` of the quadrant's 16 bins hold threads of other crews (R164). -/
def Crew.joinBin (c : Crew) (q cycle others : Nat) (key : BinKey) (f : Filed) (mayOpen : Bool) : Option (Crew × Nat) :=
  let slots := (List.range 16).map (fun i => 16 * q + i)
  let open' (b : Bin) : Bool := b.key == key && !b.spent && decide (b.threads.length < 32)
  match slots.find? (fun k => match c.bins.find k with | some b => open' b | none => false) with
  | some k =>
    let b := c.bins.get ⟨key, [], cycle, false⟩ k
    some ({ c with bins := c.bins.set k { b with threads := b.threads ++ [f] } }, k)
  | none =>
    if !mayOpen || 16 ≤ c.binsIn q + others then none else
    match slots.find? (fun k => (c.bins.find k).isNone) with
    | some k => some ({ c with bins := c.bins.set k ⟨key, [f], cycle, false⟩ }, k)
    | none => none

/-- A bin that a thread filled issues at once, where the quadrant has a place for its warp (R158, R164); `far` are the warps of other
crews in the quadrant. -/
def Crew.fill (c : Crew) (q cycle far k : Nat) : Crew :=
  match c.bins.find k with
  | some b => if 32 ≤ b.threads.length && decide (c.warpsIn q + far < 64) then c.issueBin cycle k else c
  | none => c

/-- Arrivals of a `REFORM`, thread by thread (R164 step 2); `held` says that other crews have threads in the hold list. -/
def Crew.fileAll (q cycle others far : Nat) (held : Bool) : Crew → List (BinKey × Filed) → Crew
  | c, [] => c
  | c, (k, f) :: t =>
    let h := c.hold.get [] q
    match c.joinBin q cycle others k f (h.isEmpty && !held) with
    | some (c, b) => Crew.fileAll q cycle others far held (c.fill q cycle far b) t
    | none => Crew.fileAll q cycle others far held { c with hold := c.hold.set q (h ++ [(k, f)]) } t

/-- Bins of the other crews of a core in a quadrant. -/
def State.otherBins (s : State) (cid core q : Nat) : Nat :=
  s.crews.foldl (fun a (k, c) => if k ≠ cid && c.core == core then a + c.binsIn q else a) 0

/-- Warps of the other crews of a core in a quadrant. -/
def State.otherWarps (s : State) (cid core q : Nat) : Nat :=
  s.crews.foldl (fun a (k, c) => if k ≠ cid && c.core == core then a + c.warpsIn q else a) 0

/-- Threads of a crew filed in a quadrant of its core, in their order. -/
def State.file (s : State) (cid q : Nat) (l : List (BinKey × Filed)) : State :=
  match s.crew cid with
  | none => s
  | some c =>
    let k := s.core c.core
    let c1 := Crew.fileAll q (k.cycle.get 0 q) (s.otherBins cid c.core q) (s.otherWarps cid c.core q) ((k.holdOrder.get [] q).any (· != cid)) c l
    let n := (c1.hold.get [] q).length - (c.hold.get [] q).length
    let s := s.setCrew cid c1
    if n = 0 then s else s.updCore c.core fun k => { k with holdOrder := k.holdOrder.set q (k.holdOrder.get [] q ++ List.replicate n cid) }

/-- A crew is stopped: its filed threads stay filed (R178). -/
def Crew.frozen (c : Crew) : Bool := c.stop.isSome || c.frames != []

/-- The hold list of a quadrant scanned from its head (R164 step 1), entry by entry: its crews, and those passed over so far because
their crews are stopped. -/
def State.holdScan (core q : Nat) (s : State) (kept : List Nat) : List Nat → State
  | [] => s.updCore core fun k => { k with holdOrder := k.holdOrder.set q kept }
  | cid :: rest =>
    let ends : State := s.updCore core fun k => { k with holdOrder := k.holdOrder.set q (kept ++ cid :: rest) }
    match s.crew cid with
    | none => ends
    | some c =>
      if c.frozen then State.holdScan core q s (kept ++ [cid]) rest else
      match c.hold.get [] q with
      | [] => ends
      | (k, f) :: t =>
        match c.joinBin q ((s.core core).cycle.get 0 q) (s.otherBins cid core q) k f true with
        | none => ends
        | some (c1, _) =>
          State.holdScan core q (s.setCrew cid { c1 with hold := if t = [] then c1.hold.del q else c1.hold.set q t }) kept rest

/-- Whether a bin of a crew issues at a quadrant cycle (R164 step 3): it is full, 64 cycles old, or no thread of its crew in the
quadrant is outside the bins and the hold list, where a bin that issued in this cycle still counts as one. -/
def Crew.binReady (c : Crew) (q cycle : Nat) (b : Bin) : Bool :=
  !b.spent && (decide (32 ≤ b.threads.length) || decide (b.born + 64 ≤ cycle)
    || c.warps.all fun x => x.2.quad != q || x.2.since == cycle + 1)

/-- A quadrant cycle begins: bins that issued are free, and entries leave the hold list (R164 step 1, R165). (DESIGN CHOICE, log 16) -/
def State.cycleBegin (s : State) (core q : Nat) : State :=
  let s := s.updCore core fun k => { k with cycle := k.cycle.set q (k.cycle.get 0 q + 1) }
  let s : State := if s.crews.all fun x => x.2.bins.isEmpty then s else
    { s with crews := s.crews.mapV fun _ c =>
        if c.core = core then { c with bins := c.bins.filter fun x => !(x.1 / 16 == q && x.2.spent) } else c }
  match (s.core core).holdOrder.get [] q with
  | [] => s
  | l => State.holdScan core q s [] l

/-- A quadrant cycle ends: bins issue, as far as the quadrant has places for their warps (R158, R164 step 3). -/
def State.cycleEnd (s : State) (core q : Nat) : State :=
  if s.crews.all fun x => x.2.bins.isEmpty then s else
  let cycle := (s.core core).cycle.get 0 q
  s.crews.foldl (fun s (cid, c) =>
    if c.core != core || c.frozen then s else
    (c.bins.filter fun x => x.1 / 16 == q && c.binReady q cycle x.2).foldl (fun s x =>
      match s.crew cid with
      | some c => if c.warpsIn q + s.otherWarps cid core q < 64 then s.setCrew cid (c.issueBin cycle x.1) else s
      | none => s) s) s

/-- BIN_ISSUE in quadrant `sub` of core `unit`: `val` quadrant cycles pass. -/
def execBinIssue (s : State) : Host.Outcome State Fault Refusal :=
  let q := s.inp.sub % 4
  .next ((List.range s.inp.val).foldl (fun t _ => (t.cycleBegin s.inp.unit q).cycleEnd s.inp.unit q) s)

/-- `REFORM` (R347). -/
def execReform (k a : BitVec 7) (s : State) : Host.Outcome State Fault Refusal :=
  runInstr (.reform k a) s fun I =>
    let w := I.warp
    let set := I.crew.carrySet k.toNat
    if set.any (fun j => decide (I.crew.nregs ≤ 16 * w.run.wbase.toNat + j)) then .error (s, illegalT)
    else
      let filed := (laneList w.m0).map fun l =>
        ((⟨w.run.pc + 4 + BitVec.ofInt 57 (4 * (w.lane a l).toInt), k.toNat, w.run.wbase⟩ : BinKey), w.file I.wid set l)
      let w1 : Warp := { w with lanes := keepLanes w.lanes w.m0 false, run := noSide, pending := none, badPages := [] }
      let c := if w1.threads = 0 then { I.crew with warps := I.crew.warps.del I.wid }
        else { I.crew with warps := I.crew.warps.set I.wid (w1.frontRuns I.crew) }
      .ok ((s.setCrew I.cid c).file I.cid w.quad filed)

/-! ### Window, tags, election, traps (R349, R352-R354) -/

/-- `WINB` (R349). -/
def execWinb (b : BitVec 7) (s : State) : Host.Outcome State Fault Refusal :=
  runInstr (.winb b) s fun I =>
    if I.crew.nregs < 16 * b.toNat + 16 then .error (s, illegalT)
    else
      let I := I.retire 4
      .ok (({ I with warp := { I.warp with run := { I.warp.run with wbase := b.setWidth 5 } } } : Iss).put s)

/-- `WINQ` (R349). -/
def execWinq (d : BitVec 7) (s : State) : Host.Outcome State Fault Refusal :=
  runInstr (.winq d) s fun I =>
    .ok (I.whole s none d (I.warp.run.wbase.toNat + 2 ^ 5 * (I.crew.nregs / 16)))

/-- The tag code of R312. -/
def VReg.code : VReg → Nat
  | .uniform _ => 0
  | .affine _ _ => 1
  | .general _ => 2

/-- `TAGQ` (R352). -/
def execTagq (d a : BitVec 7) (s : State) : Host.Outcome State Fault Refusal :=
  runInstr (.tagq d a) s fun I => .ok (I.whole s none d (I.warp.reg a).code)

/-- `TAGG` (R352). -/
def execTagg (d : BitVec 7) (s : State) : Host.Outcome State Fault Refusal :=
  runInstr (.tagg d) s fun I =>
    let w := I.warp
    let v : VReg := .general ((List.range 32).map fun l => w.lane d l)
    let w1 : Warp := if d = 0 then w else { w with regs := w.regs.set (physReg w.run.wbase d) v }
    .ok ((({ I with warp := w1 } : Iss).retire 4).put s)

/-- `ELECT` (R353). -/
def execElect (k : BitVec 4) (s : State) : Host.Outcome State Fault Refusal :=
  runInstr (.elect k) s fun I => .ok (I.writeM s none k (laneBit (lowest I.warp.m0)) 0)

/-- `TRAP` raises SOFTWARE with EPC at the next word (R354). -/
def execTrap (c : BitVec 16) (s : State) : Host.Outcome State Fault Refusal :=
  runInstr (.trap c) s fun I =>
    .error (s, { cause := cSOFTWARE, detail := c.toNat, lanes := I.warp.m0, epc := some (I.warp.run.pc + 4) })

end Sys2Proof.Machine
end

