-- ==== Sys2Proof/Machine/Memory.lean ====
section
/-! DEFINITION. Loads, stores, gathers, scatters, reductions and atomics, majors 0x2A-0x30 (R242-R257, R399-R412). -/

namespace Sys2Proof.Machine

/-! ### Checking the lanes of an access (R402) -/

/-- One lane's checked access. -/
structure LaneAcc where
  lane : Nat
  va : Nat
  e : TlbEnt
  e2 : Option TlbEnt
  deriving DecidableEq, Repr

/-- What the checks of the lanes give together. -/
inductive Checked where
  | go (l : List LaneAcc)
  /-- A page that no TLB holds: its walk starts and the side waits. -/
  | miss (va : Nat)
  | stall (w : Wait)
  | trap (t : TrapInfo)
  deriving DecidableEq, Repr

/-- Every lane's check. -/
def Iss.checks (I : Iss) (s : State) (q : Need) (a : BitVec 7) (ls : List Nat) : List (Nat × Nat × Chk) :=
  ls.map fun l =>
    let va := I.warp.laneNat a l 2
    (l, va, s.checkAccess I.crew.core I.crew.ctx va I.warp.badPages q)

/-- The first cause in the order of codes, every lane that has it, and the lowest such lane's address (R402). -/
def worst (q : Need) (cs : List (Nat × Nat × Chk)) : Option TrapInfo :=
  let bads := cs.filterMap fun (l, _, c) => match c with | .bad k t => some (l, k, t) | _ => none
  match bads with
  | [] => none
  | b :: bs =>
    let k := bs.foldl (fun m x => if x.2.1 < m then x.2.1 else m) b.2.1
    let mine := bads.filter fun x => x.2.1 == k
    some { cause := k, detail := q.detail, taddr := (mine.headD b).2.2 % 2 ^ 57,
           lanes := mine.foldl (fun m x => m ||| laneBit x.1) 0 }

def foldChecks (q : Need) (cs : List (Nat × Nat × Chk)) : Checked :=
  match cs.findSome? (fun (_, _, c) => match c with | .miss va => some va | _ => none) with
  | some va => .miss va
  | none =>
    match worst q cs with
    | some t => .trap t
    | none =>
      match cs.findSome? (fun (_, _, c) => match c with | .stall w => some w | _ => none) with
      | some w => .stall w
      | none => .go (cs.filterMap fun (l, va, c) => match c with | .ok e e2 => some ⟨l, va, e, e2⟩ | _ => none)

/-- A walk starts, unless an identical one is in flight on the die (R217), and the side waits for it. -/
def Iss.startWalk (I : Iss) (s : State) (va : Nat) : State :=
  let pg := va % 2 ^ 57 / 65536
  let wk : Walk := ⟨I.crew.ctx, pg, I.crew.core⟩
  let s := s.updMem fun m => if m.walks.contains wk then m else { m with walks := m.walks ++ [wk] }
  I.stall s (.walk pg)

/-- The lanes of an access checked, then performed. -/
def Iss.access (I : Iss) (s : State) (q : Need) (a : BitVec 7) (ls : List Nat) (f : List LaneAcc → Eff) : Eff :=
  match foldChecks q (I.checks s q a ls) with
  | .go l => f l
  | .miss va => .ok (I.startWalk s va)
  | .stall w => .ok (I.stall s w)
  | .trap t => .error (I.reportLanes s t a q.n, t)

/-- The binding and the element of a lane of a cue run. -/
def Iss.cueElem (I : Iss) (l : Nat) : Option (Nat × Nat) := if I.crew.kind == .cue then some (I.crew.binding, I.warp.index l) else none

/-- A lane's store is about to be performed: what it writes of its own element's data as a cue run (R204). -/
def Iss.claim (I : Iss) (s : State) (x : LaneAcc) (n : Nat) : State :=
  let self := I.cueElem x.lane
  match x.e2 with
  | none => s.claim I.crew.core self x.va (x.e.addr x.va) n
  | some e2 =>
    let k := 65536 - x.va % 65536
    (s.claim I.crew.core self x.va (x.e.addr x.va) k).claim I.crew.core self (x.va + k) (e2.addr ((x.va + k) % 2 ^ 57)) (n - k)

/-- A lane's store performed; what a cue run stores to its own element's data stays hidden (R203), unless the store is performed at
the home slice: then the run's earlier stores go before it. -/
def Iss.storeLane (I : Iss) (s : State) (x : LaneAcc) (home : Bool) (bs : List Byte) : State :=
  match I.cueElem x.lane with
  | none => (I.claim s x bs.length).storeBytes I.crew.core x.va x.e x.e2 home 0 bs
  | some (key, el) =>
    if home then
      (I.claim (s.drainThread I.crew.core (some (I.cid, el))) x bs.length).storeBytes I.crew.core x.va x.e x.e2 true 0 bs
    else (I.claim s x bs.length).storeHidden I.crew.core key el x.va x.e x.e2 0 bs

/-- The agent of a lane. -/
def Iss.agent (I : Iss) (l : Nat) : Agent := ⟨I.crew.core, I.cid, I.warp.index l⟩

/-- A scope of thread acts as crew scope (R403). -/
def scopeOf (x : BitVec 3) : Nat := if x = 0 then 1 else x.toNat

/-! ### Loads and stores (R401-R405) -/

/-- Bytes a load-width code reads, and whether it is sign-extended (R401). -/
def ldwBytes (w : Nat) : Nat := match w with | 0 => 1 | 1 => 1 | 2 => 2 | 3 => 2 | 4 => 4 | 5 => 8 | _ => 16
def ldwValue (w x : Nat) : Nat :=
  match w with
  | 1 => wrapI 32 (intOf true 8 x)
  | 3 => wrapI 32 (intOf true 16 x)
  | _ => x
/-- Bytes of a raw code. -/
def rawBytes (w : Nat) : Nat := 2 ^ w

/-- One lane's load; a cue run sees its own hidden stores (R203). -/
def Iss.loadLane (I : Iss) (s : State) (x : LaneAcc) (home : Bool) (n : Nat) : State × List Byte :=
  let (s1, bs) := s.loadSeen I.crew.core x.va x.e x.e2 home n
  match I.cueElem x.lane with
  | some (key, el) => (s1, s1.seeHidden key el x.va bs)
  | none => (s1, bs)

/-- Every lane's load, in ascending lane order: the values, and the largest MARK of their lines. -/
def loadLanes (I : Iss) (n : Nat) (home : Bool) : State → List LaneAcc → State × List (Nat × Nat) × Nat
  | s, [] => (s, [], 0)
  | s, x :: xs =>
    let (s1, bs) := I.loadLane s x home n
    let mark := (s1.mem.dirOf x.e.host (x.e.addr x.va / 128)).mark
    let (s2, vs, m) := loadLanes I n home s1 xs
    (s2, (x.lane, leNat bs) :: vs, if m < mark then mark else m)

/-- A lane's value among results. -/
def valOf (vs : List (Nat × Nat)) (l : Nat) : Nat := ((vs.find? fun x => x.1 == l).map (·.2)).getD 0

/-- The tag of a load: uniform when the address operand is (R400). -/
def Iss.loadTag (I : Iss) (a : BitVec 7) (cnt : Nat) : Tag := uniOrGen (I.warp.regsOf a cnt)

/-- `LD` (R403). -/
def execLd (p : Option Pfx) (d a : BitVec 7) (sc : BitVec 3) (k : BitVec 2) (w : BitVec 3) (s : State) :
    Host.Outcome State Fault Refusal :=
  runInstr (.ld p d a sc k w) s fun I =>
    let n := ldwBytes w.toNat
    let home := k ≠ 0 && decide (scCluster ≤ scopeOf sc)
    let q : Need := { n := n, aligned := k ≠ 0, home := home }
    I.access s q a (laneList (I.warp.eff p)) fun l =>
      let (s1, vs, mark) := loadLanes I n home s l
      let s2 := if k = 2 && decide (scCluster ≤ scopeOf sc) then s1.acquire I.crew.core mark else s1
      let tg := I.loadTag a 2
      .ok (I.writeTagged s2 p d (ldwRegs w) (fun _ => tg) fun l => ldwValue w.toNat (valOf vs l))

/-- Every lane's store, in ascending lane order, so that the highest lane's byte stands (R403). -/
def Iss.storeLanes (I : Iss) (home : Bool) (f : Nat → List Byte) (s : State) (l : List LaneAcc) : State :=
  l.foldl (fun s x => I.storeLane s x home (f x.lane)) s

/-- The sectors of device memory that the lanes of one store write whole lose their poison (R239). -/
def Iss.clearWhole (I : Iss) (s : State) (n : Nat) (l : List LaneAcc) : State :=
  if s.mem.poison = [] then s else
  s.wroteWhole I.crew.core (coveredSectors (l.flatMap fun x =>
    let k := match x.e2 with | none => n | some _ => 65536 - x.va % 65536
    (if x.e.host then [] else [(x.e.addr x.va, k)])
      ++ match x.e2 with
        | none => []
        | some e2 => if e2.host then [] else [(e2.addr ((x.va + k) % 2 ^ 57), n - k)]))

/-- The lines of the lanes take a mark (R252 step 4). -/
def markLanes (mark : Nat) (s : State) (l : List LaneAcc) : State :=
  l.foldl (fun s x => s.updMem fun m => m.raiseMark x.e.host (x.e.addr x.va / 128) mark) s

/-- The lines that a lane's access of `n` bytes touches. -/
def LaneAcc.lines (x : LaneAcc) (n : Nat) : List (Bool × Nat) :=
  let of (e : TlbEnt) (pa n : Nat) : List (Bool × Nat) := (touchedUnits 128 pa n).map fun k => (e.host, k)
  match x.e2 with
  | none => of x.e (x.e.addr x.va) n
  | some e2 => let k := 65536 - x.va % 65536; of x.e (x.e.addr x.va) k ++ of e2 (e2.addr ((x.va + k) % 2 ^ 57)) (n - k)

/-- The stores of threads that made a `FENCE.REL` synchronise as releases (R250): every line they write takes its mark. -/
def Iss.fencedMarks (I : Iss) (s : State) (n : Nat) (l : List LaneAcc) : State :=
  if I.crew.relFence = [] then s else
  l.foldl (fun s x =>
    match I.crew.relFence.find (I.warp.index x.lane) with
    | some r => if scCluster ≤ r.scope then (x.lines n).foldl (fun s (h, k) => s.updMem fun m => m.raiseMark h k r.mark) s else s
    | none => s) s

/-- The threads of a mask have made a release or a fence: their earlier `FENCE.REL` is over (R250). -/
def Iss.endFences (I : Iss) (m : BitVec 32) : Iss :=
  if I.crew.relFence = [] then I else
  { I with crew := { I.crew with relFence := I.crew.relFence.filter fun (i, _) => !(I.warp.indices m).contains i } }

/-- The threads of the lanes of a mask, for the steps of a release (R252 step 1). -/
def Iss.releaseFor (I : Iss) (s : State) (m : BitVec 32) (scope : Nat) : State × Nat :=
  let s := (laneList m).foldl (fun s l => s.drainThread I.crew.core (some (I.cid, I.warp.index l))) s
  s.release I.crew.core (some (I.cid, I.warp.index (lowest m))) scope

/-- `ST` (R403). -/
def execSt (p : Option Pfx) (d a : BitVec 7) (sc : BitVec 3) (k : BitVec 2) (w : BitVec 3) (s : State) :
    Host.Outcome State Fault Refusal :=
  runInstr (.st p d a sc k w) s fun I =>
    let n := rawBytes w.toNat
    let e := I.warp.eff p
    let home := k ≠ 0 && decide (scCluster ≤ scopeOf sc)
    let q : Need := { n := n, write := true, aligned := k ≠ 0, home := home }
    let data (l : Nat) : List Byte := bytesLE n (I.warp.laneNat d l (rawRegs w))
    I.access s q a (laneList e) fun l =>
      if k = 2 then
        let (s1, mark) := I.releaseFor s e (scopeOf sc)
        let s2 := I.clearWhole (I.storeLanes home data s1 l) n l
        let s3 := if home then markLanes mark s2 l else s2
        .ok (((I.endFences e).retire (sizeP p)).put s3)
      else if home then
        let s1 := l.foldl (fun s x =>
          if x.e.ord = ordSO || (x.e.host && !s.cxl) then I.storeLane s x true (data x.lane)
          else (I.claim s x (data x.lane).length).bufferStore (I.agent x.lane) x.e (x.e.addr x.va) (data x.lane)) s
        .ok ((I.retire (sizeP p)).put (I.fencedMarks (I.clearWhole s1 n l) n l))
      else
        .ok ((I.retire (sizeP p)).put (I.fencedMarks (I.clearWhole (I.storeLanes false data s l) n l) n l))

/-- `LDC` (R405). -/
def execLdc (p : Option Pfx) (d a : BitVec 7) (w : BitVec 3) (s : State) : Host.Outcome State Fault Refusal :=
  runInstr (.ldc p d a w) s fun I =>
    let n := ldwBytes w.toNat
    let q : Need := { n := n }
    match foldChecks q (I.checks s q a [lowest I.warp.m0]) with
    | .miss va => .ok (I.startWalk s va)
    | .stall wt => .ok (I.stall s wt)
    | .trap t => .error (I.reportLanes s t a n, { t with lanes := I.warp.m0 })
    | .go l =>
      let (s1, vs, _) := loadLanes I n false s l
      let v := ldwValue w.toNat (valOf vs (lowest I.warp.m0))
      let tg := I.loadTag a 2
      .ok (I.writeTagged s1 p d (ldwRegs w) (fun _ => tg) fun _ => v)

/-! ### Gathers, scatters and reductions (R188, R406, R407) -/

/-- The item a long instruction starts at: the pending progress index when it belongs to this PC (R189). -/
def Iss.startItem (I : Iss) : Nat :=
  match I.warp.pending with
  | some (pc, i) => if pc = I.warp.run.pc then i else 0
  | none => 0

/-- How the items of a long instruction ended. -/
inductive LongEnd where
  | done
  | miss (lane va : Nat)
  | stall (lane : Nat) (w : Wait)
  | trap (t : TrapInfo)
  deriving DecidableEq, Repr

/-- The lanes of a long instruction one after another (R188): each is checked and performed by `f`, which gives the state and
a value; a lane that cannot proceed stops the instruction there. -/
def longLanes (I : Iss) (q : Need) (a : BitVec 7) (f : State → LaneAcc → State × Nat) :
    State → List Nat → State × List (Nat × Nat) × LongEnd
  | s, [] => (s, [], .done)
  | s, l :: ls =>
    let va := I.warp.laneNat a l 2
    match s.checkAccess I.crew.core I.crew.ctx va I.warp.badPages q with
    | .miss v => (s, [], .miss l v)
    | .stall w => (s, [], .stall l w)
    | .bad k t => (I.reportAt s k [(va, q.n)], [], .trap { cause := k, detail := q.detail, taddr := t % 2 ^ 57, lanes := laneBit l, pidx := l })
    | .ok e e2 =>
      let (s1, v) := f s ⟨l, va, e, e2⟩
      let (s2, vs, r) := longLanes I q a f s1 ls
      (s2, (l, v) :: vs, r)

/-- A long instruction's end: retired, or stopped with the items before the index complete (R177, R188). `done` writes the
results of the lanes so far. -/
def Iss.endLong (I : Iss) (s : State) (p : Option Pfx) (r : LongEnd) (done : Iss) (last : Iss → Iss) : Eff :=
  let stop (l : Nat) : Iss := { done with warp := { done.warp with pending := some (I.warp.run.pc, l) } }
  match r with
  | .done => .ok (((last done).retire (sizeP p)).put s)
  | .miss l va => .ok ((stop l).startWalk s va)
  | .stall l w => .ok ((stop l).stall s w)
  | .trap t => .error (done.put s, t)

/-- `LDX` (R406). -/
def execLdx (p : Option Pfx) (d a : BitVec 7) (w : BitVec 3) (s : State) : Host.Outcome State Fault Refusal :=
  runInstr (.ldx p d a w) s fun I =>
    let n := ldwBytes w.toNat
    let e := I.warp.eff p
    let ls := (laneList e).filter fun l => I.startItem ≤ l
    let (s1, vs, r) := longLanes I { n := n } a (fun s x =>
      let (s, bs) := I.loadLane s x false n
      (s, leNat bs)) s ls
    let wd := if vs = [] then I.warp else I.warp.setRegs I.ctl d (vs.foldl (fun m x => m ||| laneBit x.1) 0) false (fun _ => .gen)
      (fun l => ldwValue w.toNat (valOf vs l)) (ldwRegs w)
    let done : Iss := { I with warp := wd }
    I.endLong s1 p r done fun J =>
      if zeroing p && !(ls = [] && I.startItem ≠ 0) then { J with warp := J.warp.setRegs I.ctl d (I.warp.m0 &&& ~~~e) false (fun _ => .gen) (fun _ => 0) (ldwRegs w) }
      else J

/-- `STX` (R406). -/
def execStx (p : Option Pfx) (d a : BitVec 7) (w : BitVec 3) (s : State) : Host.Outcome State Fault Refusal :=
  runInstr (.stx p d a w) s fun I =>
    let n := rawBytes w.toNat
    let ls := (laneList (I.warp.eff p)).filter fun l => I.startItem ≤ l
    let (s1, _, r) := longLanes I { n := n, write := true } a (fun s x =>
      let s := I.storeLane s x false (bytesLE n (I.warp.laneNat d x.lane (rawRegs w)))
      (I.fencedMarks s n [x], 0)) s ls
    I.endLong s1 p r I id

/-- The width of an atomic type code, and whether it is signed (R408). -/
def atomW (t : Nat) : Nat := if t ≥ 2 then 64 else 32
def atomS (t : Nat) : Bool := t % 2 == 0

/-- The new value of an atomic operation (R408): op 7 is CAS with its comparand. -/
def atomNew (o t old x cmp : Nat) : Nat :=
  let w := atomW t
  let lt := decide (intOf (atomS t) w x < intOf (atomS t) w old)
  match o with
  | 0 => (old + x) % 2 ^ w
  | 1 => if lt then x else old
  | 2 => if lt then old else x
  | 3 => old &&& x
  | 4 => old ||| x
  | 5 => old ^^^ x
  | 6 => x
  | _ => if old = cmp then x else old

/-- One indivisible read-modify-write: the state, the old value and the MARK of the line. -/
def Iss.rmw (I : Iss) (s : State) (x : LaneAcc) (n : Nat) (home : Bool) (f : Nat → Nat) : State × Nat × Nat :=
  let s := match I.cueElem x.lane with | some (_, el) => s.drainThread I.crew.core (some (I.cid, el)) | none => s
  let (s1, bs) := s.loadSeen I.crew.core x.va x.e x.e2 home n
  let old := leNat bs
  let mark := (s1.mem.dirOf x.e.host (x.e.addr x.va / 128)).mark
  (I.storeLane s1 x home (bytesLE n (f old)), old, mark)

/-- The FP32 addition of `REDM.FADD`: to nearest even, no flag (R407). -/
def redmFadd (old x : Nat) : Nat := (faddC fp32 .rne .ieee old x).1

/-- `REDM` (R407). -/
def execRedm (p : Option Pfx) (d a : BitVec 7) (k : BitVec 2) (sc : BitVec 3) (o : BitVec 3) (t : BitVec 2) (s : State) :
    Host.Outcome State Fault Refusal :=
  runInstr (.redm p d a k sc o t) s fun I =>
    let n := atomW t.toNat / 8
    let e := I.warp.eff p
    let home := decide (scCluster ≤ scopeOf sc)
    let ls := (laneList e).filter fun l => I.startItem ≤ l
    let (s0, mark) := if k = 2 && ls ≠ [] then I.releaseFor s e (scopeOf sc) else (s, 0)
    let (s1, _, r) := longLanes I { n := n, atomic := true, write := true, aligned := true, home := home } a (fun s x =>
      let v := I.warp.laneNat d x.lane (atomRegs t)
      let (s, _, _) := I.rmw s x n home fun old => if o = 6 then redmFadd old v else atomNew o.toNat t.toNat old v 0
      let s := if k = 2 then (if home then markLanes mark s [x] else s) else I.fencedMarks s n [x]
      (s, 0)) s0 ls
    I.endLong s1 p r (if k = 2 then I.endFences e else I) id

/-! ### Atomics (R408-R410) -/

/-- The lanes of an atomic in ascending order: old values and the largest MARK. -/
def Iss.atomLanes (I : Iss) (n : Nat) (home : Bool) (f : Nat → Nat → Nat) : State → List LaneAcc → State × List (Nat × Nat) × Nat
  | s, [] => (s, [], 0)
  | s, x :: xs =>
    let (s1, old, mark) := I.rmw s x n home (f x.lane)
    let (s2, vs, m) := Iss.atomLanes I n home f s1 xs
    (s2, (x.lane, old) :: vs, if m < mark then mark else m)

/-- `ATOM` with an operation: kind 0 SR, 1 ACQ, 2 REL, 3 AR. -/
def Iss.atomic (I : Iss) (s : State) (p : Option Pfx) (d a : BitVec 7) (k : BitVec 2) (sc : BitVec 3) (o t : Nat) (cmp : BitVec 7) :
    Eff :=
  let n := atomW t / 8
  let cnt := if t ≥ 2 then 2 else 1
  let e := I.warp.eff p
  let home := decide (scCluster ≤ scopeOf sc)
  I.access s { n := n, atomic := true, write := true, aligned := true, home := home } a (laneList e) fun l =>
    let rel := k = 2 || k = 3
    let (s1, mark) := if rel then I.releaseFor s e (scopeOf sc) else (s, 0)
    let (s2, vs, m) := I.atomLanes n home
      (fun ln old => atomNew o t old (I.warp.laneNat d ln cnt) (I.warp.laneNat cmp ln cnt)) s1 l
    let s3 := if rel && home then markLanes mark s2 l else if rel then s2 else I.fencedMarks s2 n l
    let s4 := if (k = 1 || k = 3) && home then s3.acquire I.crew.core m else s3
    .ok ((if rel then I.endFences e else I).writeTagged s4 p d cnt (fun _ => .gen) fun ln => valOf vs ln)

/-- `ATOM` (R408). -/
def execAtom (p : Option Pfx) (d a : BitVec 7) (k : BitVec 2) (sc : BitVec 3) (o : BitVec 3) (t : BitVec 2) (s : State) :
    Host.Outcome State Fault Refusal :=
  runInstr (.atom p d a k sc o t) s fun I => I.atomic s p d a k sc o.toNat t.toNat 0

/-- The register of the prefix's fourth operand (R314). -/
def op4Reg (p : Option Pfx) : BitVec 7 := match p with | none => 0 | some p => p.op4

/-- `ATOM_CAS` (R408). -/
def execAtomCas (p : Option Pfx) (d a : BitVec 7) (k : BitVec 2) (sc : BitVec 3) (t : BitVec 2) (s : State) :
    Host.Outcome State Fault Refusal :=
  runInstr (.atomCas p d a k sc t) s fun I => I.atomic s p d a k sc 7 t.toNat (op4Reg p)

/-! ### Scratchpad accesses (R224-R226, R410-R412) -/

/-- The checks of a scratchpad access of `n` bytes at the lanes' offsets: ACCESS outside the window, ALIGN, POISON, in the
order of codes; then absent lines park, and full bank queues stall. -/
inductive SpadChk where
  | go
  | trap (t : TrapInfo)
  | park (line : Nat)
  | bank (b : Nat)
  deriving DecidableEq, Repr

def Iss.spadCheck (I : Iss) (s : State) (q : Need) (queued : Bool) (offs : List (Nat × Nat)) : SpadChk :=
  let c := s.core I.crew.core
  let out := offs.filter fun (_, o) => decide (I.crew.spadSize < o + q.n)
  let mis := offs.filter fun (_, o) => o % q.n != 0
  let poi := if q.write && !q.atomic then [] else
    offs.filter fun (_, o) => c.spadPoison.any fun k =>
      k * 32 < I.crew.spadBase + o + q.n && I.crew.spadBase + o < k * 32 + 32
  let bad (cause : Nat) (l : List (Nat × Nat)) : SpadChk :=
    .trap { cause := cause, detail := q.detail, taddr := (l.headD (0, 0)).2, lanes := l.foldl (fun m x => m ||| laneBit x.1) 0 }
  if out ≠ [] then bad cACCESS out
  else if mis ≠ [] then bad cALIGN mis
  else if poi ≠ [] then bad cPOISON poi
  else
    match offs.find? (fun (_, o) => c.absent.contains ((I.crew.spadBase + o) / 128)) with
    | some (_, o) => .park ((I.crew.spadBase + o) / 128)
    | none =>
      if !queued then .go else
      match offs.find? (fun (_, o) =>
          let b := (I.crew.spadBase + o) / 128 % 32
          8 ≤ (c.bankQ.filter fun x => x.1 == b).length) with
      | some (_, o) => .bank ((I.crew.spadBase + o) / 128 % 32)
      | none => .go

/-- The distinct lines of lane requests, in lane order (R225). -/
def distinctLines (base : Nat) : List (Nat × Nat) → List Nat
  | [] => []
  | (_, o) :: t => let r := distinctLines base t; let j := (base + o) / 128; if r.contains j then r else j :: r

/-- The requests enter the bank queues and the warp's completion counter rises (R225); `value` says that they return one. Of a
bank's list the first eight stand in its queue, and the others enter in order as it is served. -/
def Iss.enqueue (I : Iss) (s : State) (value : Bool) (offs : List (Nat × Nat)) : Iss × State :=
  let ls := distinctLines I.crew.spadBase offs
  ({ I with warp := { I.warp with spadOut := I.warp.spadOut + ls.length, spadBusy := I.warp.spadBusy || (value && ls != []) } },
   s.updCore I.crew.core fun c => { c with bankQ := c.bankQ ++ ls.map fun j => (j % 32, I.cid, I.wid) })

/-- A value of `n` bytes in a core's scratchpad. -/
def State.spadNum (s : State) (core off n : Nat) : Nat := (s.core core).spad.num off n
/-- Bytes stored in a core's scratchpad; whole sectors lose their poison. -/
def State.spadWrite (s : State) (core off : Nat) (bs : List Byte) : State :=
  s.updCore core fun c => { c with
    spad := c.spad.write off bs,
    spadPoison := if c.spadPoison = [] then [] else c.spadPoison.filter fun k => !(wholeSectors off bs.length).contains k }
/-- The sectors of a core's scratchpad that the lanes of one store write whole lose their poison (R239). -/
def State.spadWhole (s : State) (core : Nat) (l : List (Nat × Nat)) : State :=
  if (s.core core).spadPoison = [] then s
  else s.updCore core fun c => { c with spadPoison := c.spadPoison.filter fun k => !(coveredSectors l).contains k }

/-- Whether the byte-count word at a scratchpad offset is satisfied (R418). -/
def State.bytesDone (s : State) (core off : Nat) : Bool :=
  decide ((s.spadNum core off 4 + 2 ^ 32 - s.spadNum core (off + 4) 4) % 2 ^ 32 < 2 ^ 31)

/-- The waits on byte-count words of a core tested again: a satisfied one ends, as an acquire of the engine items that added
to it (R418). -/
def State.recheckBytes (s : State) (core : Nat) : State :=
  let waits := s.crews.flatMap fun (_, c) =>
    if c.core = core && c.kind == .vector then
      c.warps.flatMap fun (_, w) => (w.run :: w.div).filterMap fun sd =>
        match sd.wait with | .bytes o => some (c.spadBase + o) | _ => none
    else []
  waits.foldl (fun s o =>
    if s.bytesDone core o then
      let s := s.acquire core ((s.core core).bcMark.get 0 o)
      { s with crews := s.crews.mapV fun _ c =>
          if c.core = core then c.wake fun sd => (match sd.wait with | .bytes x => c.spadBase + x == o | _ => false) else c }
    else s) s

/-- The lanes' offsets. -/
def Iss.offsets (I : Iss) (a : BitVec 7) (e : BitVec 32) : List (Nat × Nat) := (laneList e).map fun l => (l, (I.warp.lane a l).toNat)

/-- A scratchpad access checked, then performed. -/
def Iss.spad (I : Iss) (s : State) (q : Need) (queued : Bool) (offs : List (Nat × Nat)) (f : Eff) : Eff :=
  match I.spadCheck s q queued offs with
  | .go => f
  | .trap t => .error (s, t)
  | .park j => .ok (I.park s (.line j))
  | .bank b => .ok (I.stall s (.bank b))

/-- `LDL` (R411). -/
def execLdl (p : Option Pfx) (d a : BitVec 7) (_q : BitVec 1) (w : BitVec 3) (s : State) : Host.Outcome State Fault Refusal :=
  runInstr (.ldl p d a _q w) s fun I =>
    let n := ldwBytes w.toNat
    let offs := I.offsets a (I.warp.eff p)
    I.spad s { n := n } true offs <|
      let (I1, s1) := I.enqueue s true offs
      let tg := I.loadTag a 1
      .ok (I1.writeTagged s1 p d (ldwRegs w) (fun _ => tg) fun l =>
        ldwValue w.toNat (s.spadNum I.crew.core (I.crew.spadBase + (I.warp.lane a l).toNat) n))

/-- `STL` (R411). -/
def execStl (p : Option Pfx) (d a : BitVec 7) (q : BitVec 1) (w : BitVec 3) (s : State) : Host.Outcome State Fault Refusal :=
  runInstr (.stl p d a q w) s fun I =>
    let n := rawBytes w.toNat
    let e := I.warp.eff p
    let offs := I.offsets a e
    I.spad s { n := n, write := true } true offs <|
      let s0 := if q = 1 then (laneList e).foldl (fun s l => s.drainThread I.crew.core (some (I.cid, I.warp.index l))) s else s
      let (I1, s1) := I.enqueue s0 false offs
      let s2 := offs.foldl (fun s (l, o) =>
        s.spadWrite I.crew.core (I.crew.spadBase + o) (bytesLE n (I.warp.laneNat d l (rawRegs w)))) s1
      let s3 := s2.spadWhole I.crew.core (offs.map fun (_, o) => (I.crew.spadBase + o, n))
      .ok (((I1.retire (sizeP p)).put s3).recheckBytes I.crew.core)

/-- `ATOML` with an operation. -/
def Iss.atomicL (I : Iss) (s : State) (p : Option Pfx) (d a : BitVec 7) (k : BitVec 2) (o t : Nat) (cmp : BitVec 7) : Eff :=
  let n := atomW t / 8
  let cnt := if t ≥ 2 then 2 else 1
  let e := I.warp.eff p
  let offs := I.offsets a e
  I.spad s { n := n, write := true, atomic := true } true offs <|
    let s0 := if k = 2 || k = 3 then (laneList e).foldl (fun s l => s.drainThread I.crew.core (some (I.cid, I.warp.index l))) s else s
    let (I1, s1) := I.enqueue s0 true offs
    let (s2, vs) := offs.foldl (fun (s, vs) (l, o') =>
      let at' := I.crew.spadBase + o'
      let old := s.spadNum I.crew.core at' n
      (s.spadWrite I.crew.core at' (bytesLE n (atomNew o t old (I.warp.laneNat d l cnt) (I.warp.laneNat cmp l cnt))), vs ++ [(l, old)]))
      (s1, [])
    .ok ((I1.writeTagged s2 p d cnt (fun _ => .gen) fun l => valOf vs l).recheckBytes I.crew.core)

/-- `ATOML` (R410). -/
def execAtoml (p : Option Pfx) (d a : BitVec 7) (k : BitVec 2) (o : BitVec 3) (t : BitVec 2) (s : State) :
    Host.Outcome State Fault Refusal :=
  runInstr (.atoml p d a k o t) s fun I => I.atomicL s p d a k o.toNat t.toNat 0

/-- `ATOML_CAS` (R410). -/
def execAtomlCas (p : Option Pfx) (d a : BitVec 7) (k : BitVec 2) (t : BitVec 2) (s : State) : Host.Outcome State Fault Refusal :=
  runInstr (.atomlCas p d a k t) s fun I => I.atomicL s p d a k 7 t.toNat (op4Reg p)

/-! ### Presence bits (R412) -/

/-- An offset outside the window raises ACCESS (R224). -/
def Iss.spadWindow (I : Iss) (s : State) (offs : List (Nat × Nat)) (f : Eff) : Eff :=
  let out := offs.filter fun (_, o) => decide (I.crew.spadSize ≤ o)
  if out ≠ [] then .error (s, { cause := cACCESS, taddr := (out.headD (0, 0)).2, lanes := out.foldl (fun m x => m ||| laneBit x.1) 0 })
  else f

/-- `PRES` (R412). -/
def execPres (d a : BitVec 7) (s : State) : Host.Outcome State Fault Refusal :=
  runInstr (.pres d a) s fun I =>
    I.spadWindow s (I.offsets a I.warp.m0) <|
      let tg := I.loadTag a 1
      .ok (I.writeTagged s none d 1 (fun _ => tg) fun l =>
        if (s.core I.crew.core).absent.contains ((I.crew.spadBase + (I.warp.lane a l).toNat) / 128) then 0 else 1)

/-- `PCLR` (R412). -/
def execPclr (a : BitVec 7) (s : State) : Host.Outcome State Fault Refusal :=
  runInstr (.pclr a) s fun I =>
    let offs := I.offsets a I.warp.m0
    I.spadWindow s offs <|
      .ok ((I.retire 4).put (offs.foldl (fun s (_, o) =>
        s.updCore I.crew.core fun c => { c with absent := insertNat c.absent ((I.crew.spadBase + o) / 128) }) s))

/-- A line of a core's scratchpad becomes present, and the warps parked on it wake (R226). -/
def State.setPresent (s : State) (core line : Nat) : State :=
  (s.updCore core fun c => { c with absent := removeNat c.absent line }).wake (fun c => c.core == core && c.kind != .control)
    fun sd => sd.wait == .line line

/-- `PSET` (R412). -/
def execPset (a : BitVec 7) (s : State) : Host.Outcome State Fault Refusal :=
  runInstr (.pset a) s fun I =>
    let offs := I.offsets a I.warp.m0
    I.spadWindow s offs <|
      let s0 := (laneList I.warp.m0).foldl (fun s l => s.drainThread I.crew.core (some (I.cid, I.warp.index l))) s
      .ok (offs.foldl (fun s (_, o) =>
        let j := (I.crew.spadBase + o) / 128
        if (s.core I.crew.core).filling.any (fun x => x.1 == j) then s else s.setPresent I.crew.core j) ((I.retire 4).put s0))

end Sys2Proof.Machine
end

