-- ==== Sys2Proof/Machine/Sync.lean ====
section
/-! DEFINITION. Fences, crew barriers, byte-count barriers, prefetch, cache maintenance and translation invalidation, majors
0x31, 0x32 and 0x3A, and `IFENCE` (R250, R258, R413-R422). -/

namespace Sys2Proof.Machine

/-! ### Fences (R250, R413) -/

/-- The earlier stores of the threads of a mask are performed (R252 step 1). -/
def Iss.drainFor (I : Iss) (s : State) (m : BitVec 32) : State :=
  (laneList m).foldl (fun s l => s.drainThread I.crew.core (some (I.cid, I.warp.index l))) s

/-- `FENCE_ACQ` (R250). -/
def execFenceAcq (sc : BitVec 7) (s : State) : Host.Outcome State Fault Refusal :=
  runInstr (.fenceAcq sc) s fun I =>
    let s1 := if scCluster ≤ sc.toNat then s.acquireHead I.crew.core else s
    .ok (((I.endFences I.warp.m0).retire 4).put s1)

/-- `FENCE_REL` (R250). -/
def execFenceRel (sc : BitVec 7) (s : State) : Host.Outcome State Fault Refusal :=
  runInstr (.fenceRel sc) s fun I =>
    let (s1, mark) := I.releaseFor s I.warp.m0 sc.toNat
    let J := I.endFences I.warp.m0
    let rel := (I.warp.indices I.warp.m0).foldl (fun (t : Tbl RelFence) i => t.set i ⟨sc.toNat, mark⟩) J.crew.relFence
    let K : Iss := { J with crew := { J.crew with relFence := rel } }
    .ok ((K.retire 4).put s1)

/-- `FENCE_FULL` (R250). -/
def execFenceFull (sc : BitVec 7) (s : State) : Host.Outcome State Fault Refusal :=
  runInstr (.fenceFull sc) s fun I =>
    let s1 := if scCluster ≤ sc.toNat then s.fullFence I.crew.core else I.drainFor s I.warp.m0
    .ok (((I.endFences I.warp.m0).retire 4).put s1)

/-- `IFENCE` (R258): the warp's earlier accesses are performed and the core's instruction cache is invalidated. Nothing is
fetched ahead in this model. -/
def execIfence (s : State) : Host.Outcome State Fault Refusal :=
  runInstr .ifence s fun I =>
    let s1 := (I.drainFor s I.warp.threads).updCore I.crew.core fun c => { c with icache := [] }
    .ok ((I.retire 4).put s1)

/-! ### Crew barriers (R414-R417) -/

/-- A side that arrived or waits yields (R161). -/
def Iss.barYield (I : Iss) : Iss :=
  if I.warp.div = [] then I else { I with warp := I.warp.yieldSide I.crew }

/-- The crew's barrier `n`; one with no phase yet. -/
def Crew.bar (c : Crew) (n : Nat) : Barrier := c.bars.get ⟨[], 0, false, 0⟩ n

/-- Arrival of the active threads at barrier `n` (R415): `wait` for `BAR`. (DEDUCED, log 38) -/
def Iss.arrive (I : Iss) (s : State) (a : BitVec 7) (n : Nat) (take : Bool) (carry : Nat) (wait : Bool) : Eff :=
  let cnt := if a = 0 then 0 else (I.warp.operand a).toNat
  let b := I.crew.bar n
  let mine := I.warp.indices I.warp.m0
  if 1024 < cnt || (a ≠ 0 && cnt = 0) then .error (s, illegalT)
  else if mine.any (fun i => b.arrived.contains i) then .ok (I.park s (.bar n))
  else if b.arrived ≠ [] && (b.exp ≠ cnt || b.take ≠ take || b.carry ≠ carry) then .error (s, illegalT)
  else
    let b1 : Barrier := ⟨mine.foldl insertNat b.arrived, cnt, take, carry⟩
    let s1 := I.drainFor s I.warp.m0
    let I1 : Iss := { I with crew := { I.crew with bars := I.crew.bars.set n b1 } }
    let I2 := I1.retire 4
    let I3 : Iss := if wait then
      { I2 with warp := { I2.warp with run := { I2.warp.run with wait := .bar n } } } else I2
    .ok ((I3.barYield.put s1).completeBar I.cid n)

/-- `BAR` (R415). -/
def execBar (a n : BitVec 7) (s : State) : Host.Outcome State Fault Refusal :=
  runInstr (.bar a n) s fun I => I.arrive s a n.toNat false 0 true

/-- `BARA` (R415). -/
def execBara (a n : BitVec 7) (s : State) : Host.Outcome State Fault Refusal :=
  runInstr (.bara a n) s fun I => I.arrive s a n.toNat false 0 false

/-- `BAR.TAKE` (R416): ILLEGAL when its carry set holds a register beyond NREGS in the window in force (R166). -/
def execBarTake (k : BitVec 3) (n : BitVec 7) (s : State) : Host.Outcome State Fault Refusal :=
  runInstr (.barTake k n) s fun I =>
    if (I.crew.carrySet k.toNat).any (fun j => decide (I.crew.nregs ≤ 16 * I.warp.run.wbase.toNat + j)) then .error (s, illegalT)
    else I.arrive s 0 n.toNat true k.toNat true

/-- `BARW` (R415). -/
def execBarw (n : BitVec 7) (s : State) : Host.Outcome State Fault Refusal :=
  runInstr (.barw n) s fun I =>
    if (I.warp.indices I.warp.m0).any (fun i => (I.crew.bar n.toNat).arrived.contains i) then
      let I1 := I.retire 4
      let I2 : Iss := { I1 with warp := { I1.warp with run := { I1.warp.run with wait := .bar n.toNat } } }
      .ok (I2.barYield.put s)
    else .ok ((I.retire 4).put s)

/-- `BARQ` (R417). -/
def execBarq (d n : BitVec 7) (s : State) : Host.Outcome State Fault Refusal :=
  runInstr (.barq d n) s fun I =>
    let b := I.crew.bar n.toNat
    .ok (I.whole s none d (b.arrived.length + 2 ^ 11 * b.exp + 2 ^ 22 * b.take.toNat + 2 ^ 23 * b.carry))

/-! ### Byte-count barriers (R418) -/

/-- The checks of a byte-count word: ACCESS, ALIGN, POISON, presence; the offset is a warp operand. (DEDUCED, log 39) -/
def Iss.byteWord (I : Iss) (s : State) (a : BitVec 7) (reads : Bool) (f : Nat → Eff) : Eff :=
  let o := (I.warp.operand a).toNat
  match I.spadCheck s { n := 8, write := true, atomic := reads } false [(lowest I.warp.m0, o)] with
  | .go => f (I.crew.spadBase + o)
  | .trap t => .error (s, { t with detail := 1, lanes := I.warp.m0 })
  | .park j => .ok (I.park s (.line j))
  | .bank b => .ok (I.stall s (.bank b))

/-- `BCI` (R418). -/
def execBci (a b : BitVec 7) (s : State) : Host.Outcome State Fault Refusal :=
  runInstr (.bci a b) s fun I =>
    I.byteWord s a false fun o =>
      let s1 := s.spadWrite I.crew.core o (bytesLE 4 0 ++ bytesLE 4 (I.warp.operand b).toNat)
      let s2 := s1.updCore I.crew.core fun c => { c with bcMark := c.bcMark.del o }
      .ok (((I.retire 4).put s2).recheckBytes I.crew.core)

/-- `BCA` (R418). -/
def execBca (a b : BitVec 7) (s : State) : Host.Outcome State Fault Refusal :=
  runInstr (.bca a b) s fun I =>
    I.byteWord s a true fun o =>
      let s0 := I.drainFor s I.warp.m0
      let v := (s.spadNum I.crew.core o 4 + (I.warp.operand b).toNat) % 2 ^ 32
      let s1 := s0.spadWrite I.crew.core o (bytesLE 4 v)
      .ok (((I.retire 4).put s1).recheckBytes I.crew.core)

/-- `BCW`: the add is made once; the side then waits with its PC already past the instruction. -/
def execBcw (a b : BitVec 7) (s : State) : Host.Outcome State Fault Refusal :=
  runInstr (.bcw a b) s fun I =>
    I.byteWord s a true fun o =>
      let v := (s.spadNum I.crew.core (o + 4) 4 + (I.warp.operand b).toNat) % 2 ^ 32
      let s1 := s.spadWrite I.crew.core (o + 4) (bytesLE 4 v)
      .ok (((I.retire 4).park s1 (.bytes (I.warp.operand a).toNat)).recheckBytes I.crew.core)

/-! ### Prefetch and cache maintenance (R420, R421) -/

/-- The translation of an address as the device makes it for an operation that raises nothing: a held one, or a walk. -/
def State.translate (s : State) (core ctx va : Nat) : Option TlbEnt :=
  if 2 ^ 57 ≤ va then none else
  match s.tlbHit core ctx va with
  | some e => some e
  | none => match s.walk ctx va with
    | .leaf e => some e
    | .pageFault => none

/-- `PREF` (R420): a fill of the issuing core's L1, or of the L2. -/
def execPref (a l : BitVec 7) (s : State) : Host.Outcome State Fault Refusal :=
  runInstr (.pref a l) s fun I =>
    let va := I.warp.operand64 a
    let s1 := match s.translate I.crew.core I.crew.ctx va with
      | none => s
      | some e =>
        if (s.permits e { n := 1 }).isNone && e.ord ≠ ordSO && !e.host && (s.mem.dirOf false (e.addr va / 128)).owners = [] then
          (if l = 1 then (s.l1Fill I.crew.core (e.addr va / 128) false e.slot e.ord).1
           else s.l2Core I.crew.core false e.slot (e.addr va / 128) false false)
        else s
    .ok ((I.retire 4).put s1)

/-- The translated parts of a range, page by page: first address, length, host. Pages that do not translate are skipped. -/
def State.rangeParts (s : State) (core ctx : Nat) : Nat → Nat → Nat → List (Nat × Nat × Bool)
  | 0, _, _ => []
  | fuel + 1, va, n =>
    if n = 0 then [] else
    let step := min n (65536 - va % 65536)
    let rest := State.rangeParts s core ctx fuel (va + step) (n - step)
    match s.translate core ctx va with
    | some e => (e.addr va, step, e.host) :: rest
    | none => rest

/-- Whether a line overlaps a part of a range. -/
def inParts (ps : List (Nat × Nat × Bool)) (line : Nat) (host : Bool) : Bool :=
  ps.any fun (a, n, h) => h == host && decide (128 * line < a + n) && decide (a < 128 * line + 128)

/-- The parts of the range of `CINV`, `CWB`, `CFLS`. -/
def Iss.cacheRange (I : Iss) (s : State) (a b : BitVec 7) : List (Nat × Nat × Bool) :=
  let n := (I.warp.operand b).toNat
  s.rangeParts I.crew.core I.crew.ctx (n / 65536 + 2) (I.warp.operand64 a) n

/-- `CWB` (R421). -/
def execCwb (a b : BitVec 7) (s : State) : Host.Outcome State Fault Refusal :=
  runInstr (.cwb a b) s fun I =>
    let ps := I.cacheRange s a b
    let s1 := (I.drainFor s I.warp.threads).flushLines I.crew.core true fun l => inParts ps l.line l.host
    .ok ((I.retire 4).put s1)

/-- `CINV` (R421). -/
def execCinv (a b : BitVec 7) (s : State) : Host.Outcome State Fault Refusal :=
  runInstr (.cinv a b) s fun I =>
    let ps := I.cacheRange s a b
    let s1 := (I.drainFor s I.warp.threads).flushLines I.crew.core false fun l => inParts ps l.line l.host
    .ok ((I.retire 4).put s1)

/-- `CFLS` waits for the engines that own a line of the range, then drops the range's L2 lines in both dies. -/
def execCfls (a b : BitVec 7) (s : State) : Host.Outcome State Fault Refusal :=
  runInstr (.cfls a b) s fun I =>
    let ps := I.cacheRange s a b
    match s.mem.dir.find? (fun (k, e) => e.owners ≠ [] && inParts ps k false && !(I.warp.badPages.any fun b => b.line == some (false, k))) with
    | some (k, e) => .ok (I.stall s (.owned false k e.owners))
    | none =>
      let s1 := (I.drainFor s I.warp.threads).flushLines I.crew.core false fun l => inParts ps l.line l.host
      let s2 := s1.updMem fun m =>
        let gone (host : Bool) (k : Nat) (d : DirEnt) : DirEnt :=
          if inParts ps k host then { d with remote := false, remoteDirty := false } else d
        { m with l2 := m.l2.filter fun l => !inParts ps l.line l.host,
                 dir := m.dir.mapV (gone false), hostDir := m.hostDir.mapV (gone true) }
      .ok ((I.retire 4).put s2)

/-! ### Translation invalidation (R217, R422) -/

/-- The tag of a non-leaf entry whose table is of `level`: the address bits above the table's index. -/
def walkTag (level va : Nat) : Nat :=
  match level with | 1 => va / 2 ^ 48 | 2 => va / 2 ^ 39 | 3 => va / 2 ^ 30 | _ => va / 2 ^ 21

/-- Translations that satisfy a test leave every TLB and walker cache of the package. -/
def State.tlbDrop (s : State) (p : TlbEnt → Bool) (q : WalkEnt → Bool) : State :=
  { s with
    cores := s.cores.mapV fun _ c => { c with tlb := c.tlb.filter fun e => !p e },
    clusters := s.clusters.mapV fun _ c => { c with tlb2 := c.tlb2.filter fun e => !p e },
    mem := { s.mem with walkCache := s.mem.walkCache.mapV fun _ l => l.filter fun e => !q e } }

/-- Every buffered store that used a translation that satisfies a test is performed, whichever core it waits at (R422). -/
def State.drainUsers (s : State) (p : TlbEnt → Bool) : State :=
  s.cores.foldl (fun s (k, c) =>
    let (hit, rest) := c.wbuf.partition fun w => p w.ent
    if hit = [] then s else hit.foldl (fun s w => s.performStore k w) (s.updCore k fun c => { c with wbuf := rest })) s

/-- The translations that `TLBI` invalidates: those of each lane's page in every context (0), or of each lane's context (1). -/
def tlbiNames (r : BitVec 7) (vas : List Nat) (e : TlbEnt) : Bool :=
  if r = 0 then vas.any fun va => e.base == va / 2 ^ e.lg * 2 ^ e.lg else vas.contains e.ctx
def tlbiWalks (r : BitVec 7) (vas : List Nat) (e : WalkEnt) : Bool :=
  if r = 0 then vas.any fun va => e.tag == walkTag e.level va else vas.contains e.ctx

/-- `TLBI`: a full fence at package scope, then the translations that its lanes name are invalidated and the buffered stores of every
core that used one are performed. A walk in flight reads its tables again when it ends, and a hidden store of a cue run is translated
again when it becomes visible, so neither uses an invalidated entry. -/
def execTlbi (a r : BitVec 7) (s : State) : Host.Outcome State Fault Refusal :=
  runInstr (.tlbi a r) s fun I =>
    let vas := (laneList I.warp.m0).map fun l => I.warp.laneNat a l 2
    let lim := if r = 0 then 2 ^ 57 else 1024
    let bad := maskOf fun l => I.warp.m0.getLsbD l && decide (lim ≤ I.warp.laneNat a l 2)
    if bad ≠ 0 then
      if r = 0 then .error (s, { cause := cPAGE, lanes := bad, taddr := (vas.find? fun va => decide (2 ^ 57 ≤ va)).getD 0 })
      else .error (s, { cause := cILLEGAL, lanes := bad })
    else
      let s1 := (s.fullFence I.crew.core).tlbDrop (tlbiNames r vas) (tlbiWalks r vas)
      .ok (((I.endFences I.warp.m0).retire 4).put (s1.drainUsers (tlbiNames r vas)))

end Sys2Proof.Machine
end

