-- ==== Sys2Proof/Machine/Rows.lean ====
section
/-! DEFINITION. The row instructions, major 0x33 (R232-R237, R423-R428), and the steps of the bus timers. -/

namespace Sys2Proof.Machine

/-- The control thread of a cluster stops waiting on a test. -/
def State.wakeCtl (s : State) (cl : Nat) (p : Wait → Bool) : State :=
  s.wake (fun c => c.core == 320 + cl && c.kind == .control) fun sd => p sd.wait

/-! ### The row instructions -/

/-- The row that an address pair names: PAGE, ACCESS, PROTECT and ROW_FAR come before the bank is looked at (R232, R423). -/
def Iss.rowOf (I : Iss) (s : State) (a : BitVec 7) (f : State → TlbEnt → Nat → Nat → Eff) : Eff :=
  let raw := I.warp.operand64 a
  let va := raw / 2048 * 2048
  let bad (c : Nat) (d : Nat) : Eff := .error (s, { cause := c, detail := d, taddr := va % 2 ^ 57, lanes := 1 })
  if 2 ^ 57 ≤ raw then bad cPAGE 0
  else match I.warp.badPages.find? (fun b => b.page == va / 65536) with
  | some b => bad b.cause 0
  | none =>
    match s.tlbHit I.crew.core I.crew.ctx va with
    | none => .ok (I.startWalk s va)
    | some e =>
      if e.host || e.aff ≠ 1 || !e.r then bad cACCESS 0
      else if e.slot ≠ 0 && (s.keys.find e.slot).isNone then bad cPROTECT 0
      else
        let pa := e.addr va
        if stackOfPa pa ≠ stackOf I.cluster then bad cROWFAR (bankOfPa pa)
        else f (s.settleStack (stackOf I.cluster)) e pa (bankOfPa pa)

/-- A row fault (R423). -/
def Iss.rowFault (I : Iss) (s : State) (a : BitVec 7) (cause bank : Nat) : Eff :=
  .error (s, { cause := cause, detail := bank, taddr := I.warp.operand64 a / 2048 * 2048 % 2 ^ 57, lanes := 1 })

/-- Dirty L2 copies of a row's 16 lines are written back, those of the other die among them (R237). -/
def State.cleanRow (s : State) (row : Nat) : State :=
  let s := (List.range 16).foldl (fun s i =>
    if (s.mem.dirOf false (16 * row + i)).remoteDirty then s.recall false (16 * row + i) true else s) s
  s.updMem fun m => { m with l2 := m.l2.map fun x => if !x.host && x.line / 16 == row then { x with dirty := false, old := [] } else x }

/-- `RACT` (R424). -/
def execRact (a : BitVec 7) (s : State) : Host.Outcome State Fault Refusal :=
  runInstr (.ract a) s fun I =>
    I.rowOf s a fun s e pa bank =>
      let cl := I.cluster
      let st := stackOf cl
      let ents := [2 * st, 2 * st + 1].filterMap fun k => (s.cluster k).row bank
      let bk := s.bank st bank
      if ents.any (fun r => r.st == .opened) then I.rowFault s a cROWCONFLICT bank
      else if ents.any (fun r => r.st == .closing) || decide (s.now < bk.preEnd) || decide (s.now < bk.refEnd)
          || decide (16 ≤ (s.cluster cl).busyRows s.now) || !s.mayActivate st then .ok (I.stall s .row)
      else
        match (List.range 16).find? (fun i => (s.mem.dirOf false (pa / 128 + i)).owners ≠ []
            && !(I.warp.badPages.any fun b => b.line == some (false, pa / 128 + i))) with
        | some i => .ok (I.stall s (.owned false (pa / 128 + i) (s.mem.dirOf false (pa / 128 + i)).owners))
        | none =>
          let r : RowEnt := { bank := bank, row := rowOfPa pa, st := .opened, tAct := s.now, tPre := none,
                              data := (List.range 128).flatMap fun i => s.mem.storedBlock (pa + 16 * i), slot := e.slot,
                              poisoned := s.mem.poison.any fun k => decide (pa ≤ 32 * k) && decide (32 * k < pa + 2048) }
          let s := s.cleanRow (pa / 2048)
          let s1 := s.updCluster cl fun c => { c with rows := r :: c.rows.filter fun x => x.bank != bank }
          .ok ((I.retire 4).put (s1.updStack st fun k => { k with lastAct := some s.now }))

/-- The entry that `RCON`, `RCON.WS` and `RCLS` act on: another row is ROW_CONFLICT whatever its state (R235). -/
def Iss.rowEntry (I : Iss) (s : State) (a : BitVec 7) (f : State → RowEnt → Nat → Nat → Eff) : Eff :=
  I.rowOf s a fun s _ pa bank =>
    match (s.cluster I.cluster).row bank with
    | none => I.rowFault s a cROWCLOSED bank
    | some r => if r.row ≠ rowOfPa pa then I.rowFault s a cROWCONFLICT bank else f s r pa bank

/-- The first detection of a row's poisoned sectors by a row port (R240). -/
def Iss.reportRow (I : Iss) (s : State) (a : BitVec 7) : State :=
  let va := I.warp.operand64 a / 2048 * 2048
  match s.tlbHit I.crew.core I.crew.ctx va with
  | some e => s.reportSectors recRowPoison (some I.crew.ctx) ((List.range 64).filterMap fun i =>
      if s.mem.poison.contains (e.addr va / 32 + i) then some (e.addr va / 32 + i, va + 32 * i) else none)
  | none => s

/-- A transfer from an open row (R235, R425), to a tile or to the weight stage. (DEDUCED, log 44) -/
def Iss.consume (I : Iss) (s : State) (a : BitVec 7) (tile : Option Nat) (off : Nat) : Eff :=
  I.rowEntry s a fun s r pa bank =>
    match r.st with
    | .closing => I.rowFault s a cROWCLOSED bank
    | .expired => I.rowFault s a cROWEXPIRED bank
    | .opened =>
      if r.slot ≠ 0 && (s.keys.find r.slot).isNone then I.rowFault s a cPROTECT 0
      else if r.poisoned then I.rowFault (I.reportRow s a) a cROWPOISON bank
      else if s.now < r.tAct + tFirst || 4 ≤ (s.cluster I.cluster).xfers.length then .ok (I.stall s .row)
      else
        let x : RowXfer := ⟨bank, s.now + s.xferPs I.cluster, tile, off, openStored (s.keyOf r.slot) (pa / 2048 * 2048) r.data⟩
        .ok ((I.retire 4).put (s.updCluster I.cluster fun c => { c with xfers := c.xfers ++ [x] }))

/-- A queued matrix instruction names a tile (R434). -/
def MItem.names (q : MItem) (t : Nat) : Bool :=
  (match q.op with | .mma => true | .mmas => true | .mmaq => true | _ => false) && (q.ti == t || q.tj == t)

/-- Whether an instruction that writes tile `t` must wait: a queued instruction names it, or a transfer or a shared write into
it is under way (R425, R434, R459). -/
def State.tileBusy (s : State) (cl t : Nat) : Bool :=
  (s.mx cl).queue.any (fun q => q.names t) || (s.cluster cl).xfers.any (fun x => x.tile == some t)
    || (s.mx cl).shared.any (fun w => w.tile == t)

/-- `RCON` (R425). -/
def execRcon (t a : BitVec 7) (s : State) : Host.Outcome State Fault Refusal :=
  runInstr (.rcon t a) s fun I =>
    if s.sharedIllegal I.cluster t.toNat then .error (s, illegalT)
    else
      let s := s.settleStack (stackOf I.cluster)
      if (s.mx I.cluster).queue.any (fun q => q.names t.toNat) || (s.mx I.cluster).shared.any (fun w => w.tile == t.toNat) then
        .ok (I.stall s .matrix)
      else if (s.cluster I.cluster).xfers.any (fun x => x.tile == some t.toNat) then .ok (I.stall s .row)
      else I.consume s a (some t.toNat) (2048 * bits (I.warp.operand64 a) 8 3)

/-- `RCON_WS` (R425). -/
def execRconWs (a b : BitVec 7) (s : State) : Host.Outcome State Fault Refusal :=
  runInstr (.rconWs a b) s fun I =>
    let off := (I.warp.operand b).toNat
    I.rowOf s a fun s1 _ _ _ =>
      if off % 256 ≠ 0 || weightSize < off + 2048 then
        .error (s1, { cause := cTYPED, detail := 1, taddr := off, lanes := 1 })
      else I.consume s1 a none off

/-- `RCLS` (R235, R426). -/
def execRcls (a : BitVec 7) (s : State) : Host.Outcome State Fault Refusal :=
  runInstr (.rcls a) s fun I =>
    I.rowEntry s a fun s r _ bank =>
      match r.st with
      | .closing => I.rowFault s a cROWCLOSED bank
      | .expired =>
        .ok ((I.retire 4).put (s.updCluster I.cluster fun c => { c with rows := c.rows.filter fun x => x.bank != bank }))
      | .opened =>
        let t := (s.cluster I.cluster).xferEnd bank (max s.now (r.tAct + tOpenMin))
        .ok ((I.retire 4).put (s.startPrecharge I.cluster bank t .closing))

/-- `RSTAT` (R427). -/
def execRstat (d a : BitVec 7) (s : State) : Host.Outcome State Fault Refusal :=
  runInstr (.rstat d a) s fun I =>
    I.rowOf s a fun s _ pa bank =>
      let c := s.cluster I.cluster
      let nopen := 2 ^ 16 * c.busyRows s.now
      let v := match c.row bank with
        | none => 0
        | some r =>
          (match r.st with | .opened => 1 | .closing => 2 | .expired => 3)
            + (if r.row = rowOfPa pa then 4 else 0)
            + (if r.st == .opened then
                (if r.tAct + tFirst ≤ s.now then 8 else 0) + 16 * min 4095 ((s.now - r.tAct) / 1000)
              else 0)
      .ok (I.whole s none d (v + nopen))

/-! ### The steps of the bus: each brings `now` up to its own time -/

/-- Whether the matrix work of an `MWAIT` class is complete on a cluster (R455). -/
def State.classDone (s : State) (cl cls : Nat) : Bool :=
  let m := s.mx cl
  let rows := (s.cluster cl).xfers == [] && m.shared == []
  let mul := m.queue.all fun q => q.op == .mdrn
  let drn := m.queue.all fun q => q.op != .mdrn
  match cls with | 0 => rows | 1 => mul | 2 => drn | _ => rows && mul && drn

/-- The waits of a control thread on matrix work tested again: an `MWAIT` whose class is complete continues, and an `MFENCE`
makes its fence (R455, R456). Instructions that stall issue again. -/
def State.wakeMatrix (s : State) (cl : Nat) : State :=
  let s := s.wakeCtl cl fun w => w == .row || w == .matrix
  let waits := s.crews.flatMap fun (_, c) =>
    if c.kind == .control && c.core == 320 + cl then
      c.warps.flatMap fun (_, w) => match w.run.wait with | .mwait k => [k] | _ => []
    else []
  waits.foldl (fun s k =>
    if s.classDone cl k then
      (if k = 4 then s.fullFence (320 + cl) else s).wakeCtl cl fun w => w == .mwait k
    else s) s

/-- Row waits of the clusters under a stack are tested again. -/
def State.wakeRows (s : State) (stack : Nat) : State :=
  (s.wakeMatrix (2 * stack)).wakeMatrix (2 * stack + 1)

/-- `ROW_TRANSFER_END`: the oldest transfer of cluster `unit` ends. -/
def execRowTransferEnd (s : State) : Host.Outcome State Fault Refusal :=
  let cl := s.inp.unit
  match (s.cluster cl).xfers with
  | [] => .next s
  | x :: _ => .next (((s.until x.tEnd).settleCluster cl).wakeRows (stackOf cl))

/-- `ACTIVATE_TO_FIRST_CONSUME`: 12 ns have passed since the activation of bank `sub` by cluster `unit`. -/
def execActivateToFirstConsume (s : State) : Host.Outcome State Fault Refusal :=
  let cl := s.inp.unit
  match (s.cluster cl).row s.inp.sub with
  | none => .next s
  | some r => .next ((s.until (r.tAct + tFirst)).wakeRows (stackOf cl))

/-- `PRECHARGE_END` of bank `sub` of the stack over cluster `unit`: a CLOSING entry becomes FREE. -/
def execPrechargeEnd (s : State) : Host.Outcome State Fault Refusal :=
  let st := stackOf s.inp.unit
  .next (((s.until (s.bank st s.inp.sub).preEnd).settleStack st).wakeRows st)

/-- `ROW_FORCED_CLOSE` of bank `sub` of cluster `unit` (R236). -/
def execRowForcedClose (s : State) : Host.Outcome State Fault Refusal :=
  let cl := s.inp.unit
  match (s.cluster cl).row s.inp.sub with
  | none => .next s
  | some r =>
    if r.st == .opened then .next (((s.until (r.tAct + tOpenMax)).settleCluster cl).wakeRows (stackOf cl)) else .next s

/-- `BANK_REFRESH` of bank `sub` of stack `unit`, when it is due: deferred while a row of the bank is open (R236). A stack in
self-refresh refreshes its banks itself (R37). -/
def execBankRefresh (s : State) : Host.Outcome State Fault Refusal :=
  let st := s.inp.unit
  if s.power.selfRefresh then .next s
  else
    let s1 := (s.until (s.bank st s.inp.sub).refDue).settleStack st
    let open' := [2 * st, 2 * st + 1].any fun k => match (s1.cluster k).row s.inp.sub with | some r => r.st == .opened | none => false
    .next (s1.updBank st s.inp.sub fun b => if open' then { b with refWaits := true } else b.refresh (max s1.now b.preEnd))

end Sys2Proof.Machine
end

