-- ==== Sys2Proof/Machine/Matrix.lean ====
section
/-! DEFINITION. The matrix unit: tiles, queued multiplies and drains, scales, codebooks, waits and cooperation groups, majors
0x34-0x38 (R265-R274, R280, R430-R460), with the steps that run its queue. -/

namespace Sys2Proof.Machine

/-! ### Tile control words and format words (R270, R271, R431, R432) -/

def MatrixSt.ctl (m : MatrixSt) (t : Nat) : TileCtl := m.tctl.get {} t
def TileCtl.rows (c : TileCtl) : Nat := bits c.shape 0 8 + 1
def TileCtl.rowLen (c : TileCtl) : Nat := 32 * (bits c.shape 8 6 + 1)
def TileCtl.src (c : TileCtl) : Nat := bits c.map0 8 2
def TileCtl.row0 (c : TileCtl) : Nat := bits c.map0 0 8

def fmtElem (f : Nat) : Nat := bits f 0 4
def fmtBlk (f : Nat) : Nat := bits f 4 2
def fmtStid (f : Nat) : Nat := bits f 8 12
def fmtCbid (f : Nat) : Nat := bits f 20 4
def fmtRole (f k : Nat) : Bool := bits f (24 + k) 1 == 1

/-- A malformed format word (R271). -/
def fmtMalformed (f : Nat) : Bool :=
  let e := fmtElem f
  decide (9 < e) || decide (1 < bits f 6 2) || decide (bits f 28 4 ≠ 0) || bits f 24 4 == 0
    || (decide (e ≤ 1) && fmtBlk f != 3) || (e == 9 && fmtBlk f == 3)
    || (fmtRole f 3 && (e == 7 || e == 8 || e == 9))

/-- Elements of a row of `l` bytes (R432). -/
def elemsOf (e l : Nat) : Nat :=
  match e with
  | 0 => l / 2 | 1 => l / 2 | 2 => l | 3 => l | 4 => 4 * (l / 3) | 5 => 4 * (l / 3) | 6 => 2 * l | 7 => l | 8 => 2 * l | _ => 4 * l

/-- The floating format of an element code below 7 (R270). -/
def elemFmt (e : Nat) : Fmt :=
  match e with | 0 => bf16 | 1 => fp16 | 2 => e4m3 | 3 => e5m2 | 4 => e3m2 | 5 => e2m3 | _ => e2m1

/-- The code of element `k` of a row whose bytes are `b` (R432). -/
def elemCode (e : Nat) (b : Nat → Nat) (k : Nat) : Nat :=
  match e with
  | 0 => b (2 * k) + 256 * b (2 * k + 1)
  | 1 => b (2 * k) + 256 * b (2 * k + 1)
  | 4 => bits (b (3 * (k / 4)) + 256 * b (3 * (k / 4) + 1) + 65536 * b (3 * (k / 4) + 2)) (6 * (k % 4)) 6
  | 5 => bits (b (3 * (k / 4)) + 256 * b (3 * (k / 4) + 1) + 65536 * b (3 * (k / 4) + 2)) (6 * (k % 4)) 6
  | 6 => bits (b (k / 2)) (4 * (k % 2)) 4
  | 8 => bits (b (k / 2)) (4 * (k % 2)) 4
  | 9 => b (2 * (k / 8)) + 256 * b (2 * (k / 8) + 1)
  | _ => b k

/-- Weight `j` of a VQ2 index under codebook entry `ent` (R268). -/
def vq2 (idx ent j : Nat) : FVal :=
  let sgn (i : Nat) : Bool := bits idx (i + 1) 1 == 1
  let s := if j < 7 then sgn j else (List.range 7).foldl (fun a i => a != sgn i) false
  .fin s (2 * bits ent (4 * j) 4 + idx % 2) (-2)

/-- A value as a matrix operation reads it: it sets no IV for a NaN operand (R274). -/
def FVal.quiet : FVal → FVal
  | .nan _ => .nan false
  | v => v

/-- The value of element `k` (R432). -/
def elemValue (m : MatrixSt) (fmt : Nat) (b : Nat → Nat) (k : Nat) : FVal :=
  let c := elemCode (fmtElem fmt) b k
  match fmtElem fmt with
  | 7 => intV (intOf true 8 c)
  | 8 => intV (intOf true 4 c)
  | 9 => vq2 c (m.cbooks.num (1024 * fmtCbid fmt + 4 * (c / 256)) 4) (k % 8)
  | e => ((elemFmt e).value c).quiet

/-- Elements of a scale block, 0 for none (R266). -/
def blkSize (f : Nat) : Nat := match fmtBlk f with | 0 => 16 | 1 => 32 | 2 => 64 | _ => 0

/-- The value of a scale code (R266). -/
def scaleValue (f c : Nat) : FVal :=
  if bits f 6 2 = 0 then (if c = 255 then .nan false else .fin false 1 ((c : Int) - 127)) else e4m3.value c

/-- The key of a scale block. -/
def scaleKey (id n : Nat) : Nat := id * 2 ^ 32 + n % 2 ^ 32

/-- The scale of element `k` of row `r` of a tile operand (R432). -/
def MItem.scale (q : MItem) (c : TileCtl) (r k : Nat) : FVal :=
  if fmtBlk c.fmt = 3 then .fin false 1 0
  else scaleValue c.fmt (q.scales.get 0 (scaleKey (fmtStid c.fmt) (c.bbase + r * c.bstr + k / blkSize c.fmt)))

/-- The blocks that a tile operand uses: id and block number. -/
def tileBlocks (c : TileCtl) : List (Nat × Nat) :=
  if fmtBlk c.fmt = 3 then [] else
  let per := (elemsOf (fmtElem c.fmt) c.rowLen + blkSize c.fmt - 1) / blkSize c.fmt
  (List.range c.rows).flatMap fun r => (List.range per).map fun b => (fmtStid c.fmt, (c.bbase + r * c.bstr + b) % 2 ^ 32)

/-- The blocks of a drain's format (R448). -/
def drainBlocks (f rows cols : Nat) : List (Nat × Nat) :=
  if fmtBlk f = 3 then [] else
  let per := (cols + blkSize f - 1) / blkSize f
  (List.range rows).flatMap fun i => (List.range per).map fun b => (fmtStid f, (i * per + b) % 2 ^ 32)

/-! ### A queued instruction -/

/-- The fields of a drain block (R447). -/
def MItem.dr (q : MItem) (i : Nat) : Nat := q.drain.getD i 0
def MItem.dRows (q : MItem) : Nat := bits (q.dr 0) 0 6 + 1
def MItem.dCols (q : MItem) : Nat := bits (q.dr 0) 6 6 + 1
def MItem.dRes (q : MItem) : Bool := bits (q.dr 0) 12 1 == 1
def MItem.dEf (q : MItem) : Bool := bits (q.dr 0) 13 1 == 1
def MItem.dDrop (q : MItem) : Bool := bits (q.dr 0) 14 1 == 1

def MOp.isMul : MOp → Bool
  | .mma => true | .mmas => true | .mmaq => true | _ => false

/-- The scale blocks that an instruction uses. -/
def MItem.blocks (q : MItem) : List (Nat × Nat) :=
  if q.op.isMul then tileBlocks q.ca ++ tileBlocks q.cb
  else if q.op == .mdrn then
    drainBlocks (q.dr 1) q.dRows q.dCols ++ (if q.dRes then drainBlocks (q.dr 2) q.dRows q.dCols else [])
  else []

/-- Whether an instruction latched a scale id or a codebook (R434). -/
def MItem.usesId (q : MItem) (id : Nat) : Bool := q.blocks.any fun b => b.1 == id
def MItem.usesBook (q : MItem) (c : Nat) : Bool :=
  q.op.isMul && ((fmtElem q.ca.fmt == 9 && fmtCbid q.ca.fmt == c) || (fmtElem q.cb.fmt == 9 && fmtCbid q.cb.fmt == c))

/-! ### Accumulators -/

def MatrixSt.entry (m : MatrixSt) (i : Nat) : Nat := m.acc.get 0 i
def MatrixSt.setEntry (m : MatrixSt) (i v : Nat) : MatrixSt := { m with acc := if v = 0 then m.acc.del i else m.acc.set i v }
def MatrixSt.setEntryPoison (m : MatrixSt) (i : Nat) (p : Bool) : MatrixSt :=
  { m with accPoison := if p then insertNat m.accPoison i else if m.accPoison = [] then [] else removeNat m.accPoison i }

/-! ### The multiply (R273, R274, R443) -/

/-- Whether some unit of a range is poisoned. -/
def poisonedIn (g : Nat) (p : List Nat) (a n : Nat) : Bool := p ≠ [] && (touchedUnits g a n).any fun k => p.contains k

/-- Where row `r` of an operand stands, and its bytes: tile storage, or a view of a stage (R437). -/
def MatrixSt.opByte (m : MatrixSt) (t : Nat) (c : TileCtl) (r i : Nat) : Nat :=
  match c.src with
  | 1 => (m.weight.get (c.voff + r * c.rowLen + i)).toNat
  | 2 => (m.activ.get (c.voff + r * c.rowLen + i)).toNat
  | _ => (m.tiles.get (tileSize * t + r * c.rowLen + i)).toNat
def MatrixSt.opPoison (m : MatrixSt) (t : Nat) (c : TileCtl) (r : Nat) : Bool :=
  match c.src with
  | 1 => poisonedIn 256 m.wPoison (c.voff + r * c.rowLen) c.rowLen
  | 2 => poisonedIn 64 m.aPoison (c.voff + r * c.rowLen) c.rowLen
  | _ => poisonedIn 32 m.tPoison (tileSize * t + r * c.rowLen) c.rowLen

/-- A row of an operand times its scales: values, and IV of infinity times a zero scale. -/
def MatrixSt.opRow (m : MatrixSt) (q : MItem) (t : Nat) (c : TileCtl) (r : Nat) : List (FVal × Flags) :=
  (List.range (elemsOf (fmtElem c.fmt) c.rowLen)).map fun k =>
    mulV (elemValue m c.fmt (m.opByte t c r) k) (q.scale c r k)

/-- Whether a value is an infinity of a sign. -/
def FVal.isInf (v : FVal) (n : Bool) : Bool := match v with | .inf k => k == n | _ => false

/-- The exact sum of terms (R273): NaN, an infinity, or a number; IV when +inf and -inf meet. -/
def sumV (ts : List FVal) : FVal × Flags :=
  if ts.any FVal.isNan then (.nan false, 0)
  else if ts.any (fun v => v.isInf false) && ts.any (fun v => v.isInf true) then (.nan false, fIV)
  else if ts.any (fun v => v.isInf false) then (.inf false, 0)
  else if ts.any (fun v => v.isInf true) then (.inf true, 0)
  else
    let nums := ts.filterMap fun v => match v with | .fin n m e => some (n, m, e) | _ => none
    let emin := nums.foldl (fun (a : Int) x => if x.2.2 < a then x.2.2 else a) 0
    let z := nums.foldl (fun (a : Int) x => a + smag x.1 (x.2.1 <<< (x.2.2 - emin).toNat)) 0
    if z = 0 then (.fin (nums.all fun x => x.1 && x.2.1 == 0) 0 0, 0) else (.fin (decide (z < 0)) z.natAbs emin, 0)

/-- A sum rounded into ACC56, with OF, UF and NX as R274 sets them. -/
def toAcc (v : FVal) : Nat × Flags :=
  match v with
  | .nan _ => (acc56.nan, 0)
  | .inf n => (acc56.signed n acc56.infCode, 0)
  | .fin n m e =>
    let (c, fl) := acc56.round .rne .ieee n m e
    let sub := bits c 45 10 == 0 && bits c 0 45 != 0
    (c, (fl &&& (fOF ||| fNX)) ||| (if sub && fl &&& fNX ≠ 0 then fUF else 0))

/-- Groups of 16 of a list, ascending. -/
def groups16 {α : Type} : Nat → List α → List (List α)
  | 0, _ => []
  | n + 1, l => if l.length ≤ 16 then [l] else l.take 16 :: groups16 n (l.drop 16)

/-- One entry's groups from group `g` on: the products of a group are added to the entry, or set it (R443). -/
def accGroups (set : Bool) : Nat → Nat → List (List (FVal × Flags)) → Nat × Flags
  | _, x, [] => (x, 0)
  | g, x, ps :: rest =>
    let prods := ps.map (·.1)
    let ts := if set && g = 0 then prods else acc56.value x :: prods
    let (v, f1) := sumV ts
    let (c, f2) := toAcc v
    let (r, f3) := accGroups set (g + 1) c rest
    (r, ps.foldl (fun a p => a ||| p.2) (f1 ||| f2) ||| f3)

/-- Whether a format has integer elements: INT8 or INT4 (R259). -/
def fmtInt (f : Nat) : Bool := fmtElem f == 7 || fmtElem f == 8

/-- The products of two rows; of integers a zero product has no sign (R273). -/
def rowProducts (ints : Bool) (a b : List (FVal × Flags)) : List (FVal × Flags) :=
  List.zipWith (fun x y =>
    let (v, f) := mulV x.1 y.1
    let v := match v with | .fin n 0 e => .fin (n && !ints) 0 e | v => v
    (v, f ||| x.2 ||| y.2)) a b

/-- A queued multiply from item `prog` on (R443). -/
def MatrixSt.multiply (m : MatrixSt) (q : MItem) : MatrixSt × Flags :=
  let bs := (List.range q.cb.rows).map fun j => (j, m.opRow q q.tj q.cb j, m.opPoison q.tj q.cb j)
  (List.range q.ca.rows).foldl (fun (acc : MatrixSt × Flags) i =>
    let ar := m.opRow q q.ti q.ca i
    let ap := m.opPoison q.ti q.ca i
    bs.foldl (fun (acc : MatrixSt × Flags) (j, br, bp) =>
      let (m', fl) := acc
      let k := 4096 * q.acc + 64 * i + j
      let gs := (groups16 (ar.length / 16 + 1) (rowProducts (fmtInt q.ca.fmt && fmtInt q.cb.fmt) ar br)).drop q.prog
      let (c, f) := accGroups (q.op == .mmas) q.prog (m'.entry k) gs
      let old := m'.accPoison.contains k && !(q.op == .mmas && q.prog == 0)
      ((m'.setEntry k c).setEntryPoison k (ap || bp || old), fl ||| f)) acc) (m, 0)

/-! ### The drain (R447-R450) -/

/-- Bytes of `c` elements of a format, and the row stride (R449). -/
def drainBytes (e c : Nat) : Nat :=
  match e with | 0 => 2 * c | 1 => 2 * c | 2 => c | 3 => c | 4 => 3 * ((c + 3) / 4) | 5 => 3 * ((c + 3) / 4) | _ => (c + 1) / 2
def stride64 (n : Nat) : Nat := 64 * ((n + 63) / 64)

/-- A finite number divided by a finite non-zero number, rounded once. -/
def Fmt.roundQuot (f : Fmt) (rm : RMode) (sm : SatMode) (neg : Bool) (m1 : Nat) (e1 : Int) (m2 : Nat) (e2 : Int) : Nat × Flags :=
  if m1 = 0 then (f.signed neg 0, 0) else
  let (q, e) := quotSticky (f.fb + 8) m1 m2
  f.round rm sm neg q (e + e1 - e2)

/-- z = x / SO narrowed, and the residual of R281 for input z: the output code, its flags, the FP32 residual. -/
def drainElem (f : Fmt) (rm : RMode) (sm : SatMode) (x so : FVal) : Nat × Flags × Nat :=
  let nan (g : Flags) : Nat × Flags × Nat := let (c, fl) := f.nanResult; (c, fl ||| g, fp32.nan)
  match so with
  | .nan _ => nan fIV
  | .inf _ => nan fIV
  | .fin sn sm' se =>
    if sm' = 0 then nan fIV else
    match x with
    | .nan _ => nan 0
    | .inf n => let (c, fl) := f.infConvert sm (n != sn); (c, fl, 0)
    | .fin n m e =>
      let (c, fl) := f.roundQuot rm sm (n != sn) m e sm' se
      match f.value c with
      | .fin qn qm qe =>
        -- z - q = (x - q * SO) / SO
        let (dn, dm, de) := addExact n m e (!(qn != sn)) (qm * sm') (qe + se)
        (c, fl, (if dm = 0 then 0 else (fp32.roundQuot .rne .ieee (dn != sn) dm de sm' se).1))
      | _ => (c, fl, (fp32.roundQuot .rne .ieee (n != sn) m e sm' se).1)

/-- The scale of element (i, j) of a drain format. -/
def MItem.drainScale (q : MItem) (f i j : Nat) : FVal :=
  if fmtBlk f = 3 then .fin false 1 0
  else
    let per := (q.dCols + blkSize f - 1) / blkSize f
    scaleValue f (q.scales.get 0 (scaleKey (fmtStid f) (i * per + j / blkSize f)))

/-- The elements of row `i` of a drain: code, flags, residual. -/
def MatrixSt.drainRow (m : MatrixSt) (q : MItem) (i : Nat) : List (Nat × Flags × Nat) :=
  let oe := fmtElem (q.dr 1)
  let cls := match oe with | 0 => 2 | 1 => 1 | 2 => 3 | 3 => 4 | _ => 5
  let rm := rmOfMode (bits q.nmode.toNat (modeShift cls) 3)
  let sm := smOfMode (bits q.nmode.toNat (modeShift cls + 3) 2)
  let re := fmtElem (q.dr 2)
  let rrow (b : Nat) : Nat := (m.activ.get (q.dr 3 + i * stride64 (drainBytes re q.dCols) + b)).toNat
  (List.range q.dCols).map fun j =>
    let x0 := acc56.value (m.entry (4096 * q.acc + 64 * i + j))
    let drop := q.dDrop && decide ((cbg (BitVec.ofNat 32 (q.dr 6)) (BitVec.ofNat 32 (q.dr 7)) (BitVec.ofNat 32 (q.dr 8))
      (BitVec.ofNat 32 (64 * i + j))).toNat / 256 < q.dr 5)
    let x1 : FVal := if drop then .fin false 0 0 else x0
    let (x2, f2) := if q.dRes then
        let (p, fp) := mulV ((elemFmt re).value (elemCode re rrow j)).quiet (q.drainScale (q.dr 2) i j)
        let (v, fv) := sumV [x1, p]
        (v, fp ||| fv)
      else (x1, 0)
    let (c, fl, r) := drainElem (elemFmt oe) rm sm x2 (q.drainScale (q.dr 1) i j)
    (c, fl ||| f2, r)

/-- Elements that share the bytes of one unit of packed output. -/
def unitElems (e : Nat) : Nat := match e with | 4 => 4 | 5 => 4 | 6 => 2 | _ => 1
/-- Bytes of one unit. -/
def unitBytes (e : Nat) : Nat := match e with | 0 => 2 | 1 => 2 | 4 => 3 | 5 => 3 | _ => 1

/-- The bytes, from the start of its row, that hold element `j` of packed elements of `w` bits: the first and their number. -/
def elemSpan (w j : Nat) : Nat × Nat := (j * w / 8, (j * w + w - 1) / 8 - j * w / 8 + 1)

/-- Whether poison contributes to element (i, j) of a drain: an entry of the accumulator or a residual granule (R450). -/
def MatrixSt.drainBad (m : MatrixSt) (q : MItem) (i j : Nat) : Bool :=
  let re := fmtElem (q.dr 2)
  let (o, n) := elemSpan (elemFmt re).width j
  m.accPoison.contains (4096 * q.acc + 64 * i + j)
    || (q.dRes && poisonedIn 64 m.aPoison (q.dr 3 + i * stride64 (drainBytes re q.dCols) + o) n)

/-- Row `i` of a drain written, element by element (R448, R449), and its poison: a granule that the row writes whole is clean (R239),
but for the elements to which poison contributes (R450). -/
def MatrixSt.drainWrite (m : MatrixSt) (q : MItem) (i : Nat) (els : List (Nat × Flags × Nat)) : MatrixSt :=
  let oe := fmtElem (q.dr 1)
  let w := (elemFmt oe).width
  let base := q.off + i * stride64 (drainBytes oe q.dCols)
  let ebase := q.dr 4 + i * stride64 (4 * q.dCols)
  let codes := els.map (·.1)
  let m1 := (List.range q.dCols).foldl (fun (m' : MatrixSt) j =>
    let u := j / unitElems oe
    let m' := if j % unitElems oe = unitElems oe - 1 || j + 1 = q.dCols then
        let v := packElems w ((codes.drop (u * unitElems oe)).take (unitElems oe))
        m'.writeActiv (base + u * unitBytes oe) (bytesLE (unitBytes oe) v)
      else m'
    if q.dEf then m'.writeActiv (ebase + 4 * j) (bytesLE 4 ((els.getD j (0, 0, 0)).2.2)) else m') m
  if m.accPoison = [] && m.aPoison = [] then m1 else
  let hit := (List.range q.dCols).filter (m.drainBad q i)
  let gran := hit.flatMap fun j =>
    let (o, n) := elemSpan w j
    touchedUnits 64 (base + o) n ++ (if q.dEf then [(ebase + 4 * j) / 64] else [])
  let clean := clearPoison 64 m1.aPoison base (drainBytes oe q.dCols)
  { m1 with aPoison := gran.foldl insertNat (if q.dEf then clearPoison 64 clean ebase (4 * q.dCols) else clean) }

/-- A queued drain from row `prog` on. -/
def MatrixSt.drainAll (m : MatrixSt) (q : MItem) : MatrixSt × Flags :=
  let (m1, fl, bad) := ((List.range q.dRows).drop q.prog).foldl (fun (acc : MatrixSt × Flags × Bool) i =>
    let els := acc.1.drainRow q i
    (acc.1.drainWrite q i els, els.foldl (fun a x => a ||| x.2.1) acc.2.1,
      acc.2.2 || (List.range q.dCols).any (acc.1.drainBad q i))) (m, 0, false)
  (if bad then { m1 with drainPoison := m1.drainPoison + 1 } else m1, fl)

/-- A queued instruction performed. (DESIGN CHOICE, log 41) -/
def MatrixSt.perform (m : MatrixSt) (q : MItem) : MatrixSt × Flags :=
  match q.op with
  | .mzero =>
    ({ m with acc := m.acc.filter fun x => x.1 / 4096 != q.acc,
              accPoison := m.accPoison.filter fun k => k / 4096 != q.acc }, 0)
  | .mdrn => m.drainAll q
  | _ => m.multiply q

/-! ### The steps of the queue (R433, R452) -/

/-- The scale code of a block that the cache holds. -/
def MatrixSt.cached (m : MatrixSt) (id n : Nat) : Option Nat :=
  match m.scCache.find? fun l => l.id == id && l.line == n / 64 with
  | some l => (l.bytes[n % 64]?).getD none
  | none => none

/-- A line moved to the front of the scale cache. -/
def MatrixSt.touch (m : MatrixSt) (id line : Nat) : MatrixSt :=
  match m.scCache.find? fun l => l.id == id && l.line == line with
  | some l => { m with scCache := l :: m.scCache.filter fun x => !(x.id == id && x.line == line) }
  | none => m

/-- The codes of the blocks that the cache holds go to the instruction; the others are missing. (DEDUCED, log 42) -/
def MatrixSt.latch (m : MatrixSt) (q : MItem) (bs : List (Nat × Nat)) : MItem :=
  bs.foldl (fun q (id, n) =>
    match m.cached id n with
    | some c => { q with scales := q.scales.set (scaleKey id n) c }
    | none => if q.missing.contains (id, n) then q else { q with missing := q.missing ++ [(id, n)] }) { q with missing := [] }

/-- Whether the head of the queue may execute: every transfer and shared write into a tile it names has ended (R434, R459). -/
def State.mxReady (s : State) (cl : Nat) (q : MItem) : Bool :=
  !((s.cluster cl).xfers.any fun x => match x.tile with | some t => q.names t | none => false)
    && !((s.mx cl).shared.any fun w => q.names w.tile)

/-- `MATRIX_EXEC_START` on cluster `unit`: the oldest queued instruction begins. -/
def execMatrixExecStart (s : State) : Host.Outcome State Fault Refusal :=
  let cl := s.inp.unit
  let s := s.settleCluster cl
  match (s.mx cl).queue with
  | [] => .next s
  | q :: rest =>
    if q.started || !s.mxReady cl q then .next s
    else
      let m := s.mx cl
      let q' := m.latch { q with started := true } q.blocks
      let m' := q.blocks.foldl (fun m b => m.touch b.1 (b.2 / 64)) m
      .next (s.updMx cl fun _ => { m' with queue := q' :: rest })

/-- A scale line as its home slices hold it (R452): the bytes of a page that does not translate, or that the context may not
read, are absent. -/
def State.fetchScale (s : State) (cl id line : Nat) : ScaleLine :=
  let base := (s.mx cl).scBase.get 0 id
  let ctx := (s.cluster cl).owner.getD 0
  let byte (i : Nat) : Option Nat :=
    match s.translate (320 + cl) ctx (base + 64 * line + i) with
    | none => none
    | some e =>
      if (s.permits e { n := 1 }).isSome then none
      else some (((s.homeRead e.host e.slot (e.addr (base + 64 * line + i)) 1).headD 0).toNat)
  ⟨id, line, (List.range 64).map byte⟩

/-- The fill of a scale line, for the context that owns the control core (R108). -/
def State.scaleFill (s : State) (cl id line : Nat) : State :=
  let ctx := (s.cluster cl).owner.getD 0
  let va := (s.mx cl).scBase.get 0 id + 64 * line
  match s.translate (320 + cl) ctx va with
  | none => s
  | some e => s.l2Access (some ctx) (dieOf cl) e.host e.slot (e.addr va / 128) false false

/-- `SCALE_FETCH_DONE` on cluster `unit`: the line of the first missing block arrives and every missing block in it is
latched. A block that the line does not hold (its page went after the instruction issued) takes a free value. -/
def execScaleFetchDone (s : State) : Host.Outcome State Fault Refusal :=
  let cl := s.inp.unit
  match (s.mx cl).queue with
  | [] => .next s
  | q :: rest =>
    match q.missing with
    | [] => .next s
    | (id, n) :: _ =>
      let l := s.fetchScale cl id (n / 64)
      let m := s.mx cl
      let miss := m.scMiss.get 0 id + 1
      let here := q.missing.filter fun b => b.1 == id && b.2 / 64 == n / 64
      let code (b : Nat × Nat) : Nat := match (l.bytes[b.2 % 64]?).getD none with
        | some c => c
        | none => (Config.freeByte (s.fresh + b.2)).toNat
      let q' := { q with
        scales := here.foldl (fun t b => t.set (scaleKey b.1 b.2) (code b)) q.scales,
        missing := q.missing.filter fun b => !(b.1 == id && b.2 / 64 == n / 64) }
      .next (((s.scaleFill cl id (n / 64)).updMx cl fun m => { m with
        queue := q' :: rest,
        scMiss := m.scMiss.set id (if miss < 0xFFFF then miss else 0xFFFF),
        scCache := (l :: m.scCache.filter fun x => !(x.id == id && x.line == n / 64)).take 128 }).nextFree)

/-- Flags into the control thread's `c.FLAGS` (R455). -/
def State.ctlFlags (s : State) (cl : Nat) (fl : Flags) : State :=
  if fl = 0 then s else
  { s with crews := s.crews.mapV fun _ c => if c.kind == .control && c.core == 320 + cl then { c with flags := c.flags ||| fl } else c }

/-- `MATRIX_EXEC_DONE` on cluster `unit`: the executing instruction completes, its flags reach `c.FLAGS`, and waits on matrix
work are tested again. -/
def execMatrixExecDone (s : State) : Host.Outcome State Fault Refusal :=
  let cl := s.inp.unit
  match (s.mx cl).queue with
  | [] => .next s
  | q :: rest =>
    if !q.started || q.missing ≠ [] then .next s
    else
      let (m, fl) := (s.mx cl).perform q
      .next (((s.updMx cl fun _ => { m with queue := rest }).ctlFlags cl fl).wakeMatrix cl)

/-- A shared write reaches its member (R459). -/
def SharedWrite.apply (w : SharedWrite) (m : MatrixSt) : MatrixSt :=
  match w.what with
  | .bytes off d => m.writeTile (tileSize * w.tile + off) d
  | .shape sh f => { m with tctl := m.tctl.set w.tile { m.ctl w.tile with shape := sh, fmt := f } }
  | .fmt f => { m with tctl := m.tctl.set w.tile { m.ctl w.tile with fmt := f } }

/-- `SHARED_TILE_WRITE_DONE` on cluster `unit`: the oldest shared write reaches its member. -/
def execSharedTileWriteDone (s : State) : Host.Outcome State Fault Refusal :=
  let cl := s.inp.unit
  match (s.mx cl).shared with
  | [] => .next s
  | w :: rest =>
    .next (((s.updMx cl fun m => { m with shared := rest }).updMx w.member w.apply).wakeMatrix cl)

/-! ### Shaping, mapping, loading and storing tiles (R436-R441) -/

/-- The value of a control thread's register and of those after it. -/
def Iss.val (I : Iss) (n : BitVec 7) (k : Nat) : Nat := (I.warp.operand (regPlus n k)).toNat

/-- `TSHAPE` (R436). -/
def execTshape (t a : BitVec 7) (s : State) : Host.Outcome State Fault Refusal :=
  runInstr (.tshape t a) s fun I =>
    let sh := I.val a 0
    let f := I.val a 1
    if decide (2 ^ 14 ≤ sh) || decide (16384 < (bits sh 0 8 + 1) * 32 * (bits sh 8 6 + 1)) || fmtMalformed f
        || s.sharedIllegal I.cluster t.toNat then .error (s, illegalT)
    else
      let s1 := s.updMx I.cluster fun m => { m with tctl := m.tctl.set t.toNat { m.ctl t.toNat with shape := sh, fmt := f } }
      .ok ((I.retire 4).put (s1.shareTile I.cluster t.toNat (.shape sh f)))

/-- `OMAP` (R437). -/
def execOmap (t a : BitVec 7) (s : State) : Host.Outcome State Fault Refusal :=
  runInstr (.omap t a) s fun I =>
    let m0 := I.val a 0
    let bs := I.val a 2
    if decide (2 ^ 10 ≤ m0) || bits m0 8 2 == 3 || decide (2 ^ 24 ≤ bs) then .error (s, illegalT)
    else
      .ok ((I.retire 4).put (s.updMx I.cluster fun m => { m with tctl := m.tctl.set t.toNat { m.ctl t.toNat with
        map0 := m0, bbase := I.val a 1, bstr := bs, voff := I.val a 3 } }))

/-- Whether the control thread must wait before it writes or reads tile `t` (R434, R425). -/
def Iss.tileWait (I : Iss) (s : State) (t : Nat) (f : State → Eff) : Eff :=
  let s := s.settleStack (stackOf I.cluster)
  if s.tileBusy I.cluster t then .ok (I.stall s .matrix) else f s

/-- `TCLR` (R438). -/
def execTclr (t : BitVec 7) (s : State) : Host.Outcome State Fault Refusal :=
  runInstr (.tclr t) s fun I =>
    if s.sharedIllegal I.cluster t.toNat then .error (s, illegalT)
    else I.tileWait s t.toNat fun s =>
      .ok ((I.retire 4).put (s.tileWrite I.cluster t.toNat 0 (List.replicate 16384 0)))

/-- The items of a control thread's long instruction: item `r` accesses `va r` (R188, R439, R446). -/
def ctlItems (I : Iss) (q : Need) (va : Nat → Nat) (f : State → Nat → LaneAcc → State) : State → List Nat → State × LongEnd
  | s, [] => (s, .done)
  | s, r :: rs =>
    match s.checkAccess I.crew.core I.crew.ctx (va r) I.warp.badPages q with
    | .miss v => (s, .miss r v)
    | .stall w => (s, .stall r w)
    | .bad k t => (I.reportAt s k [(va r, q.n)], .trap { cause := k, detail := q.detail, taddr := t % 2 ^ 57, lanes := 1, pidx := r })
    | .ok e e2 => ctlItems I q va f (f s r ⟨0, va r, e, e2⟩) rs

/-- The address of row `r` (R439). -/
def Iss.rowVa (I : Iss) (a b : BitVec 7) (r : Nat) : Nat :=
  (BitVec.ofNat 64 (I.warp.operand64 a) + BitVec.ofNat 64 r * (I.warp.operand b).signExtend 64).toNat

/-- `TLD` (R439). -/
def execTld (t a b : BitVec 7) (s : State) : Host.Outcome State Fault Refusal :=
  runInstr (.tld t a b) s fun I =>
    if s.sharedIllegal I.cluster t.toNat then .error (s, illegalT)
    else I.tileWait s t.toNat fun s =>
      let c := (s.mx I.cluster).ctl t.toNat
      let rs := (List.range c.rows).filter fun r => I.startItem ≤ r
      let (s1, r) := ctlItems I { n := c.rowLen, align := 32 } (I.rowVa a b) (fun s r x =>
        let (s, bs) := s.loadSeen I.crew.core x.va x.e x.e2 false c.rowLen
        s.tileWrite I.cluster t.toNat (r * c.rowLen) bs) s rs
      I.endLong s1 none r I id

/-- Memory that took poisoned tile bytes is poisoned (R239). -/
def State.poisonRange (s : State) (core : Nat) (x : LaneAcc) (n : Nat) : State :=
  (List.range (n / 32)).foldl (fun s i =>
    let (e, pa) := partOf x.va (32 * i) x.e x.e2
    if e.host then s else
    (s.l1Drop core (pa / 128) false).updMem fun m => { m with poison := insertNat m.poison (pa / 32) }) s

/-- `TST` (R439). (DEDUCED, log 46) -/
def execTst (t a b : BitVec 7) (s : State) : Host.Outcome State Fault Refusal :=
  runInstr (.tst t a b) s fun I =>
    I.tileWait s t.toNat fun s =>
      let m := s.mx I.cluster
      let c := m.ctl t.toNat
      let rs := (List.range c.rows).filter fun r => I.startItem ≤ r
      let (s1, r) := ctlItems I { n := c.rowLen, write := true, align := 32 } (I.rowVa a b) (fun s r x =>
        let off := tileSize * t.toNat + r * c.rowLen
        let s := I.storeLane s x false (m.tiles.read off c.rowLen)
        let s := if poisonedIn 32 m.tPoison off c.rowLen then s.poisonRange I.crew.core x c.rowLen else s
        I.fencedMarks s c.rowLen [x]) s rs
      I.endLong s1 none r I id

/-- Accesses of a control thread checked one after another, all before any is performed. -/
def Iss.needAll (I : Iss) (s : State) : List (Nat × Need) → (List LaneAcc → Eff) → Eff
  | [], f => f []
  | (va, q) :: rest, f =>
    match s.checkAccess I.crew.core I.crew.ctx va I.warp.badPages q with
    | .miss v => .ok (I.startWalk s v)
    | .stall w => .ok (I.stall s w)
    | .bad k t => .error (I.reportAt s k [(va, q.n)], { cause := k, detail := q.detail, taddr := t % 2 ^ 57, lanes := 1 })
    | .ok e e2 => Iss.needAll I s rest fun l => f (⟨0, va, e, e2⟩ :: l)

/-- The bytes of checked loads. -/
def State.loadAll (s : State) (core : Nat) : List (LaneAcc × Nat) → State × List (List Byte)
  | [] => (s, [])
  | (x, n) :: rest =>
    let (s, bs) := s.loadSeen core x.va x.e x.e2 false n
    let (s, l) := State.loadAll s core rest
    (s, bs :: l)

/-- The steps of `TFEED` (R441). -/
def execTfeed (t a b : BitVec 7) (s : State) : Host.Outcome State Fault Refusal :=
  runInstr (.tfeed t a b) s fun I =>
    if s.sharedIllegal I.cluster t.toNat then .error (s, illegalT)
    else I.tileWait s t.toNat fun s =>
      let rec' := I.warp.operand64 b
      let want := I.val a 0
      let c := (s.mx I.cluster).ctl t.toNat
      I.needAll s [(rec', { n := 4, align := 64 }), (rec' + 128, { n := 128 })] fun l =>
        let (s1, vs) := s.loadAll I.crew.core (l.zip [4, 128])
        let lmask := leNat (vs.getD 0 [])
        let fw (i : Nat) : Nat := leNat (((vs.getD 1 []).drop (4 * i)).take 4)
        let feeding := (List.range 32).filter fun i => bits lmask i 1 == 1
        let dis := maskOf fun i => bits lmask i 1 == 1 && fw i != want
        if dis ≠ 0 then .error (s1, { cause := cFMT, lanes := dis })
        else if fmtMalformed want then .error (s1, illegalT)
        else match feeding.find? (fun i => decide (c.rows ≤ c.row0 + i)) with
        | some i => .error (s1, { cause := cTYPED, detail := 1, taddr := (c.row0 + i) * c.rowLen, lanes := 1 })
        | none =>
          I.needAll s1 (feeding.map fun i => (rec' + 256 + i * c.rowLen, { n := c.rowLen })) fun l2 =>
            let (s2, rows) := s1.loadAll I.crew.core (l2.map fun x => (x, c.rowLen))
            let s3 := (s2.updMx I.cluster fun m => { m with tctl := m.tctl.set t.toNat { m.ctl t.toNat with fmt := want } }).shareTile
              I.cluster t.toNat (.fmt want)
            let s4 := (feeding.zip rows).foldl (fun s (i, bs) =>
              s.tileWrite I.cluster t.toNat ((c.row0 + i) * c.rowLen) bs) s3
            .ok ((I.retire 4).put s4)

/-! ### Issuing queued instructions (R433, R434, R442, R447) -/

/-- A view that a multiply uses is off its granule or passes the end of its stage (R437). -/
def viewBad (c : TileCtl) : Bool :=
  match c.src with
  | 1 => c.voff % 256 != 0 || decide (weightSize < c.voff + c.rows * c.rowLen)
  | 2 => c.voff % 64 != 0 || decide (activSize < c.voff + c.rows * c.rowLen)
  | _ => false

/-- The scale blocks an instruction will use: their ids bound, or PAGE with TADDR 0, and their pages translated for read
(R442). -/
def Iss.scalesOk (I : Iss) (s : State) (bs : List (Nat × Nat)) (f : Eff) : Eff :=
  let m := s.mx I.cluster
  if bs.any fun b => (m.scBase.find b.1).isNone then .error (s, { cause := cPAGE, lanes := 1 })
  else
    let vas := bs.map fun b => (m.scBase.get 0 b.1 + b.2) % 2 ^ 64
    let firsts := vas.foldl (fun (l : List Nat) va => if l.any (fun x => x / 65536 == va / 65536) then l else l ++ [va]) []
    let rec go : List Nat → Eff
      | [] => f
      | va :: rest =>
        if 2 ^ 57 ≤ va then .error (s, { cause := cPAGE, taddr := va % 2 ^ 57, lanes := 1 }) else
        match I.warp.badPages.find? (fun b => b.page == va / 65536) with
        | some b => .error (s, { cause := b.cause, taddr := va, lanes := 1 })
        | none =>
          match s.tlbHit I.crew.core I.crew.ctx va with
          | none => .ok (I.startWalk s va)
          | some e => match s.permits e { n := 1 } with
            | some c => .error (s, { cause := c, taddr := va, lanes := 1 })
            | none => go rest
    go firsts

/-- A checked instruction enters the queue. -/
def Iss.enqueueMx (I : Iss) (s : State) (q : MItem) : Eff :=
  .ok ((I.retire 4).put (s.updMx I.cluster fun m => { m with queue := m.queue ++ [{ q with slate := I.crew.slate }] }))

/-- A Q instruction waits while the queue holds 8 entries (R433). -/
def Iss.queueRoom (I : Iss) (s : State) (f : Eff) : Eff :=
  if 8 ≤ (s.mx I.cluster).queue.length then .ok (I.stall s .matrix) else f

/-- An operand format of `MMA`, and one of the narrow formats (R442). -/
def wideElem (e : Nat) : Bool := e == 0 || e == 1 || e == 2 || e == 3 || e == 7
def narrowElem (e : Nat) : Bool := e == 4 || e == 5 || e == 6 || e == 8 || e == 9

/-- `MMA`, `MMAS`, `MMAQ` at issue (R442). -/
def Iss.mul (I : Iss) (s : State) (op : MOp) (c i j : BitVec 7) : Eff :=
  I.queueRoom s <|
    let m := s.mx I.cluster
    let ca := m.ctl i.toNat
    let cb := m.ctl j.toNat
    let ea := fmtElem ca.fmt
    let eb := fmtElem cb.fmt
    let wide := wideElem ea && wideElem eb
    let narrow := narrowElem ea || narrowElem eb
    let pair := match op with | .mma => wide | .mmaq => narrow | _ => wide || narrow
    if !fmtRole ca.fmt 0 || !fmtRole cb.fmt 1 || decide (64 < ca.rows) || decide (64 < cb.rows)
        || elemsOf ea ca.rowLen != elemsOf eb cb.rowLen || !pair then .error (s, illegalT)
    else if viewBad ca then .error (s, { cause := cTYPED, taddr := ca.voff, lanes := 1 })
    else if viewBad cb then .error (s, { cause := cTYPED, taddr := cb.voff, lanes := 1 })
    else
      let q : MItem := { op := op, acc := c.toNat, ti := i.toNat, tj := j.toNat, ca := ca, cb := cb, nmode := I.crew.nmode }
      I.scalesOk s q.blocks (I.enqueueMx s q)

/-- `MMA` (R442). -/
def execMma (c i j : BitVec 7) (s : State) : Host.Outcome State Fault Refusal :=
  runInstr (.mma c i j) s fun I => I.mul s .mma c i j

/-- `MMAS` (R443). -/
def execMmas (c i j : BitVec 7) (s : State) : Host.Outcome State Fault Refusal :=
  runInstr (.mmas c i j) s fun I => I.mul s .mmas c i j

/-- `MMAQ` (R442). -/
def execMmaq (c i j : BitVec 7) (s : State) : Host.Outcome State Fault Refusal :=
  runInstr (.mmaq c i j) s fun I => I.mul s .mmaq c i j

/-- `MZERO` (R445). -/
def execMzero (c : BitVec 7) (s : State) : Host.Outcome State Fault Refusal :=
  runInstr (.mzero c) s fun I => I.queueRoom s (I.enqueueMx s { op := .mzero, acc := c.toNat })

/-- A format word that a drain refuses: malformed, without its role, or ELEM above 6 (R447). -/
def drainFmtBad (f role : Nat) : Bool := fmtMalformed f || !fmtRole f role || decide (6 < fmtElem f)

/-- An offset of a drain that is off 64 bytes, or whose region passes the stage (R447). -/
def drainRegionBad (off rows bytes : Nat) : Bool :=
  off % 64 != 0 || decide (activSize < off + (rows - 1) * stride64 bytes + bytes)

/-- `MDRN` (R448). -/
def execMdrn (c a b : BitVec 7) (s : State) : Host.Outcome State Fault Refusal :=
  runInstr (.mdrn c a b) s fun I =>
    I.queueRoom s <|
      let q : MItem := { op := .mdrn, acc := c.toNat, off := I.val a 0, drain := (List.range 9).map fun k => I.val b k, nmode := I.crew.nmode }
      if decide (2 ^ 15 ≤ q.dr 0) || drainFmtBad (q.dr 1) 3 || (q.dRes && drainFmtBad (q.dr 2) 2)
          || (q.dDrop && decide (2 ^ 24 < q.dr 5)) then .error (s, illegalT)
      else
        let regions := [(q.off, drainBytes (fmtElem (q.dr 1)) q.dCols, 1)]
          ++ (if q.dRes then [(q.dr 3, drainBytes (fmtElem (q.dr 2)) q.dCols, 0)] else [])
          ++ (if q.dEf then [(q.dr 4, 4 * q.dCols, 1)] else [])
        match regions.find? (fun (o, n, _) => drainRegionBad o q.dRows n) with
        | some (o, _, w) => .error (s, { cause := cTYPED, detail := w, taddr := o, lanes := 1 })
        | none => I.scalesOk s q.blocks (I.enqueueMx s q)

/-- An instruction that names an accumulator is queued (R434). -/
def MItem.namesAcc (q : MItem) (k : Nat) : Bool := q.acc == k

/-- `MLOAD` (R446). -/
def execMload (c a : BitVec 7) (s : State) : Host.Outcome State Fault Refusal :=
  runInstr (.mload c a) s fun I =>
    if (s.mx I.cluster).queue.any fun q => q.namesAcc c.toNat then .ok (I.stall s .matrix)
    else
      let va := I.warp.operand64 a
      let rs := (List.range 64).filter fun r => I.startItem ≤ r
      let (s1, r) := ctlItems I { n := 512, align := 64 } (fun i => (va + 512 * i) % 2 ^ 64) (fun s i x =>
        let (s, bs) := s.loadSeen I.crew.core x.va x.e x.e2 false 512
        s.updMx I.cluster fun m => (List.range 64).foldl (fun m j =>
          let k := 4096 * c.toNat + 64 * i + j
          (m.setEntry k (leNat ((bs.drop (8 * j)).take 7))).setEntryPoison k false) m) s rs
      I.endLong s1 none r I id

/-! ### Waits and fences (R450, R455, R456) -/

/-- `MWAIT` of a class, or `MFENCE` (4): a poisoned drain that completed before is reported first. (DEDUCED, log 43) -/
def Iss.mwait (I : Iss) (s : State) (cls : Nat) : Eff :=
  let s := s.settleStack (stackOf I.cluster)
  if 2 ≤ cls && (s.mx I.cluster).drainPoison ≠ 0 then
    .error (s.updMx I.cluster fun m => { m with drainPoison := m.drainPoison - 1 }, { cause := cPOISON, lanes := 1 })
  else .ok (((I.retire 4).park s (.mwait cls)).wakeMatrix I.cluster)

/-- `MWAIT` (R455). -/
def execMwait (l : BitVec 7) (s : State) : Host.Outcome State Fault Refusal :=
  runInstr (.mwait l) s fun I => I.mwait s l.toNat

/-- `MFENCE` (R456). -/
def execMfence (s : State) : Host.Outcome State Fault Refusal :=
  runInstr .mfence s fun I => (I.endFences I.warp.m0).mwait s 4

/-! ### Scales and codebooks (R451-R454) -/

/-- `SCPL` (R451). -/
def execScpl (a b : BitVec 7) (s : State) : Host.Outcome State Fault Refusal :=
  runInstr (.scpl a b) s fun I =>
    let id := I.val b 0
    if 2 ^ 12 ≤ id then .error (s, illegalT)
    else if (s.mx I.cluster).queue.any fun q => q.usesId id then .ok (I.stall s .matrix)
    else
      .ok ((I.retire 4).put (s.updMx I.cluster fun m => { m with
        scBase := m.scBase.set id (I.warp.operand64 a), scMiss := m.scMiss.del id,
        scCache := m.scCache.filter fun l => l.id != id }))

/-- `SCINV` (R453). -/
def execScinv (a : BitVec 7) (s : State) : Host.Outcome State Fault Refusal :=
  runInstr (.scinv a) s fun I =>
    let v := I.val a 0
    let all : Bool := bits v 12 1 == 1
    if 2 ^ 13 ≤ v then .error (s, illegalT)
    else if (s.mx I.cluster).queue.any fun q => if all then q.blocks != [] else q.usesId (v % 4096) then .ok (I.stall s .matrix)
    else
      .ok ((I.retire 4).put (s.updMx I.cluster fun m => { m with
        scCache := if all then [] else m.scCache.filter fun l => l.id != v % 4096 }))

/-- `SCQ` (R453). -/
def execScq (d a : BitVec 7) (s : State) : Host.Outcome State Fault Refusal :=
  runInstr (.scq d a) s fun I =>
    let id := I.val a 0
    if 2 ^ 12 ≤ id then .error (s, illegalT)
    else
      let m := s.mx I.cluster
      .ok (I.whole s none d ((if (m.scBase.find id).isSome then 1 else 0)
        + 2 ^ 8 * (m.scCache.filter fun l => l.id == id).length + 2 ^ 16 * m.scMiss.get 0 id))

/-- `CBLD` (R454). -/
def execCbld (c a : BitVec 7) (s : State) : Host.Outcome State Fault Refusal :=
  runInstr (.cbld c a) s fun I =>
    if (s.mx I.cluster).queue.any fun q => q.usesBook c.toNat then .ok (I.stall s .matrix)
    else
      I.needAll s [(I.warp.operand64 a, { n := 1024, align := 64 })] fun l =>
        let (s1, vs) := s.loadAll I.crew.core (l.map fun x => (x, 1024))
        .ok ((I.retire 4).put (s1.updMx I.cluster fun m => { m with cbooks := m.cbooks.write (1024 * c.toNat) (vs.headD []) }))

/-! ### Cooperation groups (R458) -/

/-- Every member waits at the same descriptor: the operation completes at all of them. (DEDUCED, log 45) -/
def State.coopDone (s : State) (cl first size desc : Nat) : State :=
  let mem := (List.range (size + 1)).map fun i => 16 * dieOf cl + first + i
  if mem.all fun k => (s.mx k).coopAt == some desc then
    mem.foldl (fun s k =>
      let s := s.updMx k fun m => { m with
        coopAt := none,
        coop := match desc % 4 with | 0 => some (first, size) | 2 => none | _ => m.coop }
      let s := if desc % 4 = 0 then s else s.acquireHead (320 + k)
      s.wakeCtl k fun w => w == .coop) s
  else s

/-- `MCOOP` (R458). -/
def execMcoop (a : BitVec 7) (s : State) : Host.Outcome State Fault Refusal :=
  runInstr (.mcoop a) s fun I =>
    let v := I.val a 0
    let cl := I.cluster
    let c := cl % 16
    let op := v % 4
    let first := bits v 2 4
    let size := bits v 6 4
    let mem := (List.range (size + 1)).map fun i => 16 * dieOf cl + first + i
    if op = 3 || decide (2 ^ 10 ≤ v) || decide (c < first) || decide (first + size < c) || decide (15 < first + size) then
      .error (s, illegalT)
    else if op = 0 then
      if (s.mx cl).coop.isSome
          || mem.any (fun k => k != cl && ((match (s.mx k).coopAt with | some d => d % 4 == 0 && d != v | none => false)
              || (match (s.mx k).coop with | some g => g != (first, size) | none => false))) then .error (s, illegalT)
      else if mem.any (fun k => match (s.cluster k).owner with | some o => o != I.crew.ctx | none => false) then
        .error (s, { cause := cPROTECT, lanes := 1 })
      else
        let s1 := s.updMx cl fun m => { m with coopAt := some v }
        .ok (((I.retire 4).park s1 .coop).coopDone cl first size v)
    else if (s.mx cl).coop ≠ some (first, size) then .error (s, illegalT)
    else
      let s := s.settleStack (stackOf cl)
      if !s.classDone cl 0 then .ok (I.stall s .matrix)
      else
        let (s0, _) := s.release I.crew.core none scDie
        let s1 := s0.updMx cl fun m => { m with coopAt := some v }
        .ok ((((I.endFences I.warp.m0).retire 4).park s1 .coop).coopDone cl first size v)

end Sys2Proof.Machine
end

