-- ==== Sys2Proof/Machine/System.lean ====
section
/-! DEFINITION. Control registers, beats and targets, submission and cancellation, and meeting the control core: the rest of
majors 0x07-0x0A (R89-R93, R132-R136, R141, R150-R152, R173, R174, R181, R329, R330, R350-R360). -/

namespace Sys2Proof.Machine

/-! ### Queues by their local numbers (R65) -/

/-- The device queue that is local queue `q` of a function (R65). -/
def State.queueNo (s : State) (f q : Nat) : Option Nat :=
  if s.queues.all (fun x => x.2.func == 0) then (if f = 0 ∧ q < 4096 then some q else none)
  else ((List.range 4096).filter fun d => (s.queue d).func == f)[q]?

/-- The local number of a device queue in its function. -/
def State.localNo (s : State) (d : Nat) : Nat :=
  if s.queues.all (fun x => x.2.func == 0) then d
  else ((List.range d).filter fun k => (s.queue k).func == (s.queue d).func).length

/-- The queue that `c.QSEL` names, when it belongs to the issuing context (R136). -/
def Iss.queueSel (I : Iss) (s : State) : Option Nat :=
  match s.queueNo (s.funcOf I.crew.ctx) (bits I.crew.qsel.toNat 0 12) with
  | some d => if (s.queue d).ctx == some I.crew.ctx then some d else none
  | none => none

/-- A context whose resources a scrub job holds (R82), or that has stopped and waits for a job (R83, R84). -/
def State.ctxHeld (s : State) (c : Nat) : Bool :=
  (s.scrubs.any fun (_, j) => j.busy && j.ctx == c) || (!(s.ctx c).resident && s.scrubQueue.any fun q => q.1 == c)
/-- A queue held by a scrub (R66). -/
def State.queueHeld (s : State) (d : Nat) : Bool := match (s.queue d).ctx with | some c => s.ctxHeld c | none => false

/-! ### Position registers (R151, R152) -/

/-- Crews in one member of level `k` of a slate. -/
def Slate.crewsBelow (x : Slate) (k : Nat) : Nat :=
  (List.range k).foldl (fun a j => if x.lanesL ≤ j && x.doms.getD j 0 < 4 then a * x.sizes.getD j 1 else a) 1
/-- Threads in one member of lane level `k`. -/
def Slate.threadsBelow (x : Slate) (k : Nat) : Nat :=
  (List.range k).foldl (fun a j => if j < x.lanesL then a * x.sizes.getD j 1 else a) 1
/-- The lowest level bound to cluster (R171). -/
def Slate.clusterLevel (x : Slate) : Option Nat := (List.range x.nlev).find? fun k => x.doms.getD k 0 == 2

/-- The coordinate at a level of crew index `c`, for a level above the lanes and below package. (DEDUCED, log 50) -/
def Slate.coordOf (x : Slate) (k c : Nat) : Nat := c / x.crewsBelow k % x.sizes.getD k 1
/-- The coordinate at a lane level of a thread. -/
def Slate.laneCoord (x : Slate) (k i : Nat) : Nat := i / x.threadsBelow k % x.sizes.getD k 1

/-- The slate of the issuing crew. -/
def Iss.slate (I : Iss) (s : State) : Slate := s.slates.get {} I.crew.slate

/-- A 32-bit word of the issuing context's memory, as the device reads it. -/
def State.word (s : State) (core ctx va : Nat) : Nat :=
  match s.translate core ctx va with
  | some e => leNat (s.homeRead e.host e.slot (e.addr va) 4)
  | none => 0

/-- What `CRD` of a coordinate gives: a value by lane and a tag. -/
def Iss.coord (I : Iss) (s : State) (k : Nat) : (Nat → Nat) × Tag :=
  let x := I.slate s
  if x.nlev ≤ k then (fun _ => 0, .uni)
  else if 4 ≤ x.doms.getD k 0 then
    let v := s.word I.crew.core I.crew.ctx (x.param + 4 * k)
    (fun _ => v, .uni)
  else if I.ctl then
    let c := I.crew.member * x.crewsBelow (x.clusterLevel.getD k)
    (fun _ => if k ≤ x.lanesL then 0 else x.coordOf k c, .uni)
  else if k < x.lanesL then
    (fun l => x.laneCoord k (I.warp.index l), if x.lanesL = 1 then .aff 0 1 else .gen)
  else (fun _ => x.coordOf k I.crew.crix, .uni)

/-! ### `CRD` (R350) -/

/-- `c.PWRST` (R25). (DEDUCED, log 48) -/
def State.pwrst (s : State) (cl : Nat) : Nat :=
  let p := s.pw cl
  let st := s.stack (stackOf cl)
  p.step + 2 ^ 7 * p.grant + 2 ^ 14 * (decide (p.cap < p.grant) && decide (p.cap ≤ st.cap)).toNat
    + 2 ^ 15 * (decide (st.cap < p.grant) && decide (st.cap ≤ p.cap)).toNat
    + 2 ^ 16 * p.half0.toNat + 2 ^ 17 * p.half1.toNat + 2 ^ 18 * p.cbank.toNat + 2 ^ 19 * st.band

/-- `c.LOOPST` (R115). -/
def Loop.status (l : Loop) : Nat :=
  bits l.demand 0 12 + 2 ^ 12 * bits l.grant 0 12 + 2 ^ 24 * l.clip.toNat + 2 ^ 25 * l.gclip.toNat + 2 ^ 26 * l.hi.toNat
    + 2 ^ 27 * l.lo.toNat + 2 ^ 28 * (l.mode % 4) + 2 ^ 30 * (l.cls % 4)

/-- `c.QINFO` (R135). -/
def State.qinfo (s : State) (d : Nat) : Nat :=
  let q := s.queue d
  bits q.miss 0 16 + 2 ^ 16 * bits q.depth 0 13 + 2 ^ 29 * (s.queueHeld d).toNat

/-- `SCRBPR` of a job (R83). -/
def Scrub.status (j : Scrub) : Nat :=
  j.ctx + 2 ^ 10 * j.phase + 2 ^ 13 * j.busy.toNat + 2 ^ 14 * j.rst.toNat + 2 ^ 16 * min j.units 0xFFFF

/-- The top frame (R181): zeros with none held. -/
def Crew.top (c : Crew) : Frame := c.frames.headD ⟨0, 0, 0, 0, 0, 0, 0, 0, [], 0⟩

/-- The value of a register that reads uniform and whose reading changes nothing. R136 gives what `c.QINFO` reads while `c.QSEL`
names no queue of the context, and not what `c.QSHOTL`, `c.QSHOTH` and `c.QCFG` read then: zero here. (DESIGN CHOICE, log 112) -/
def Iss.crNum (I : Iss) (s : State) (n : Nat) : Nat :=
  let c := I.crew
  let x := I.slate s
  let k := s.ctx c.ctx
  if n = 0x000 then I.nmode.toNat
  else if n = 0x001 then c.flags.toNat
  else if n = 0x002 then c.top.pidx.toNat
  else if n = 0x003 then I.warp.run.wbase.toNat
  else if n = 0x004 then c.qsel.toNat
  else if n = 0x005 then (match I.queueSel s with | some d => (s.queue d).shotL.toNat | none => 0)
  else if n = 0x006 then (match I.queueSel s with | some d => (s.queue d).shotH.toNat | none => 0)
  else if n = 0x007 then (match I.queueSel s with | some d => (s.queue d).nshot | none => 0)
  else if n = 0x008 then (match I.queueSel s with | some d => s.qinfo d | none => 0)
  else if n = 0x009 then s.pwrst I.cluster
  else if n = 0x00A then k.loop.status
  else if n = 0x00C then bits x.param 0 32
  else if n = 0x00D then bits x.param 32 25
  else if n < 0x014 then k.beats.get 0 (n - 0x010)
  else if n < 0x018 then k.beatRate.get 0 (n - 0x014)
  else if n < 0x01C then k.stmiss.get 0 (n - 0x018)
  else if n = 0x021 then (if I.ctl then 0 else c.crix)
  else if n < 0x038 then x.sizes.getD (n - 0x030) 0
  else if n = 0x040 then c.tvec.toNat
  else if n = 0x041 then c.tcfg.toNat
  else if n = 0x042 then c.ten.toNat
  else if n = 0x043 then c.tska.toNat
  else if n = 0x044 then c.frames.length
  else if n = 0x045 then c.top.cause + 2 ^ 8 * bits c.top.detail 0 16
  else if n = 0x046 then 4 * bits c.top.epc.toNat 2 30
  else if n = 0x047 then bits c.top.epc.toNat 32 25
  else if n = 0x048 then bits c.top.taddr 0 32
  else if n = 0x049 then bits c.top.taddr 32 25
  else if n = 0x04A then c.top.lanes.toNat
  else if n = 0x04B then c.top.mask.toNat
  else if n = 0x04C then 0
  else if n < 0x058 then ((s.cluster I.cluster).mbx.get 0 (n - 0x050)).toNat
  else if n < 0x080 then ((s.cluster I.cluster).arv.get 0 (n - 0x060)).toNat
  else if n < 0x084 then x.shapes.getD (n - 0x080) 0
  else if n < 0x200 then (k.gen.get 0 (n - 0x100)).toNat
  else if n < 0x808 then (s.scrubs.get {} (n - 0x800)).status
  else (s.scrubs.get {} (n - 0x810)).remain

/-- Registers that name a place in a crew or slate, which a cue run has none of (R152, R330). -/
def crPlace (n : Nat) : Bool :=
  n == 0x00C || n == 0x00D || (decide (0x020 ≤ n) && decide (n ≤ 0x037)) || (decide (0x080 ≤ n) && decide (n ≤ 0x083))

/-- Registers of a cluster's control core (R173). -/
def crOwned (n : Nat) : Bool := decide (0x050 ≤ n) && decide (n ≤ 0x07F)

/-- A protection fault of an access to what another context's control core owns (R173). (DEDUCED, log 47) -/
def Iss.protect (I : Iss) (s : State) (detail : Nat) : Eff :=
  .error (s, { cause := cPROTECT, detail := detail, lanes := I.warp.m0 })

def Iss.owns (I : Iss) (s : State) : Bool := (s.cluster I.cluster).owner == some I.crew.ctx

/-- The acquire that a read of a register makes: of a mailbox that `RWR` wrote (R174), and of `SCRBPR` in PHASE 5 (R478). -/
def Iss.crAcquire (I : Iss) (s : State) (n : Nat) : State :=
  if 0x050 ≤ n && n < 0x058 then s.acquire I.crew.core ((s.cluster I.cluster).mbxMark.get 0 (n - 0x050))
  else if 0x800 ≤ n && n < 0x808 && (s.scrubs.get {} (n - 0x800)).phase == 5 then s.acquireHead I.crew.core
  else s

/-- `CRD` (R350). -/
def execCrd (d : BitVec 7) (n : BitVec 12) (s : State) : Host.Outcome State Fault Refusal :=
  runInstr (.crd d n) s fun I =>
    let k := n.toNat
    if crOwned k && !I.owns s then I.protect s 0
    else if I.crew.kind == .cue && crPlace k then .ok (I.whole s.nextFree none d (Config.freeNat s.fresh % 2 ^ 32))
    else if k = 0x020 then
      .ok (if I.ctl then I.whole s none d 0 else I.writeD s none d 1 (.aff 0 1) (fun l => I.warp.index l) 0)
    else if 0x028 ≤ k && k < 0x030 then
      let (f, t) := I.coord s (k - 0x028)
      .ok (I.writeD s none d 1 t f 0)
    else
      let v := I.crNum s k
      .ok (I.writeD (I.crAcquire s k) none d (crRegs k) .uni (fun _ => v) 0)

/-! ### `CWR` (R351) -/

/-- The top frame changed; nothing while none is held (R181). -/
def Crew.updTop (c : Crew) (f : Frame → Frame) : Crew :=
  match c.frames with
  | [] => c
  | fr :: rest => { c with frames := f fr :: rest }

/-- A register of the crew, or of a cue warp, written (R278, R282, R135, R181). -/
def Iss.crWrite (I : Iss) (n : Nat) (v : Word) : Iss :=
  let c := I.crew
  let put (c : Crew) : Iss := { I with crew := c }
  if n = 0x000 then (if c.kind == .cue then { I with warp := { I.warp with nmode := v } } else put { c with nmode := v })
  else if n = 0x001 then put { c with flags := v.setWidth 8 }
  else if n = 0x002 then put (c.updTop fun f => { f with pidx := v })
  else if n = 0x004 then put { c with qsel := BitVec.ofNat 32 (bits v.toNat 0 12) }
  else if n = 0x040 then put { c with tvec := v }
  else if n = 0x041 then put { c with tcfg := BitVec.ofNat 32 (bits v.toNat 0 5) }
  else if n = 0x042 then put { c with ten := BitVec.ofNat 32 (bits v.toNat 0 2) }
  else if n = 0x043 then put { c with tska := v }
  else if n = 0x046 then put (c.updTop fun f => { f with
    epc := BitVec.ofNat 57 (f.epc.toNat / 2 ^ 32 * 2 ^ 32 + 4 * bits v.toNat 2 30) })
  else if n = 0x047 then put (c.updTop fun f => { f with epc := BitVec.ofNat 57 (bits v.toNat 0 25 * 2 ^ 32 + bits f.epc.toNat 0 32) })
  else I

/-- `CWR` (R351). -/
def execCwr (a : BitVec 7) (n : BitVec 12) (s : State) : Host.Outcome State Fault Refusal :=
  runInstr (.cwr a n) s fun I =>
    let v := I.warp.operand a
    let k := n.toNat
    if crOwned k && !I.owns s then I.protect s 1
    else if 0x050 ≤ k && k < 0x058 then
      .ok ((I.retire 4).put (s.updCluster I.cluster fun c => { c with mbx := c.mbx.set (k - 0x050) v, mbxMark := c.mbxMark.del (k - 0x050) }))
    else if k = 0x005 || k = 0x006 then
      let s1 := match I.queueSel s with
        | some d => s.updQueue d fun q =>
            if k = 0x005 then { q with shotL := BitVec.ofNat 32 (32 * bits v.toNat 5 27) }
            else { q with shotH := BitVec.ofNat 32 (bits v.toNat 0 25) }
        | none => s
      .ok ((I.retire 4).put s1)
    else
      -- flags that cue runs have set stay in their binding's flag word (R211)
      let s1 := if k = 0x001 && I.crew.kind == .cue then
          s.updBinding I.crew.binding fun b => { b with flags := b.flags ||| I.crew.flags }
        else s
      .ok (((I.crWrite k v).retire 4).put s1)

/-- An entry of a shot list from its 32 bytes (R133). -/
def shotOf (bs : List Byte) : Shot :=
  let h (o n : Nat) : Nat := leNat ((bs.drop o).take n)
  ⟨(List.range 4).map fun k => h (4 * k) 2, (List.range 4).map fun k => h (4 * k + 2) 2, h 16 8, h 24 2⟩

/-- `CWR` of `c.QCFG` latches a shot list (R136). (DEDUCED, log 52) -/
def execCwrQcfg (a : BitVec 7) (s : State) : Host.Outcome State Fault Refusal :=
  runInstr (.cwrQcfg a) s fun I =>
    match I.queueSel s with
    | none => .ok ((I.retire 4).put s)
    | some d =>
      let q := s.queue d
      let raw := bits (I.warp.operand a).toNat 0 7
      let cnt := min raw 64
      let va := q.shotL.toNat + 2 ^ 32 * q.shotH.toNat
      let put (s : State) (bs : List Byte) : Eff :=
        .ok ((I.retire 4).put (s.updQueue d fun q => { q with
          nshot := raw, shots := (List.range cnt).map fun i => shotOf ((bs.drop (32 * i)).take 32) }))
      if cnt = 0 then put s []
      else
        let s := I.drainFor s I.warp.m0
        match s.checkAccess I.crew.core I.crew.ctx va I.warp.badPages { n := 32 * cnt } with
        | .miss v => .ok (I.startWalk s v)
        | .stall w => .ok (I.stall s w)
        | .bad k t =>
          let cause := if k == cACCESS then cPAGE else k
          .error (I.reportAt s k [(va, 32 * cnt)], { cause := cause, taddr := t % 2 ^ 57, lanes := I.warp.m0 })
        | .ok e e2 =>
          let (s1, bs) := s.loadSeen I.crew.core va e e2 false (32 * cnt)
          put s1 bs

/-- `CWR` of `c.TKILL` (R186). -/
def execCwrTkill (a : BitVec 7) (s : State) : Host.Outcome State Fault Refusal :=
  runInstr (.cwrTkill a) s fun I =>
    if (I.warp.operand a).getLsbD 0 then .ok (I.kill s) else .ok ((I.retire 4).put s)

/-! ### Arrival counters and mailboxes (R173, R174, R359, R360) -/

/-- The waits on an arrival counter tested again (R360): a satisfied one ends as an acquire at cluster scope, with the value in
its register. -/
def State.recheckArv (s : State) (cl n : Nat) : State :=
  let c := s.cluster cl
  let v := c.arv.get 0 n
  let mark := c.arvMark.get 0 n
  let sat (wt : Wait) : Bool := match wt with
    | .arrw k tgt _ => k == n && decide ((v - tgt).toNat < 2 ^ 31)
    | _ => false
  let hit (k : Crew) : Bool := clusterOf k.core == cl && k.warps.any fun (_, w) => sat w.run.wait || w.div.any fun d => sat d.wait
  let cores := s.crews.foldl (fun l (_, k) => if hit k then insertNat l k.core else l) []
  let s := cores.foldl (fun s k => s.acquire k mark) s
  { s with crews := s.crews.mapV fun _ k =>
      if !hit k then k else
      { k with warps := k.warps.mapV fun _ w =>
          let ctl := k.kind == .control
          let fill (w : Warp) (sd : Side) : Warp :=
            match sd.wait with
            | .arrw _ _ d =>
              if sat sd.wait then
                let w1 := ({ w with run := { sd with wait := .none } } : Warp).setReg ctl d sd.lanes false .uni (fun _ => v)
                { w1 with run := w.run, div := w.div }
              else w
            | _ => w
          let w1 := (w.run :: w.div).foldl fill w
          let clear (sd : Side) : Side := if sat sd.wait then { sd with wait := .none } else sd
          { w1 with run := clear w.run, div := w.div.map clear } } }

/-- `CWR_ARV` (R360). -/
def execCwrArv (a : BitVec 7) (n : BitVec 5) (s : State) : Host.Outcome State Fault Refusal :=
  runInstr (.cwrArv a n) s fun I =>
    if !I.owns s then I.protect s 1
    else
      let s1 := s.updCluster I.cluster fun c => { c with arv := c.arv.set n.toNat (I.warp.operand a), arvMark := c.arvMark.del n.toNat }
      .ok (((I.retire 4).put s1).recheckArv I.cluster n.toNat)

/-- `ARRW` (R360): the add is made once; a waiting side has its PC past the instruction. -/
def execArrw (d a b : BitVec 7) (n : BitVec 5) (s : State) : Host.Outcome State Fault Refusal :=
  runInstr (.arrw d a b n) s fun I =>
    if !I.owns s then I.protect s 5
    else
      let (s1, mark) := I.releaseFor s I.warp.m0 scCluster
      let c := s1.cluster I.cluster
      let v := c.arv.get 0 n.toNat + I.warp.operand a
      let s2 := s1.updCluster I.cluster fun c => { c with
        arv := c.arv.set n.toNat v, arvMark := c.arvMark.set n.toNat (max mark (c.arvMark.get 0 n.toNat)) }
      let J := I.endFences I.warp.m0
      if b = 0 then .ok ((J.whole s2 none d v.toNat).recheckArv I.cluster n.toNat)
      else .ok (((J.retire 4).park s2 (.arrw n.toNat (I.warp.operand b) d)).recheckArv I.cluster n.toNat)

/-- `RWR` (R359). -/
def execRwr (a n : BitVec 7) (s : State) : Host.Outcome State Fault Refusal :=
  runInstr (.rwr a n) s fun I =>
    if !I.owns s then I.protect s 1
    else
      let (s1, mark) := I.releaseFor s I.warp.m0 scCluster
      .ok (((I.endFences I.warp.m0).retire 4).put (s1.updCluster I.cluster fun c => { c with
        mbx := c.mbx.set n.toNat (I.warp.operand a), mbxMark := c.mbxMark.set n.toNat mark }))

/-! ### Beats and targets (R89, R90, R355, R356) -/

/-- Beats that retired for a context, on their way to its controller (R93). -/
def State.beat (s : State) (ctx ch n : Nat) : State := s.updCtx ctx fun c => { c with beatsOnWay := c.beatsOnWay ++ [(ch, n, s.tick)] }

/-- `BEAT` (R355). -/
def execBeat (a c : BitVec 7) (s : State) : Host.Outcome State Fault Refusal :=
  runInstr (.beat a c) s fun I =>
    let n := (laneList I.warp.m0).foldl (fun t l => t + bits (I.warp.lane a l).toNat 0 16) 0
    .ok ((I.retire 4).put (s.beat I.crew.ctx c.toNat (n % 2 ^ 32)))

/-- `BTGT` (R356). -/
def execBtgt (a m : BitVec 7) (s : State) : Host.Outcome State Fault Refusal :=
  runInstr (.btgt a m) s fun I =>
    .ok ((I.retire 4).put (s.updCtx I.crew.ctx fun c => { c with btgtOnWay := c.btgtOnWay ++ [(I.warp.operand a, m.toNat, s.tick)] }))

/-- `CANCEL` (R141, R358). -/
def execCancel (a : BitVec 7) (s : State) : Host.Outcome State Fault Refusal :=
  runInstr (.cancel a) s fun I =>
    let g := (I.warp.operand a).toNat
    if 255 < g then .error (s, { cause := cILLEGAL, lanes := laneBit (lowest I.warp.m0) })
    else .ok ((I.retire 4).put (s.updCtx I.crew.ctx fun c => { c with gen := c.gen.set g (c.gen.get 0 g + 1) }))

/-! ### `SPAWN` (R132, R357) -/

/-- Whether a slate address can be read by a context (R67, R132). -/
def State.slateReadable (s : State) (core ctx va : Nat) : Bool :=
  va % 64 == 0 && (match s.translate core ctx va with
    | some e => e.r && (s.permits e { n := 64 }).isNone
    | none => false)

/-- `SPAWN` (R132). (DEDUCED, log 20) -/
def execSpawn (d a b : BitVec 7) (s : State) : Host.Outcome State Fault Refusal :=
  runInstr (.spawn d a b) s fun I =>
    let addr (l : Nat) : Nat := I.warp.laneNat a l 2
    let offer := (laneList I.warp.m0).filter fun l => addr l != 0
    if offer = [] then .ok ((I.retire 4).put s)
    else
      let (s1, _) := I.releaseFor s I.warp.m0 scPackage
      let J := I.endFences I.warp.m0
      let om := maskOf fun l => offer.contains l
      let ctx := I.crew.ctx
      let qn := (I.warp.operand b).toNat
      let dq : Option Nat := if 4096 ≤ qn then none else
        match s1.queueNo (s1.funcOf ctx) qn with
        | some k => if (s1.queue k).ctx == some ctx && !s1.queueHeld k then some k else none
        | none => none
      let srcs := I.warp.regsOf a 2 ++ I.warp.regsOf b 1
      let res (s : State) (f : Nat → Nat) : Eff :=
        -- DEDUCED: places that differ leave the register general, also when every source is uniform
        let same := offer.all fun l => f l == f (offer.headD 0)
        let tg := if same then uniOrGen srcs else .gen
        .ok ((({ J with warp := J.warp.setReg J.ctl d om false tg (fun l => BitVec.ofNat 32 (f l)) } : Iss).retire 4).put s)
      match dq with
      | none => res s1 fun _ => 0xFFFFFFFC
      | some k =>
        let bad (l : Nat) : Bool := !s1.slateReadable I.crew.core ctx (addr l)
        if offer.any bad then res s1 fun l => if bad l then 0xFFFFFFFE else 0xFFFFFFFD
        else if (s1.queue k).cap - (s1.queue k).depth < offer.length then res s1 fun _ => 0xFFFFFFFF
        else
          let s2 := s1.updQueue k fun q => { q with depth := q.depth + offer.length, incoming := q.incoming ++ offer.map addr }
          res s2 fun l => offer.findIdx (· == l)

end Sys2Proof.Machine
end

