-- ==== Sys2Proof/Machine/Engine.lean ====
section
/-! DEFINITION. What the engines share: translating, reading and writing memory at its home slices, completion words, and
issuing a command with its reply (R223, R256, R462-R464). -/

namespace Sys2Proof.Machine

/-! ### Engine accesses -/

/-- A part of a range within one 64 KiB granule: its translation, its first address and its length. -/
abbrev Part := TlbEnt × Nat × Nat

/-- The parts of `n` bytes of a context for an engine that reads or writes them, or the cause of the first part that refuses. -/
def State.engParts (s : State) (ctx : Nat) (write : Bool) : Nat → Nat → Nat → Except Nat (List Part)
  | 0, _, n => if n = 0 then .ok [] else .error cPAGE
  | fuel + 1, va, n =>
    if n = 0 then .ok [] else
    if 2 ^ 57 ≤ va then .error cPAGE else
    match s.walk ctx va with
    | .pageFault => .error cPAGE
    | .leaf e =>
      let k := min n (65536 - va % 65536)
      match s.permits e { n := k, write := write } with
      | some c => .error c
      | none =>
        if write && !e.host && s.boundArray (e.addr va) k then .error cACCESS
        else
          match State.engParts s ctx write fuel (va + k) (n - k) with
          | .error c => .error c
          | .ok l => .ok ((e, e.addr va, k) :: l)

/-- The same for a whole range. -/
def State.engRange (s : State) (ctx : Nat) (write : Bool) (va n : Nat) : Except Nat (List Part) :=
  s.engParts ctx write (n / 65536 + 2) va n

/-- Whether a range translates with the access needed. -/
def State.engOk (s : State) (ctx : Nat) (write : Bool) (va n : Nat) : Bool :=
  match s.engRange ctx write va n with
  | .ok _ => true
  | .error _ => false

/-- The bytes of translated parts. -/
def State.partsRead (s : State) (l : List Part) : List Byte := l.flatMap fun (e, pa, n) => s.homeRead e.host e.slot pa n

/-- Bytes written to translated parts. -/
def State.partsWrite (s : State) : List Part → List Byte → State
  | [], _ => s
  | (e, pa, n) :: t, bs => State.partsWrite (s.homeWrite none true e.host e.slot pa (bs.take n)) t (bs.drop n)

/-- The lines of translated parts. -/
def partLines (l : List Part) : List (Bool × Nat) :=
  l.flatMap fun (e, pa, n) => (List.range ((pa + n - 1) / 128 - pa / 128 + 1)).map fun i => (e.host, pa / 128 + i)

/-- The L2 accesses of an engine of a cluster, for the context that issued its command (R108). -/
def State.l2Parts (s : State) (ctx cluster : Nat) (l : List Part) (write : Bool) : State :=
  l.foldl (fun s p => (partLines [p]).foldl (fun s (host, k) => s.l2Access (some ctx) (dieOf cluster) host p.1.slot k write false) s) s

/-- The signature of translated parts (R251). -/
def partsSig (l : List Part) : BitVec 1024 := l.foldl (fun a (_, pa, n) => a ||| sigRange pa n) 0

/-- Poisoned sectors of translated parts (R239), each with its virtual address; `va` is the first. -/
def State.partsPoison (s : State) (va : Nat) : List Part → List (Nat × Nat)
  | [] => []
  | (e, pa, n) :: t =>
    (if e.host then [] else
      (s.mem.poison.filter fun k => decide (k * 32 < pa + n) && decide (pa < k * 32 + 32)).map fun k =>
        (k, (va + (32 * k - pa)) / 32 * 32))
    ++ State.partsPoison s (va + n) t

/-- The owners of the lines of translated parts (R223). -/
def State.partsOwners (s : State) (l : List Part) : List Nat :=
  (partLines l).foldl (fun a (h, k) => (s.mem.dirOf h k).owners.foldl insertNat a) []

/-- The first owned line of translated parts; `seen` names lines whose owners at the access's arrival are done. -/
def State.partsOwned (s : State) (l : List Part) (seen : List BadPage := []) : Option (Bool × Nat × List Nat) :=
  (partLines l).findSome? fun (h, k) => match (s.mem.dirOf h k).owners with
    | [] => none
    | o => if seen.any fun b => b.line == some (h, k) then none else some (h, k, o)

/-- Lines given an owner, behind those they have. -/
def State.own (s : State) (o : Nat) (l : List (Bool × Nat)) : State :=
  l.foldl (fun s (h, k) => s.updMem fun m =>
    let e := m.dirOf h k
    if e.owners.contains o then m else m.setDir h k { e with owners := e.owners ++ [o] }) s

/-- An item no longer owns any line. -/
def State.disown (s : State) (o : Nat) : State :=
  let f (_ : Nat) (e : DirEnt) : DirEnt := { e with owners := e.owners.filter (· != o) }
  s.updMem fun m => { m with dir := m.dir.mapV f, hostDir := m.hostDir.mapV f }

/-- The MARK of lines raised (R253). -/
def State.markLines (s : State) (mark : Nat) (l : List (Bool × Nat)) : State :=
  l.foldl (fun s (h, k) => s.updMem fun m => m.raiseMark h k mark) s

/-- Bytes that an engine writes to report: performed, signed in the log and marked (R256); nothing where the range no longer
translates. -/
def State.engStore (s : State) (ctx va : Nat) (bs : List Byte) : State :=
  match s.engRange ctx true va bs.length with
  | .error _ => s
  | .ok l =>
    let s := (s.partsWrite l bs).logAppend (partsSig l)
    s.markLines s.mem.logSeq (partLines l)

/-- A word at an address in which a load may observe DONE, in its bit 31, acquires the mark of its line at a scope (R256, R287). -/
def State.noteWord (s : State) (ctx va scope : Nat) : State :=
  match s.engRange ctx false (va + 3) 1 with
  | .ok [(e, pa, _)] =>
    s.updMem fun m => { m with doneWords := m.doneWords.set (2 * pa + if e.host then 1 else 0) ((m.dirOf e.host (pa / 128)).mark, scope) }
  | _ => s

/-- A word with DONE that an engine writes: a code and 24 bits, observed at a scope. -/
def State.engWord (s : State) (ctx va code n scope : Nat) : State :=
  (s.engStore ctx va (bytesLE 4 (2 ^ 31 + 2 ^ 24 * code + n % 2 ^ 24))).noteWord ctx va scope

/-- A completion word (0 for none). -/
def State.doneWord (s : State) (ctx va code n : Nat) (scope : Nat := scCluster) : State :=
  if va = 0 then s else s.engWord ctx va code n scope

/-- Whether the owners that hold a side are all done. -/
def State.ownersDone (s : State) (sd : Side) : Bool :=
  match sd.wait with
  | .owned h k o => !((s.mem.dirOf h k).owners.any o.contains)
  | _ => false

/-- A warp notes the lines at which its sides are held no longer; the note stands for no page. -/
def Warp.noteDone (w : Warp) (done : Side → Bool) : Warp :=
  (w.run :: w.div).foldl (fun w sd => match sd.wait with
    | .owned h k _ => if done sd then { w with badPages := ⟨2 ^ 57, 0, some (h, k)⟩ :: w.badPages } else w
    | _ => w) w

/-- Sides that waited for the owners of a line, all of them done, are issued again (R223). -/
def State.wakeOwned (s : State) : State :=
  ({ s with crews := s.crews.mapV fun _ c => { c with warps := c.warps.mapV fun _ w => w.noteDone s.ownersDone } } : State).wake
    (fun _ => true) s.ownersDone

/-- Sides that wait for room in an engine are issued again (R462). -/
def State.wakeEngine (s : State) : State :=
  s.wake (fun _ => true) fun sd => sd.wait == .engine || sd.wait == .submit

/-! ### Issuing a command (R462) -/

/-- What an engine does with a command that it has read. -/
inductive Reply where
  | refuse (w : Nat)
  | accept (s : State) (w : Nat)
  /-- A line that it must read is owned by engine items (R223). -/
  | wait (host : Bool) (line : Nat) (owners : List Nat)
  /-- Its output lies on a page that is migrating (R33). -/
  | stall (page : Nat)

/-- Reply words of R464. -/
abbrev rBADDESC : Nat := 0x40
abbrev rDESCPAGE : Nat := 0x41
abbrev rNOBIND : Nat := 0x42
abbrev rBINDFULL : Nat := 0x43
abbrev rBINDDUP : Nat := 0x44
abbrev rBINDBUSY : Nat := 0x45
abbrev rUNKNOWN : Nat := 0x46
abbrev rNOCTX : Nat := 0x47
abbrev rKEYSLOT : Nat := 0x48
abbrev rSCRUBDUP : Nat := 0x49

/-- A reply with its DETAIL. -/
def replyOk (detail : Nat) : Nat := 256 * (detail % 2 ^ 24)

/-- Unfinished commands of a context in a cluster's copy engine, dolly and grammar slots. -/
def State.copiesOf (s : State) (cl ctx : Nat) : Nat := ((s.cluster cl).copyQ.filter fun k => k / 2 ^ 24 == ctx).length
def State.dolliesOf (s : State) (cl ctx : Nat) : Nat := ((s.cluster cl).dollyQ.filter fun c => c.ctx == ctx).length
def State.grammarsOf (s : State) (cl ctx : Nat) : Nat := ((s.cluster cl).grammarQ.filter fun c => c.ctx == ctx).length

/-- The issuer as a state holds it now: what an engine has done may have ended waits in its crew. -/
def Iss.reread (I : Iss) (s : State) : Iss :=
  match s.crew I.cid with
  | none => I
  | some c => (match c.warps.find I.wid with | none => { I with crew := c } | some w => { I with crew := c, warp := w })

/-- A command issued once for the warp: it waits while its engine has no room; acceptance is a release at package scope by the
issuing threads, made before the engine reads what the command names (R256, R463); a refused command has no effect beyond its
reply. (DEDUCED, log 64) -/
def Iss.command (I : Iss) (s : State) (room : Bool) (v : BitVec 7) (f : State → Reply) : Eff :=
  if !room then .ok (I.stall s .engine)
  else
    match f (I.releaseFor s I.warp.m0 scPackage).1 with
    | .refuse w => .ok (I.whole s none v w)
    | .accept s2 w => .ok (((I.reread s2).endFences I.warp.m0).whole s2 none v w)
    | .wait h k o => .ok (I.stall s (.owned h k o))
    | .stall p => .ok (I.stall s (.migrating p))

/-- A descriptor or list that an engine reads at acceptance: aligned, readable, and held while engine items own a line of it. -/
def State.descr (s : State) (ctx va n align : Nat) (f : List Byte → Reply) : Reply :=
  if va % align ≠ 0 then .refuse rDESCPAGE else
  match s.engRange ctx false va n with
  | .error _ => .refuse rDESCPAGE
  | .ok l =>
    match s.partsOwned l (match s.issuer with | some I => I.warp.badPages | none => []) with
    | some (h, k, o) => .wait h k o
    | none => f (s.partsRead l)

/-- A little-endian field of `n` bytes at an offset. -/
def fieldAt (bs : List Byte) (o n : Nat) : Nat := leNat ((bs.drop o).take n)

/-- The slate that a crew's commands count for; runs of a binding have none. -/
abbrev noSlate : Nat := 0xFFFFFFFF

/-- A command accepted or completed for a slate (R128, R130). -/
def State.cmdUp (s : State) (slate : Nat) : State := s.updSlate slate fun x => { x with cmds := x.cmds + 1 }
def State.cmdDown (s : State) (slate : Nat) : State := s.updSlate slate fun x => { x with cmds := x.cmds - 1 }

/-- A completed engine item is a pulse of its context (R117). -/
def State.pulse (s : State) (ctx : Nat) : State := s.updCtx ctx fun c => { c with pulse := true }

end Sys2Proof.Machine
end

