-- ==== Sys2Proof/Machine/Arbiter.lean ====
section
/-! DEFINITION. Levels 1 and 2 of arbitration, which every dispatcher and every engine runs on its own (R119-R121). -/

namespace Sys2Proof.Machine

/-- Quanta per round of a function (R120). -/
def State.quantaOf (s : State) (f : Nat) : Nat :=
  if f = 0 then 64 - s.funcs.foldl (fun a x => if x.1 = 0 then a else a + x.2.quanta) 0 else (s.func f).quanta

/-- Functions that hold quanta, from the owner of a quantum on in round order (R120). -/
def State.roundFrom (s : State) (quantum : Nat) : List Nat :=
  let fs := (List.range 65).filter fun f => s.quantaOf f != 0
  let owner := (fs.foldl (fun (a : Nat × Option Nat) f =>
    (a.1 + s.quantaOf f, if a.2.isNone && quantum % 64 < a.1 + s.quantaOf f then some f else a.2)) (0, none)).2
  match owner with
  | none => fs
  | some f => fs.filter (fun g => f ≤ g) ++ fs.filter (fun g => g < f)

def State.arb (s : State) (k : Nat) : Arbiter := s.arbiters.get {} k
def State.setArb (s : State) (k : Nat) (a : Arbiter) : State := { s with arbiters := s.arbiters.set k a }

/-- The quantum that an arbiter stands in (R120): each lasts 200 ticks. -/
def State.quantumOf (s : State) (a : Arbiter) : Nat := (a.quantum + (s.tick - a.since) / 200) % 64

/-- The function whose turn it is (R120): the owner of the quantum, or while it has no ready item the next in round order that has one;
`has` says which contexts have one. -/
def State.turnOf (s : State) (a : Arbiter) (has : Nat → Bool) : Option Nat :=
  (s.roundFrom (s.quantumOf a)).find? fun f => s.ctxs.any fun c => c.2.resident && c.2.func == f && has c.1

/-- Resident contexts of a function, those after the one visited last first, it itself last (R121). -/
def State.visitOrder (s : State) (f : Nat) (last : Option Nat) : List Nat :=
  let cs := (s.ctxs.filter fun c => c.2.resident && c.2.func == f).map (·.1)
  match last with
  | none => cs
  | some v => cs.filter (fun c => v < c) ++ cs.filter (fun c => c ≤ v)

/-- Level 2 (R121): the context whose item starts, and the arbiter after that start. `has` says which contexts have a ready item, `can`
which have one that can start now. A context that is visited gets its weight; one found without a ready item loses its deficit; one whose
item cannot start keeps it. (DEDUCED, log 68) -/
def State.level2 (s : State) (a : Arbiter) (f : Nat) (has can : Nat → Bool) : Option (Nat × Arbiter) :=
  let last := a.visit.find f
  let stay := match last with
    | some v => if decide (1 ≤ a.def'.get 0 v) && (s.ctx v).func == f && (s.ctx v).resident && can v then some v else none
    | none => none
  match stay with
  | some v => some (v, { a with def' := a.def'.set v (a.def'.get 0 v - 1) })
  | none =>
    let order := s.visitOrder f last
    match order.find? can with
    | none => none
    | some v =>
      let visit (t : Tbl Nat) (c : Nat) : Tbl Nat :=
        t.set c (if has c then min 255 (t.get 0 c + max 1 (s.ctx c).loop.weight) else 0)
      let def0 := match last with | some u => if has u then a.def' else a.def'.set u 0 | none => a.def'
      let def1 := visit ((order.takeWhile fun c => !can c).foldl visit def0) v
      some (v, { a with visit := a.visit.set f v, def' := def1.set v (def1.get 0 v - 1) })

/-- Levels 1 and 2 together. -/
def State.arbitrate (s : State) (a : Arbiter) (has can : Nat → Bool) : Option (Nat × Arbiter) :=
  match s.turnOf a has with
  | none => none
  | some f => s.level2 a f has can

/-- QUANTUM_END at arbiter `unit` (R120): its quantum passes. -/
def execQuantumEnd (s : State) : Host.Outcome State Fault Refusal :=
  let a := s.arb s.inp.unit
  let n := (s.tick - a.since) / 200 + 1
  .next ((s.untilTick (a.since + 200 * n)).setArb s.inp.unit { a with quantum := (a.quantum + n) % 64, since := a.since + 200 * n })

/-- A context has a command that has not started in a cluster's grammar slots. -/
def State.slotWaits (s : State) (cl ctx : Nat) : Bool := (s.cluster cl).grammarQ.any fun c => c.ctx == ctx && !c.started

/-- The engines of a cluster have power: its supply is not cut by a thermal trip (R31) or a fence (R35). -/
def State.railsOn (s : State) (cl : Nat) : Bool := !s.power.tripped && !(s.pw cl).fenced

/-- The arbiters of a cluster's engines: copy engine, dolly, grammar slots. -/
def copyArb (cl : Nat) : Nat := 16 + cl
def dollyArb (cl : Nat) : Nat := 64 + cl
def slotsArb (cl : Nat) : Nat := 128 + cl

end Sys2Proof.Machine
end

