-- ==== Sys2Proof/Machine/Dolly.lean ====
section
/-! DEFINITION. The dolly: binding tensors, passes, wakes, packing cue runs, and the cue-mode instructions
(R193-R211, R471, R475, R493-R495, R502). -/

namespace Sys2Proof.Machine

/-! ### Bindings (R193, R194) -/

/-- Whether the 64 bytes of a descriptor break R193. -/
def descrBad (bs : List Byte) : Bool :=
  let f := fieldAt bs
  let lg := f 36 1
  decide (6 < lg) || f 0 8 % 2 ^ (lg % 8) != 0 || decide (2 ^ 57 ≤ f 0 8)
    || f 8 8 % 64 != 0 || f 16 8 % 64 != 0 || f 24 8 % 64 != 0
    || f 32 4 == 0 || decide (2 ^ 30 < f 32 4) || decide (1 < f 37 1)
    || f 38 1 == 0 || decide (10 < f 38 1) || f 39 1 != 0 || f 40 8 % 4 != 0 || f 56 8 != 0

/-- The binding that a descriptor describes; its cursor stands past the last block. -/
def bindingOf (ctx : Nat) (bs : List Byte) : Binding :=
  let f := fieldAt bs
  let n := f 32 4
  { ctx := ctx, dbase := f 0 8, cbase := f 8 8, sbase := f 16 8, ubase := f 24 8, nelem := n, esize := f 36 1,
    stw := f 37 1 == 1, ncore := f 38 1, cue := f 40 8, cparm := f 48 8, cursor := (n + 255) / 256 }

/-- Whether an array lies on pages that the context reads and writes, in package DRAM unless it may be anywhere (R194). -/
def State.arrayOk (s : State) (ctx : Nat) (anywhere : Bool) (va n : Nat) : Bool :=
  match s.engRange ctx false va n with
  | .error _ => false
  | .ok l => l.all fun p => p.1.w && (anywhere || !p.1.host)

/-- SBASE is in use by a binding in force: on a dolly, or of a saved context (R194). -/
def State.sbaseUsed (s : State) (sb : Nat) : Bool :=
  s.bindings.any (fun x => x.2.sbase == sb)
    || s.savedRecords.any fun (_, r) => r.bindings.any fun x => x.2.sbase == sb

/-- The binding of the issuing context at a number of its cluster's dolly, with its key and the state in which it stands there. One that
stays in force on a fenced cluster goes over to the cluster that uses it, under its number (R210). (DESIGN CHOICE, log 58) -/
def Iss.binding (I : Iss) (s : State) (n : Nat) : Option (State × Nat × Binding) :=
  let key := bindKey I.cluster n
  if 4 ≤ n then none else
  match s.bindings.find key with
  | some b => if b.ctx = I.crew.ctx then some (s, key, b) else none
  | none =>
    (s.bindings.find? fun x => x.1 % 4 == n && x.2.ctx == I.crew.ctx && (s.pw (x.1 / 4)).fenced).map fun (old, b) =>
      ({ s with bindings := (s.bindings.del old).set key b }, key, b)

/-- Dolly commands of a cluster that satisfy a test complete and leave it. -/
def State.dollyDone (s : State) (cl : Nat) (p : DollyCmd → Bool) : State :=
  let gone := (s.cluster cl).dollyQ.filter p
  let s := s.updCluster cl fun c => { c with dollyQ := c.dollyQ.filter fun x => !p x }
  (gone.foldl (fun s c => (s.cmdDown c.slate).pulse c.ctx) s).wakeEngine

/-- Every accepted wake of a binding takes effect (R204). -/
def State.flushWakes (s : State) (key : Nat) : State :=
  match s.bindings.find key with
  | none => s
  | some b =>
    let mine (c : DollyCmd) : Bool := c.num == key % 4 && c.ctx == b.ctx && (match c.work with | .wake _ => true | .pass => false)
    let s := ((s.cluster (key / 4)).dollyQ.filter mine).foldl (fun s c =>
      match c.work with
      | .wake l => l.foldl (fun s e => s.wakeElem b e) s
      | .pass => s) s
    s.dollyDone (key / 4) mine

/-- Binding a tensor (R471). (DESIGN CHOICE, log 58) -/
def Iss.bind (I : Iss) (s : State) (va : Nat) : Reply :=
  s.descr I.crew.ctx va 64 64 fun bs =>
    if descrBad bs then .refuse rBADDESC else
    let b := bindingOf I.crew.ctx bs
    if !(s.arrayOk b.ctx true b.dbase (b.nelem * 2 ^ b.esize) && s.arrayOk b.ctx false b.cbase (8 * b.nelem)
        && s.arrayOk b.ctx false b.sbase b.skipLen && s.arrayOk b.ctx false b.ubase b.sumLen) then .refuse rDESCPAGE
    else if s.sbaseUsed b.sbase then .refuse rBINDDUP
    else
      match (List.range 4).find? fun n => (s.bindings.find (bindKey I.cluster n)).isNone with
      | none => .refuse rBINDFULL
      | some n => .accept { s with bindings := s.bindings.set (bindKey I.cluster n) b } (replyOk n)

/-- Ending a binding (R471). -/
def Iss.unbind (I : Iss) (s : State) (n : Nat) : Reply :=
  match I.binding s n with
  | none => .refuse rNOBIND
  | some (s, key, b) =>
    if b.running.isSome || b.queued ≠ [] then .refuse rBINDBUSY
    else
      let s := s.flushWakes key
      .accept { s with bindings := s.bindings.del key } (replyOk 0)

/-- `SW.BIND` by its second operand: field 0 binds, and so does a register with UNBIND 0. -/
def Iss.swBind (I : Iss) (s : State) (v b : BitVec 7) (va : Nat) (aUsed : Bool) : Eff :=
  let w := (I.warp.operand b).toNat
  let room := decide (s.dolliesOf I.cluster I.crew.ctx < 64)
  if b ≠ 0 && bits w 0 1 = 1 && aUsed then .error (s, illegalT)
  else I.command s room v fun s =>
    if b ≠ 0 && bits w 3 29 ≠ 0 then .refuse rBADDESC
    else if b ≠ 0 && bits w 0 1 = 1 then I.unbind s (bits w 1 2)
    else I.bind s va

/-- `SW_BIND` (R471). -/
def execSwBind (v a b : BitVec 7) (s : State) : Host.Outcome State Fault Refusal :=
  runInstr (.swBind v a b) s fun I => I.swBind s v b (I.warp.operand64 a) (a ≠ 0)

/-- `SW_UNBIND` (R471). -/
def execSwUnbind (v b : BitVec 7) (s : State) : Host.Outcome State Fault Refusal :=
  runInstr (.swUnbind v b) s fun I => I.swBind s v b 0 false

/-! ### Commands on a binding (R471) -/

/-- The address of a pass's completion word when it has none. -/
abbrev noWord : Nat := 2 ^ 64

/-- Whether a word that a command names can be written. -/
def State.wordOk (s : State) (ctx va n align : Nat) : Bool := va % align == 0 && s.engOk ctx true va n

/-- `SW_PASS` (R471). -/
def execSwPass (v a b : BitVec 7) (s : State) : Host.Outcome State Fault Refusal :=
  runInstr (.swPass v a b) s fun I =>
    I.command s (decide (s.dolliesOf I.cluster I.crew.ctx < 64)) v fun s =>
      match I.binding s (I.warp.operand a).toNat with
      | none => .refuse rNOBIND
      | some (s, key, bd) =>
        let word := if b = 0 then noWord else I.warp.operand64 b
        if b ≠ 0 && !s.wordOk I.crew.ctx word 4 4 then .refuse rDESCPAGE
        else
          let p := (bd.assigned + 1) % 2 ^ 32
          let s := s.updBinding key fun x => { x with assigned := p, queued := x.queued ++ [(p, word, I.crew.slate)] }
          let s := s.updCluster I.cluster fun c => { c with dollyQ := c.dollyQ ++ [⟨I.crew.ctx, key % 4, I.crew.slate, .pass, false⟩] }
          .accept (s.cmdUp I.crew.slate) (replyOk p)

/-- `SW_WAKE` (R471). -/
def execSwWake (v a b : BitVec 7) (s : State) : Host.Outcome State Fault Refusal :=
  runInstr (.swWake v a b) s fun I =>
    I.command s (decide (s.dolliesOf I.cluster I.crew.ctx < 64)) v fun s =>
      let w := (I.warp.operand a).toNat
      let n := bits w 8 13
      if bits w 2 6 ≠ 0 || bits w 21 11 ≠ 0 || n = 0 || 4096 < n then .refuse rBADDESC
      else
        match I.binding s (bits w 0 2) with
        | none => .refuse rNOBIND
        | some (s, key, bd) =>
          s.descr I.crew.ctx (I.warp.operand64 b) (4 * n) 4 fun bs =>
            let idx := (List.range n).map fun i => fieldAt bs (4 * i) 4
            let good := idx.filter (· < bd.nelem)
            if good = [] then .accept s (replyOk n)
            else
              let s := s.updCluster I.cluster fun c => { c with
                dollyQ := c.dollyQ ++ [⟨I.crew.ctx, key % 4, I.crew.slate, .wake good, false⟩] }
              .accept (s.cmdUp I.crew.slate) (replyOk (n - good.length))

/-- Flags of a binding with those that its cue crews hold (R211). -/
def State.bindFlags (s : State) (key : Nat) (b : Binding) : Flags :=
  s.crews.foldl (fun f (_, c) => if c.kind == .cue && c.binding == key then f ||| c.flags else f) b.flags

/-- CURSOR as a binding reports it (R211). -/
def Binding.cursorNow (b : Binding) : Nat := if b.running.isSome then b.cursor else b.blocks

/-- The 60 bytes of an `SW.STAT` record before its completion word: the counters of R211; the manual states nothing of the
bytes after them. -/
def State.statRecord (s : State) (key : Nat) (b : Binding) : List Byte :=
  let w (x : Nat) : List Byte := bytesLE 4 x
  w b.pass ++ w b.cursorNow ++ w b.runs ++ w b.faults ++ w b.fidx ++ w b.fcause ++ w b.failed ++ w (s.bindFlags key b).toNat
    ++ (List.range 28).map fun i => Config.freeByte (s.fresh + i)

/-- `SW_STAT` (R471). -/
def execSwStat (v a b : BitVec 7) (s : State) : Host.Outcome State Fault Refusal :=
  runInstr (.swStat v a b) s fun I =>
    I.command s (decide (s.dolliesOf I.cluster I.crew.ctx < 64)) v fun s =>
      match I.binding s (I.warp.operand a).toNat with
      | none => .refuse rNOBIND
      | some (s, key, bd) =>
        let va := I.warp.operand64 b
        if b ≠ 0 && !s.wordOk I.crew.ctx va 64 64 then .refuse rDESCPAGE
        else
          -- a pass shown as ended: an acquire of its release
          let s := s.acquire I.crew.core bd.endMark
          let s := if b = 0 then s else
            let rec' := s.statRecord key bd
            let s : State := { s with fresh := s.fresh + 28 }
            (s.engStore I.crew.ctx va rec').engWord I.crew.ctx (va + 60) 0 bd.pass scCluster
          .accept s (2 ^ 8 * bd.running.isSome.toNat + 2 ^ 9 * (bd.queued ≠ [] : Bool).toNat + 2 ^ 10 * bits bd.cursorNow 0 22)

/-! ### Cue crews and packing (R199, R200) -/

/-- The cores of a context in a cluster that are not being withdrawn, ascending; a context that is being saved has none. -/
def State.coresOn (s : State) (ctx cl : Nat) : List Nat :=
  (s.ctx ctx).cores.filter fun k => k / 10 == cl && ((s.ctx ctx).leaving.find k).isNone

/-- The cores that run a binding's cue warps now (R200). -/
def State.cueCores (s : State) (key : Nat) (b : Binding) : List Nat := (s.coresOn b.ctx (key / 4)).take b.ncore

/-- The cue crew of a binding on a core. -/
def State.cueCrew (s : State) (key core : Nat) : Option Nat :=
  (s.crews.find? fun x => x.2.kind == .cue && x.2.binding == key && x.2.core == core).map (·.1)

/-- The cue crew of a binding on a core, made when there is none. -/
def State.needCueCrew (s : State) (key core ctx : Nat) : State × Nat :=
  match s.cueCrew key core with
  | some k => (s, k)
  | none =>
    let c : Crew := { kind := .cue, ctx := ctx, slate := noSlate, core := core, n := 0, binding := key }
    ({ s.setCrew s.nextCrew c with nextCrew := s.nextCrew + 1 }, s.nextCrew)

/-- A latched element as it enters a bin: `v1` holds DATA with a general tag (R199). -/
def cueFiled (e w : Nat) : Filed :=
  ⟨e, 0, [], [(1, .general [])], [(1, BitVec.ofNat 32 (ctxData w))]⟩

/-- The j-th latched element of a packing put into a bin: 32 elements to a core's quadrant in turn, over the cores and then
the quadrants. -/
def State.packElem (s : State) (key : Nat) (b : Binding) (cs : List Nat) (j e w : Nat) : State :=
  let core := cs.getD (j / 32 % cs.length) 0
  let q := j / (32 * cs.length) % 4
  let (s, cid) := s.needCueCrew key core b.ctx
  let bk : BinKey := ⟨BitVec.ofNat 57 (b.cue + 4 * ctxCuepc w), 0, 0⟩
  s.file cid q [(bk, cueFiled e w)]

/-- Saved cue warps resume and latched elements are packed, on the cores that the context holds now (R199, R200, R209): the
cores whose wakes the runs answer make their releases and the cue cores acquire (R204). (DESIGN CHOICE, log 65) -/
def State.pack (s : State) (key : Nat) : State :=
  match s.bindings.find key with
  | none => s
  | some b =>
    let cs := s.cueCores key b
    if cs = [] || (b.latched = [] && b.saved = []) then s
    else
      let s := b.wakers.foldl (fun s k => s.releaseAll k) s
      let s := cs.foldl (fun s k => s.acquireHead k) s
      let s := b.saved.zipIdx.foldl (fun s (w, i) =>
        let (s, cid) := s.needCueCrew key (cs.getD (i % cs.length) 0) b.ctx
        s.updCrew cid fun c => { c with warps := c.warps.set c.nextWid { w with quad := i / cs.length % 4 }, nextWid := c.nextWid + 1 }) s
      let s := b.latched.zipIdx.foldl (fun s ((e, w), j) => s.packElem key b cs j e w) s
      s.updBinding key fun b => { b with latched := [], saved := [], wakers := [] }

/-- A crew leaves the table. -/
def State.dropCrew (s : State) (cid : Nat) : State :=
  let s : State := match s.crew cid with
    | some c => if c.hold = [] then s else
        s.updCore c.core fun k => { k with holdOrder := k.holdOrder.mapV fun _ l => l.filter (· != cid) }
    | none => s
  let s := match s.crew cid with | some c => s.crewLeft c.core | none => s
  { s with crews := s.crews.del cid, cur := match s.cur with | some (k, _) => if k = cid then none else s.cur | none => none }

/-- A warp as it is saved: nothing in it waits. -/
def Warp.rested (w : Warp) : Warp :=
  let f (sd : Side) : Side := { sd with wait := .none }
  { w with run := f w.run, div := w.div.map f, badPages := [], spadOut := 0, spadBusy := false, skipTurn := false }

/-- A bound element put in ascending order. -/
def insertElem (x : Nat × Nat) : List (Nat × Nat) → List (Nat × Nat)
  | [] => [x]
  | y :: t => if x.1 ≤ y.1 then x :: y :: t else y :: insertElem x t

/-- The cue warps of a binding on some cores are saved, and elements not yet in a warp return to the latch list (R209). -/
def State.stowCue (s : State) (key : Nat) (on : Nat → Bool) : State :=
  (s.crews.filter fun x => x.2.kind == .cue && x.2.binding == key && on x.2.core).foldl (fun s (cid, c) =>
    let s := s.releaseAll c.core
    let back := c.bins.flatMap (fun (_, b) => b.threads.map (·.thread)) ++ c.hold.flatMap (fun (_, h) => h.map (·.2.thread))
    let s := s.updBinding key fun b => { b with
      saved := b.saved ++ c.warps.map (fun x => x.2.rested), flags := b.flags ||| c.flags,
      latched := back.foldl (fun l e => insertElem (e, b.live.get 0 e) l) b.latched }
    s.dropCrew cid) s

/-! ### Passes (R198, R206, R208) -/

/-- A pass's completion word (R471). -/
def State.passWord (s : State) (ctx word code p : Nat) : State :=
  if word = noWord then s else s.engWord ctx word code p scPackage

/-- The first pass command of a binding that has not completed leaves the dolly's queue. -/
def State.passGone (s : State) (key ctx : Nat) : State :=
  let mine (c : DollyCmd) : Bool := c.num == key % 4 && c.ctx == ctx && c.work == .pass
  let q := (s.cluster (key / 4)).dollyQ
  match q.findIdx? mine with
  | none => s
  | some i =>
    let s := match q[i]? with | some c => (s.cmdDown c.slate).pulse ctx | none => s
    (s.updCluster (key / 4) fun c => { c with dollyQ := c.dollyQ.eraseIdx i }).wakeEngine

/-- A running pass ends (R208): the release at package scope of its cue stores and write-backs, then its completion word. -/
def State.endPass (s : State) (key code : Nat) : State :=
  match s.bindings.find key with
  | none => s
  | some b =>
    match b.running with
    | none => s
    | some (p, word, _) =>
      let crews := s.crews.filter fun x => x.2.kind == .cue && x.2.binding == key
      let s := (s.coresOn b.ctx (key / 4)).foldl (fun s k => s.releaseAll k) s
      let s := s.updBinding key fun x => { x with flags := s.bindFlags key x }
      let s := crews.foldl (fun s (cid, _) => s.dropCrew cid) s
      let s := s.logAppend b.sig
      let s := s.updBinding key fun x => { x with running := none, sig := 0, endMark := s.mem.logSeq, cursor := x.blocks }
      (s.passWord b.ctx word code p).passGone key b.ctx

/-- Whether a dolly command may go on to its work: it has started, and no earlier `SW.WAKE` of its binding is under way (R494). -/
def wakePending (q : List DollyCmd) (i : Nat) (c : DollyCmd) : Bool :=
  (q.take i).any fun x => x.num == c.num && x.ctx == c.ctx && (match x.work with | .wake _ => true | .pass => false)

/-- The pass command of a cluster that can start now, with its binding's key. -/
def State.passReady (s : State) (cl : Nat) : Option Nat :=
  let q := (s.cluster cl).dollyQ
  (q.zipIdx.find? fun (c, i) =>
    c.started && c.work == .pass && !wakePending q i c
      && s.railsOn cl && (match s.bindings.find (bindKey cl c.num) with
          | some b => b.ctx == c.ctx && b.running.isNone && b.queued != []
          | none => false)).map fun (c, _) => bindKey cl c.num

/-- PASS_START on the cluster of the input: the pass takes its number and acquires at package scope (R198, R208). -/
def State.passStart (s : State) (cl : Nat) : State :=
  match s.passReady cl with
  | none => s
  | some key =>
    match s.bindings.find key with
    | none => s
    | some b =>
      match b.queued with
      | [] => s
      | x :: rest =>
        let s := s.updBinding key fun y => { y with
          pass := x.1, running := some x, queued := rest, cursor := 0, runs := 0, sig := 0 }
        (s.coresOn b.ctx cl).foldl (fun s k => s.acquireHead k) s

/-- `PASS_START` (R198). -/
def execPassStart (s : State) : Host.Outcome State Fault Refusal := .next (s.passStart s.inp.unit)

/-- An element is latched (R196, R198, R502): it faults, runs, or is left as it is. -/
def State.latchElem (s : State) (key e : Nat) (woken : Bool) : State :=
  match s.bindings.find key with
  | none => s
  | some b =>
    let s := s.dollyLine key b (b.cbase + 8 * e) false
    let w := s.context b e
    let wt := ctxWait w
    if ctxFlt w then s
    else if 4 ≤ wt || bits w 29 3 ≠ 0 then
      (s.putContext key b e (ctxWord (ctxCuepc w) 3 (ctxArg w) true (bits w 29 3) (ctxData w))).updBinding key
        fun b => b.countFault e cILLEGAL
    else if wt = 0 || (wt = 1 && woken) || (wt = 2 && (woken || b.pass % 256 == ctxArg w)) then
      s.updBinding key fun b => { b with latched := b.latched ++ [(e, w)], live := b.live.set e w, runs := sat32 b.runs }
    else s

/-- One block is passed (R198): its skip line is read and its WOKEN bits cleared in one step, its elements are latched, and the
summary bit of a line that was all zero is cleared. -/
def State.passBlock (s : State) (key : Nat) : State :=
  match s.bindings.find key with
  | none => s
  | some b =>
    if b.running.isNone || b.blocks ≤ b.cursor then s
    else
      let k := b.cursor
      let s := (s.updBinding key fun b => { b with cursor := k + 1 }).dollyLine key b (b.ubase + k / 512 * 64) false
      if !s.homeBit b.ctx b.ubase k then s
      else
        let base := b.sbase + 64 * k
        let s := s.dollyLine key b base true
        let line := (List.range 64).map fun i => (i, s.homeNum b.ctx (base + i) 1)
        let s := line.foldl (fun s (i, x) => if x &&& 0xAA = 0 then s else s.putNum b.ctx (base + i) 1 (x &&& 0x55)) s
        let s := line.foldl (fun s (i, x) =>
          if x = 0 then s else
          (List.range 4).foldl (fun s j =>
            let e := 256 * k + 4 * i + j
            if bits x (2 * j) 2 = 0 || b.nelem ≤ e then s else s.latchElem key e (bits x (2 * j + 1) 1 == 1)) s) s
        if line.all fun x => x.2 == 0 then s.putBit b.ctx b.ubase k false else s

/-- BLOCK_PASS of binding `sub` on cluster `unit`: nothing while the context holds no core there (R200, R209), or the rails are off. -/
def State.blockPass (s : State) (key : Nat) : State :=
  match s.bindings.find key with
  | none => s
  | some b => if s.cueCores key b = [] || !s.railsOn (key / 4) then s else ((s.pack key).passBlock key).pack key

/-- `BLOCK_PASS` (R198). -/
def execBlockPass (s : State) : Host.Outcome State Fault Refusal := .next (s.blockPass (bindKey s.inp.unit s.inp.sub))

/-- Whether a running pass has passed every block and every latched element that runs has been written back. -/
def Binding.passDone (b : Binding) : Bool :=
  b.running.isSome && decide (b.blocks ≤ b.cursor) && b.latched == [] && b.live == [] && b.saved == []

/-- `PASS_END` (R208). -/
def execPassEnd (s : State) : Host.Outcome State Fault Refusal :=
  let key := bindKey s.inp.unit s.inp.sub
  match s.bindings.find key with
  | none => .next s
  | some b => .next (if b.passDone && s.railsOn (key / 4) then s.endPass key 0 else s)

/-- The index of the first started wake command of a cluster that has power (R31, R35). -/
def State.wakeReady (s : State) (cl : Nat) : Option Nat :=
  (s.cluster cl).dollyQ.findIdx? fun c => c.started && s.railsOn cl && (match c.work with | .wake _ => true | .pass => false)

/-- WAKE_APPLY on the cluster of the input: the next index of its oldest wake command takes effect (R204). -/
def State.wakeApply (s : State) (cl : Nat) : State :=
  let q := (s.cluster cl).dollyQ
  match s.wakeReady cl with
  | none => s
  | some i =>
    match q[i]? with
    | none => s
    | some c =>
      match c.work with
      | .pass => s
      | .wake l =>
        let s := match l, s.bindings.find (bindKey cl c.num) with
          | e :: _, some b => s.wakeElem b e
          | _, _ => s
        let s := s.pulse c.ctx
        match l with
        | _ :: e2 :: t => s.updCluster cl fun k => { k with dollyQ := q.set i { c with work := .wake (e2 :: t) } }
        | _ => ((s.updCluster cl fun k => { k with dollyQ := q.eraseIdx i }).cmdDown c.slate).wakeEngine

/-- `WAKE_APPLY` (R204). -/
def execWakeApply (s : State) : Host.Outcome State Fault Refusal := .next (s.wakeApply s.inp.unit)

/-! ### Stops (R210) -/

/-- A binding under a FENCED or RESET stop: elements latched whose runs have not ended are reported failed, with their WOKEN
bits set again and what they stored performed, and the running pass completes as failed, as does every queued pass. Wakes that were
accepted take effect. A RESET then ends the binding. (DEDUCED, log 66) -/
def State.stopBinding (s : State) (key : Nat) (reset : Bool) : State :=
  match s.bindings.find key with
  | none => s
  | some b =>
    let s := (s.stowCue key fun _ => true).reveal none key fun _ => true
    let s := b.live.foldl (fun s (e, _) => s.wakeElem b e) s
    let s := s.updBinding key fun x => { x with
      live := [], latched := [], saved := [], failed := min (x.failed + b.live.length) 0xFFFFFFFF }
    let s := s.endPass key 1
    let s := (b.queued.foldl (fun s (p, word, _) => (s.passWord b.ctx word 1 p).passGone key b.ctx) s).flushWakes key
    if reset then { s with bindings := s.bindings.del key } else s.updBinding key fun x => { x with queued := [] }

/-! ### Cue-mode instructions (R475) -/

/-- `CWAIT` (R199). -/
def execCwait (a b : BitVec 7) (s : State) : Host.Outcome State Fault Refusal :=
  runInstr (.cwait a b) s fun I =>
    let bad := I.warp.m0 &&& maskOf fun l => bits (I.warp.lane a l).toNat 12 20 != 0
    if bad ≠ 0 then .error (s, { cause := cILLEGAL, lanes := bad })
    else I.endRuns s fun l _ =>
      let w := (I.warp.lane a l).toNat
      (bits w 0 4, bits w 4 8, (I.warp.lane b l).toNat)

/-- `CWAKE` (R204). -/
def execCwake (a : BitVec 7) (s : State) : Host.Outcome State Fault Refusal :=
  runInstr (.cwake a) s fun I =>
    match s.bindings.find I.crew.binding with
    | none => .ok ((I.retire 4).put s)
    | some b =>
      let bad := I.warp.m0 &&& maskOf fun l => decide (b.nelem ≤ (I.warp.lane a l).toNat)
      if bad ≠ 0 then .error (s, { cause := cILLEGAL, lanes := bad })
      else
        let (s1, _) := I.releaseFor s I.warp.m0 scPackage
        let s2 := (laneList I.warp.m0).foldl (fun s l => s.wakeElem b (I.warp.lane a l).toNat) s1
        .ok (((I.endFences I.warp.m0).retire 4).put s2)

/-- `CLOC` (R202). -/
def execCloc (d sel : BitVec 7) (s : State) : Host.Outcome State Fault Refusal :=
  runInstr (.cloc d sel) s fun I =>
    match s.bindings.find I.crew.binding with
    | none => .ok ((I.retire 4).put s)
    | some b =>
      let put (f : Nat → Nat) : Eff := .ok (I.writeD s none d 1 .gen f 0)
      if sel = 0 then put fun l => I.warp.index l
      else if sel = 1 then put fun l => I.warp.index l * 2 ^ b.esize % 2 ^ 32
      else if sel = 2 then put fun _ => b.pass
      else if sel = 3 then put fun _ => bits b.cparm 0 32
      else if sel = 4 then put fun _ => bits b.cparm 32 25
      else .error (s, illegalT)

end Sys2Proof.Machine
end

