-- ==== Sys2Proof/Machine/Copy.lean ====
section
/-! DEFINITION. The copy engine and the collectives (R49-R54, R223, R226, R228, R256, R419, R463-R470). -/

namespace Sys2Proof.Machine

/-! ### What an item moves (R467, R469) -/

/-- One run of bytes that an item moves: source, destination, length. -/
abbrev Move := Nat × Nat × Nat

/-- A 64-bit address from an exact one. -/
def addr64 (x : Int) : Nat := (x % 2 ^ 64).toNat

/-- Bytes of an element of a `XC.TCOPY`, `XC.GATH` or `XC.SCAT`. -/
def CopyCmd.elem (c : CopyCmd) : Nat := 2 ^ (c.item % 16)

/-- The offsets of source and destination at an index tuple of the dimensions from 1 up, given by its number. -/
def tupleAt : List (Nat × Int × Int) → Nat → Int × Int
  | [], _ => (0, 0)
  | (n, ss, ds) :: t, i =>
    let (a, b) := tupleAt t (i / n)
    (a + (i % n : Nat) * ss, b + (i % n : Nat) * ds)

/-- The moves of item `i`; `idx` is its index in a gather or a scatter. -/
def CopyCmd.moves (c : CopyCmd) (i idx : Nat) : List Move :=
  match c.op with
  | .copy | .fill =>
    let o := c.item * i
    [(addr64 (c.src + o : Nat), addr64 (c.dst + o : Nat), min c.item (c.len - o))]
  | .gath => [(addr64 (c.src + c.elem * idx : Nat), addr64 (c.dst + c.elem * i : Nat), c.elem)]
  | .scat => [(addr64 (c.src + c.elem * i : Nat), addr64 (c.dst + c.elem * idx : Nat), c.elem)]
  | .tcopy =>
    match c.dims with
    | [] => []
    | (n, ss, ds) :: t =>
      let (a, b) := tupleAt t i
      (List.range n).map fun (x : Nat) => (addr64 (c.src + a + (x : Int) * ss), addr64 (c.dst + b + (x : Int) * ds), c.elem)
  | .coll => []

/-- Bytes that an item adds to the byte-count word (R419). -/
def CopyCmd.itemBytes (c : CopyCmd) (i : Nat) : Nat :=
  match c.op with
  | .copy | .fill => min c.item (c.len - c.item * i)
  | .gath | .scat => c.elem
  | .tcopy => (match c.dims with | [] => 0 | d :: _ => d.1 * c.elem)
  | .coll => 0

/-- The name of an item in directory entries: it rises in the order of acceptance (R223). (DESIGN CHOICE, log 61) -/
def CopyCmd.owner (c : CopyCmd) (i : Nat) : Nat := 2 ^ 520 * (c.seq + 1) + i

/-- The statuses of R466 for the causes of a refused access. (DEDUCED, log 60) -/
def itemStatus (cause : Nat) : Nat := if cause = cPAGE then 0x10 else if cause = cPROTECT then 0x16 else 0x11

/-- The index of an item of a gather or a scatter, and whether it was poisoned. -/
def CopyCmd.index (c : CopyCmd) (i : Nat) : Nat × Bool := c.idxs.getD i (0, false)

/-- The index of item `i` is out of range (R467). -/
def CopyCmd.beyond (c : CopyCmd) (i : Nat) : Bool := (c.op == .gath || c.op == .scat) && decide (c.aux1 ≤ (c.index i).1)

/-- The runs whose destination item `i` takes: of a gather whatever its index, of a scatter none beyond the bound. -/
def CopyCmd.aims (c : CopyCmd) (i : Nat) : List Move :=
  if c.op == .scat && c.beyond i then [] else c.moves i (c.index i).1

/-- The parts of a range that translate with the access needed, page by page. -/
def State.engSome (s : State) (ctx : Nat) (write : Bool) : Nat → Nat → Nat → List Part
  | 0, _, _ => []
  | fuel + 1, va, n =>
    if n = 0 then [] else
    let k := min n (65536 - va % 65536)
    (match s.engRange ctx write va k with | .ok l => l | .error _ => []) ++ State.engSome s ctx write fuel (va + k) (n - k)

/-- The space-0 parts of an item's destination, as far as they translate. -/
def State.dstParts (s : State) (c : CopyCmd) (ms : List Move) : List Part :=
  if c.dspc ≠ 0 then [] else ms.flatMap fun (_, d, n) => s.engSome c.ctx true (n / 65536 + 2) d n

/-- The lines that item `i` will write, as far as they translate at acceptance (R223). -/
def State.itemLines (s : State) (c : CopyCmd) (i : Nat) : List (Bool × Nat) := partLines (s.dstParts c (c.aims i))

/-- The scratchpad lines that item `i` fills. -/
def CopyCmd.spadLines (c : CopyCmd) (i : Nat) : List Nat :=
  if c.dspc ≠ 1 then []
  else (c.aims i).foldl (fun l (_, d, n) => (touchedUnits 128 (c.win + d) n).foldl insertNat l) []

/-! ### Spaces (R212) -/

/-- Bytes with those of held runs in their place. -/
def overlay (held : List (Nat × List Byte × Bool)) (a : Nat) (bs : List Byte) : List Byte :=
  if held = [] then bs else
  (List.range bs.length).map fun i => held.foldl (fun b (h, d, _) => if h ≤ a + i then d.getD (a + i - h) b else b) (bs.getD i 0)

/-- Bytes of a space other than 0, and whether a poisoned unit was read; a command sees what its own items hold (R467). -/
def State.spaceRead (s : State) (c : CopyCmd) (a n : Nat) : List Byte × Bool :=
  let m := s.mx c.cluster
  let mine := if c.sspc = c.dspc then c.held else []
  let own (x : List Byte × Bool) : List Byte × Bool :=
    (overlay mine a x.1, x.2 || mine.any fun (h, d, p) => p && decide (h < a + n) && decide (a < h + d.length))
  own <| match c.sspc with
  | 1 => let k := s.core c.core
         (k.spad.read (c.win + a) n, k.spadPoison != [] && (touchedUnits 32 (c.win + a) n).any fun u => k.spadPoison.contains u)
  | 2 => (m.weight.read a n, m.wPoison != [] && (touchedUnits 256 a n).any fun u => m.wPoison.contains u)
  | 3 => (m.activ.read a n, m.aPoison != [] && (touchedUnits 64 a n).any fun u => m.aPoison.contains u)
  | _ => (m.tiles.read a n, m.tPoison != [] && (touchedUnits 32 a n).any fun u => m.tPoison.contains u)

/-- Bytes written to a space other than 0; poisoned bytes poison every unit they touch (R239). -/
def State.spaceWrite (s : State) (c : CopyCmd) (a : Nat) (bs : List Byte) (poison : Bool) : State :=
  let n := bs.length
  let add (g : Nat) (p : List Nat) (a : Nat) : List Nat := if poison then (touchedUnits g a n).foldl insertNat p else p
  match c.dspc with
  | 1 => (s.spadWrite c.core (c.win + a) bs).updCore c.core fun k => { k with spadPoison := add 32 k.spadPoison (c.win + a) }
  | 2 => s.updMx c.cluster fun m => let m := m.writeWeight a bs; { m with wPoison := add 256 m.wPoison a }
  | 3 => s.updMx c.cluster fun m => let m := m.writeActiv a bs; { m with aPoison := add 64 m.aPoison a }
  | _ => s.updMx c.cluster fun m => let m := m.writeTile a bs; { m with tPoison := add 32 m.tPoison a }

/-- The key of a command in the table of copy commands. -/
def CopyCmd.key (c : CopyCmd) : Nat := c.ctx * 2 ^ 24 + c.handle

def State.updCopy (s : State) (key : Nat) (f : CopyCmd → CopyCmd) : State :=
  match s.copies.find key with
  | some c => { s with copies := s.copies.set key (f c) }
  | none => s

/-- The granule of a typed buffer that holds an address (R231): the row, in the tile file. -/
def State.granule (s : State) (c : CopyCmd) (a : Nat) : Nat :=
  match c.dspc with
  | 2 => a / 256
  | 3 => a / 64
  | _ =>
    let t := a / tileSize
    2 ^ 16 * t + a % tileSize / (((s.mx c.cluster).tctl.get {} t).rowLen)

/-- The granules that a run of an item touches. -/
def State.granules (s : State) (c : CopyCmd) (a n : Nat) : List Nat :=
  (touchedUnits 32 a n).foldl (fun l u => insertNat l (s.granule c (32 * u))) []

/-- A granule of a typed buffer is written whole, as far as the command writes it: what an item wrote of it waits while the next item
goes on with it. (DESIGN CHOICE, log 100) -/
def State.goesOn (s : State) (c : CopyCmd) (i : Nat) : Bool :=
  decide (2 ≤ c.dspc) && decide (i + 1 < c.items) && c.stop.isNone
    && (let mine := (c.aims i).flatMap fun (_, d, n) => s.granules c d n
        (c.aims (i + 1)).any fun (_, d, n) => (s.granules c d n).any mine.contains)

/-- Runs that a command holds are written. -/
def State.unhold (s : State) (key : Nat) : State :=
  match s.copies.find key with
  | none => s
  | some c =>
    if c.held = [] then s
    else (c.held.foldl (fun s (a, bs, p) => s.spaceWrite c a bs p) s).updCopy key fun c => { c with held := [] }

/-- Sectors of translated parts poisoned. -/
def State.poisonParts (s : State) (l : List Part) : State :=
  l.foldl (fun s (e, pa, n) => if e.host then s else
    s.updMem fun m => { m with poison := (touchedUnits 32 pa n).foldl insertNat m.poison }) s

/-! ### Performing an item (R466-R469) -/

/-- The data that an item moves, one list of bytes a move: with its poisoned sectors, or the status of the read that failed. -/
def State.itemData (s : State) (c : CopyCmd) : List Move → Except Nat (List (List Byte) × Bool × List (Nat × Nat) × List Part)
  | [] => .ok ([], false, [], [])
  | (a, d, n) :: t =>
    match State.itemData s c t with
    | .error e => .error e
    | .ok (ds, p, secs, ps) =>
      if c.op == .fill then
        .ok ((List.range n).map (fun x => BitVec.ofNat 8 (c.src >>> (8 * ((d - c.dst + x) % 4)))) :: ds, p, secs, ps)
      else if c.sspc = 0 then
        match s.engRange c.ctx false a n with
        | .error e => .error (itemStatus e)
        | .ok l =>
          let po := s.partsPoison a l
          .ok (s.partsRead l :: ds, p || po != [], po ++ secs, l ++ ps)
      else
        let (bs, po) := s.spaceRead c a n
        .ok (bs :: ds, p || po, secs, ps)

/-- The translations of an item's destination, one list a move, or the status of the first that fails. -/
def State.itemDest (s : State) (c : CopyCmd) : List Move → Except Nat (List (List Part))
  | [] => .ok []
  | (_, d, n) :: t =>
    if c.dspc ≠ 0 then .ok [] else
    match s.engRange c.ctx true d n with
    | .error e => .error (itemStatus e)
    | .ok l =>
      match State.itemDest s c t with
      | .error e => .error e
      | .ok r => .ok (l :: r)

/-- The moves written, in their order; those to a typed buffer are held by the command until their granules are complete. -/
def State.itemWrite (s : State) (c : CopyCmd) (poison : Bool) : List Move → List (List Byte) → List (List Part) → State
  | (_, d, _) :: t, bs :: bt, ps =>
    if 2 ≤ c.dspc then State.itemWrite (s.updCopy c.key fun x => { x with held := x.held ++ [(d, bs, poison)] }) c poison t bt []
    else if c.dspc ≠ 0 then State.itemWrite (s.spaceWrite c d bs poison) c poison t bt []
    else
      let l := ps.headD []
      let s := s.partsWrite l bs
      State.itemWrite (if poison then s.poisonParts l else s) c poison t bt ps.tail
  | _, _, _ => s

/-- Bytes of a range of which each unit is old or new, which the manual leaves open: 32-byte sectors (R228, R256), and the granules of
a typed buffer (R231). -/
def mixUnits (unit : Nat → Nat) (fresh a : Nat) (old new : List Byte) : List Byte :=
  (List.range old.length).map fun i => if Config.freeBool (fresh + unit (a + i) - unit a) then new.getD i 0 else old.getD i 0

/-- What a failed item leaves: each sector of its destination that can be written holds its old or its new bytes, and is signed and
marked as written; new bytes that were never read are not stated. (DESIGN CHOICE, log 36) -/
def State.itemTorn (s : State) (c : CopyCmd) (data : List (List Byte)) : Nat → List Move → State
  | _, [] => s
  | k, (_, d, n) :: t =>
    let new := if data = [] then (List.range n).map fun i => Config.freeByte (s.fresh + i) else data.getD k []
    let s' : State := { s with fresh := s.fresh + n }
    let s1 :=
      if c.dspc = 0 then
        (match s.engRange c.ctx true d n with
          | .error _ => s'
          | .ok l =>
            let s1 := (s'.partsWrite l (mixUnits (· / 32) s.fresh d (s.partsRead l) new)).logAppend (partsSig l)
            s1.markLines s1.mem.logSeq (partLines l))
      else
        let (old, _) := s.spaceRead { c with sspc := c.dspc } d n
        s'.spaceWrite c d (mixUnits (if c.dspc = 1 then (· / 32) else s.granule c) s.fresh d old new) false
    State.itemTorn s1 c data (k + 1) t

/-- Item `i` performed: its status and the parts of device virtual memory that it wrote. -/
def State.perform (s : State) (c : CopyCmd) (i : Nat) : State × Nat × List Part :=
  if (c.index i).2 then (s, 0x05, [])
  else if c.beyond i then (s, 0x12, [])
  else
    let ms := c.moves i (c.index i).1
    match s.itemData c ms with
    | .error e => (s.itemTorn c [] 0 ms, e, [])
    | .ok (data, poison, secs, rd) =>
      let s := (s.reportSectors recEccUncorrected (some c.ctx) secs).l2Parts c.ctx c.cluster rd false
      match s.itemDest c ms with
      | .error e => (s.itemTorn c data 0 ms, e, [])
      | .ok ps => ((s.l2Parts c.ctx c.cluster ps.flatten true).itemWrite c poison ms data ps, if poison then 0x05 else 0, ps.flatten)

/-- A part lies on a page whose writes are stalled by a migration (R33). -/
def State.partsStalled (s : State) (l : List Part) : Bool :=
  s.migrating != [] && l.any fun (e, pa, _) => !e.host && s.migrating.contains (pa / 65536)

/-- No item accepted before `o` owns a line of these parts (R223). -/
def State.linesFree (s : State) (o : Nat) (l : List Part) : Bool := (s.partsOwners l).all fun x => o ≤ x

/-- The words that a command writes at its end lie on pages that take writes (R33). -/
def State.wordsFree (s : State) (c : CopyCmd) : Bool :=
  s.migrating == [] ||
    (!(c.sword != 0 && s.partsStalled (s.engSome c.ctx true 2 c.sword 4))
      && !(c.xstat != 0 && (let n := if c.op == .coll then c.members.length else c.items
                            s.partsStalled (s.engSome c.ctx true (n / 65536 + 2) c.xstat n))))

/-- Whether an item may be performed: no earlier item owns a line that it reads or writes, and its writes are not stalled (R33,
R223). (DESIGN CHOICE, log 67) -/
def State.itemFree (s : State) (c : CopyCmd) (i : Nat) : Bool :=
  let ms := c.aims i
  (match s.itemData c ms with | .ok (_, _, _, ps) => s.linesFree (c.owner i) ps | .error _ => true)
    && s.linesFree (c.owner i) (s.dstParts c ms) && !s.partsStalled (s.dstParts c ms) && s.wordsFree c

/-! ### Reporting items and commands (R223, R256, R419, R466) -/

/-- An item is reported: its lines are released, its scratchpad lines become present once no other item fills them, its bytes
are added to the byte-count word, with those of items whose granule it completes, and its status is kept. -/
def State.itemEnd (s : State) (key i st : Nat) : State :=
  match s.copies.find key with
  | none => s
  | some c =>
    let on := s.goesOn c i
    let s := (if on then s else s.unhold key).updCopy key fun x => { x with late := if on then x.late + x.itemBytes i else 0 }
    let s := s.disown (c.owner i)
    let mine := ((s.core c.core).filling.filter fun x => x.2 == c.owner i).map (·.1)
    let s := if mine = [] then s else
      s.updCore c.core fun k => { k with filling := k.filling.filter fun x => x.2 != c.owner i }
    let s := mine.foldl (fun s j =>
      if (s.core c.core).filling.any (fun x => x.1 == j) then s else s.setPresent c.core j) s
    let s := s.updCopy key fun c => { c with stats := c.stats ++ [st], running := false }
    let s := (s.pulse c.ctx).wakeOwned
    match c.bword with
    | none => s
    | some o =>
      if on then s else
      let v := (s.spadNum c.core o 4 + (c.late + c.itemBytes i)) % 2 ^ 32
      let s := s.updCore c.core fun k => { k with
        spad := k.spad.write o (bytesLE 4 v), bcMark := k.bcMark.set o (max (k.bcMark.get 0 o) s.mem.logSeq) }
      s.recheckBytes c.core

/-- Items not OK, saturating. -/
def CopyCmd.bad (c : CopyCmd) : Nat :=
  min ((c.stats.filter (· ≠ 0)).length + (c.peer.filter fun x => x.2 != 0).length) (2 ^ 24 - 1)

/-- A command whose items have all ended writes its status bytes and then its completion word, and leaves its engine (R466). -/
def State.copyDone (s : State) (key : Nat) : State :=
  match s.copies.find key with
  | none => s
  | some c =>
    let bytes := if c.op == .coll then (List.range c.members.length).map fun p => BitVec.ofNat 8 (c.peer.get 0 p)
      else c.stats.map (BitVec.ofNat 8 ·)
    let s := if c.xstat = 0 then s else s.engStore c.ctx c.xstat bytes
    let s := s.doneWord c.ctx c.sword (if c.bad = 0 then 0 else 1) c.bad c.scope
    let s := s.updCopy key fun c => { c with done := true, running := false, mark := s.mem.logSeq, idxs := [] }
    let s := s.updCluster c.cluster fun k => { k with copyQ := k.copyQ.filter (· != key) }
    (((s.cmdDown c.slate).wakeEngine).wakeOwned).reap c.crew

/-- Items that have not started end with the command's stop status, and a command without items left is done. -/
def State.copySettle (s : State) (key : Nat) : State :=
  match s.copies.find key with
  | none => s
  | some c =>
    if c.done || c.running || c.op == .coll then s else
    match c.stop with
    | none => if c.items ≤ c.stats.length then s.copyDone key else s
    | some st =>
      let left := (List.range (c.items - c.stats.length)).map (c.stats.length + ·)
      (left.foldl (fun s i => s.itemEnd key i st) s).copyDone key

/-- The generation check of a command (R466). -/
def State.copyGen (s : State) (c : CopyCmd) : Bool := !c.gchk || ((s.ctx c.ctx).gen.get 0 c.gsel).toNat == c.gen

/-- COPY_ITEM_START of the command that the input names: its generation is checked; a failed check ends the rest CANCELLED. -/
def State.copyStart (s : State) (key : Nat) : State :=
  match s.copies.find key with
  | none => s
  | some c =>
    if c.done || !c.started || c.running || c.op == .coll then s
    else if !s.copyGen c then (s.updCopy key fun c => { c with stop := some (c.stop.getD 0x03) }).copySettle key
    else if c.items ≤ c.stats.length then s.copySettle key
    else s.updCopy key fun c => { c with running := true }

/-- `COPY_ITEM_START` (R466). -/
def execCopyItemStart (s : State) : Host.Outcome State Fault Refusal := .next (s.copyStart s.inp.unit)

/-- COPY_ITEM_COMPLETE: the running item is performed once the earlier owners of its lines are done, its writes are signed and
marked, and it is reported. -/
def State.copyComplete (s : State) (key : Nat) : State :=
  match s.copies.find key with
  | none => s
  | some c =>
    let i := c.stats.length
    if !c.running || !s.itemFree c i then s
    else
      let (s, st, ps) := s.perform c i
      let s := if ps = [] then s else
        let s := s.logAppend (partsSig ps)
        s.markLines s.mem.logSeq (partLines ps)
      let s := s.updCopy key fun c => { c with mark := s.mem.logSeq, sig := c.sig ||| partsSig ps }
      (s.itemEnd key i st).copySettle key

/-- `COPY_ITEM_COMPLETE` (R466). -/
def execCopyItemComplete (s : State) : Host.Outcome State Fault Refusal := .next (s.copyComplete s.inp.unit)

/-- The commands that satisfy a test end with a status: the running item too, as one that failed (R463). -/
def State.copyStop (s : State) (p : CopyCmd → Bool) (st : Nat) : State :=
  (s.copies.filter fun x => p x.2 && !x.2.done && x.2.op != .coll).foldl (fun s (key, c) =>
    let s := (s.updCopy key fun c => { c with stop := some (c.stop.getD st) }).unhold key
    let s := if c.running then
        let ms := c.aims c.stats.length
        (s.itemTorn { c with held := [] } (match s.itemData c ms with | .ok (d, _) => d | .error _ => []) 0 ms).itemEnd key c.stats.length st
      else s
    s.copySettle key) s

/-! ### Acceptance (R465-R469) -/

/-- The copy command that a 64-byte header describes for an issuer; items and dimensions are found by `copyForm`. -/
def Iss.copyOf (I : Iss) (op : CopyOp) (bs : List Byte) (bword : Option Nat) : CopyCmd :=
  let f := fieldAt bs
  { ctx := I.crew.ctx, handle := 0, op := op, cluster := I.cluster, core := I.crew.core, win := I.crew.spadBase,
    winSize := I.crew.spadSize, slate := I.crew.slate, crew := I.cid, sspc := bits (f 0 1) 0 3, dspc := bits (f 0 1) 3 3,
    scope := f 1 1, cop := f 2 1, gchk := bits (f 3 1) 0 1 == 1, ctype := bits (f 3 1) 1 3, item := f 4 3, gsel := f 7 1,
    src := f 8 8, dst := f 16 8, len := f 24 4, gen := f 28 4, sword := f 32 8, aux0 := f 40 8, aux1 := f 48 8,
    xstat := f 56 8, bword := bword, items := 0 }

/-- Granule and size of a space that typed buffers or the window give (R7, R230, R231). -/
def spaceGran (sp : Nat) : Nat := match sp with | 2 => 256 | 3 => 64 | _ => 1
def CopyCmd.spaceSize (c : CopyCmd) (sp : Nat) : Nat :=
  match sp with | 1 => c.winSize | 2 => weightSize | 3 => activSize | 4 => 16 * tileSize | _ => 0

/-- A range of a space that a command names may not be used: beyond the space, or off its granule. -/
def CopyCmd.rangeBad (c : CopyCmd) (sp a n : Nat) : Bool :=
  sp != 0 && (a % spaceGran sp != 0 || decide (c.spaceSize sp < a + n))

/-- Spaces that a command may name (R212, R229, R465): tiles only in `XC.TCOPY`, typed buffers only for the owner of the control
core, a window only with one. -/
def Iss.spaceBad (I : Iss) (s : State) (op : CopyOp) (sp : Nat) : Bool :=
  decide (5 ≤ sp) || (sp == 4 && op != .tcopy) || (decide (2 ≤ sp) && !I.owns s)

/-- The smallest and largest offset that dimensions reach from a base. -/
def dimSpan (dims : List (Nat × Int × Int)) (dst : Bool) : Int × Int :=
  dims.foldl (fun (lo, hi) (n, ss, ds) =>
    let x := ((n : Int) - 1) * (if dst then ds else ss)
    (if x < 0 then lo + x else lo, if x < 0 then hi else hi + x)) (0, 0)

/-- A span of dimensions leaves its space. -/
def CopyCmd.spanBad (c : CopyCmd) (sp base : Nat) (dst : Bool) : Bool :=
  let (lo, hi) := dimSpan c.dims dst
  sp != 0 && (base % spaceGran sp != 0 || decide ((base : Int) + lo < 0) || decide ((c.spaceSize sp : Int) < base + hi + c.elem))

/-- Fields that R465 fixes for every command. -/
def headBad (bs : List Byte) : Bool :=
  let f := fieldAt bs
  bits (f 0 1) 6 2 != 0 || bits (f 1 1) 3 5 != 0 || bits (f 3 1) 4 4 != 0 || decide (4 < bits (f 3 1) 1 3)

/-- ITEM and LEN of an indexed command broken (R467). -/
def CopyCmd.badIndexed (c : CopyCmd) : Bool := decide (11 < c.item) || c.len == 0 || decide (2 ^ 24 < c.len)

/-- The fields of a local command broken, by R467 and R469; `c` has its dimensions. The offsets and lengths that must lie on the
granule of a typed buffer (R230) are those that the header gives, SRC, DST and LEN: not those that strides and indices make. (DEDUCED, log 59) -/
def Iss.localBad (I : Iss) (s : State) (c : CopyCmd) : Bool :=
  decide (5 < c.scope) || c.cop != 0 || I.spaceBad s c.op c.sspc || I.spaceBad s c.op c.dspc
    || c.len % spaceGran c.sspc != 0 || c.len % spaceGran c.dspc != 0
    || (match c.op with
        | .copy => c.aux0 != 0 || c.aux1 != 0 || c.item % 32 != 0 || c.item == 0 || decide (2 ^ 23 < c.item) || c.len == 0
            || c.rangeBad c.sspc c.src c.len || c.rangeBad c.dspc c.dst c.len
        | .fill => c.aux0 != 0 || c.aux1 != 0 || c.item % 32 != 0 || c.item == 0 || decide (2 ^ 23 < c.item) || c.len == 0
            || c.sspc != 0 || decide (2 ^ 32 ≤ c.src) || c.rangeBad c.dspc c.dst c.len
        | .gath => c.badIndexed || c.rangeBad c.sspc c.src (c.aux1 * c.elem) || c.rangeBad c.dspc c.dst (c.len * c.elem)
        | .scat => c.badIndexed || c.rangeBad c.sspc c.src (c.len * c.elem) || c.rangeBad c.dspc c.dst (c.aux1 * c.elem)
        | .tcopy => c.aux0 != 0 || c.aux1 != 0 || c.len != 0 || decide (4 < bits c.item 0 3) || bits c.item 3 5 != 0
            || bits c.item 16 8 != 0 || c.dims == [] || c.dims.any (fun d => d.1 == 0)
            || c.spanBad c.sspc c.src false || c.spanBad c.dspc c.dst true
        | .coll => false)

/-- Items of a local command (R467, R469). -/
def CopyCmd.itemCount (c : CopyCmd) : Nat :=
  match c.op with
  | .copy | .fill => (c.len + c.item - 1) / c.item
  | .gath | .scat => c.len
  | .tcopy => c.dims.tail.foldl (fun a d => a * d.1) 1
  | .coll => 0

/-- Words that a command names can be reached (R464). -/
def State.copyPages (s : State) (c : CopyCmd) : Bool :=
  (c.sword == 0 || s.wordOk c.ctx c.sword 4 4)
    && (c.xstat == 0 || s.engOk c.ctx true c.xstat (if c.op == .coll then c.members.length else c.items))

/-- A checked command is accepted: it takes its handle and its place, the lines that its items will write are owned, and the
scratchpad lines that they will fill become absent (R223, R226, R466). -/
def State.copyAccept (s : State) (c : CopyCmd) (owned : List (Nat × List (Bool × Nat))) : Reply :=
  let h := ((s.ctx c.ctx).handles + 1) % 2 ^ 24
  let key := c.ctx * 2 ^ 24 + h
  let old := c.ctx * 2 ^ 24 + (h + 2 ^ 24 - 1024) % 2 ^ 24
  let c := { c with handle := h, seq := s.copySeq }
  let kept := match s.copies.find old with | some x => if x.done && x.op != CopyOp.coll then s.copies.del old else s.copies | none => s.copies
  let s : State := { s with copySeq := s.copySeq + 1, copies := kept.set key c }
  let s := s.updCtx c.ctx fun k => { k with handles := k.handles + 1 }
  let s := s.updCluster c.cluster fun k => { k with copyQ := k.copyQ ++ [key] }
  let s := owned.foldl (fun s (i, l) => s.own (c.owner i) l) s
  let s := (List.range c.items).foldl (fun s i => (c.spadLines i).foldl (fun s j =>
    s.updCore c.core fun k => { k with absent := insertNat k.absent j, filling := k.filling ++ [(j, c.owner i)] }) s) s
  .accept (s.cmdUp c.slate) (replyOk h)

/-- A local command checked and accepted. -/
def Iss.copyLocal (I : Iss) (s : State) (c : CopyCmd) : Reply :=
  if I.localBad s c then .refuse rBADDESC else
  let c := { c with items := c.itemCount }
  if !s.copyPages c then .refuse rDESCPAGE
  else
    let take (s : State) (c : CopyCmd) : Reply := s.copyAccept c ((List.range c.items).map fun i => (i, s.itemLines c i))
    if c.op == .gath || c.op == .scat then
      s.descr c.ctx c.aux0 (4 * c.len) 1 fun bs =>
        let po := match s.engRange c.ctx false c.aux0 (4 * c.len) with | .ok l => s.partsPoison c.aux0 l | .error _ => []
        let bad (i : Nat) : Bool := po.any fun x => decide (x.2 < c.aux0 + 4 * i + 4) && decide (c.aux0 + 4 * i < x.2 + 32)
        take (s.reportSectors recEccUncorrected (some c.ctx) po)
          { c with idxs := (List.range c.len).map fun i => (fieldAt bs (4 * i) 4, bad i) }
    else take s c

/-- Dimension entries (R469); none when a zero byte is not zero. -/
def dimsOf (bs : List Byte) : Nat → Option (List (Nat × Int × Int))
  | 0 => some []
  | n + 1 =>
    let f := fieldAt bs
    if f 20 4 ≠ 0 then none else
    (dimsOf (bs.drop 24) n).map fun t => (f 0 4, intOf true 64 (f 4 8), intOf true 64 (f 12 8)) :: t

/-! ### Collectives (R49-R54, R468) -/

/-- Bytes of an element type (R465). -/
def ctypeBytes (t : Nat) : Nat := if t = 1 || t = 2 then 2 else 4

/-- The operation code of a collective, and whether it reduces. -/
def CopyCmd.cop4 (c : CopyCmd) : Nat := bits c.cop 0 4
def CopyCmd.reduces (c : CopyCmd) : Bool := c.cop4 == 4 || c.cop4 == 5

/-- The ranks with which a member has an item (R51): every peer, but of a send or a receive only the peer that it names; the status
bytes of the others stay 0x00. (DESIGN CHOICE, log 101) -/
def CopyCmd.peers (c : CopyCmd) : List Nat :=
  (List.range c.members.length).filter fun p => p != c.rank && (decide (c.cop4 < 7) || p == c.root)

/-- The bytes that a member sends to the member of rank `p`. -/
def CopyCmd.sends (c : CopyCmd) (p : Nat) : Option (Nat × Nat) :=
  match c.cop4 with
  | 1 => if c.rank = c.root then some (c.src, c.len) else none
  | 2 => if p = c.root then some (c.src, c.len) else none
  | 3 | 5 => some (c.src, c.len)
  | 4 | 6 => some (c.src + c.len * p, c.len)
  | 7 => if p = c.root then some (c.src, c.len) else none
  | _ => none

/-- Where a member puts what the member of rank `p` sends: its destination, or its part of the scratch buffer. -/
def CopyCmd.receives (c : CopyCmd) (p : Nat) : Option (Nat × Nat) :=
  match c.cop4 with
  | 1 => if p = c.root then some (c.dst, c.len) else none
  | 2 => if c.rank = c.root then some (c.dst + c.len * p, c.len) else none
  | 3 | 6 => some (c.dst + c.len * p, c.len)
  | 4 | 5 => some (c.aux1 + c.len * p, c.len)
  | 8 => if p = c.root then some (c.dst, c.len) else none
  | _ => none

/-- The whole destination of a member. -/
def CopyCmd.target (c : CopyCmd) : Nat × Nat :=
  match c.cop4 with
  | 1 | 4 | 5 | 8 => (c.dst, c.len)
  | 2 => if c.rank = c.root then (c.dst, c.len * c.members.length) else (c.dst, 0)
  | 3 | 6 => (c.dst, c.len * c.members.length)
  | _ => (c.dst, 0)

/-- A group record (R468): n, rank, root, members; none when a field breaks it. -/
def groupRecord (bs : List Byte) : Option (Nat × Nat × Nat × List (Nat × Nat)) :=
  let f := fieldAt bs
  let n := f 0 4
  let ms := (List.range n).map fun p => (f (16 + 8 * p) 4, f (20 + 8 * p) 2, f (22 + 8 * p) 2)
  if n ≤ f 4 4 || n ≤ f 8 4 || f 12 4 ≠ 0 || ms.any (fun m => m.2.2 != 0) then none
  else some (n, f 4 4, f 8 4, ms.map fun m => (m.1, m.2.1))

/-- How many items a context has had with each peer of a group on this package, by rank (R54). -/
def Ctx.roundTable (x : Ctx) (group : List (Nat × Nat)) : Tbl Nat := ((x.rounds.find? fun r => r.1 == group).map (·.2)).getD []

/-- The peers of a command on this package, with the place of its item among the items of the pair. -/
def State.roundsOf (s : State) (c : CopyCmd) : Tbl Nat :=
  (c.peers.filter fun p => (c.members.getD p (0, 0)).1 == s.fabric.pkgid).map fun p =>
    (p, ((s.ctx c.ctx).roundTable c.members).get 0 p)

/-- The items of a command counted. -/
def State.noteRounds (s : State) (c : CopyCmd) : State :=
  s.updCtx c.ctx fun x =>
    let t := c.round.foldl (fun t (p, k) => t.set p (k + 1)) (x.roundTable c.members)
    { x with rounds := (c.members, t) :: x.rounds.filter fun r => r.1 != c.members }

/-- A member begins anew: the items of the pairs that it is in are counted from 0 again (R53). -/
def State.dropRounds (s : State) (ctx : Nat) : State :=
  { s with ctxs := s.ctxs.mapV fun k x => if k = ctx then { x with rounds := [] } else
      { x with rounds := x.rounds.map fun (g, t) =>
          (g, t.filter fun y => g.getD y.1 (0, 0) != (s.fabric.pkgid, ctx)) } }

/-- A collective checked and accepted. -/
def State.collAccept (s : State) (c : CopyCmd) : Reply :=
  if c.sspc ≠ 0 || c.dspc ≠ 0 || c.item ≠ 0 || c.len % ctypeBytes c.ctype ≠ 0 || c.cop4 = 0 || 8 < c.cop4
      || 2 < bits c.cop 4 2 || bits c.cop 6 2 ≠ 0 then .refuse rBADDESC
  else
    s.descr c.ctx c.aux0 16 8 fun hd =>
      let n := fieldAt hd 0 4
      if n < 2 || 32768 < n then .refuse rBADDESC else
      s.descr c.ctx c.aux0 (16 + 8 * n) 8 fun bs =>
        match groupRecord bs with
        | none => .refuse rBADDESC
        | some (_, rank, root, ms) =>
          let c := { c with op := .coll, members := ms, rank := rank, root := root }
          let c := { c with items := c.peers.length, round := s.roundsOf c }
          if !s.copyPages c then .refuse rDESCPAGE
          else
            let t := c.target
            (s.noteRounds c).copyAccept c [(0, partLines (s.engSome c.ctx true (t.2 / 65536 + 2) t.1 t.2))]

/-- A copy command issued (R462, R466): its byte-count word is checked as `BCI` checks one; then its descriptor. -/
def Iss.copyCmd (I : Iss) (s : State) (op : CopyOp) (v a b : BitVec 7) : Eff :=
  let o := (I.warp.operand b).toNat
  let t : TrapInfo := { cause := cACCESS, detail := 1, taddr := o, lanes := I.warp.m0 }
  if b ≠ 0 && (I.ctl || I.crew.kind == .cue) then .error (s, illegalT)
  else if b ≠ 0 && I.crew.spadSize < o + 8 then .error (s, t)
  else if b ≠ 0 && o % 8 ≠ 0 then .error (s, { t with cause := cALIGN })
  else
    let bword := if b = 0 then none else some (I.crew.spadBase + o)
    let va := I.warp.operand64 a
    let ctx := I.crew.ctx
    I.command s (decide (s.copiesOf I.cluster ctx < 64)) v fun s =>
      s.descr ctx va 64 64 fun bs =>
        if headBad bs then .refuse rBADDESC else
        let c := I.copyOf op bs bword
        if op = .copy && 6 ≤ c.scope then s.collAccept c
        else
          match op with
          | .gath | .scat => I.copyLocal s { c with aux1 := c.aux1 % 2 ^ 32 }
          | .tcopy =>
            let n := bits c.item 8 8
            if n = 0 || 16 < n then .refuse rBADDESC else
            s.descr ctx (va + 64) (24 * n) 1 fun ds =>
              (match dimsOf ds n with
                | none => .refuse rBADDESC
                | some l => I.copyLocal s { c with dims := l })
          | _ => I.copyLocal s c

/-- `XC_COPY` (R467). -/
def execXcCopy (v a b : BitVec 7) (s : State) : Host.Outcome State Fault Refusal :=
  runInstr (.xcCopy v a b) s fun I => I.copyCmd s .copy v a b
/-- `XC_TCOPY` (R469). -/
def execXcTcopy (v a b : BitVec 7) (s : State) : Host.Outcome State Fault Refusal :=
  runInstr (.xcTcopy v a b) s fun I => I.copyCmd s .tcopy v a b
/-- `XC_GATH` (R467). -/
def execXcGath (v a b : BitVec 7) (s : State) : Host.Outcome State Fault Refusal :=
  runInstr (.xcGath v a b) s fun I => I.copyCmd s .gath v a b
/-- `XC_SCAT` (R467). -/
def execXcScat (v a b : BitVec 7) (s : State) : Host.Outcome State Fault Refusal :=
  runInstr (.xcScat v a b) s fun I => I.copyCmd s .scat v a b
/-- `XC_FILL` (R467). -/
def execXcFill (v a b : BitVec 7) (s : State) : Host.Outcome State Fault Refusal :=
  runInstr (.xcFill v a b) s fun I => I.copyCmd s .fill v a b

/-! ### Items of a collective (R50-R53) -/

/-- Status of a local cause (R51). -/
def collStatus (cause : Nat) : Nat := if cause = cPAGE then 0x07 else 0x08

/-- What stands against an item at this member, first of all: a stop, an expired deadline, a superseded generation, a lost
package, or a range of its own that does not translate or is not permitted. -/
def State.collLocal (s : State) (c : CopyCmd) (p : Nat) : Option Nat :=
  let range (w : Bool) (r : Option (Nat × Nat)) : Option Nat :=
    match r with
    | none => none
    | some (a, n) => (match s.engRange c.ctx w a n with | .ok _ => none | .error e => some (collStatus e))
  match c.stop with
  | some st => some (if st = 0x13 then 0x0A else 0x03)
  | none =>
    if (s.slates.get {} c.slate).dlmiss then some 0x04
    else if !s.copyGen c then some 0x03
    else if s.fabric.lost.contains (c.members.getD p (0, 0)).1 then some 0x02
    else
      match range false (c.sends p) with
      | some x => some x
      | none =>
        match range true (c.receives p) with
        | some x => some x
        | none => if c.reduces then range true (some c.target) else none

/-- The command of the member of rank `p` whose item with this member is the same one, when that member is on this package: both
are at the same place among the items of the pair (R54). -/
def State.collPeer (s : State) (c : CopyCmd) (p : Nat) : Option (Nat × CopyCmd) :=
  let m := c.members.getD p (0, 0)
  if m.1 ≠ s.fabric.pkgid then none else
  s.copies.find? fun (_, d) => d.op == .coll && d.ctx == m.2 && d.rank == p && d.members == c.members
    && (d.round.find c.rank).isSome && d.round.find c.rank == c.round.find p

/-- The status of a peer for an item that ended at this member with `st` (R51): a fault of the member's own ranges is PEER_FAULT there,
and of a fenced engine, which no code of a peer names, CANCELLED. (DESIGN CHOICE, log 102) -/
def peerStatus (st : Nat) : Nat := if st = 0x07 || st = 0x08 then 0x09 else if st = 0x0A then 0x03 else st

/-- The parts of the ranges of a member for its item with the member of rank `p`: what it reads and what it writes. -/
def State.collParts (s : State) (c : CopyCmd) (p : Nat) : List Part × List Part :=
  let of (w : Bool) : Option (Nat × Nat) → List Part
    | none => []
    | some (a, n) => s.engSome c.ctx w (n / 65536 + 2) a n
  (of false (c.sends p), of true (c.receives p))

/-- A command's item with the member of rank `p` may pass: the items of earlier collectives of this pair have passed (R54), no earlier
engine item owns a line that it reads or writes (R223), and its writes are not stalled (R33). -/
def State.collReady (s : State) (c : CopyCmd) (p : Nat) : Bool :=
  let (rd, wr) := s.collParts c p
  !(s.copies.any fun (_, d) => d.op == .coll && d.ctx == c.ctx && d.members == c.members && decide (d.seq < c.seq) && !d.done
      && d.peers.contains p && (d.peer.find p).isNone)
    && s.linesFree (c.owner 0) (rd ++ wr) && !s.partsStalled wr && s.wordsFree c

/-- A status recorded for a peer's item, unless one is (R51). -/
def State.collRecord (s : State) (key p st : Nat) : State :=
  s.updCopy key fun c => if (c.peer.find p).isSome then c else { c with peer := c.peer.set p st }

/-- What arrives from the member of rank `p` is put where it belongs (R52): in the destination, or among the contributions, with
the scratch buffer's bytes left open. -/
def State.collDeliver (s : State) (key p : Nat) (bs : List Byte) (poison : Bool) : State :=
  match s.copies.find key with
  | none => s
  | some c =>
    match c.receives p with
    | none => s
    | some (a, n) =>
      match s.engRange c.ctx true a n with
      | .error _ => s
      | .ok l =>
        let out := if c.reduces then (List.range n).map fun i => Config.freeByte (s.fresh + i)
          else (List.range n).map fun i => bs.getD i 0
        let s := ({ s with fresh := s.fresh + n } : State).l2Parts c.ctx c.cluster l true
        let s := (s.partsWrite l out).logAppend (partsSig l)
        let s := s.markLines s.mem.logSeq (partLines l)
        let s := if poison then s.poisonParts l else s
        s.updCopy key fun c => { c with contrib := c.contrib.set p bs, mark := s.mem.logSeq }

/-- The bytes that a member sends to the member of rank `p`, whether they are poisoned, and the poisoned sectors. (DESIGN CHOICE, log 62) -/
def State.collBytes (s : State) (c : CopyCmd) (p : Nat) : List Byte × List (Nat × Nat) :=
  match c.sends p with
  | none => ([], [])
  | some (a, n) =>
    match s.engRange c.ctx false a n with
    | .ok l => (s.partsRead l, s.partsPoison a l)
    | .error _ => ([], [])

/-- Every item of a collective has its status. -/
def CopyCmd.collDone (c : CopyCmd) : Bool := c.peers.all fun p => (c.peer.find p).isSome
def CopyCmd.collOk (c : CopyCmd) : Bool := c.peer.all fun x => x.2 == 0

/-- The share of a member that it keeps for itself (R468): where it stands and where it goes. -/
def CopyCmd.ownShare (c : CopyCmd) : Option (Nat × Nat) :=
  match c.cop4 with
  | 1 => if c.rank = c.root then some (c.src, c.dst) else none
  | 2 => if c.rank = c.root then some (c.src, c.dst + c.len * c.rank) else none
  | 3 => some (c.src, c.dst + c.len * c.rank)
  | 4 => some (c.src + c.len * c.rank, c.dst)
  | 5 => some (c.src, c.dst)
  | 6 => some (c.src + c.len * c.rank, c.dst + c.len * c.rank)
  | _ => none

/-- Bytes put in a member's destination, signed and marked; poisoned ones poison it, with the record of their sectors (R239, R240). A
destination that no longer translates is left out. (DESIGN CHOICE, log 103) -/
def State.collPut (s : State) (c : CopyCmd) (d : Nat) (bs : List Byte) (poison : List (Nat × Nat)) : State :=
  match s.engRange c.ctx true d c.len with
  | .error _ => s
  | .ok r =>
    let s := (s.reportSectors recEccUncorrected (some c.ctx) poison).l2Parts c.ctx c.cluster r true
    let s := (s.partsWrite r bs).logAppend (partsSig r)
    let s := s.markLines s.mem.logSeq (partLines r)
    if poison = [] then s else s.poisonParts r

/-- A member's own share of a collective that does not reduce reaches its destination (R468). -/
def State.collOwn (s : State) (c : CopyCmd) : State :=
  match c.ownShare with
  | none => s
  | some (a, d) =>
    match s.engRange c.ctx false a c.len with
    | .ok l => s.collPut c d (s.partsRead l) (s.partsPoison a l)
    | .error _ => s

/-- A collective may end: no earlier engine item owns a line of its own share or of the destination that it still writes, and these take
writes (R33, R223). -/
def State.collEndFree (s : State) (c : CopyCmd) : Bool :=
  match c.ownShare with
  | none => s.wordsFree c
  | some (a, d) =>
    let wr := s.engSome c.ctx true (c.len / 65536 + 2) d c.len
    s.linesFree (c.owner 0) (s.engSome c.ctx false (c.len / 65536 + 2) a c.len ++ wr) && !s.partsStalled wr && s.wordsFree c

/-- A collective is over: its lines are released and its words written. -/
def State.collEnd (s : State) (key : Nat) : State :=
  match s.copies.find key with
  | none => s
  | some c =>
    ((s.disown (c.owner 0)).pulse c.ctx).copyDone key

/-- A collective whose items all have a status is over when it does not reduce, and when an item failed: a reduction then
commits nothing, and its items that were OK become ABANDONED (R52). -/
def State.collSettle (s : State) (key : Nat) : State :=
  match s.copies.find key with
  | none => s
  | some c =>
    if c.op != .coll || c.done || !c.collDone then s
    else if !c.reduces then
      (if c.stop.isSome then s.collEnd key else if s.collEndFree c then (s.collOwn c).collEnd key else s)
    else if c.collOk then s
    else (s.updCopy key fun c => { c with peer := c.peer.mapV fun _ x => if x = 0 then 0x06 else x }).collEnd key

/-- The item between the members of two commands of this package (R51, R52): both statuses and both directions. A failed item leaves
its slice old: each of its sectors may hold either. (DESIGN CHOICE, log 104) -/
def State.collPair (s : State) (k1 : Nat) (c1 : CopyCmd) (k2 : Nat) (c2 : CopyCmd) : State :=
  let both (a b : Nat) : State := (s.collRecord k1 c2.rank a).collRecord k2 c1.rank b
  let s := match s.collLocal c1 c2.rank, s.collLocal c2 c1.rank with
    | some a, some b => both a b
    | some a, none => both a (peerStatus a)
    | none, some b => both (peerStatus b) b
    | none, none =>
      let s := (s.l2Parts c1.ctx c1.cluster (s.collParts c1 c2.rank).1 false).l2Parts c2.ctx c2.cluster (s.collParts c2 c1.rank).1 false
      let (d12, po12) := s.collBytes c1 c2.rank
      let (d21, po21) := s.collBytes c2 c1.rank
      let s := s.reportSectors recEccUncorrected (some c1.ctx) po12
      let s := s.reportSectors recEccUncorrected (some c2.ctx) po21
      let st := if po12 = [] && po21 = [] then 0 else 0x05
      let s := (s.collDeliver k2 c1.rank d12 (po12 ≠ [])).collDeliver k1 c2.rank d21 (po21 ≠ [])
      (s.collRecord k1 c2.rank st).collRecord k2 c1.rank st
  (s.collSettle k1).collSettle k2

/-- COLLECTIVE_ITEM_DONE: command `unit`, peer rank `sub`. For a peer on this package its command is found and the item passes in
both directions; for another package the fabric gives the outcome `val` and the peer's bytes `list`. -/
def State.collItem (s : State) (key p val : Nat) (bytes : List Nat) : State :=
  match s.copies.find key with
  | none => s
  | some c =>
    if c.op != .coll || c.done || !c.started then s
    else if c.collDone then s.collSettle key
    else if !c.peers.contains p || (c.peer.find p).isSome || !s.collReady c p then s
    else if (c.members.getD p (0, 0)).1 = s.fabric.pkgid then
      match s.collPeer c p with
      | none => (match s.collLocal c p with | some st => (s.collRecord key p st).collSettle key | none => s)
      | some (k2, c2) =>
        match c2.peer.find c.rank with
        | some st => (s.collRecord key p (peerStatus st)).collSettle key
        | none => if !c2.started || !s.collReady c2 c.rank then s else s.collPair key c k2 c2
    else
      let (_, po) := s.collBytes c p
      let s1 := match s.collLocal c p with
        | some st => s.collRecord key p st
        | none =>
          if po ≠ [] then (s.reportSectors recEccUncorrected (some c.ctx) po).collRecord key p 0x05
          else if val ≠ 0 && val ≤ 0x0A then s.collRecord key p val
          else (s.collDeliver key p (bytes.map fun x => BitVec.ofNat 8 x) false).collRecord key p 0
      s1.collSettle key

/-- `COLLECTIVE_ITEM_DONE` (R51). -/
def execCollectiveItemDone (s : State) : Host.Outcome State Fault Refusal :=
  .next (s.collItem s.inp.unit s.inp.sub s.inp.val s.inp.list)

/-- Numbers that order floats with -0 below +0 (R50). -/
def floatKey (w x : Nat) : Int := if bits x (w - 1) 1 = 1 then -(bits x 0 (w - 1) : Nat) - 1 else (bits x 0 (w - 1) : Nat)

/-- One element reduced over the contributions in rank order (R50): `op` 0 sum, 1 minimum, 2 maximum. -/
def reduceElem (ctype op : Nat) (xs : List Nat) : Nat :=
  let fmt := match ctype with | 0 => fp32 | 1 => bf16 | _ => fp16
  if ctype < 3 then
    let nan := xs.any fun x => (fmt.value x).isNan
    if nan then fmt.nan
    else if op = 0 then
      let wide := xs.map fun x => (fp32.convert .rne .ieee (fmt.value x)).1
      let sum := match wide with | [] => 0 | x :: t => t.foldl (fun a y => (faddC fp32 .rne .ieee a y).1) x
      if ctype = 0 then sum else (fmt.convert .rne .ieee (fp32.value sum)).1
    else
      let better (x y : Nat) : Bool :=
        if op = 1 then decide (floatKey fmt.width x < floatKey fmt.width y) else decide (floatKey fmt.width y < floatKey fmt.width x)
      match xs with | [] => 0 | x :: t => t.foldl (fun a y => if better y a then y else a) x
  else
    let v (x : Nat) : Int := intOf (ctype == 3) 32 x
    if op = 0 then xs.foldl (· + ·) 0 % 2 ^ 32
    else
      let better (x y : Nat) : Bool := if op = 1 then decide (v x < v y) else decide (v y < v x)
      match xs with | [] => 0 | x :: t => t.foldl (fun a y => if better y a then y else a) x

/-- The result of a reduction from each member's bytes. -/
def reduceBytes (ctype op len : Nat) (cs : List (List Byte)) : List Byte :=
  let k := ctypeBytes ctype
  (List.range (len / k)).flatMap fun i => bytesLE k (reduceElem ctype op (cs.map fun bs => fieldAt bs (k * i) k))

/-- The members of a group that a collective has another command of, on this package or another one. -/
def CopyCmd.others (c : CopyCmd) : List Nat := (List.range c.members.length).filter (· != c.rank)

/-- COLLECTIVE_COMMIT of command `unit` (R52): every item of the members on this package is OK, and `flag` says so of the members
of other packages; the destination takes the reduction. An own contribution that no longer translates counts as bytes of 0.
(DESIGN CHOICE, log 103) -/
def State.collCommit (s : State) (key : Nat) (remote : Bool) : State :=
  match s.copies.find key with
  | none => s
  | some c =>
    if c.op != .coll || c.done || !c.reduces || !c.collDone || !c.collOk then s
    else
      let others := c.others
      let local' (p : Nat) : Bool := (c.members.getD p (0, 0)).1 == s.fabric.pkgid
      let open' := others.any fun p => local' p && (match s.collPeer c p with | some (_, d) => !d.collDone | none => false)
      let bad := others.any fun p =>
        if local' p then (match s.collPeer c p with | some (_, d) => !d.collOk | none => false) else !remote
      if open' || !s.collEndFree c then s
      else if bad then
        (s.updCopy key fun c => { c with peer := c.peer.mapV fun _ _ => 0x06 }).collEnd key
      else
        let a := (c.ownShare.getD (c.src, c.dst)).1
        let (own, po) := match s.engRange c.ctx false a c.len with
          | .ok l => (s.partsRead l, s.partsPoison a l)
          | .error _ => ([], [])
        let cs := (List.range c.members.length).map fun p => if p = c.rank then own else c.contrib.get [] p
        (s.collPut c c.dst (reduceBytes c.ctype (bits c.cop 4 2) c.len cs) po).collEnd key

/-- `COLLECTIVE_COMMIT` (R52). -/
def execCollectiveCommit (s : State) : Host.Outcome State Fault Refusal := .next (s.collCommit s.inp.unit s.inp.flag)

/-- Members that satisfy a test are gone: every item with one of them takes a status, unless it has one (R53, R58). (DEDUCED, log 84) -/
def State.collGone (s : State) (p : Nat × Nat → Bool) (st : Nat) : State :=
  (s.copies.filter fun x => x.2.op == .coll && !x.2.done).foldl (fun s (key, c) =>
    let hit := c.peers.filter fun r => p (c.members.getD r (0, 0))
    if hit = [] then s else (hit.foldl (fun s r => s.collRecord key r st) s).collSettle key) s

/-- A collective's unstarted items end with a status at this member, and at the members of this package that wait for them. (DEDUCED, log 63) -/
def State.collStop (s : State) (key st : Nat) : State :=
  match s.copies.find key with
  | none => s
  | some c =>
    if c.op != .coll || c.done then s else
    let open' := c.peers.filter fun p => (c.peer.find p).isNone
    let s := s.updCopy key fun c => { c with stop := some (c.stop.getD st) }
    let s := open'.foldl (fun s p =>
      let s := s.collRecord key p st
      match s.collPeer c p with
      | some (k2, d) => if d.done then s else (s.collRecord k2 c.rank (peerStatus st)).collSettle k2
      | none => s) s
    s.collSettle key

/-! ### `XC.STAT` and `XC.CANC` (R470) -/

/-- The command of a handle among the latest 1,024 of the issuing context. -/
def Iss.handle (I : Iss) (s : State) (a : BitVec 7) : Option (Nat × CopyCmd) :=
  let h := bits (I.warp.operand a).toNat 0 24
  let n := (s.ctx I.crew.ctx).handles
  let key := I.crew.ctx * 2 ^ 24 + h
  if 1024 ≤ (n + 2 ^ 24 - h) % 2 ^ 24 then none else (s.copies.find key).map fun c => (key, c)

/-- Items of a command that have ended. -/
def CopyCmd.finished (c : CopyCmd) : Nat := c.stats.length + c.peer.length

/-- `XC_STAT` (R470). -/
def execXcStat (v a : BitVec 7) (s : State) : Host.Outcome State Fault Refusal :=
  runInstr (.xcStat v a) s fun I =>
    I.command s (decide (s.copiesOf I.cluster I.crew.ctx < 64)) v fun s =>
      match I.handle s a with
      | none => .refuse rUNKNOWN
      | some (_, c) =>
        let code := if c.done then (if c.bad = 0 then 2 else 3) else if c.started then 1 else 0
        let s1 := if c.done && decide (scCluster ≤ c.scope) then s.acquire I.crew.core c.mark else s
        .accept s1 (2 ^ 8 * code + 2 ^ 11 * min c.finished (2 ^ 21 - 1))

/-- `XC_CANC` (R470). -/
def execXcCanc (v a : BitVec 7) (s : State) : Host.Outcome State Fault Refusal :=
  runInstr (.xcCanc v a) s fun I =>
    I.command s (decide (s.copiesOf I.cluster I.crew.ctx < 64)) v fun s =>
      match I.handle s a with
      | none => .refuse rUNKNOWN
      | some (key, c) =>
        if c.done then .accept s (replyOk 0)
        else if c.op == .coll then .accept (s.collStop key 0x03) (replyOk (c.items - c.peer.length))
        else if c.stop.isSome then .accept s (replyOk 0)
        else
          let n := c.items - c.stats.length - c.running.toNat
          .accept ((s.updCopy key fun c => { c with stop := some 0x03 }).copySettle key) (replyOk n)

end Sys2Proof.Machine
end

