-- ==== Sys2Proof/Machine/Grammar.lean ====
section
/-! DEFINITION. Grammar slots, draft trees and the prefix table (R287-R307, R472, R483). -/

namespace Sys2Proof.Machine

/-! ### Replies (R287, R288) -/

abbrev gREJECT : Nat := 0x01
abbrev gSTACKOVF : Nat := 0x02
abbrev gSTACKUND : Nat := 0x03
abbrev gBADTOKEN : Nat := 0x04
abbrev gSTALE : Nat := 0x05
abbrev gNOTOWNER : Nat := 0x06
abbrev gBUSY : Nat := 0x07
abbrev gBADROLL : Nat := 0x08
abbrev gBADTREE : Nat := 0x09
abbrev gMISS : Nat := 0x0A
abbrev gPINNED : Nat := 0x0B
abbrev gHASCHILD : Nat := 0x0C
abbrev gFULL : Nat := 0x0D
abbrev gDUP : Nat := 0x0E
abbrev gNOPARENT : Nat := 0x0F
abbrev gBADGRAMMAR : Nat := 0x10
abbrev gPAGE : Nat := 0x11
abbrev gPINRANGE : Nat := 0x12

/-- A reply word (R287); a DETAIL that the manual does not define for the command is a free value at the counter `n`. -/
def gWord (n st idx : Nat) (detail : Option Nat) : Nat :=
  st + 2 ^ 8 * (idx % 256) + 2 ^ 16 * (detail.getD (Config.freeNat n) % 2 ^ 16)

/-- A grammar, draft-tree or prefix-table command that ends with a status; the counter of free values moves on. -/
def gEnd (s : State) (st idx : Nat) (detail : Option Nat) : Reply := .accept s.nextFree (gWord s.fresh st idx detail)

/-! ### Reading a grammar (R290) -/

/-- What a read or a step over a grammar gives: a value or a status, with the parts of memory that were read; or a line that engine items
own. -/
inductive GRes (α : Type) where
  | ok (a : α) (rd : List Part)
  | bad (st : Nat) (rd : List Part)
  | held (host : Bool) (line : Nat) (owners : List Nat)

def GRes.bind {α β : Type} (x : GRes α) (f : α → GRes β) : GRes β :=
  match x with
  | .ok a l =>
    (match f a with
      | .ok b m => .ok b (l ++ m)
      | .bad st m => .bad st (l ++ m)
      | .held h k o => .held h k o)
  | .bad st l => .bad st l
  | .held h k o => .held h k o

/-- Bytes of a context as a grammar slot reads them; a read that fails is BAD_GRAMMAR (R293). -/
def State.gRead (s : State) (ctx va n : Nat) : GRes (List Byte) :=
  match s.engRange ctx false va n with
  | .error _ => .bad gBADGRAMMAR []
  | .ok l => (match s.partsOwned l with | some (h, k, o) => .held h k o | none => .ok (s.partsRead l) l)

def State.gNum (s : State) (ctx va n : Nat) : GRes Nat := (s.gRead ctx va n).bind fun bs => .ok (leNat bs) []

/-- A grammar's header (R290). -/
structure GHead where
  nstate : Nat
  nsym : Nat
  nclass : Nat
  vocab : Nat
  cmap : Nat
  ridx : Nat
  rows : Nat

def headOf (bs : List Byte) : GHead :=
  let f := fieldAt bs
  ⟨f 0 2, f 2 2, f 4 2, f 8 4, f 16 8, f 24 8, f 32 8⟩

/-- Whether a header breaks R290. -/
def gHeadBad (bs : List Byte) : Bool :=
  let h := headOf bs
  let f := fieldAt bs
  h.nstate == 0 || h.nsym == 0 || decide (256 < h.nsym) || h.nclass == 0 || decide (4096 < h.nclass) || h.nclass % 32 != 0
    || f 6 2 != 0 || h.vocab == 0 || decide (262144 < h.vocab) || f 12 4 != 0 || f 40 24 != 0

/-- The header at a base, as `GP.BIND` checks it (R292). -/
def State.gHead (s : State) (ctx g : Nat) : GRes GHead :=
  (s.gRead ctx g 64).bind fun bs => if gHeadBad bs then .bad gBADGRAMMAR [] else .ok (headOf bs) []

/-- VOCAB alone, and the fields that a step uses, as they stand (R293). -/
def State.gVocab (s : State) (ctx g : Nat) : GRes Nat := s.gNum ctx (g + 8) 4
def State.gFields (s : State) (ctx g : Nat) : GRes GHead := (s.gRead ctx g 40).bind fun bs => .ok (headOf bs) []

/-- Bytes of a row, and where it lies. -/
def GHead.rowAt (h : GHead) (r : Nat) : Nat := h.rows + r * (h.nclass / 8 + 4 * h.nclass)

/-- State 0xFFFF: the slot has accepted. -/
abbrev gACCEPTED : Nat := 0xFFFF

/-- The symbol on top of a stack. -/
def GSlot.top (g : GSlot) : Nat := if g.depth = 0 then 0 else g.stack.getD (g.depth - 1) 0

/-- The slot is stale: its generation is no longer current (R293). -/
def State.gStale (s : State) (g : GSlot) : Bool := g.gen != ((s.ctx g.owner).gen.get 0 g.gsel).toNat

/-- A symbol pushed. -/
def GSlot.push (g : GSlot) (x : Nat) : GSlot := { g with stack := g.stack.set g.depth x, depth := g.depth + 1 }

/-- A log with an entry appended; of 32 the oldest is dropped. -/
def GSlot.logPut (g : GSlot) (e : Nat) : GSlot :=
  if 32 ≤ g.logn then { g with log := g.log.drop 1 ++ [e] } else { g with log := g.log.set g.logn e, logn := g.logn + 1 }

/-- A slot after an action word (R293). -/
def GSlot.act (g : GSlot) (w : Nat) : GRes GSlot :=
  let op := bits w 24 2
  let sym := bits w 16 8
  if op = 1 && 64 ≤ g.depth then .bad gSTACKOVF []
  else if (op = 2 || op = 3) && g.depth = 0 then .bad gSTACKUND []
  else
    let g1 := g.logPut (g.state + 2 ^ 16 * g.top + 2 ^ 24 * op)
    let g2 := match op with
      | 1 => g1.push sym
      | 2 => { g1 with depth := g1.depth - 1 }
      | 3 => { g1 with depth := g1.depth - 1 }.push sym
      | _ => g1
    .ok { g2 with state := bits w 0 16, steps := (g.steps + 1) % 2 ^ 32 } []

/-- `GP.STEP` of a token (R293). -/
def State.gStep (s : State) (g : GSlot) (t : Nat) : GRes GSlot :=
  if s.gStale g then .bad gSTALE [] else
  if g.state = gACCEPTED then .bad gBADTOKEN [] else
  (s.gVocab g.owner g.gbase).bind fun v =>
    if v ≤ t then .bad gBADTOKEN [] else
    (s.gFields g.owner g.gbase).bind fun h =>
      (s.gNum g.owner (h.cmap + 2 * t) 2).bind fun c =>
        if h.nclass ≤ c || h.nstate ≤ g.state then .bad gBADGRAMMAR [] else
        (s.gNum g.owner (h.ridx + 4 * (g.state * h.nsym + g.top)) 4).bind fun r =>
          (s.gNum g.owner (h.rowAt r + c / 8) 1).bind fun b =>
            if bits b (c % 8) 1 = 0 then .bad gREJECT [] else
            (s.gNum g.owner (h.rowAt r + h.nclass / 8 + 4 * c) 4).bind fun w => g.act w

/-- Whether a row allows a class, as a step reads it: the bit, and of an allowed class its action word too. -/
def State.gAllows (s : State) (g : GSlot) (h : GHead) (r c : Nat) : GRes Bool :=
  if h.nclass ≤ c then .bad gBADGRAMMAR [] else
  (s.gNum g.owner (h.rowAt r + c / 8) 1).bind fun b =>
    if bits b (c % 8) 1 = 0 then .ok false []
    else (s.gNum g.owner (h.rowAt r + h.nclass / 8 + 4 * c) 4).bind fun _ => .ok true []

/-- The mask of a slot as `n` words (R294): a bit for every token that a step would not reject. It reads of a row what the classes of the
tokens use, and no more. -/
def State.gMask (s : State) (g : GSlot) (n : Nat) : GRes (List Byte) :=
  if s.gStale g then .bad gSTALE [] else
  if g.state = gACCEPTED then .ok (List.replicate (4 * n) 0) [] else
  (s.gVocab g.owner g.gbase).bind fun v =>
    if v = 0 then .ok (List.replicate (4 * n) 0) [] else
    (s.gFields g.owner g.gbase).bind fun h =>
      if h.nstate ≤ g.state then .bad gBADGRAMMAR [] else
      (s.gRead g.owner h.cmap (2 * v)).bind fun cm =>
        (s.gNum g.owner (h.ridx + 4 * (g.state * h.nsym + g.top)) 4).bind fun r =>
          let cls := (List.range v).map fun t => fieldAt cm (2 * t) 2
          let used := cls.foldl insertNat []
          (used.foldl (fun (a : GRes (List Nat)) c =>
            a.bind fun on => (s.gAllows g h r c).bind fun b => .ok (if b then c :: on else on) []) (.ok [] [])).bind fun on =>
            .ok ((List.range n).flatMap fun i =>
              bytesLE 4 ((List.range 32).foldl (fun a j =>
                if (match cls[32 * i + j]? with | some c => on.contains c | none => false) then a + 2 ^ j else a) 0)) []

/-! ### Slots -/

def slotKey (cl n : Nat) : Nat := 64 * cl + n % 64
/-- The slot of the issuing context with a number, or NOT_OWNER (R289). -/
def Iss.slotOf (I : Iss) (s : State) (n : Nat) : Option GSlot :=
  match s.gslots.find (slotKey I.cluster n) with
  | some g => if g.owner = I.crew.ctx then some g else none
  | none => none
/-- A command of a slot has not been performed yet. -/
def State.slotBusy (s : State) (cl n : Nat) : Bool := (s.cluster cl).grammarQ.any fun c => c.slot == n

/-- The turn of a context at its cluster's slots for a command that is performed at acceptance, with the arbiter after it (R119, R289):
every earlier command of the context on these slots has been performed, no command of another context is under way in the slots that
it names, and levels 1 and 2 choose the context. -/
def Iss.slotTurn (I : Iss) (s : State) (slots : List Nat) : Option Arbiter :=
  let cl := I.cluster
  let ctx := I.crew.ctx
  if 0 < s.grammarsOf cl ctx || slots.any (s.slotBusy cl) then none else
  let has (c : Nat) : Bool := c == ctx || s.slotWaits cl c
  match s.arbitrate (s.arb (slotsArb cl)) has has with
  | some (c, a) => if c = ctx then some a else none
  | none => none

/-- A command that is performed at acceptance; it waits for its turn. (DEDUCED, log 54) -/
def Iss.slotCommand (I : Iss) (s : State) (v : BitVec 7) (slots : List Nat) (f : State → Reply) : Eff :=
  I.command s (I.slotTurn s slots).isSome v fun s =>
    f (match I.slotTurn s slots with | some a => s.setArb (slotsArb I.cluster) a | none => s)

/-- A command that memory outputs make a queue's entry; it waits for room (R462). -/
def Iss.slotWrite (I : Iss) (s : State) (v : BitVec 7) (f : State → Reply) : Eff :=
  I.command s (decide (s.grammarsOf I.cluster I.crew.ctx < 64)) v f

/-- A result reported in a reply, with the reads of the slot (R108). (DESIGN CHOICE, log 55) -/
def Iss.slotReply (I : Iss) (s : State) (idx : Nat) (detail : Nat → Option Nat) (x : GRes State) : Reply :=
  match x with
  | .ok s' l => gEnd (s'.l2Parts I.crew.ctx I.cluster l false) 0 idx (detail 0)
  | .bad st l => gEnd (s.l2Parts I.crew.ctx I.cluster l false) st idx (detail 1)
  | .held h k o => .wait h k o

/-- A register operand's low word. -/
def Iss.word (I : Iss) (a : BitVec 7) : Nat := (I.warp.operand a).toNat

/-- A slot written in the table of slots. -/
def Iss.putSlot (I : Iss) (s : State) (n : Nat) (g : GSlot) : State := { s with gslots := s.gslots.set (slotKey I.cluster n) g }

/-- `GP_BIND` (R292): the entries of STACK and LOG keep what they hold. -/
def execGpBind (v a b : BitVec 7) (s : State) : Host.Outcome State Fault Refusal :=
  runInstr (.gpBind v a b) s fun I =>
    let w := I.word b
    let n := bits w 0 6
    let held := s.gslots.find (slotKey I.cluster n)
    let other := match held with | some g => g.owner != I.crew.ctx | none => false
    if bits w 6 2 ≠ 0 || bits w 16 16 ≠ 0 then I.slotCommand s v [] fun s => gEnd s gBADGRAMMAR 0xFF none
    else if other && s.slotBusy I.cluster n then I.slotCommand s v [] fun s => gEnd s gBUSY n none
    else
      I.slotCommand s v [n] fun s =>
        let base := I.warp.operand64 a
        let g := bits w 8 8
        I.slotReply s n (fun _ => none) <| (s.gHead I.crew.ctx base).bind fun _ =>
          .ok (I.putSlot s n { held.getD { owner := 0 } with
            owner := I.crew.ctx, gbase := base, state := 0, depth := 0, gsel := g,
            gen := ((s.ctx I.crew.ctx).gen.get 0 g).toNat, logn := 0, steps := 0 }) []

/-- `GP_STEP` (R293). -/
def execGpStep (v a b : BitVec 7) (s : State) : Host.Outcome State Fault Refusal :=
  runInstr (.gpStep v a b) s fun I =>
    let n := I.word a
    if 64 ≤ n then I.slotCommand s v [] fun s => gEnd s gBADGRAMMAR 0xFF none
    else
      I.slotCommand s v [n] fun s =>
        match I.slotOf s n with
        | none => gEnd s gNOTOWNER n none
        | some g =>
          match s.gStep g (I.word b) with
          | .ok g' l => gEnd (I.putSlot (s.l2Parts I.crew.ctx I.cluster l false) n g') 0 n (some g'.state)
          | .bad st l => gEnd (s.l2Parts I.crew.ctx I.cluster l false) st n (some g.state)
          | .held h k o => .wait h k o

/-- `GP_FORK` (R295). -/
def execGpFork (v a b : BitVec 7) (s : State) : Host.Outcome State Fault Refusal :=
  runInstr (.gpFork v a b) s fun I =>
    let n := I.word a
    let d := I.word b
    if 64 ≤ n || 64 ≤ d then I.slotCommand s v [] fun s => gEnd s gBADGRAMMAR 0xFF none
    else
      I.slotCommand s v [n, d] fun s =>
        let free := match s.gslots.find (slotKey I.cluster d) with | some g => g.owner == I.crew.ctx | none => true
        match I.slotOf s n with
        | none => gEnd s gNOTOWNER d none
        | some g => if free then gEnd (I.putSlot s d g) 0 d none else gEnd s gNOTOWNER d none

/-- The newest log entry undone (R296). Of a slot that an image filled with a log that its stack does not answer to, a push at depth 64
or a pop at depth 0 leaves a depth that the manual does not give: a free value, at the counter `n`. (DESIGN CHOICE, log 56) -/
def GSlot.undo (g : GSlot) (n e : Nat) : GSlot :=
  let top := bits e 16 8
  let open' : GSlot := { g with depth := Config.freeNat n % 65 }
  let g1 := match bits e 24 2 with
    | 1 => if g.depth = 0 then open' else { g with depth := g.depth - 1 }
    | 2 => if g.depth = 64 then open' else g.push top
    | 3 => if g.depth = 0 then open' else { g with depth := g.depth - 1 }.push top
    | _ => g
  { g1 with state := bits e 0 16 }

/-- `GP_ROLL` (R296). -/
def execGpRoll (v a b : BitVec 7) (s : State) : Host.Outcome State Fault Refusal :=
  runInstr (.gpRoll v a b) s fun I =>
    let n := I.word a
    let k := I.word b
    if 64 ≤ n || 64 ≤ k then I.slotCommand s v [] fun s => gEnd s gBADGRAMMAR 0xFF none
    else
      I.slotCommand s v [n] fun s =>
        match I.slotOf s n with
        | none => gEnd s gNOTOWNER n none
        | some g =>
          if g.logn < k then gEnd s gBADROLL n (some g.logn)
          else
            let keep := g.logn - k
            let g1 := (((g.log.drop keep).take k).reverse.zipIdx).foldl (fun g (e, i) => g.undo (s.fresh + i) e) g
            let g2 := { g1 with
              logn := keep, steps := (g.steps + 2 ^ 32 - k) % 2 ^ 32, gen := ((s.ctx g.owner).gen.get 0 g.gsel).toNat }
            gEnd (I.putSlot { s with fresh := s.fresh + k } n g2) 0 n (some keep)

/-- A command that writes memory queued on its slot: its reply tells what acceptance found (R483). -/
def Iss.slotQueue (I : Iss) (s : State) (n : Nat) (detail : Option Nat) (out size align : Nat) (w : GWork) : Reply :=
  if out % align ≠ 0 || !s.engOk I.crew.ctx true out size then gEnd s gPAGE n detail
  else
    let s := s.updCluster I.cluster fun c => { c with grammarQ := c.grammarQ ++ [⟨n, I.crew.ctx, I.crew.slate, w, false⟩] }
    gEnd (s.cmdUp I.crew.slate) 0 n detail

/-- The words of a mask by the VOCAB that the slot's base names (R294). -/
def State.maskWords (s : State) (g : GSlot) : GRes Nat :=
  (s.gVocab g.owner g.gbase).bind fun v => .ok ((v + 31) / 32) []

/-- `GP_MASK` (R294). Where VOCAB cannot be read, no rule says where the completion word lies: the mask then has no words. (DESIGN CHOICE,
log 56) -/
def execGpMask (v a b : BitVec 7) (s : State) : Host.Outcome State Fault Refusal :=
  runInstr (.gpMask v a b) s fun I =>
    let n := I.word a
    if 64 ≤ n then I.slotCommand s v [] fun s => gEnd s gBADGRAMMAR 0xFF (some 0)
    else
      I.slotWrite s v fun s =>
        match I.slotOf s n with
        | none => gEnd s gNOTOWNER n (some 0)
        | some g =>
          let out := I.warp.operand64 b
          let queue (s : State) (k : Nat) : Reply := I.slotQueue s n (some 0) out (4 * k + 4) 4 (.mask out (out + 4 * k))
          match s.maskWords g with
          | .held h k o => .wait h k o
          | .bad _ _ => queue s 0
          | .ok k l => queue (s.l2Parts I.crew.ctx I.cluster l false) k

/-- `GP_SAVE` (R297). -/
def execGpSave (v a b : BitVec 7) (s : State) : Host.Outcome State Fault Refusal :=
  runInstr (.gpSave v a b) s fun I =>
    let n := I.word a
    if 64 ≤ n then I.slotCommand s v [] fun s => gEnd s gBADGRAMMAR 0xFF none
    else
      I.slotWrite s v fun s =>
        match I.slotOf s n with
        | none => gEnd s gNOTOWNER n none
        | some _ => let out := I.warp.operand64 b; I.slotQueue s n none out 256 64 (.save out)

/-- A slot from the bytes of an image; none where R297 ends it BAD_GRAMMAR. -/
def slotOfImage (owner : Nat) (bs : List Byte) : Option GSlot :=
  let f := fieldAt bs
  if 64 < f 10 1 || 32 < f 11 1 || f 13 1 ≠ 0 || f 14 2 ≠ 0 || f 216 36 ≠ 0 then none
  else
    some { owner := owner, gbase := f 0 8 % 2 ^ 57, state := f 8 2, depth := f 10 1, stack := (List.range 64).map fun i => f (24 + i) 1,
           gsel := f 12 1, gen := f 16 4, logn := f 11 1, log := (List.range 32).map fun i => f (88 + 4 * i) 4, steps := f 20 4 }

/-- `GP_LOAD` (R297). (DESIGN CHOICE, log 56) -/
def execGpLoad (v a b : BitVec 7) (s : State) : Host.Outcome State Fault Refusal :=
  runInstr (.gpLoad v a b) s fun I =>
    let n := I.word a
    if 64 ≤ n then I.slotCommand s v [] fun s => gEnd s gBADGRAMMAR 0xFF none
    else
      I.slotCommand s v [n] fun s =>
        let free := match s.gslots.find (slotKey I.cluster n) with | some g => g.owner == I.crew.ctx | none => true
        let va := I.warp.operand64 b
        if !free then gEnd s gNOTOWNER n none
        else if va % 64 ≠ 0 then gEnd s gPAGE n none
        else
          match s.gRead I.crew.ctx va 256 with
          | .held h k o => .wait h k o
          | .bad _ _ => gEnd s gPAGE n none
          | .ok bs l =>
            let s := s.l2Parts I.crew.ctx I.cluster l false
            match slotOfImage I.crew.ctx bs with
            | none => gEnd s gBADGRAMMAR n none
            | some g => gEnd (I.putSlot s n g) 0 n none

/-- The bytes of a slot image before its completion word (R297). -/
def slotImage (g : GSlot) : List Byte :=
  bytesLE 8 g.gbase ++ bytesLE 2 g.state ++ bytesLE 1 g.depth ++ bytesLE 1 g.logn ++ bytesLE 1 g.gsel
    ++ bytesLE 3 0 ++ bytesLE 4 g.gen ++ bytesLE 4 g.steps
    ++ (List.range 64).map (fun i => BitVec.ofNat 8 (g.stack.getD i 0))
    ++ (List.range 32).flatMap (fun i => bytesLE 4 (g.log.getD i 0))
    ++ bytesLE 36 0

/-- A completion word of a slot command (R287). -/
def State.gDone (s : State) (ctx word st detail : Nat) : State := s.engWord ctx word st detail scCluster

/-- Bytes that a slot writes, with the L2 fills of its context (R108). -/
def State.gStore (s : State) (cl ctx va : Nat) (bs : List Byte) : State :=
  match s.engRange ctx true va bs.length with
  | .error _ => s
  | .ok l => (s.l2Parts ctx cl l true).engStore ctx va bs

/-- The output of a slot's command, its completion word included. -/
def GWork.output : GWork → Nat × Nat
  | .mask a word => (a, word + 4 - a)
  | .save a => (a, 256)

/-- A command of a slot performed: its output, then its completion word; none while a line of the grammar is owned. -/
def State.gPerform (s : State) (cl : Nat) (c : GCmd) : Option State :=
  match s.gslots.find (slotKey cl c.slot) with
  | none => some s
  | some g =>
    match c.work with
    | .mask a word =>
      (match s.gMask g ((word - a) / 4) with
        | .held .. => none
        | .bad st l => some ((s.l2Parts c.ctx cl l false).gDone c.ctx word st g.steps)
        | .ok bs l => some (((s.l2Parts c.ctx cl l false).gStore cl c.ctx a bs).gDone c.ctx word 0 g.steps))
    | .save a => some (((s.gStore cl c.ctx a (slotImage g)).gDone c.ctx (a + 252) 0 (Config.freeNat s.fresh)).nextFree)

/-- A command of a cluster's slots leaves their queue. -/
def State.grammarDone (s : State) (cl i : Nat) (c : GCmd) : State :=
  (((s.updCluster cl fun k => { k with grammarQ := k.grammarQ.eraseIdx i }).cmdDown c.slate).pulse c.ctx).wakeEngine

/-- A command of the slots may be performed: it has started, every earlier one of its context has been performed (R289), its output lies
on no page that is migrating (R33), and the rails are on (R31). -/
def State.gReady (s : State) (cl : Nat) (before : List GCmd) (c : GCmd) : Bool :=
  c.started && s.railsOn cl && (before.all fun d => d.ctx != c.ctx)
    && !s.partsStalled (s.engSome c.ctx true (c.work.output.2 / 65536 + 2) c.work.output.1 c.work.output.2)

/-- GRAMMAR_SLOT_PERFORM of slot `sub` on cluster `unit`: its oldest command, once its turn has come. -/
def State.grammarPerform (s : State) (cl n : Nat) : State :=
  let q := (s.cluster cl).grammarQ
  match q.findIdx? fun c => c.slot == n with
  | none => s
  | some i =>
    match q[i]? with
    | none => s
    | some c =>
      if !s.gReady cl (q.take i) c then s else
      match s.gPerform cl c with
      | none => s
      | some s1 => s1.grammarDone cl i c

/-- `GRAMMAR_SLOT_PERFORM` (R289). -/
def execGrammarSlotPerform (s : State) : Host.Outcome State Fault Refusal := .next (s.grammarPerform s.inp.unit s.inp.sub)

/-- Commands of slots, by cluster and context, that will not be performed: BUSY in their completion words (R298). -/
def State.grammarFail (s : State) (p : Nat → Nat → Bool) : State :=
  s.clusters.foldl (fun s (cl, k) =>
    (k.grammarQ.filter fun c => p cl c.ctx).foldl (fun s c =>
      let steps := (s.gslots.get { owner := 0 } (slotKey cl c.slot)).steps
      let s := match c.work with
        | .mask _ word => s.gDone c.ctx word gBUSY steps
        | .save a => (s.gDone c.ctx (a + 252) gBUSY (Config.freeNat s.fresh)).nextFree
      match (s.cluster cl).grammarQ.findIdx? (· == c) with
      | some i => s.grammarDone cl i c
      | none => s) s) s

/-- Those of a context that ends. -/
def State.grammarAbort (s : State) (ctx : Nat) : State := s.grammarFail fun _ c => c == ctx

/-! ### Draft trees (R299) -/

/-- The node from whose depth the rule breaks, if any. -/
def treeBad (d : List Nat) : Option Nat :=
  (List.range d.length).find? fun i =>
    let x := d.getD i 0
    if i = 0 then x != 0 else x == 0 || decide (d.getD (i - 1) 0 + 1 < x) || decide (63 < x)

/-- Parents in preorder: the last node before `i` that is one level up; 0xFFFF for none. -/
def treeParent (d : List Nat) (i : Nat) : Nat :=
  (((List.range i).reverse.find? fun j => decide (d.getD j 0 < d.getD i 0))).getD 0xFFFF

/-- The row of ancestors of each node, in order. -/
def treeRows (ps : List Nat) : List Nat :=
  ps.zipIdx.foldl (fun rows (p, i) => rows ++ [2 ^ i + (if p = 0xFFFF then 0 else rows.getD p 0)]) []

/-- `DT_BUILD` (R299). -/
def execDtBuild (v a : BitVec 7) (s : State) : Host.Outcome State Fault Refusal :=
  runInstr (.dtBuild v a) s fun I =>
    I.command s true v fun s =>
      let ctx := I.crew.ctx
      let va := I.warp.operand64 a
      if va % 32 ≠ 0 then gEnd s gPAGE 0xFF none else
      match s.gRead ctx va 32 with
      | .held h k o => .wait h k o
      | .bad _ _ => gEnd s gPAGE 0xFF none
      | .ok bs l0 =>
        let s := s.l2Parts ctx I.cluster l0 false
        let n := fieldAt bs 0 2
        let p := fieldAt bs 16 8
        let q := fieldAt bs 24 8
        let rw' := (n + 31) / 32
        if n = 0 || 256 < n || fieldAt bs 2 6 ≠ 0 then gEnd s gBADTREE 0xFF none
        else
          match s.gRead ctx (fieldAt bs 8 8) n with
          | .held h k o => .wait h k o
          | .bad _ _ => gEnd s gPAGE 0xFF none
          | .ok ds l1 =>
            let s := s.l2Parts ctx I.cluster l1 false
            if p % 4 ≠ 0 || q % 4 ≠ 0 || !s.engOk ctx true p (2 * n) || !s.engOk ctx true q (4 * n * rw' + 4) then
              gEnd s gPAGE 0xFF none
            else
              match (s.engSome ctx true 2 p (2 * n) ++ s.engSome ctx true 2 q (4 * n * rw' + 4)).find? fun x => s.partsStalled [x] with
              | some x => .stall (x.2.1 / 65536)
              | none =>
              let d := ds.map BitVec.toNat
              let word := q + 4 * n * rw'
              match treeBad d with
              | some i => gEnd (s.gDone ctx word gBADTREE i) 0 0xFF none
              | none =>
                let ps := (List.range n).map fun i => treeParent d i
                let s1 := s.gStore I.cluster ctx p (ps.flatMap fun x => bytesLE 2 x)
                let s2 := s1.gStore I.cluster ctx q ((treeRows ps).flatMap fun x => bytesLE (4 * rw') x)
                gEnd ((s2.gDone ctx word 0 (Config.freeNat s.fresh)).nextFree) 0 0xFF none

/-! ### The prefix table (R304-R307) -/

/-- The entry of a hash. -/
def Ctx.ptFind (c : Ctx) (h : Nat) : Option (Nat × PtEnt) := c.ptab.find? fun x => x.2.hash == h
/-- An entry written, and made the most recently used. -/
def Ctx.ptUse (c : Ctx) (n : Nat) (e : PtEnt) : Ctx := { c with ptab := c.ptab.set n e, ptAge := n :: c.ptAge.filter (· != n) }
/-- An entry invalidated. -/
def Ctx.ptDrop (c : Ctx) (n : Nat) : Ctx := { c with ptab := c.ptab.del n, ptAge := c.ptAge.filter (· != n) }
/-- A valid entry names it as parent. -/
def Ctx.ptChild (c : Ctx) (n : Nat) : Bool := c.ptab.any fun x => x.2.parent == some n
/-- The entry that an insertion evicts: the least recently used without pins and without a valid child. -/
def Ctx.ptVictim (c : Ctx) : Option Nat :=
  c.ptAge.reverse.find? fun n => (match c.ptab.find n with | some e => e.pins == 0 | none => false) && !c.ptChild n

/-- A prefix-table command: it completes at acceptance. -/
def Iss.ptCommand (I : Iss) (s : State) (v : BitVec 7) (f : State → Ctx → Nat × Nat × Option Nat × Ctx) : Eff :=
  I.command s true v fun s =>
    let (st, idx, detail, c) := f s (s.ctx I.crew.ctx)
    gEnd (if st = 0 || st = gDUP then s.updCtx I.crew.ctx fun _ => c else s) st idx detail

/-- `PT_LOOK` (R306). -/
def execPtLook (v a : BitVec 7) (s : State) : Host.Outcome State Fault Refusal :=
  runInstr (.ptLook v a) s fun I =>
    I.ptCommand s v fun _ c =>
      match c.ptFind (I.warp.operand64 a) with
      | none => (gMISS, 0xFF, none, c)
      | some (n, e) => (0, n, some e.pins, c.ptUse n e)

/-- `PT_PIN` (R306). -/
def execPtPin (v a : BitVec 7) (s : State) : Host.Outcome State Fault Refusal :=
  runInstr (.ptPin v a) s fun I =>
    I.ptCommand s v fun _ c =>
      match c.ptFind (I.warp.operand64 a) with
      | none => (gMISS, 0xFF, none, c)
      | some (n, e) =>
        if 0xFFFF ≤ e.pins then (gPINRANGE, n, some e.pins, c)
        else (0, n, some (e.pins + 1), c.ptUse n { e with pins := e.pins + 1 })

/-- `PT_UNPIN` (R306). -/
def execPtUnpin (v a : BitVec 7) (s : State) : Host.Outcome State Fault Refusal :=
  runInstr (.ptUnpin v a) s fun I =>
    I.ptCommand s v fun _ c =>
      let n := I.word a
      if 64 ≤ n then (gPINRANGE, 0xFF, none, c) else
      match c.ptab.find n with
      | none => (gPINRANGE, n, none, c)
      | some e =>
        if e.pins = 0 then (gPINRANGE, n, some 0, c)
        else (0, n, some (e.pins - 1), { c with ptab := c.ptab.set n { e with pins := e.pins - 1 } })

/-- `PT.INS`: which of several free entries it fills is left open. (DESIGN CHOICE, log 57) -/
def execPtIns (v a b : BitVec 7) (s : State) : Host.Outcome State Fault Refusal :=
  runInstr (.ptIns v a b) s fun I =>
    I.ptCommand s v fun s c =>
      let h := I.warp.operand64 a
      let p := I.word b
      let parent := if p = 0xFFFFFFFF then none else some p
      if 64 ≤ p && p ≠ 0xFFFFFFFF then (gNOPARENT, 0xFF, none, c) else
      match c.ptFind h with
      | some (n, e) => (gDUP, n, some e.pins, c.ptUse n e)
      | none =>
        if p ≠ 0xFFFFFFFF && (c.ptab.find p).isNone then (gNOPARENT, 0xFF, none, c)
        else
          let free := (List.range 64).filter fun n => (c.ptab.find n).isNone
          let slot := if free = [] then c.ptVictim else free[Config.freeNat s.fresh % free.length]?
          match slot with
          | none => (gFULL, 0xFF, none, c)
          | some n => (0, n, some 1, (c.ptDrop n).ptUse n ⟨h, parent, 1⟩)

/-- `PT_EVICT` (R306). -/
def execPtEvict (v a : BitVec 7) (s : State) : Host.Outcome State Fault Refusal :=
  runInstr (.ptEvict v a) s fun I =>
    I.ptCommand s v fun _ c =>
      let n := I.word a
      if 64 ≤ n then (gMISS, 0xFF, none, c) else
      match c.ptab.find n with
      | none => (gMISS, n, none, c)
      | some e =>
        if 0 < e.pins then (gPINNED, n, some e.pins, c)
        else if c.ptChild n then (gHASCHILD, n, some 0, c)
        else (0, n, some 0, c.ptDrop n)

end Sys2Proof.Machine
end

