-- ==== Sys2Proof/Machine/MemEvents.lean ====
section
/-! DEFINITION. Steps of the memory system that no word encodes: page walks and page requests, write buffers, scratchpad banks,
accesses of the host, the patrol scrub, and the migration of pages (R33, R62, R68, R214, R217, R225, R240-R242, R248). -/

namespace Sys2Proof.Machine

/-! ### Walks (R214, R217) -/

/-- The tables that a walk passes from a level down: level and table. -/
def walkTrail (m : MemSt) (va : Nat) : Nat → Nat → Nat → List (Nat × Nat)
  | 0, _, _ => []
  | fuel + 1, level, table =>
    let e := leNat ((List.range 8).map fun i => m.homeByte 0 (table + 8 * walkIndex level va + i))
    if bits e 0 1 = 0 || pteMalformed level e || bits e 1 1 = 1 then [(level, table)]
    else (level, table) :: walkTrail m va fuel (level + 1) (bits e 12 41 * 4096)

/-- Where the walkers of a die start: the lowest table that they hold for an address, or the root. -/
def State.walkStart (s : State) (die ctx va : Nat) : Nat × Nat :=
  let held := (s.mem.walkCache.get [] die).filter fun e => e.ctx == ctx && e.tag == walkTag e.level va
  match held.foldl (fun (b : Option WalkEnt) e => match b with | some x => if x.level < e.level then some e else b | none => some e) none with
  | some e => (e.level, e.table)
  | none => (0, (s.ctx ctx).root)

/-- A walk by the walkers of a die: its result, and the non-leaf entries that it leaves with them. -/
def State.dieWalk (s : State) (die ctx va : Nat) : State × WalkRes :=
  let (level, table) := s.walkStart die ctx va
  let r := walkFrom s.mem ctx va (5 - level) level table
  let new := ((walkTrail s.mem va (5 - level) level table).filter fun x => x.1 != 0).map fun (l, t) => (⟨ctx, l, walkTag l va, t⟩ : WalkEnt)
  let old := s.mem.walkCache.get [] die
  let all := new.foldl (fun l e => if l.contains e then l else e :: l) old
  (s.updMem fun m => { m with walkCache := m.walkCache.set die all }, r)

/-- Sides of a core's crews of a context that wait for a page are issued again, after `f` on their warps. -/
def State.wakePage (s : State) (core ctx : Nat) (wt : Wait) (f : Warp → Warp) : State :=
  let hit (w : Warp) : Bool := w.run.wait == wt || w.div.any fun d => d.wait == wt
  { s with crews := s.crews.mapV fun _ c =>
      if c.core == core && c.ctx == ctx then
        ({ c with warps := c.warps.mapV fun _ w => if hit w then f w else w }).wake fun sd => sd.wait == wt
      else c }

/-- An access to a page must report a cause when it is issued again. -/
def Warp.badPage (page cause : Nat) (w : Warp) : Warp := { w with badPages := { page := page, cause := cause } :: w.badPages.filter fun b => b.page != page }

/-- The walks that a die's 64 walkers have taken up: the first 64 different ones of those requested (R217). -/
def State.walksRun (s : State) (die : Nat) : List (Nat × Nat) :=
  ((s.mem.walks.filter fun w => dieOf (clusterOf w.core) == die).foldl (fun l w =>
    if l.contains (w.ctx, w.page) then l else l ++ [(w.ctx, w.page)]) []).take 64

/-- PAGE_WALK_DONE of the walk at place `sub` of those requested, if a walker has taken it up: every identical walk on the die takes its
result. `flag` says that
the host refused to translate a host bus address (R62): the access then waits for a page request's response under PRI, and
reports PAGE without it. -/
def State.walkDone (s : State) (i : Nat) (refused : Bool) : State :=
  match s.mem.walks[i]? with
  | none => s
  | some k =>
    let die := dieOf (clusterOf k.core)
    if !(s.walksRun die).contains (k.ctx, k.page) then s else
    let same (w : Walk) : Bool := w.ctx == k.ctx && w.page == k.page && dieOf (clusterOf w.core) == die
    let cores := (s.mem.walks.filter same).foldl (fun l w => insertNat l w.core) []
    let s := s.updMem fun m => { m with walks := m.walks.filter fun w => !same w }
    let (s, r) := s.dieWalk die k.ctx (65536 * k.page)
    match r with
    | .pageFault => cores.foldl (fun s c => s.wakePage c k.ctx (.walk k.page) (Warp.badPage k.page cPAGE)) s
    | .leaf e =>
      if e.host && s.ats && refused then
        if s.pri then
          let s : State := { s with priWaits := s.priWaits ++ cores.map fun c => (k.ctx, k.page, c) }
          { s with crews := s.crews.mapV fun _ c =>
              if cores.contains c.core && c.ctx == k.ctx then
                { c with warps := c.warps.mapV fun _ w =>
                    let f (sd : Side) : Side := if sd.wait == .walk k.page then { sd with wait := .pri k.page } else sd
                    { w with run := f w.run, div := w.div.map f } }
              else c }
        else cores.foldl (fun s c => s.wakePage c k.ctx (.walk k.page) (Warp.badPage k.page cPAGE)) s
      else cores.foldl (fun s c => (s.tlbFill c e).wakePage c k.ctx (.walk k.page) id) s

/-- `PAGE_WALK_DONE` (R214). (DEDUCED, log 32) -/
def execPageWalkDone (s : State) : Host.Outcome State Fault Refusal := .next (s.walkDone s.inp.sub s.inp.flag)

/-- PRI_RESPONSE to the request at place `sub`; `flag` says success (R62). -/
def execPriResponse (s : State) : Host.Outcome State Fault Refusal :=
  match s.priWaits[s.inp.sub]? with
  | none => .next s
  | some (ctx, page, core) =>
    let s1 : State := { s with priWaits := s.priWaits.eraseIdx s.inp.sub }
    .next (s1.wakePage core ctx (.pri page) (if s.inp.flag then id else Warp.badPage page cPAGE))

/-! ### Write buffers and scratchpad banks (R225, R248) -/

/-- WRITE_BUFFER_DRAIN of bank group `sub` of core `unit`: its oldest store is performed at its home slice, once no engine item
owns the line. -/
def execWriteBufferDrain (s : State) : Host.Outcome State Fault Refusal :=
  let c := s.core s.inp.unit
  match c.wbuf.find? fun w => w.bankGroup == s.inp.sub with
  | none => .next s
  | some w =>
    if (s.mem.dirOf w.ent.host (w.pa / 128)).owners ≠ [] then .next s
    else .next ((s.setCore s.inp.unit { c with wbuf := c.wbuf.erase w }).performStore s.inp.unit w)

/-- SCRATCHPAD_ACCESS_DONE: bank `sub` of core `unit` serves its oldest request. -/
def execScratchpadAccessDone (s : State) : Host.Outcome State Fault Refusal :=
  let core := s.inp.unit
  let c := s.core core
  match c.bankQ.find? fun x => x.1 == s.inp.sub with
  | none => .next s
  | some x =>
    let s1 := s.setCore core { c with bankQ := c.bankQ.erase x }
    let s2 := s1.updCrew x.2.1 fun k =>
      match k.warps.find x.2.2 with
      | some w => { k with warps := k.warps.set x.2.2 { w with spadOut := w.spadOut - 1, spadBusy := w.spadBusy && decide (1 < w.spadOut) } }
      | none => k
    .next (s2.wake (fun k => k.core == core) fun sd => sd.wait == .bank x.1)

/-- DIVERGENCE_YIELD of warp `sub` of crew `unit` (R161). -/
def execDivergenceYield (s : State) : Host.Outcome State Fault Refusal :=
  .next (s.updCrew s.inp.unit fun c =>
    match c.warps.find s.inp.sub with
    | some w => if 64 ≤ w.issued && w.div != [] then { c with warps := c.warps.set s.inp.sub (w.yieldSide c) } else c
    | none => c)

/-! ### The host's accesses (R68, R242) -/

/-- HOST_PORT_ACCESS by function `func`. With `val` 0: bytes `list` written at address `sub` of context `unit`, as the page's entry
lets it, at its home slice; with an empty list a read, which changes nothing. With `val` 1: the host writes its own memory at
address `sub`. -/
def State.hostAccess (s : State) (f : Nat) : State :=
  let bs := s.inp.list.map (BitVec.ofNat 8 ·)
  if s.inp.val = 1 then s.homePut true 0 s.inp.sub bs
  else
    match s.engRange s.inp.unit true s.inp.sub bs.length with
    | .error _ => s
    | .ok l =>
      if (s.partsOwned l).isSome || s.partsStalled l then s
      else (s.partsWrite l bs).updFunc f fun x => { x with wrote := x.wrote ||| partsSig (l.filter fun p => !p.1.host) }

/-- `HOST_PORT_ACCESS` (R242). -/
def execHostPortAccess (s : State) : Host.Outcome State Fault Refusal := .next (s.hostAccess s.inp.func)

/-! ### The patrol scrub (R240, R241) -/

/-- A corrected error of a row (R240): one record a millisecond, with the corrections since the last. -/
def State.eccCorrected (s : State) (sector n : Nat) : State :=
  let row := sector / 64
  let (last, cnt) := s.mem.eccRows.get (none, 0) row
  let quiet := match last with | some t => decide (s.tick < t + 200000) | none => false
  if quiet then s.updMem fun m => { m with eccRows := m.eccRows.set row (last, cnt + n) }
  else
    let s1 := s.updMem fun m => { m with eccRows := m.eccRows.set row (some s.tick, 0) }
    s1.post 0 { recEccCorrected with unit := unitOf 1 (stackOfPa (32 * sector)), flags := 1, a0 := 32 * sector, l0 := 32, d1 := cnt + n }

/-- A sector of device memory becomes poisoned (R238). -/
def State.poisonAt (s : State) (k : Nat) : State := s.updMem fun m => { m with poison := insertNat m.poison k }

/-- The core that a number in a cluster names: 0 to 9, or 10 for its control core. -/
def coreIn (cl n : Nat) : Nat := if n < 10 then 10 * cl + n else 320 + cl

/-- An error that a structure of R238 other than DRAM cannot correct: `cl` is the cluster or the die, `n` the core in the cluster,
`pos` the sector, line, register, row, entry, granule or place, and `l` what else names it. -/
def State.structureLost (s : State) (code cl n pos : Nat) (l : List Nat) : State :=
  let core := coreIn cl n
  let hit (x : L1Line) : Bool := !x.host && x.line == pos / 4
  match code with
  | 2 =>
    let dirty := (s.core core).l1.any fun x => hit x && (x.dirty >>> (32 * (pos % 4))).setWidth 32 != 0
    let s := s.flushLines core false hit
    if dirty then s.poisonAt pos else s
  | 3 => if s.mem.l2.any fun x => x.die == cl && !x.host && x.line == pos / 4 && x.dirty then s.poisonAt pos else s
  | 4 => (List.range 4).foldl (fun s i => s.poisonAt (4 * pos + i)) s
  | 5 => s.updCore core fun k => { k with spadPoison := insertNat k.spadPoison pos }
  | 6 => s.updCrew (l.getD 0 0) fun c => match c.warps.find (l.getD 1 0) with
    | some w => { c with warps := c.warps.set (l.getD 1 0) { w with
        poison := w.poison.set pos (w.poison.get 0 pos ||| maskOf fun i => i == l.getD 2 0) } }
    | none => c
  | 7 => s.updMx cl fun m =>
    let len := (m.ctl (l.getD 0 0)).rowLen
    { m with tPoison := (touchedUnits 32 (tileSize * l.getD 0 0 + pos * len) len).foldl insertNat m.tPoison }
  | 8 => s.updMx cl fun m => { m with accPoison := insertNat m.accPoison pos }
  | 9 => s.updMx cl fun m => if l.getD 0 0 = 0 then { m with wPoison := insertNat m.wPoison pos } else { m with aPoison := insertNat m.aPoison pos }
  | 10 => s.updCore core fun k => { k with tlb := k.tlb.eraseIdx pos }
  | 11 => s.updCore core fun k => { k with icache := k.icache.eraseIdx pos }
  | _ => s

/-- SOFT_ERROR of a corrected structure (R87, R238): of a die for an L2 slice, an L2 tag or a die's walker caches, else of a cluster. -/
def State.softError (s : State) (code unit n cnt : Nat) (die : Bool) : State :=
  s.post 0 { recSoftError with
    unit := unitOf (if die || code == 3 || code == 4 then 6 else 0) unit, d0 := code + 2 ^ 8 * (n % 256) + 2 ^ 16 * (cnt % 2 ^ 32) }

/-- PATROL_SCRUB of sector `unit`: `sub` 0 finds it clean or its poison old, 1 corrects `val` errors, 2 finds an error that it cannot
correct. With `sub` 3 the step is an error of another structure of R238, whose code is `val`, of cluster or die `unit`, core or slice
`aux`: corrected, for the time that `list` counts, when `flag` is false, or else at the place that `list` gives. (DESIGN CHOICE, log 81) -/
def execPatrolScrub (s : State) : Host.Outcome State Fault Refusal :=
  let k := s.inp.unit
  if s.inp.sub = 3 then
    if s.inp.val < 2 || 11 < s.inp.val then .next s
    else if s.inp.flag then .next (s.structureLost s.inp.val k s.inp.aux (s.inp.list.headD 0) (s.inp.list.drop 1))
    else .next (s.softError s.inp.val k s.inp.aux (s.inp.list.headD 0) (s.inp.list.getD 1 0 == 1))
  else if dramSize ≤ 32 * k then .next s
  else if s.inp.sub = 1 then .next (s.eccCorrected k s.inp.val)
  else if s.inp.sub = 2 then .next ((s.poisonAt k).reportSectors recEccUncorrected none [(k, 0)])
  else if s.mem.poison.contains k then .next (s.reportSectors recEccUncorrected none [(k, 0)])
  else .next s

/-! ### Migration of pages (R33) -/

/-- The cells of a range moved, over what the other range held. -/
def Cells.move (m : Cells) (old new n : Nat) : Cells :=
  (m.filter fun c => decide (old ≤ c.1) && decide (c.1 < old + n)).foldl (fun m c => m.set (c.1 - old + new) c.2) (m.zero new n)
def Tbl.move {α : Type} (t : Tbl α) (old new n : Nat) : Tbl α :=
  (t.filter fun c => decide (old ≤ c.1) && decide (c.1 < old + n)).foldl (fun m c => Tbl.set m (c.1 - old + new) c.2)
    (t.filter fun c => c.1 < new || new + n ≤ c.1)
/-- Numbers of a range copied to another range, over those that it held. -/
def moveNats (l : List Nat) (old new n : Nat) : List Nat :=
  (l.filter fun k => decide (old ≤ k) && decide (k < old + n)).foldl (fun l k => insertNat l (k - old + new))
    (l.filter fun k => k < new || new + n ≤ k)

/-- The entries of a table that are not zero, by their numbers. -/
def tableEntries (m : MemSt) (table : Nat) : List Nat :=
  (m.dram.filter fun c => decide (table ≤ c.1) && decide (c.1 < table + 4096)).foldl (fun l c => insertNat l ((c.1 - table) / 8)) []

/-- A table, those under it, and the pages of device memory that they map: first address and size. -/
def mappedPages (m : MemSt) : Nat → Nat → Nat → List (Nat × Nat)
  | 0, _, _ => []
  | n + 1, level, table => (table, 4096) :: (tableEntries m table).flatMap fun i =>
    let e := leNat ((List.range 8).map fun j => m.homeByte 0 (table + 8 * i + j))
    if bits e 0 1 = 0 || pteMalformed level e then []
    else if bits e 1 1 = 1 then (if bits e 7 1 = 1 then [] else [(bits e 16 37 * 65536, 2 ^ leafBits level)])
    else mappedPages m n (level + 1) (bits e 12 41 * 4096)

/-- A place has room for a page (R33): no context maps it, no other page is on its way there, and no table lies there. (DESIGN CHOICE, log 35) -/
def State.roomAt (s : State) (new n : Nat) : Bool :=
  let apart (a k : Nat) : Bool := decide (a + k ≤ new) || decide (new + n ≤ a)
  (s.ctxs.all fun c => (mappedPages s.mem 5 0 c.2.root).all fun (a, k) => apart a k)
    && (s.migrations.all fun m => apart m.new (2 ^ m.lg))

/-- A page may be moved to a place (R33). (DESIGN CHOICE, log 35) -/
def State.mayMigrate (s : State) (e : TlbEnt) (new : Nat) : Bool :=
  let n := 2 ^ e.lg
  let from' := stackOfPa e.pa
  let to' := stackOfPa new
  !e.host && e.lg != 30 && e.aff != 1 && decide (1 ≤ (s.stack from').band) && decide (from' / 8 = to' / 8) && from' != to'
    && new % n == 0 && decide (new + n ≤ dramSize) && s.roomAt new n
    && ((List.range 8).all fun i => decide ((s.stack to').band ≤ (s.stack (from' / 8 * 8 + i)).band))
    && !(s.clusters.any fun (cl, c) => c.rows.any fun r =>
          let pa := rowPa (stackOf cl) r.bank r.row
          r.st == .opened && decide (pa < e.pa + n) && decide (e.pa < pa + 2048))
    && !(s.mem.dir.any fun (k, d) => d.owners != [] && decide (e.pa ≤ 128 * k) && decide (128 * k < e.pa + n))
where
  /-- The first address of a row of a bank (R218). -/
  rowPa (stack bank row : Nat) : Nat := stackSize * stack + 0xC0000000 * (bank / 32) + 65536 * row + 2048 * (bank % 32)

/-- Ticks that the move of so many bytes takes from the 1 GiB per second of a die (R33). -/
def moveTicks (n : Nat) : Nat := (n * 200000000 + 1073741823) / 1073741824

/-- PAGE_MIGRATION_START: the page of address `sub` of context `unit` is marked, with `val` its place to be, when the die's budget for
moves allows it. Which pages are accessed most the state does not count: the input names one of them. (DESIGN CHOICE, log 35) -/
def execPageMigrationStart (s : State) : Host.Outcome State Fault Refusal :=
  match s.walk s.inp.unit s.inp.sub with
  | .pageFault => .next s
  | .leaf e =>
    if !s.mayMigrate e s.inp.val || s.migrations.any (fun m => m.old == e.pa) then .next s
    else
    let die := stackOfPa e.pa / 8
    let s := s.untilTick (s.power.moveNext.get 0 die)
    .next { s with
      power := { s.power with moveNext := s.power.moveNext.set die (s.tick + moveTicks (2 ^ e.lg)) },
      migrations := s.migrations ++ [⟨s.inp.unit, e.base, e.lg, e.pa, s.inp.val⟩],
      migrating := (List.range (2 ^ e.lg / 65536)).foldl (fun l i => insertNat l (e.pa / 65536 + i)) s.migrating }

/-- The page-table entry of a page rewritten with another address (R33). -/
def State.rewritePte (s : State) (ctx va new : Nat) : State :=
  match (walkTrail s.mem va 5 0 (s.ctx ctx).root).getLast? with
  | none => s
  | some (level, table) =>
    let a := table + 8 * walkIndex level va
    let e := leNat (s.homeRead false 0 a 8)
    s.homePut false 0 a (bytesLE 8 (e - 2 ^ 16 * bits e 16 37 + 2 ^ 16 * (new / 65536)))

/-- PAGE_MIGRATED: the copy of the migration at place `sub` completes. Every cached copy of the page is first written home, so that
the new copy holds the data last written. -/
def State.migrated (s : State) (i : Nat) : State :=
  match s.migrations[i]? with
  | none => s
  | some m =>
    let n := 2 ^ m.lg
    let inOld (pa : Nat) : Bool := decide (m.old ≤ pa) && decide (pa < m.old + n)
    let s := s.cores.foldl (fun s (k, c) =>
      let hit := c.wbuf.filter fun w => !w.ent.host && inOld w.pa
      let s := s.updCore k fun c => { c with wbuf := c.wbuf.filter fun w => w.ent.host || !inOld w.pa }
      let s := hit.foldl (fun s w => s.performStore k w) s
      s.flushLines k false fun l => !l.host && inOld (128 * l.line)) s
    let s := s.reportSectors recEccUncorrected none ((s.mem.poison.filter fun k => inOld (32 * k)).map fun k => (k, 0))
    let s := s.updMem fun x => { x with
      dram := x.dram.move m.old m.new n,
      keyTag := Tbl.move x.keyTag (m.old / 32) (m.new / 32) (n / 32),
      poison := moveNats x.poison (m.old / 32) (m.new / 32) (n / 32),
      reported := moveNats x.reported (m.old / 32) (m.new / 32) (n / 32) }
    let s := s.rewritePte m.ctx m.va m.new
    let s := s.tlbDrop (fun e => !e.host && inOld e.pa) (fun e => e.ctx == m.ctx)
    let s : State := { s with
      migrations := s.migrations.eraseIdx i,
      migrating := s.migrating.filter fun k => !inOld (65536 * k) }
    let s := s.wake (fun _ => true) fun sd => match sd.wait with | .migrating p => inOld (65536 * p) | _ => false
    s.post 0 { recPageMigrated with unit := unitOf 1 (stackOfPa m.old), flags := 3, a0 := m.old, l0 := n, a1 := m.new, l1 := n }

/-- `PAGE_MIGRATED` (R33). -/
def execPageMigrated (s : State) : Host.Outcome State Fault Refusal := .next (s.migrated s.inp.sub)

end Sys2Proof.Machine
end

