-- ==== Sys2Proof/Machine/Slates.lean ====
section
/-! DEFINITION. Slates: acceptance, the checks on entry to READY and at the head of a queue, dependences, retirement and
deadlines (R66-R68, R124-R131, R133, R134, R139, R140, R142, R145, R147-R154, R331, R332). -/

namespace Sys2Proof.Machine

/-! ### A slate's word at offset 32 (R124, R125, R127) -/

/-- Bytes of a context's memory as the device reads them at home; none where they cannot be read. -/
def State.devRead (s : State) (ctx va n : Nat) : Option (List Byte) :=
  match s.engRange ctx false va n with
  | .ok l => some (s.partsRead l)
  | .error _ => none

def State.devNum (s : State) (ctx va n : Nat) : Nat := match s.devRead ctx va n with | some bs => leNat bs | none => 0

/-- PRED, STATE and STATUS. -/
structure SWord where
  pred : Nat
  state : Nat
  status : Nat
  deriving DecidableEq, Repr

def State.sword (s : State) (ctx va : Nat) : SWord :=
  let w := s.devNum ctx (va + 32) 4
  ⟨bits w 0 16, bits w 16 8, bits w 24 8⟩

def State.setSword (s : State) (ctx va : Nat) (w : SWord) : State :=
  s.engStore ctx (va + 32) (bytesLE 2 w.pred ++ bytesLE 1 w.state ++ bytesLE 1 w.status)

/-- A slate linked from a slate by a signed offset of 64-byte units (R124). -/
def linked (va off : Nat) : Nat := ((va : Int) + 64 * (BitVec.ofNat 32 off).toInt).toNat

/-! ### Acceptance (R68, R128) -/

/-- The slate that 64 bytes describe. -/
def slateOf (ctx d va : Nat) (bs : List Byte) : Slate :=
  let f := fieldAt bs
  { va := va, ctx := ctx, queue := d, entry := f 0 8, param := f 8 8,
    succ := (List.range 4).map fun i => f (16 + 4 * i) 4, prio := f 38 1, flags := f 39 1, ovf := f 40 4, deadline := f 44 4,
    shapes := (List.range 4).map fun i => f (48 + 2 * i) 2, gen := f 56 4, gsel := f 60 1, bch := f 61 1, tro := f 62 2 }

/-- UNIT of a queue in a record of its function (R85). -/
def State.queueUnit (s : State) (d : Nat) : Nat := unitOf 4 (s.localNo d)

/-- A submission turned away leaves a record; `d1` says where (R67, R128). -/
def State.submitReject (s : State) (d va d1 : Nat) : State :=
  let q := s.queue d
  s.post q.func { recSubmitReject with ctx := q.ctx.getD 0xFFFF, unit := s.queueUnit d, a0 := va, d1 := d1, space := 1 }

/-- A reserved bit is set, PRIO exceeds 47 or TRO is 0 (R128). -/
def Slate.bad (x : Slate) : Bool :=
  decide (2 ^ 57 ≤ x.entry) || decide (2 ^ 57 ≤ x.param) || decide (47 < x.prio) || bits x.flags 4 4 != 0
    || bits x.bch 3 5 != 0 || x.tro == 0

/-- The entry checks in their order: OUT and CAUSE of the one that fails (R128). -/
def State.entryCheck (s : State) (x : Slate) : Option (Nat × Nat) :=
  if x.bad then some (3, 5)
  else if bits x.flags 1 1 == 1 && bits (s.sword x.ctx x.va).status 4 1 == 1 then some (2, 4)
  else if !s.genOk x then some (2, 1)
  else none

/-! ### The head of a queue (R133, R134, R147, R148, R154, R331, R332) -/

/-- The first entry of a latched shot list that matches (R134). -/
def shotMatch (l : List Shot) (shapes : List Nat) : Option Shot :=
  l.find? fun e => (List.range 4).all fun k => decide (e.lo.getD k 0 ≤ shapes.getD k 0) && decide (shapes.getD k 0 ≤ e.hi.getD k 0)

/-- The narrowest scope of a domain (R148). -/
def minScope (dom : Nat) : Nat :=
  match dom with | 0 => scCrew | 1 => scCrew | 2 => scCluster | 3 => scDie | 4 => scPackage | 5 => scNode | _ => scSystem

/-- Whether 80 bytes hold a well-formed launch record (R147, R148); the control thread's entry is the address of a word (R308). -/
def launchOk (r : List Byte) : Bool :=
  let f := fieldAt r
  let n := f 0 1
  let size (k : Nat) : Nat := f (16 + 8 * k) 4
  let dom (k : Nat) : Nat := f (20 + 8 * k) 1
  let scope (k : Nat) : Nat := f (21 + 8 * k) 1
  let lv := (List.range n).map dom
  let l := (lv.takeWhile (· == 0)).length
  let up := lv.drop l
  decide (1 ≤ n) && decide (n ≤ 8) && decide (f 1 1 ≤ 1) && f 2 6 == 0
    && (if f 1 1 = 1 then decide (f 8 8 < 2 ^ 57) && f 8 8 % 4 == 0 && lv.contains 2 else f 8 8 == 0)
    && decide (1 ≤ l) && up.head? == some 1
    && (up.drop 1).all (fun d => decide (2 ≤ d) && decide (d ≤ 7))
    && ((up.drop 1).zip (up.drop 2)).all (fun (a, b) => decide (a ≤ b))
    && (List.range n).all (fun k => decide (1 ≤ size k) && decide (scope k ≤ 7) && decide (minScope (dom k) ≤ scope k)
        && decide (f (22 + 8 * k) 1 ≤ 1) && f (23 + 8 * k) 1 == 0)
    && (List.range 8).all (fun k => decide (k < n) || f (16 + 8 * k) 8 == 0)
    && decide ((List.range l).foldl (fun a k => a * size k) 1 ≤ 1024)
    && decide ((List.range n).foldl (fun a k => if l ≤ k && dom k < 4 then a * size k else a) 1 ≤ 2 ^ 31)

/-- Whether 256 bytes hold a good kernel header (R331), as far as R331 says what a field may hold. -/
def headerOk (h : List Byte) : Bool :=
  let f := fieldAt h
  f 0 4 == 0x4B4E0001 && f 4 2 == 1 && f 6 2 == 0 && f 8 4 % 4 == 0 && decide (256 ≤ f 8 4)
    && decide (16 ≤ f 12 2) && decide (f 12 2 ≤ 512) && f 12 2 % 16 == 0 && f 14 2 == 0 && f 16 4 % 64 == 0
    && decide (f 20 4 ≤ 393216) && f 28 4 == 0 && f 240 16 == 0
    && (List.range 8).all fun k => decide (((List.range 128).filter fun j => j != 0 && bits (f (112 + 16 * k) 16) j 1 == 1).length ≤ 32)

/-- A crew's scratchpad window: SPAD rounded up to 4 KiB (R224). -/
def windowOf (spad : Nat) : Nat := (spad + 4095) / 4096 * 4096

/-- What a slate runs, from the header at `kernel`: the parts of R331 and R147 that placement uses. -/
def Slate.withHeader (x : Slate) (kernel : Nat) (h : List Byte) : Slate :=
  let f := fieldAt h
  let n := f 32 1
  let dom (k : Nat) : Nat := f (52 + 8 * k) 1
  let x : Slate := { x with
    checked := true, kernel := kernel, codeOff := f 8 4, nregs := f 12 2, trSize := f 16 4, spad := windowOf (f 20 4),
    tvec := BitVec.ofNat 32 (f 24 4),
    carry := (List.range 8).map fun k => (List.range 128).filter fun j => j != 0 && bits (f (112 + 16 * k) 16) j 1 == 1,
    nlev := n, lanesL := (((List.range n).map dom).takeWhile (· == 0)).length,
    sizes := (List.range n).map fun k => f (48 + 8 * k) 4, doms := (List.range n).map dom,
    lvf := (List.range n).map fun k => f (54 + 8 * k) 1, ccent := if f 33 1 = 1 then some (f 40 8) else none }
  { x with ncrews := x.crewsBelow n }

/-- The size of a crew (R148). -/
def Slate.crewSize (x : Slate) : Nat := x.threadsBelow x.lanesL

/-- Registers and warps of a core that a crew takes (R332, R158). -/
def Slate.regBytes (x : Slate) : Nat := x.crewSize * x.nregs * 4
def Slate.warpCount (x : Slate) : Nat := (x.crewSize + 31) / 32

/-- Pools of a function in cores, ways and memory share (R76, R99). -/
def State.coresOf (s : State) (f : Nat) : Nat :=
  let mine (k : Nat) : Bool := s.coreFunc.get 0 k == f && !(s.pw (k / 10)).fenced
  ((List.range 320).filter mine).length
def State.waysOf (s : State) (f : Nat) : Nat :=
  if f = 0 then 15 - s.funcs.foldl (fun a x => if x.1 = 0 then a else a + x.2.ways) 0 else (s.func f).ways
def State.shareOf (s : State) (f : Nat) : Nat :=
  if f = 0 then 62 - s.funcs.foldl (fun a x => if x.1 = 0 then a else a + x.2.share) 0 else (s.func f).share

/-- The pools that the allocator and the ladders use: those of its latest epoch, when they have changed since (R487). -/
def State.corePool (s : State) (f : Nat) : Nat := match (s.func f).pools with | some l => l.getD 0 0 | none => s.coresOf f
def State.wayPool (s : State) (f : Nat) : Nat := match (s.func f).pools with | some l => l.getD 1 0 | none => s.waysOf f
def State.sharePool (s : State) (f : Nat) : Nat := match (s.func f).pools with | some l => l.getD 2 0 | none => s.shareOf f
/-- The pools of a function as they stand are kept until its next epoch while a context of it is resident. (DEDUCED, log 79) -/
def State.keepPools (s : State) (f : Nat) : State :=
  let l := [s.corePool f, s.wayPool f, s.sharePool f]
  if s.ctxs.any fun c => c.2.func == f && c.2.resident then s.updFunc f fun x => { x with pools := some l } else s

/-- Limits of a rung: its least floor and its greatest ceiling (R98). -/
def State.rungLimits (s : State) (f k : Nat) : Nat × Nat :=
  match k with
  | 0 => (1, 16) | 1 => (1, s.corePool f) | 2 => (0, s.wayPool f) | 3 => (1, s.sharePool f) | _ => (0, 25)

/-- Floor and ceiling of a rung of a context: a value beyond a limit acts as that limit, and a ceiling below its floor as the
floor (R98, R114). -/
def State.rung (s : State) (ctx k : Nat) : Nat × Nat :=
  let c := s.ctx ctx
  let (l, h) := s.rungLimits c.func k
  let within (x : Nat) : Nat := max l (min h x)
  let lo := within (c.loop.los.getD k 0)
  (lo, max lo (within (c.loop.his.getD k 0)))

/-- Crews of a shape that one core can hold at once, within a count of wave slots. -/
def Slate.perCore (x : Slate) (slots : Nat) : Nat :=
  let regs := 524288 / max 1 x.regBytes
  let sp := if x.spad = 0 then slots else 393216 / x.spad
  min slots (min regs (min sp (256 / max 1 x.warpCount)))

/-- The domain that binds a co-resident group (R153): that of the level above it; package for the top level. (DEDUCED, log 73) -/
def Slate.groupDom (x : Slate) : Nat :=
  let top := (List.range x.nlev).foldl (fun m k => if x.lanesL ≤ k && bits (x.lvf.getD k 0) 0 1 == 1 then k else m) 0
  x.doms.getD (top + 1) 4

/-- Crews of the outermost member of a co-resident group that lies within one unit of a domain (R149); none where no level of the
group is bound to it. -/
def Slate.memberCrews (x : Slate) (dom : Nat) : Option Nat :=
  let top := (List.range x.nlev).foldl (fun m k => if x.lanesL ≤ k && bits (x.lvf.getD k 0) 0 1 == 1 then k else m) 0
  let ks := (List.range (top + 1)).filter fun k => x.doms.getD k 0 == dom
  ks.getLast?.map fun k =>
    (List.range (k + 1)).foldl (fun a j => if x.lanesL ≤ j && x.doms.getD j 0 < 4 then a * x.sizes.getD j 1 else a) 1

/-- The most members of `size` crews, each within one cluster, that so many cores of a die hold with `per` crews a core, from 0 to 160
cores: the best division of the cores over its clusters, cluster by cluster. -/
def bestTable (per size : Nat) (clusters : Nat) : List Nat :=
  (List.range clusters).foldl (fun t _ =>
    (List.range 161).map fun c => (List.range (min 10 c + 1)).foldl (fun m j => max m (per * j / max 1 size + t.getD (c - j) 0)) 0)
    (List.replicate 161 0)

/-- Whether a co-resident group fits within the context's ceilings in one unit of its domain, with each inner member that is bound to
a cluster or a die within one of these (R149, R154). -/
def State.groupFits (s : State) (x : Slate) : Bool :=
  match x.groupSize with
  | none => true
  | some n =>
    let per := x.perCore (s.rung x.ctx 0).2
    let cores := (s.rung x.ctx 1).2
    if x.groupDom = 2 then decide (n ≤ per * min 10 cores) else
    -- the outermost members that need a cluster, or single crews, and how many of them a member that needs a die has
    let small := (x.memberCrews 2).getD 1
    let table := if (x.memberCrews 2).isSome then bestTable per small 16 else (List.range 161).map fun c => per * c
    let die (c : Nat) : Nat := table.getD (min 160 c) 0
    if x.groupDom = 3 then decide (n ≤ small * die cores) else
    let big := match x.memberCrews 3 with | some m => m / max 1 small | none => 1
    (List.range (min 160 cores + 1)).any fun c =>
      decide (n ≤ small * big * (die c / max 1 big + die (cores - c) / max 1 big))

/-- The checks of a slate that becomes head of its queue, and what it runs; none when they fail. (DEDUCED, log 69) -/
def State.headCheck (s : State) (x : Slate) : Option Slate :=
  let shot := if bits x.flags 3 1 == 1 then shotMatch (s.queue x.queue).shots x.shapes else none
  let kernel := match shot with | some e => if e.entry = 0 then x.entry else e.entry | none => x.entry
  let pad := match shot with | some e => if bits e.pad 5 1 = 1 then some (bits e.pad 0 2, bits e.pad 2 3) else none | none => none
  if kernel % 256 ≠ 0 then none else
  match s.devRead x.ctx kernel 256 with
  | none => none
  | some h =>
    if !(headerOk h && launchOk ((h.drop 32).take 80)) then none else
    let y := { x.withHeader kernel h with pad := pad }
    if 524288 < y.regBytes || 393216 < y.spad || !s.groupFits y then none else some y

/-! ### Retirement and successors (R125, R126, R130, R131) -/

/-- The successors of a slate in the order of release, and whether the chain ran beyond 64 blocks (R126). A block that cannot be read
ends the chain and sets no SUCCTRUNC. (DESIGN CHOICE, log 106) -/
def State.chain (s : State) (x : Slate) : Nat → Nat → List Nat × Bool
  | 0, blk => ([], blk != 0)
  | n + 1, blk =>
    if blk = 0 then ([], false) else
    match s.devRead x.ctx (linked x.va blk) 64 with
    | none => ([], false)
    | some bs =>
      let (l, t) := State.chain s x n (fieldAt bs 60 4)
      ((List.range 15).map (fun i => fieldAt bs (4 * i) 4) ++ l, t)

/-- A slate that `va` names in a context, if the device holds it. -/
def State.slateAt (s : State) (ctx va : Nat) : Option Nat :=
  (s.slates.find? fun x => x.2.ctx == ctx && x.2.va == va).map (·.1)

/-- A retirement to be made: a slate, OUT and CAUSE. -/
abbrev Due := Nat × Nat × Nat

/-- The head of a queue is checked once, at the moment it becomes head; the checks' failure is a retirement FAILED, cause 5. -/
def State.checkHead (s : State) (d : Nat) : State × List Due :=
  match (s.queue d).ready with
  | [] => (s, [])
  | k :: _ =>
    match s.slate k with
    | none => (s, [])
    | some x =>
      if x.checked then (s, []) else
      match s.headCheck x with
      | some y => ({ s with slates := s.slates.set k y }, [])
      | none => (s.updSlate k fun x => { x with checked := true }, [(k, 3, 5)])

/-- A slate put in a ready list (R129): behind the others, but before those that entered READY in the same cycle, were accepted later
and have placed no crew. -/
def State.readyPut (s : State) (k : Nat) (l : List Nat) : List Nat :=
  let later (j : Nat) : Bool := decide (k < j) && (match s.slate j with | some y => y.readyAt == s.now && y.placed == 0 | none => false)
  let n := (l.reverse.takeWhile later).length
  l.take (l.length - n) ++ k :: l.drop (l.length - n)

/-- A slate enters READY (R128): it joins the ready list and its deadline timer starts, or a check retires it. -/
def State.enterReady (s : State) (k : Nat) : State × List Due :=
  match s.slate k with
  | none => (s, [])
  | some x =>
    match s.entryCheck x with
    | some (out, cause) => (s, [(k, out, cause)])
    | none =>
      let w := s.sword x.ctx x.va
      let s := s.setSword x.ctx x.va { w with state := 2 }
      let s := s.updSlate k fun x => { x with
        state := 2, readyAt := s.now, expiry := if x.deadline = 0 then none else some (s.tick + x.deadline) }
      let s := s.updQueue x.queue fun q => { q with
        ready := s.readyPut k q.ready, ageFrom := if q.ready = [] && q.takes = [] then s.tick else q.ageFrom }
      s.checkHead x.queue

/-- The release of one successor, in one update of its word (R131); one whose word cannot be read or written is left out. (DESIGN CHOICE,
log 106) -/
def State.releaseSucc (s : State) (ctx va : Nat) (bad : Bool) : State × List Due :=
  let w := s.sword ctx va
  if (s.devRead ctx (va + 32) 4).isNone || 1 < w.state || w.pred = 0 then (s, []) else
  let st := if bad && bits w.status 4 1 = 0 then w.status + 16 else w.status
  let s := s.setSword ctx va { w with pred := w.pred - 1, status := st }
  if w.pred = 1 && w.state = 1 then (match s.slateAt ctx va with | some k => s.enterReady k | none => (s, [])) else (s, [])

/-- A slate leaves its queue and the device's table. -/
def State.dropSlate (s : State) (k : Nat) (x : Slate) : State :=
  let s := s.updQueue x.queue fun q => { q with
    ready := q.ready.filter (· != k), depth := if x.state ≤ 2 then q.depth - 1 else q.depth,
    wonAt := if q.ready.head? == some k then none else q.wonAt }
  { s with slates := s.slates.del k }

/-- Steps 2, 4 and 5 of R139. -/
def State.missCounts (s : State) (k : Nat) (x : Slate) : State :=
  let s := s.updQueue x.queue fun q => { q with miss := min 0xFFFF (q.miss + 1) }
  let s := s.updCtx x.ctx fun c => { c with
    loop := { c.loop with miss := min 0xFFFF (c.loop.miss + 1) },
    stmiss := if bits x.bch 2 1 = 1 then c.stmiss.set (bits x.bch 0 2) (min 0xFFFFFFFF (c.stmiss.get 0 (bits x.bch 0 2) + 1)) else c.stmiss }
  s.updSlate k fun x => { x with prio := if bits x.flags 2 1 = 1 then 47 else x.prio, owedMiss := false }

/-- The record of a miss: D1 is the queue's miss count with it. -/
def State.missRecord (s : State) (x : Slate) (miss : Nat) : State :=
  s.post (s.funcOf x.ctx) { recDeadlineMiss with ctx := x.ctx, unit := s.queueUnit x.queue, a0 := x.va, d1 := miss, space := 1 }

/-- Open fabric items of a slate's collectives time out (R51, R139). -/
def State.timeoutItems (s : State) (k : Nat) : State :=
  (s.copies.filter fun c => c.2.slate == k && c.2.op == .coll && !c.2.done).foldl (fun s (key, _) => s.collStop key 4) s

/-- The deadline of a slate has expired (R139): steps 1 to 5, and its open fabric items time out. -/
def State.expired (s : State) (k : Nat) : State :=
  match s.slate k with
  | none => s
  | some x =>
    let s := s.updSlate k fun x => { x with dlmiss := true, expiry := none }
    let s := s.missCounts k x
    (s.missRecord x (s.queue x.queue).miss).timeoutItems k

/-- A slate whose expiry tick is past, and whose expiry has not been noted, is late. -/
def Slate.overdue (x : Slate) (tick : Nat) : Bool := match x.expiry with | some t => decide (t < tick) | none => false

/-- The expiries that time has passed, noted. -/
def State.expireAll (s : State) : State :=
  (s.slates.filter fun x => x.2.overdue s.tick).foldl (fun s (k, _) => s.expired k) s

/-- One slate retires (R125, R128, R140): its STATUS is written, it adds its beat, and it releases its successors. -/
def State.retireOne (s : State) (k out cause : Nat) : State × List Due :=
  let s := if (s.slate k).any (·.overdue s.tick) then s.expired k else s
  match s.slate k with
  | none => (s, [])
  | some x =>
    let (blocks, trunc) := s.chain x 64 x.ovf
    let w := s.sword x.ctx x.va
    let status := out + 4 * x.dlmiss.toNat + 8 * trunc.toNat + 16 * bits w.status 4 1 + 32 * cause
    let s := s.setSword x.ctx x.va { w with state := 4, status := status }
    let s := s.dropSlate k x
    let s := if out = 1 && bits x.bch 2 1 = 1 then s.beat x.ctx (bits x.bch 0 2) 1 else s
    let (s, l) := ((x.succ ++ blocks).filter (· != 0)).foldl (fun (s, l) o =>
      let (s, l2) := s.releaseSucc x.ctx (linked x.va o) (out != 1)
      (s, l ++ l2)) (s, [])
    let (s, l2) := s.checkHead x.queue
    (s, l ++ l2)

/-- Retirements made one after another, with those that they bring about: `fuel` slates at most. -/
def State.retireAll : Nat → State → List Due → State
  | 0, s, _ => s
  | _, s, [] => s
  | n + 1, s, (k, out, cause) :: t =>
    let (s, l) := s.retireOne k out cause
    State.retireAll n s (t ++ l)

/-- Retirements and all that follow from them. Every one takes a slate out of the table, so its length bounds them; a slate that
is due twice passes once more. -/
def State.retire (s : State) (l : List Due) : State := State.retireAll (2 * s.slates.length + l.length + 1) s l

/-- A submission read into the table as a WAITING slate; one that is not FREE, or whose page cannot be read, is discarded. -/
def State.readSlate (s : State) (d ctx va : Nat) : State × Option Nat :=
  let discard := ((s.updQueue d fun q => { q with depth := q.depth - 1 }).submitReject d va 1, none)
  match s.devRead ctx va 64 with
  | none => discard
  | some bs =>
    if fieldAt bs 34 1 ≠ 0 then discard else
    let k := s.nextSlate
    let s : State := { s with slates := s.slates.set k (slateOf ctx d va bs), nextSlate := k + 1 }
    (s.engStore ctx (va + 36) (bytesLE 2 (s.localNo d)), some k)

/-- SLATE_ACCEPT of the oldest submission of device queue `d` (R128). Of a slate whose page has become unreadable since its
submission the manual says nothing: it is discarded as one that is not FREE. -/
def State.slateAccept (s : State) (d : Nat) : State :=
  let q := s.queue d
  match q.incoming, q.ctx with
  | va :: rest, some ctx =>
    if !(s.ctx ctx).resident then s else
    let s := s.updQueue d fun q => { q with incoming := rest }
    match s.readSlate d ctx va with
    | (s, none) => s
    | (s, some k) =>
      let w := s.sword ctx va
      if w.pred = 0 then
        let (s, l) := s.enterReady k
        s.retire l
      else s.setSword ctx va { w with state := 1 }
  | _, _ => s

/-- `SLATE_ACCEPT` (R128). -/
def execSlateAccept (s : State) : Host.Outcome State Fault Refusal := .next (s.slateAccept s.inp.unit)

/-! ### Submission by the host (R66, R67, R255) -/

/-- QSUB_WRITE: function `func` writes `val` to `QSUB` of its local queue `sub`; `flag` says that the write is not a single aligned
64-bit write. What the function wrote before it is released (R255). (DEDUCED, log 54) -/
def State.qsub (s : State) (f q v : Nat) (odd : Bool) : State :=
  match s.queueNo f q with
  | none => s
  | some d =>
    let x := s.queue d
    let sig := (s.func f).wrote
    let reject :=
      let s := s.updQueue d fun q => { q with rej := min 255 (q.rej + 1) }
      if x.rej = 0 then s.submitReject d v 0 else s
    match x.ctx with
    | none => reject
    | some ctx =>
      if odd || v % 64 ≠ 0 || 2 ^ 57 ≤ v || x.cap ≤ x.depth || s.queueHeld d || !((s.ctx ctx).resident || (s.ctx ctx).saved)
          || !s.engOk ctx false v 64 then reject
      else
        let s := if sig = 0 then s else (s.logAppend sig).updFunc f fun x => { x with wrote := 0 }
        s.updQueue d fun q => { q with depth := q.depth + 1, incoming := q.incoming ++ [v] }

/-- `QSUB_WRITE` (R66). -/
def execQsubWrite (s : State) : Host.Outcome State Fault Refusal := .next (s.qsub s.inp.func s.inp.sub s.inp.val s.inp.flag)

/-! ### Retirement when the work is done (R128, R130, R172, R137, R186) -/

/-- Nothing of a slate is left to run: every crew placed has ended, none waits to be placed unless one was cancelled, its control
threads have exited and its engine commands have completed. -/
def Slate.done (x : Slate) : Bool :=
  x.checked && x.ended == x.placed && (x.placed == x.ncrews || x.cancelled) && x.cmds == 0
    && x.ctlStarted.all (fun m => x.ctlEnded.contains m)

/-- No queued matrix instruction of a slate remains (R172, R435). -/
def State.matrixDone (s : State) (k : Nat) : Bool := s.clusters.all fun c => c.2.mx.queue.all fun q => q.slate != k

/-- OUT and CAUSE of a slate that is done (R137, R186): FAILED governs. -/
def Slate.outcome (x : Slate) : Nat × Nat := if x.fail ≠ 0 then (3, x.fail) else if x.cancelled then (2, 1) else (1, 0)

/-- SLATE_RETIRE of slate `unit`. -/
def State.slateRetire (s : State) (k : Nat) : State :=
  match s.slate k with
  | none => s
  | some x => if x.done && s.matrixDone k then s.retire [(k, x.outcome.1, x.outcome.2)] else s

/-- `SLATE_RETIRE` (R128). -/
def execSlateRetire (s : State) : Host.Outcome State Fault Refusal := .next (s.slateRetire s.inp.unit)

/-! ### Deadlines (R139, R495) -/

/-- DEADLINE_EXPIRY of slate `unit`: a slate that has not retired on its expiry tick is late. Of a slate in a continuity record
steps 1 and 3 are taken now and the others when its context is next resident (R495). (DEDUCED, log 70) -/
def State.deadline (s : State) (k : Nat) : State :=
  match s.slate k with
  | some x => (match x.expiry with | none => s | some t => (s.untilTick (t + 1)).expired k)
  | none =>
    match s.savedRecords.find? fun r => (r.2.slates.find k).isSome with
    | none => s
    | some (a, r) =>
      match r.slates.find k with
      | none => s
      | some x =>
        match x.expiry with
        | none => s
        | some t =>
          let s := s.untilTick (t + 1)
          let s : State := { s with records := s.records.set a { r with
            slates := r.slates.set k { x with dlmiss := true, expiry := none, owedMiss := true } } }
          s.missRecord x (min 0xFFFF ((r.queues.get {} x.queue).miss + 1))

/-- `DEADLINE_EXPIRY` (R139). -/
def execDeadlineExpiry (s : State) : Host.Outcome State Fault Refusal := .next (s.deadline s.inp.unit)

/-! ### Reset and teardown of a context (R145) -/

/-- The submissions of a queue that the device has accepted and not read yet are read. -/
def State.readIncoming (s : State) (d ctx : Nat) : State :=
  (s.queue d).incoming.foldl (fun s va => (s.readSlate d ctx va).1) s

/-- Every unretired slate of a context retires with OUT 3 and cause 3, item by item in queue order, those of submissions that were not
read yet among them (R145, R146); none that was WAITING or READY places a crew. -/
def State.failSlates (s : State) (ctx : Nat) : State :=
  let s := (s.queues.filter fun q => q.2.ctx == some ctx).foldl (fun s q => s.readIncoming q.1 ctx) s
  let mine := s.slates.filter fun x => x.2.ctx == ctx
  let qs := s.queues.filter fun q => q.2.ctx == some ctx
  let inQueue (d : Nat) : List Due :=
    let ready := (s.queue d).ready
    let order := (mine.filter fun x => x.2.queue == d && !ready.contains x.1).map (·.1)
    ((mine.filter fun x => x.2.queue == d && x.2.state == 3 && !ready.contains x.1).map (·.1) ++ ready
      ++ order.filter fun k => (s.slates.get {} k).state != 3).map fun k => (k, 3, 3)
  let due := qs.flatMap fun q => inQueue q.1
  -- a slate of the context that a release would make ready is itself retired by the reset
  let s := due.foldl (fun s (k, _, _) => s.updSlate k fun x => { x with checked := true }) s
  let s := due.foldl (fun s (k, o, c) => (s.retireOne k o c).1) s
  qs.foldl (fun s (d, _) => s.updQueue d fun q => { q with incoming := [], takes := [], ready := [], depth := 0, wonAt := none }) s

end Sys2Proof.Machine
end

