-- ==== Sys2Proof/Machine/Takes.lean ====
section
/-! DEFINITION. Crews leaving their cores and coming back: crew save areas and take records, spilling and pre-emption, and the
crew as a restore rebuilds it (R137, R138, R143, R156, R157, R167, R168, R190-R192, R224, R428, R435). -/

namespace Sys2Proof.Machine

/-! ### Cores as crews use them -/

/-- Crews on a core. -/
def State.crewsOn (s : State) (core : Nat) : List (Nat × Crew) := s.crews.filter fun x => x.2.core == core

/-- Threads resident in a quadrant of a core (R157). -/
def Crew.threadsIn (c : Crew) (q : Nat) : Nat :=
  (c.warps.foldl (fun a x => if x.2.quad = q then a + (laneList x.2.threads).length else a) 0)
    + (c.bins.foldl (fun a x => if x.1 / 16 = q then a + x.2.threads.length else a) 0) + (c.hold.get [] q).length
def State.threadsIn (s : State) (core q : Nat) : Nat := (s.crewsOn core).foldl (fun a x => a + x.2.threadsIn q) 0

/-- The quadrant with the fewest resident threads, the lower number on a tie (R157). -/
def State.firstQuad (s : State) (core : Nat) : Nat :=
  [1, 2, 3].foldl (fun b q => if s.threadsIn core q < s.threadsIn core b then q else b) 0

/-- Windows of the crews on a core, and the first place where another fits (R224). -/
def State.freeWindow (s : State) (core size : Nat) : Option Nat :=
  let used := ((s.crewsOn core).filter fun x => x.2.spadSize != 0).map fun x => (x.2.spadBase, windowOf x.2.spadSize)
  ((List.range 96).map (4096 * ·)).find? fun a =>
    decide (a + size ≤ 393216) && used.all fun (b, n) => decide (a + size ≤ b) || decide (b + n ≤ a)

/-- Wave slots of a core in use: its crews, and one for cue warps (R99, R199). -/
def State.slotsUsed (s : State) (core : Nat) : Nat :=
  let cs := s.crewsOn core
  (cs.filter fun x => x.2.kind == .vector).length + (cs.any fun x => x.2.kind == .cue).toNat

/-- The registers and the warps that the crews on a core take. -/
def State.regsUsed (s : State) (core : Nat) : Nat :=
  (s.crewsOn core).foldl (fun a x => if x.2.kind == .vector then a + x.2.n * x.2.nregs * 4 else a) 0
def State.warpsOn (s : State) (core q : Nat) : Nat :=
  (s.crewsOn core).foldl (fun a x => a + (x.2.warps.filter fun w => w.2.quad == q).length) 0

/-- A core's window of a crew made ready: its bytes zero, clean and present (R224, R226). -/
def State.clearWindow (s : State) (core base size : Nat) : State :=
  let inside (a n : Nat) : Bool := decide (a < base + size) && decide (base < a + n)
  s.updCore core fun k => { k with
    spad := k.spad.zero base size, spadPoison := k.spadPoison.filter fun j => !inside (32 * j) 32,
    absent := k.absent.filter fun j => !inside (128 * j) 128, bcMark := k.bcMark.filter fun x => !inside x.1 1 }

/-! ### Crew save areas (R190, R191) -/

/-- Padding to 32 bytes. -/
def pad32 (bs : List Byte) : List Byte := bs ++ List.replicate ((32 - bs.length % 32) % 32) 0

/-- Entries of a divergence list: PC, lanes, window base. -/
def divBytes (l : List Side) : List Byte :=
  l.flatMap fun sd => bytesLE 8 sd.pc.toNat ++ bytesLE 4 sd.lanes.toNat ++ bytesLE 4 sd.wbase.toNat

/-- The slices of a warp that hold a live thread (R190). -/
def Warp.slices (w : Warp) : List Nat := (List.range 8).filter fun k => bits (sliceMap w.threads) k 1 == 1
def Warp.slicePos (w : Warp) : List Nat := w.slices.flatMap fun k => (List.range 4).map (4 * k + ·)

/-- The warp record of a warp that saves the registers `rs`, with its STATE. The fields of the header stand in the order in which the
manual names them, 8 bytes for the PC and 4 for each other. (DEDUCED, log 74) -/
def warpRecord (w : Warp) (state : Nat) (rs : List Nat) : List Byte :=
  let tags := packElems 2 (rs.map fun r => (w.regs.get (.uniform 0) r).code)
  bytesLE 8 w.run.pc.toNat ++ bytesLE 4 (match w.pending with | some (_, i) => i | none => 0) ++ bytesLE 4 w.run.lanes.toNat
    ++ bytesLE 4 w.run.wbase.toNat ++ bytesLE 4 (sliceMap w.threads) ++ bytesLE 4 w.div.length ++ bytesLE 4 state
    ++ w.slicePos.flatMap (fun l => bytesLE 2 (((w.lanes[l]?).getD none).getD 0xFFFF))
    ++ divBytes w.div
    ++ (List.range 15).flatMap (fun k => bytesLE 4 (w.mask (k + 1)).toNat)
    ++ bytesLE ((rs.length + 15) / 16 * 4) tags
    ++ rs.flatMap (fun r => match w.regs.get (.uniform 0) r with
        | .uniform x => bytesLE 4 x.toNat
        | .affine b st => bytesLE 4 b.toNat ++ bytesLE 4 st.toNat
        | .general vs => w.slicePos.flatMap fun l => bytesLE 4 (vs.getD l 0).toNat)

/-- The set of arrived threads of a barrier (R190). -/
def barSet (l : List Nat) : Nat := l.foldl (fun a i => a ||| 2 ^ i) 0

/-- The fixed part of a frame in a save area, its fields in the order in which the manual names them (R182, R190). (DEDUCED, log 74) -/
def Frame.bytes (f : Frame) : List Byte :=
  bytesLE 8 f.epc.toNat ++ bytesLE 8 f.taddr ++ bytesLE 4 f.pidx.toNat ++ bytesLE 4 f.mask.toNat ++ bytesLE 4 f.lanes.toNat
    ++ bytesLE 4 f.cause ++ bytesLE 4 f.detail ++ bytesLE 4 f.wbase.toNat ++ bytesLE 4 f.div.length ++ List.replicate 20 0

/-- The crew save area: `kind2` with every declared register and the window, otherwise the carry set alone (R190). (DEDUCED, log 74) -/
def saveArea (c : Crew) (kind2 : Bool) (set : List Nat) (window : List Byte) : List Byte :=
  let w32 (x : Word) : List Byte := bytesLE 4 x.toNat
  let frames := if kind2 then c.frames else []
  let bars := if kind2 then c.bars.filter fun b => b.2.arrived != [] else []
  let regsOf (w : Warp) : List Nat := if kind2 then List.range c.nregs else set.map fun j => 16 * w.run.wbase.toNat + j
  let state (k : Nat) (w : Warp) : Nat := stopState c w (match c.frames with | f :: _ => f.wid == k | [] => false)
  (w32 c.nmode ++ w32 (c.flags.setWidth 32) ++ w32 c.qsel ++ w32 c.tvec ++ w32 c.tcfg ++ w32 c.ten ++ w32 c.tska
      ++ bytesLE 4 frames.length ++ bytesLE 4 bars.length ++ bytesLE 4 c.warps.length ++ List.replicate 24 0)
    ++ pad32 (frames.flatMap fun f => f.bytes ++ divBytes f.div)
    ++ pad32 (bars.flatMap fun (k, b) => bytesLE 2 k ++ bytesLE 2 b.exp ++ bytesLE 128 (barSet b.arrived))
    ++ pad32 (c.warps.flatMap fun x => warpRecord x.2 (state x.1 x.2) (regsOf x.2))
    ++ (if kind2 then window else [])

/-! ### Reading a save area (R190, R312, R332) -/

/-- Sides of a divergence list as it is saved. -/
def sidesAt (bs : List Byte) (o n : Nat) : List Side :=
  (List.range n).map fun i =>
    let f (k m : Nat) : Nat := fieldAt bs (o + 16 * i + k) m
    ⟨BitVec.ofNat 57 (f 0 8), BitVec.ofNat 32 (f 8 4), BitVec.ofNat 5 (f 12 4), .none⟩

/-- Frames from an offset on, and the offset behind them; none where the bytes end. -/
def framesAt (bs : List Byte) (wid : Nat) : Nat → Nat → Option (List Frame × Nat)
  | 0, o => some ([], o)
  | n + 1, o =>
    let f (k m : Nat) : Nat := fieldAt bs (o + k) m
    let e := f 40 4
    if bs.length < o + 64 + 16 * e then none else
    (framesAt bs wid n (o + 64 + 16 * e)).map fun (l, o') =>
      (⟨BitVec.ofNat 57 (f 0 8), f 28 4, f 32 4, f 8 8, BitVec.ofNat 32 (f 24 4), BitVec.ofNat 32 (f 20 4), BitVec.ofNat 32 (f 16 4),
        BitVec.ofNat 5 (f 36 4), sidesAt bs (o + 64) e, wid⟩ :: l, o')

/-- Registers with their tag codes from an offset on, for lanes at `pos`; none for a code of 3 (R312), and where the bytes end. -/
def regsAt (bs : List Byte) (pos : List Nat) : List (Nat × Nat) → Nat → Option (Tbl VReg × Nat)
  | [], o => some ([], o)
  | (r, tag) :: t, o =>
    let w (i : Nat) : Word := BitVec.ofNat 32 (fieldAt bs (o + 4 * i) 4)
    let put (n : Nat) (v : VReg) : Option (Tbl VReg × Nat) :=
      if bs.length < o + 4 * n then none else
      (regsAt bs pos t (o + 4 * n)).map fun (l, o') => (if v = .uniform 0 then l else (r, v) :: l, o')
    match tag with
    | 0 => put 1 (.uniform (w 0))
    | 1 => put 2 (.affine (w 0) (w 1))
    | 2 => put pos.length (.general ((List.range 32).map fun l => match pos.idxOf? l with | some i => w i | none => 0))
    | _ => none

/-- A warp record from an offset on, of a warp that saved the registers that `regs` names for its window base, and the offset behind. -/
def warpAt (bs : List Byte) (regs : Nat → List Nat) (o : Nat) : Option ((Warp × Nat) × Nat) :=
  let f (k m : Nat) : Nat := fieldAt bs (o + k) m
  let map := f 20 4
  let pos := ((List.range 8).filter fun k => bits map k 1 == 1).flatMap fun k => (List.range 4).map (4 * k + ·)
  let nd := f 24 4
  let o1 := o + 32
  let o2 := o1 + 2 * pos.length
  let o3 := o2 + 16 * nd
  let o4 := o3 + 60
  let rs := regs (f 16 4)
  let o5 := o4 + (rs.length + 15) / 16 * 4
  if bs.length < o5 || 16 < nd || 2 ^ 8 ≤ map then none else
  let pc : VAddr := BitVec.ofNat 57 (f 0 8)
  (regsAt bs pos (rs.zipIdx.map fun (r, i) => (r, bits (fieldAt bs (o4 + i / 4) 1) (2 * (i % 4)) 2)) o5).map fun (vs, o6) =>
    (({ run := ⟨pc, BitVec.ofNat 32 (f 12 4), BitVec.ofNat 5 (f 16 4), .none⟩, div := sidesAt bs o2 nd, held := map,
        lanes := (List.range 32).map fun l => match pos.idxOf? l with
          | some i => (let x := fieldAt bs (o1 + 2 * i) 2; if x = 0xFFFF then none else some x)
          | none => none,
        masks := (List.range 15).map fun k => (k + 1, BitVec.ofNat 32 (fieldAt bs (o3 + 4 * k) 4)),
        regs := vs, pending := if f 8 4 = 0 then none else some (pc, f 8 4) }, f 28 4), o6)

/-- Warp records one after another. -/
def warpsAt (bs : List Byte) (regs : Nat → List Nat) : Nat → Nat → Option (List (Warp × Nat) × Nat)
  | 0, o => some ([], o)
  | n + 1, o => (warpAt bs regs o).bind fun (w, o') => (warpsAt bs regs n o').map fun (l, o'') => (w :: l, o'')

/-- The next multiple of 32 from the start of the area at `base`. -/
def padTo (base o : Nat) : Nat := base + (o - base + 31) / 32 * 32

/-- A side waits at the barrier in whose saved set its threads stand (R191). -/
def Side.rejoin (bars : Tbl Barrier) (w : Warp) (sd : Side) : Side :=
  match bars.find? fun b => (w.indices sd.lanes).any b.2.arrived.contains with
  | some (n, _) => { sd with wait := .bar n }
  | none => sd

/-- The crew and the window that the bytes of a take record hold, where they are a record of this crew (R138, R190); `c` has what no
record holds. Threads that were parked on another wait issue again. (DEDUCED, log 74) -/
def readRecord (c : Crew) (kind carry : Nat) (bs : List Byte) : Option (Crew × Cells) :=
  let f (o n : Nat) : Nat := fieldAt bs (64 + o) n
  let w32 (o : Nat) : Word := BitVec.ofNat 32 (f o 4)
  let nf := f 28 4
  let nb := f 32 4
  let nw := f 36 4
  if fieldAt bs 12 1 ≠ kind || fieldAt bs 16 4 ≠ c.crix || bs.length < 128 || 4 < nf || 16 < nb || 256 < nw then none else
  let set := ((c.carry[carry]?).getD []).filter (· ≠ 0)
  let regs (wb : Nat) : List Nat := if kind = 2 then List.range c.nregs else set.map fun j => 16 * wb + j
  (framesAt bs 0 nf 128).bind fun (frames, o1) =>
    let o2 := padTo 128 o1
    let bars : Tbl Barrier := (List.range nb).map fun i =>
      let g (o n : Nat) : Nat := fieldAt bs (o2 + 132 * i + o) n
      let arrived := g 4 128
      (g 0 2, (c.bars.get ⟨[], 0, false, 0⟩ (g 0 2) : Barrier) |> fun b =>
        { b with exp := g 2 2, arrived := (List.range 1024).filter fun k => bits arrived k 1 == 1 })
    let o3 := padTo 128 (o2 + 132 * nb)
    (warpsAt bs regs nw o3).bind fun (ws, o4) =>
      let o5 := padTo 128 o4
      let size := if kind = 2 then windowOf c.spadSize else 0
      if bs.length < o5 + size then none else
      let warps : Tbl Warp := ws.zipIdx.map fun ((w, _), i) => (i, { w with run := w.run.rejoin bars w, div := w.div.map fun sd => sd.rejoin bars w })
      let top := (ws.findIdx? fun w => w.2 == 4).getD 0
      let window := (List.range size).filterMap fun i => match bs[o5 + i]? with | some b => if b = 0 then none else some (i, b) | none => none
      some ({ c with nmode := w32 0, flags := (w32 4).setWidth 8, qsel := w32 8, tvec := w32 12, tcfg := w32 16, ten := w32 20,
                     tska := w32 24, frames := frames.map fun fr => { fr with wid := top }, bars := bars, warps := warps, nextWid := nw }, window)

/-! ### Leaving the bins, and what a record keeps (R168, R191) -/

/-- Threads of a hold list filed, in its order, 32 to a bin of their key, and issued (R191): `fuel` keys at most. -/
def Crew.issueHold (q : Nat) : Nat → Crew → List (BinKey × Filed) → Crew
  | 0, c, _ => c
  | _, c, [] => c
  | n + 1, c, (k, f) :: t =>
    let same := (t.filter fun x => x.1 == k).map (·.2)
    let bin := (f :: same).take 32
    let left := (same.drop 31).map fun g => (k, g)
    let c := { c with warps := c.warps.set c.nextWid (warpOf q k bin), nextWid := c.nextWid + 1 }
    Crew.issueHold q n c (left ++ t.filter fun x => x.1 != k)

/-- Before a KIND 2 save every bin issues as it stands, and then the hold lists (R191). -/
def Crew.flushBins (c : Crew) : Crew :=
  let c := c.bins.foldl (fun c x => c.issueBin 0 x.1) c
  let c := c.hold.foldl (fun c (q, l) => Crew.issueHold q l.length c l) c
  { c with hold := [], bins := [] }

/-- A wait as it is saved: threads that wait at a barrier, on a counter, on a byte count or on matrix work resume their wait; any
other access is issued again. -/
def Wait.kept (wt : Wait) : Wait :=
  match wt with
  | .bar n => .bar n
  | .arrw n t d => .arrw n t d
  | .bytes o => .bytes o
  | .mwait c => .mwait c
  | .coop => .coop
  | _ => .none

/-- A warp as a save area holds it. -/
def Warp.stopped (w : Warp) : Warp :=
  let f (sd : Side) : Side := { sd with wait := sd.wait.kept }
  { w with run := f w.run, div := w.div.map f, badPages := [], spadOut := 0, spadBusy := false, skipTurn := false, issued := 0,
           since := 0, held := sliceMap w.threads }

/-! ### Leaving a core (R137, R138) -/

/-- A crew gives up its core: its L1 stores are written home, its window is gone, and no entry of the core names it. -/
def State.leaveCore (s : State) (cid : Nat) (c : Crew) : State :=
  let s := s.releaseAll c.core
  let s := s.updCore c.core fun k => { k with
    holdOrder := k.holdOrder.mapV fun _ l => l.filter (· != cid), bankQ := k.bankQ.filter fun q => q.2.1 != cid }
  let s := if c.kind = .control then s else s.clearWindow c.core c.spadBase (windowOf c.spadSize)
  s.dropCrew cid

/-- The first address of a crew's take record (R138). -/
def Slate.recordAt (x : Slate) (crix : Nat) : Nat := x.param + 64 * x.tro + crix * x.trSize

/-- The header of a take record (R138): of a crew of several warps, PC and PIDX are those of the warp with the lowest crew index. (DESIGN
CHOICE, log 107) -/
def recordHead (c : Crew) (kind carry : Nat) : List Byte :=
  let w := (sortWarps c.warps).head?.map (·.2)
  let pc := match w with | some w => (if w.run.lanes ≠ 0 then w.run.pc else (w.div.head?.map (·.pc)).getD 0).toNat | none => 0
  let pidx := match w with | some w => (match w.pending with | some (_, i) => i | none => 0) | none => 0
  bytesLE 8 pc ++ bytesLE 4 (if kind = 2 then pidx else 0) ++ bytesLE 1 kind ++ bytesLE 1 carry ++ bytesLE 2 c.core
    ++ bytesLE 4 c.crix ++ List.replicate 44 0

/-- The registers of a warp that a carry set keeps: of each thread those that the set names in the thread's own window, and zero for the
others (R138, R163, R168). -/
def Warp.carryRegs (w : Warp) (set : List Nat) : Tbl VReg :=
  let sides := (w.run :: w.div).filter fun sd => sd.lanes != 0
  w.regs.filterMap fun (r, v) =>
    let keeps (sd : Side) : Bool := set.any fun j => 16 * sd.wbase.toNat + j == r
    if sides.all keeps then some (r, v)
    else if sides.any keeps then
      some (r, .general ((List.range 32).map fun l =>
        if sides.any fun sd => keeps sd && sd.lanes.getLsbD l then v.at (w.index l) l else 0))
    else none

/-- A crew as a record of KIND 1 keeps it (R138, R163): in each warp the registers of the carry set alone, and the masks. -/
def Crew.carried (c : Crew) (carry : Nat) : Crew :=
  let set := c.carrySet carry
  { c with
    bars := [], frames := [], takeCarry := none, nextWid := c.nextWid,
    warps := (c.warps.filter fun x => x.2.threads != 0).map fun (k, w) => (k, { w.stopped with regs := w.carryRegs set, poison := [] }) }

/-- A crew as a record of KIND 2 keeps it. -/
def Crew.preempted (c : Crew) : Crew :=
  let c := c.flushBins
  { c with spill2 := false, takeCarry := none, warps := (c.warps.filter fun x => x.2.threads != 0).map fun (k, w) => (k, w.stopped) }

/-- The take of a crew that leaves its core: its record is written to memory, from which the restore reads it (R137, R138, R190). A record
whose page cannot be written stays with the device alone, and the crew parks and is restored all the same. (DESIGN CHOICE, log 108) -/
def State.park (s : State) (cid : Nat) (c : Crew) (t : Take) (window : List Byte) : State :=
  let x := s.slates.get {} c.slate
  let bs := recordHead t.crew t.kind t.carry ++ saveArea t.crew (t.kind == 2) (t.crew.carrySet t.carry) window
  let put := c.kind != .control && s.engOk c.ctx true (x.recordAt c.crix) bs.length
  let s := if put then s.engStore c.ctx (x.recordAt c.crix) bs else s
  let id := s.nextTake
  let s := s.leaveCore cid c
  let s : State := { s with takes := s.takes.set id { t with image := if put then some bs else none }, nextTake := id + 1 }
  s.settleCores c.ctx

/-- A take as its record in memory holds it: unchanged, or read anew from bytes that others have written over; none when these are no
record of the crew (R312, R332). (DEDUCED, log 74) -/
def State.takeLoaded (s : State) (t : Take) : Option Take :=
  match t.image with
  | none => some t
  | some img =>
    match s.devRead t.crew.ctx ((s.slates.get {} t.slate).recordAt t.crew.crix) img.length with
    | none => none
    | some bs =>
      if bs = img then some t
      else (readRecord t.crew t.kind t.carry bs).map fun (c, w) => { t with crew := c, spad := if t.kind = 2 then w else [], image := some bs }

/-- Whether a crew is spilling (R137). -/
def Crew.spilling (c : Crew) : Bool := c.takeCarry.isSome || c.spill2

/-- The record of a crew of which every item tied to its window is done: KIND 1 at a take boundary, KIND 2 when it was pre-empted. A
group parks as one item once its last crew has spilled (R156). A control thread's rows are closed first, and its record holds
them as EXPIRED (R428). A trap that is raised is taken first (R184). -/
def State.spillDone (s : State) (cid : Nat) : State :=
  let s := if (s.crew cid).any (·.spilling) then s.endStop cid true else s
  match s.crew cid with
  | none => s
  | some c =>
    if !c.spilling || c.ending.isSome || s.windowBusy cid then s
    else
      let x := s.slates.get {} c.slate
      let id := s.nextTake
      match c.takeCarry with
      | some k =>
        let c1 := c.carried k
        -- a boundary at which the crew is also withdrawn still makes a KIND 1 record
        let s := s.park cid c { slate := c.slate, kind := 1, carry := k, crew := c1 } []
        s.queueTake x.queue id
      | none =>
        let s := if c.kind = .control then s.closeRowsNow (clusterOf c.core) else s
        let c1 := c.preempted
        let window := (s.core c.core).spad.read c.spadBase (windowOf c.spadSize)
        let kept := ((s.core c.core).spad.filter fun b => decide (c.spadBase ≤ b.1) && decide (b.1 < c.spadBase + windowOf c.spadSize)).map
          fun b => (b.1 - c.spadBase, b.2)
        let rows := if c.kind = .control then (s.cluster (clusterOf c.core)).rows.map fun r => (r.bank, r.row) else []
        let g := if c.kind = .vector then x.groupOf c.crix else none
        let dirty := (s.core c.core).spadPoison.filter fun j => decide (c.spadBase ≤ 32 * j) && decide (32 * j < c.spadBase + windowOf c.spadSize)
        let s := s.park cid c {
          slate := c.slate, kind := 2, crew := c1, spad := kept, rows := rows, group := g,
          spadPoison := dirty.map fun j => j - c.spadBase / 32 } window
        match g with
        | none => s.queueTake x.queue id
        | some g => s.queueGroup c.slate g

/-- TAKE_SPILL_DONE of crew `unit`. -/
def execTakeSpillDone (s : State) : Host.Outcome State Fault Refusal := .next (s.spillDone s.inp.unit)

/-- A crew is pre-empted (R143): it stops, and its KIND 2 record is due; with it every crew of its co-resident group (R156). -/
def State.preempt (s : State) (cid : Nat) : State :=
  match s.crew cid with
  | none => s
  | some c =>
    if c.kind = .cue then s else
    let x := s.slates.get {} c.slate
    let g := if c.kind = .vector then x.groupOf c.crix else none
    let hit (k : Nat) (d : Crew) : Bool := k == cid || (g.isSome && d.kind == .vector && d.slate == c.slate && x.groupOf d.crix == g)
    { s with crews := s.crews.mapV fun k d => if hit k d && d.ending.isNone && d.takeCarry.isNone then { d with spill2 := true } else d }

/-! ### Coming back (R137, R157, R168, R191) -/

/-- Threads of a KIND 1 record packed as at placement: 32 to a warp in ascending crew index, each in its quadrant (R168). -/
def Crew.repack (c : Crew) (q0 : Nat) : Crew :=
  let filed := c.warps.flatMap fun (wid, w) =>
    (laneList w.threads).map fun l =>
      let sd := ((w.run :: w.div).find? fun sd => sd.lanes.getLsbD l).getD noSide
      ((w.index l, sd.pc, sd.wbase),
        (⟨w.index l, wid, w.masks.map (fun (k, m) => (k, m.getLsbD l)), w.regs,
          w.regs.map fun (r, v) => (r, v.at (w.index l) l)⟩ : Filed))
  let quadOf (i : Nat) : Nat := (i / 32 + q0) % 4
  let inQuad (q : Nat) : List Filed := sortFiled ((filed.filter fun x => quadOf x.1.1 == q).map (·.2))
  let sideOf (i : Nat) : VAddr × BitVec 5 := match filed.find? fun x => x.1.1 == i with | some x => (x.1.2.1, x.1.2.2) | none => (0, 0)
  let rec chunks : Nat → List Filed → List (List Filed)
    | 0, _ => []
    | _, [] => []
    | n + 1, l => l.take 32 :: chunks n (l.drop 32)
  let ws := (List.range 4).flatMap fun q => (chunks 32 (inQuad q)).map fun l =>
    let sides := l.foldl (fun a f => if a.contains (sideOf f.thread) then a else a ++ [sideOf f.thread]) []
    let lanesAt (p : VAddr × BitVec 5) : BitVec 32 := maskOf fun i => match l[i]? with | some f => sideOf f.thread == p | none => false
    let mk (p : VAddr × BitVec 5) : Side := ⟨p.1, lanesAt p, p.2, .none⟩
    let w0 := warpOf q ⟨0, 0, 0⟩ l
    let w := match sides with | [] => w0 | p :: t => { w0 with run := mk p, div := t.map mk }
    let all := l.foldl (fun a f => f.regs.foldl (fun a x => insertNat a x.1) a) ([] : List Nat)
    { w with regs := all.map fun r => (r, carryReg l r) }
  { c with warps := ws.zipIdx.map fun (w, i) => (i, w), nextWid := ws.length }

/-- Warp records of KIND 2 in their quadrants on the new core, with their threads' indices (R191). -/
def Crew.requad (c : Crew) (q0 : Nat) : Crew :=
  { c with warps := c.warps.mapV fun _ w => { w with quad := (w.lowestIndex / 32 + q0) % 4 } }

/-- A take restored on a core, with its window at `base`: placement's acquire, the window as the record holds it, the crew as
R168 or R191 rebuilds it. -/
def State.resume (s : State) (t : Take) (core base : Nat) : State :=
  let s := s.acquireHead core
  let q0 := s.firstQuad core
  let size := windowOf t.crew.spadSize
  let s := s.clearWindow core base size
  let s := s.updCore core fun k => { k with
    spad := t.spad.foldl (fun m b => m.set (base + b.1) b.2) k.spad,
    spadPoison := t.spadPoison.foldl (fun l j => insertNat l (base / 32 + j)) k.spadPoison }
  let c := if t.kind = 1 then t.crew.repack q0 else t.crew.requad q0
  let s := s.setCrew s.nextCrew { c with core := core, q0 := q0, spadBase := base, takeCarry := none, spill2 := false }
  { s with nextCrew := s.nextCrew + 1 }

end Sys2Proof.Machine
end

