-- ==== Sys2Proof/Machine/Place.lean ====
section
/-! DEFINITION. Arbitration and dispatch: the three levels, placing crews and co-resident groups, restoring takes and control
threads, starting engine commands, and the power states that dispatch ends (R40, R41, R119-R123, R129, R134, R142, R149, R151,
R155-R158, R171, R342). -/

namespace Sys2Proof.Machine

/-! ### Waking a cluster (R40, R41) -/

/-- A wake request: latched while the break-even hold runs, otherwise the last of the die's in-rush FIFO; the first of the FIFO begins
its power-up. (DESIGN CHOICE, log 75) -/
def State.wakeRequest (s : State) (cl : Nat) : State :=
  if (s.pw cl).hold then s.updPw cl fun p => { p with latched := true }
  else
    let q := s.power.inrush.get [] (dieOf cl)
    if q.contains cl then s
    else { s with power := { s.power with
      inrush := s.power.inrush.set (dieOf cl) (q ++ [cl]),
      inrushAt := if q = [] then s.power.inrushAt.set (dieOf cl) s.now else s.power.inrushAt } }

/-- The package leaves W3: the stacks and links come back, and every cluster in W2 is woken, the requested one first (R39). -/
def State.leaveW3 (s : State) (cl : Nat) : State :=
  let s : State := { s with power := { s.power with selfRefresh := false, linkIdle := false } }
  ((cl :: List.range 32).filter fun k => (s.pw k).w == 2).foldl (fun s k => s.wakeRequest k) s

/-- A cluster in W2 whose wake has been requested. -/
def State.wakeAsked (s : State) (cl : Nat) : Bool := (s.pw cl).latched || (s.power.inrush.get [] (dieOf cl)).contains cl

/-- Work dispatched to a cluster: one in W1 runs at once; one in W2 is woken, and the package leaves W3. -/
def State.wakeCluster (s : State) (cl : Nat) : State :=
  match (s.pw cl).w with
  | 0 => s
  | 1 => s.updPw cl fun p => { p with w := 0 }
  | _ => if s.power.selfRefresh then s.leaveW3 cl else s.wakeRequest cl

/-- Every one of some clusters woken. -/
def State.wakeAll (s : State) (cls : List Nat) : State := cls.foldl (fun s cl => s.wakeCluster cl) s

/-- Those of some clusters that must wake before work goes there. -/
def State.asleep (s : State) (cls : List Nat) : List Nat := cls.filter fun cl => 2 ≤ (s.pw cl).w

/-- The clusters of some cores. -/
def clustersOf (cores : List Nat) : List Nat := cores.foldl (fun l k => insertNat l (k / 10)) []

/-- The cores on which an item may start: while a cluster that was chosen for it wakes, those of the chosen clusters alone (R41). -/
def State.among (s : State) (chosen cores : List Nat) : List Nat :=
  if s.asleep (clustersOf (cores.filter fun k => chosen.contains (k / 10))) = [] then cores
  else cores.filter fun k => chosen.contains (k / 10)

/-! ### Where a crew may go (R123, R149, R171) -/

/-- Cores on which a context may place crews: those it holds that are not being withdrawn. -/
def State.openCores (s : State) (ctx : Nat) : List Nat :=
  if s.power.tripped then []
  else (s.ctx ctx).cores.filter fun k => ((s.ctx ctx).leaving.find k).isNone && !(s.pw (k / 10)).fenced

/-- The unit of a domain that a core lies in. -/
def unitOfCore (dom core : Nat) : Nat := if dom = 2 then core / 10 else core / 160

/-- The member of level `k` that a crew belongs to, and its entry in the slate's table of units. -/
def Slate.memberOf (x : Slate) (k crix : Nat) : Nat := crix / x.crewsBelow k
def Slate.unitKey (x : Slate) (k crix : Nat) : Nat := 2 ^ 32 * k + x.memberOf k crix

/-- The levels whose members lie within one cluster or die. -/
def Slate.bound (x : Slate) : List Nat := (List.range x.nlev).filter fun k => x.doms.getD k 0 == 2 || x.doms.getD k 0 == 3

/-- Whether a core lies in the unit of every member that a crew belongs to; a unit where the context holds no core binds no more. -/
def State.unitsOk (s : State) (x : Slate) (crix core : Nat) : Bool :=
  x.bound.all fun k =>
    let d := x.doms.getD k 0
    match x.units.find (x.unitKey k crix) with
    | none => true
    | some u => unitOfCore d core == u || !(s.openCores x.ctx).any fun j => unitOfCore d j == u

/-- The units that a crew's placement chooses. -/
def Slate.bindUnits (x : Slate) (crix core : Nat) : Slate :=
  { x with units := x.bound.foldl (fun t k => t.set (x.unitKey k crix) (unitOfCore (x.doms.getD k 0) core)) x.units }

/-- The member whose control thread serves a crew (R171). -/
def Slate.ctlMember (x : Slate) (crix : Nat) : Option Nat :=
  match x.ccent, x.clusterLevel with
  | some _, some k => some (x.memberOf k crix)
  | _, _ => none

/-- A control thread that has not exited holds a cluster's control core: it runs there, or it is parked there. -/
def State.ctlThere (s : State) (cl : Nat) (p : Nat → Nat → Bool) : Bool :=
  (s.crews.any fun c => c.2.kind == .control && c.2.core == 320 + cl && p c.2.slate c.2.member)
    || s.takes.any fun t => t.2.crew.kind == .control && t.2.crew.core == 320 + cl && p t.2.slate t.2.crew.member

/-- A control core that no thread holds is free for another context once nothing of its owner goes on there: no queued matrix
instruction, no row transfer, and no engine command on the typed buffers (R171). (DEDUCED, log 47) -/
def State.ctlIdle (s : State) (cl : Nat) : Bool :=
  (s.cluster cl).mx.queue.isEmpty && (s.cluster cl).xfers.isEmpty
    && !s.copies.any fun c => c.2.cluster == cl && !c.2.done && (decide (2 ≤ c.2.sspc) || decide (2 ≤ c.2.dspc))

/-- Whether a control core is free or a context's own; `p` says which control threads do not stand in its way. -/
def State.ctlFree (s : State) (ctx cl : Nat) (p : Nat → Nat → Bool) : Bool :=
  ((s.cluster cl).owner == none || (s.cluster cl).owner == some ctx || s.ctlIdle cl) && !s.ctlThere cl fun sl m => !p sl m

/-- Whether a crew may go to a cluster for its control thread's sake: no other member's thread runs there, and its own has started or
can start there. (DEDUCED, log 72) -/
def State.ctlOk (s : State) (sid : Nat) (x : Slate) (crix cl : Nat) : Bool :=
  match x.ctlMember crix with
  | none => true
  | some m =>
    !(s.crews.any fun c => c.2.kind == .control && c.2.core == 320 + cl && !(c.2.slate == sid && c.2.member == m))
      && (x.ctlStarted.contains m || s.ctlFree x.ctx cl fun _ _ => false)

/-- Room for a crew on a core: a wave slot, registers, a window, and warps in the quadrants that its warps go to. -/
def State.roomFor (s : State) (ctx core n nregs spad : Nat) (quads : List Nat) : Bool :=
  decide (s.slotsUsed core < (s.ctx ctx).granted.getD 0 1) && decide (s.slotsUsed core < 16)
    && decide (s.regsUsed core + n * nregs * 4 ≤ 524288)
    && (spad == 0 || (s.freeWindow core spad).isSome)
    && (List.range 4).all fun q => decide (s.warpsOn core q + (quads.filter (· == q)).length ≤ 64)

/-- Whether a crew of a slate can be placed on a core. -/
def State.fits (s : State) (sid : Nat) (x : Slate) (crix core : Nat) : Bool :=
  let q0 := s.firstQuad core
  s.unitsOk x crix core && s.ctlOk sid x crix (core / 10)
    && s.roomFor x.ctx core x.crewSize x.nregs x.spad ((List.range x.warpCount).map fun w => (w + q0) % 4)

/-! ### Placing a crew (R134, R157, R158, R342) -/

/-- A thread's coordinate at a level, as a shot list's pad tests it (R134, R151). -/
def State.coordAt (s : State) (x : Slate) (crix k i : Nat) : Nat :=
  if x.nlev ≤ k then 0
  else if 4 ≤ x.doms.getD k 0 then s.devNum x.ctx (x.param + 4 * k) 4
  else if k < x.lanesL then x.laneCoord k i
  else x.coordOf k crix

/-- Warp `w` of a crew at placement. -/
def State.freshWarp (s : State) (x : Slate) (crix q0 w : Nat) : Warp :=
  let ls := (List.range 32).map fun p => if 32 * w + p < x.crewSize then some (32 * w + p) else none
  let m := lanesMask ls
  let m14 := match x.pad with
    | none => m
    | some (j, lv) => maskOf fun p => m.getLsbD p && decide (s.coordAt x crix lv (32 * w + p) < x.shapes.getD j 0)
  { run := ⟨BitVec.ofNat 57 (x.kernel + x.codeOff), m, 0, .none⟩, lanes := ls, masks := if m14 = 0 then [] else [(14, m14)],
    quad := (w + q0) % 4, held := sliceMap m }

/-- The control thread of a member at its start (R171, R342). -/
def ctlCrew (sid : Nat) (x : Slate) (m cl : Nat) : Crew :=
  { kind := .control, ctx := x.ctx, slate := sid, member := m, core := 320 + cl, n := 1,
    warps := [(0, { run := ⟨BitVec.ofNat 57 (x.ccent.getD 0), 1, 0, .none⟩, lanes := some 0 :: List.replicate 31 none, masks := [(14, 1)],
                    held := 1 })],
    nextWid := 1, tvec := x.tvec, header := BitVec.ofNat 57 x.kernel, nregs := x.nregs, carry := x.carry }

/-- A crew put in the table under the next number. -/
def State.newCrew (s : State) (c : Crew) : State := { s.setCrew s.nextCrew c with nextCrew := s.nextCrew + 1 }

/-- What belongs to the owner of a control core, in the state of a cluster (R171). -/
def ClusterSt.owned (c : ClusterSt) : ClusterSt :=
  { owner := c.owner, mbx := c.mbx, mbxMark := c.mbxMark, arv := c.arv, arvMark := c.arvMark, rows := c.rows, mx := c.mx }

/-- A cluster without anything of an owner. -/
def ClusterSt.unowned (c : ClusterSt) : ClusterSt :=
  { c with owner := none, mbx := [], mbxMark := [], arv := [], arvMark := [], rows := [], xfers := [], mx := {} }

/-- A cluster that receives what another owned. -/
def ClusterSt.adopt (c o : ClusterSt) (ctx : Nat) : ClusterSt :=
  { c with owner := some ctx, mbx := o.mbx, mbxMark := o.mbxMark, arv := o.arv, arvMark := o.arvMark, rows := o.rows, mx := o.mx }

/-- A control core begins to run a context: what another context owned there is gone, and so is what its core had acquired (R171, R253).
(DEDUCED, log 47) -/
def State.takeCtl (s : State) (ctx cl : Nat) : State :=
  if (s.cluster cl).owner = some ctx then s
  else
    let s := s.updCluster cl fun c => { c.unowned with owner := some ctx }
    (s.updCore (320 + cl) fun k => { k with acqMark := 0 }).recheckBytes (320 + cl)

/-- The control thread of a crew's member starts with the member's first crew (R171); the context then owns the control core. -/
def State.startCtl (s : State) (sid : Nat) (x : Slate) (crix cl : Nat) : State :=
  match x.ctlMember crix with
  | none => s
  | some m =>
    if x.ctlStarted.contains m then s
    else
      let s := (s.takeCtl x.ctx cl).acquireHead (320 + cl)
      let s := s.newCrew (ctlCrew sid x m cl)
      s.updSlate sid fun x => { x with ctlStarted := insertNat x.ctlStarted m }

/-- The slate's first crew makes it RUNNING (R128). -/
def State.startSlate (s : State) (sid : Nat) (x : Slate) : State :=
  if x.state = 3 then s
  else
    let s := s.setSword x.ctx x.va { s.sword x.ctx x.va with state := 3 }
    let s := s.updQueue x.queue fun q => { q with depth := q.depth - 1 }
    s.updSlate sid fun x => { x with state := 3 }

/-- Crew `crix` of a slate placed on a core: an acquire at package scope (R130). -/
def State.placeCrew (s : State) (sid crix core : Nat) : State :=
  match s.slate sid with
  | none => s
  | some x =>
    let s := s.acquireHead core
    let q0 := s.firstQuad core
    let base := (s.freeWindow core x.spad).getD 0
    let s := s.clearWindow core base x.spad
    let c : Crew := {
      kind := .vector, ctx := x.ctx, slate := sid, crix := crix,
      member := match x.clusterLevel with | some k => x.memberOf k crix | none => 0,
      core := core, n := x.crewSize, q0 := q0,
      warps := (List.range x.warpCount).map fun w => (w, s.freshWarp x crix q0 w), nextWid := x.warpCount,
      tvec := x.tvec, header := BitVec.ofNat 57 x.kernel, nregs := x.nregs,
      spadBase := if x.spad = 0 then 0 else base, spadSize := x.spad, carry := x.carry }
    let s := (s.newCrew c).startSlate sid x
    let s := s.updSlate sid fun y => { y.bindUnits crix core with placed := y.placed + 1 }
    s.startCtl sid x crix (core / 10)

/-! ### Items (R119, R129) -/

/-- A ready item of a queue. -/
inductive ItemKind where
  | crew (sid : Nat)
  | group (sid : Nat)
  | take (id : Nat)
  | takeGroup (id : Nat)
  | control (id : Nat)
  deriving DecidableEq, Repr

/-- The first ready item of a queue (R129). (DEDUCED, log 68) -/
def State.firstItem (s : State) (d : Nat) : Option ItemKind :=
  match (s.queue d).takes with
  | id :: _ =>
    (s.takes.find id).map fun t =>
      if t.crew.kind == .control then .control id else if t.group.isSome then .takeGroup id else .take id
  | [] =>
    match (s.queue d).ready with
    | [] => none
    | k :: _ => (s.slate k).map fun x => if x.groupSize.isSome then .group k else .crew k

/-- The slate of a queue's first ready item. -/
def State.itemSlate (s : State) : ItemKind → Option Slate
  | .crew k | .group k => s.slate k
  | .take id | .takeGroup id | .control id =>
    match s.takes.find id with
    | some t => s.slate t.slate
    | none => none

/-- AGE of a queue (R122): periods of 2^13 ticks. -/
def State.age (s : State) (d : Nat) : Nat := (s.tick - (s.queue d).ageFrom) / 8192

/-- The effective priority of a queue (R122). -/
def State.effPrio (s : State) (d : Nat) : Nat :=
  match s.firstItem d with
  | none => 0
  | some i => min 47 (((s.itemSlate i).map (·.prio)).getD 0 + s.age d)

/-- Queues put in the order of level 3: by effective priority, the lower number first among equals. -/
def State.insertQueue (s : State) (d : Nat) : List Nat → List Nat
  | [] => [d]
  | e :: t => if s.effPrio e < s.effPrio d then d :: e :: t else e :: State.insertQueue s d t

/-- The queues of a context that hold a ready item, the winner first (R122). -/
def State.ranked (s : State) (ctx : Nat) : List Nat :=
  ((s.queues.filter fun q => q.2.ctx == some ctx && (s.firstItem q.1).isSome).map (·.1)).foldl (fun l d => s.insertQueue d l) []

/-! ### Starting an item -/

/-- What trying an item gives: the state, and whether the item started, must wait for clusters that it woke (R41), or waits for those
that wake. -/
inductive Tried where
  | started
  | woke
  | waits
  deriving DecidableEq, Repr

abbrev Try := Option (State × Tried)

/-- An item that is to start on some clusters: those in W2 are woken first; `note` keeps the clusters chosen. -/
def State.tryOn (s : State) (cls : List Nat) (note : State → State) (start : State → State) : State × Tried :=
  match s.asleep cls with
  | [] => (start (s.wakeAll cls), .started)
  | l => if l.all s.wakeAsked then (s, .waits) else (note (s.wakeAll l), .woke)

/-- The core on which an item starts: the one that the dispatcher chose if the item fits there, or else the first that holds it. -/
def pickCore (only : Nat) (fits : Nat → Bool) (cores : List Nat) : Option Nat :=
  match cores.find? fun k => k + 1 == only && fits k with
  | some k => some k
  | none => cores.find? fits

/-- An item whose generation check failed has gone (R137, R142): no further crew of its slate is placed. -/
def State.cancelSlate (s : State) (sid : Nat) : State :=
  match s.slate sid with
  | none => s
  | some x =>
    let s := s.updSlate sid fun x => { x with cancelled := true, ncrews := x.placed }
    let s := s.updQueue x.queue fun q => { q with ready := q.ready.filter (· != sid) }
    let s := if x.state ≤ 2 then (s.updQueue x.queue fun q => { q with depth := q.depth - 1 }).updSlate sid fun x => { x with state := 3 } else s
    let (s, l) := s.checkHead x.queue
    let s := s.retire l
    if x.state ≤ 2 then s.slateRetire sid else s

/-- The head of a queue passes to its next slate once its last crew has been placed (R129). -/
def State.nextHead (s : State) (sid : Nat) : State :=
  match s.slate sid with
  | none => s
  | some x =>
    if x.placed < x.ncrews then s
    else
      let s := s.updQueue x.queue fun q => { q with ready := q.ready.filter (· != sid) }
      let (s, l) := s.checkHead x.queue
      s.retire l

/-- A crew of the head placed on one of the given cores. -/
def State.tryCrew (s : State) (sid only : Nat) (cores : List Nat) : Try :=
  match s.slate sid with
  | none => none
  | some x =>
    if !x.checked then none
    else if !s.genOk x then some (s.cancelSlate sid, .started)
    else
      (pickCore only (s.fits sid x x.placed) (s.among x.chosen cores)).map fun k =>
        s.tryOn [k / 10] (fun s => s.updSlate sid fun x => { x with chosen := [k / 10] }) fun s =>
          ((s.updSlate sid fun x => { x with chosen := [] }).placeCrew sid x.placed k).nextHead sid

/-- Crews of a group placed on some cores, with the cores used: each crew on the first core from which the later ones can be placed too
(R155); none when there is no such choice. -/
def State.placeAll (s : State) (sid : Nat) (cores : List Nat) : List Nat → Option (State × List Nat)
  | [] => some (s, [])
  | c :: t =>
    match s.slate sid with
    | none => none
    | some x => (cores.filter fun k => s.fits sid x c k).findSome? fun k =>
      (State.placeAll (s.placeCrew sid c k) sid cores t).map fun (s, l) => (s, k :: l)

/-- The sets of cores in which a group bound to a domain may stand: those of one unit. -/
def coreSets (dom : Nat) (cores : List Nat) : List (List Nat) :=
  match dom with
  | 2 => (List.range 32).map fun u => cores.filter fun k => k / 10 == u
  | 3 => (List.range 2).map fun u => cores.filter fun k => k / 160 == u
  | _ => [cores]

/-- The next co-resident group of the head placed whole (R155). -/
def State.tryGroup (s : State) (sid : Nat) (cores : List Nat) : Try :=
  match s.slate sid with
  | none => none
  | some x =>
    if !x.checked then none
    else if !s.genOk x then some (s.cancelSlate sid, .started)
    else
      let n := min (x.groupSize.getD 1) (x.ncrews - x.placed)
      let crews := (List.range n).map (x.placed + ·)
      ((coreSets x.groupDom (s.among x.chosen cores)).findSome? fun l => s.placeAll sid l crews).map fun (_, used) =>
        s.tryOn (clustersOf used) (fun s => s.updSlate sid fun x => { x with chosen := clustersOf used }) fun s =>
          let s := s.updSlate sid fun x => { x with chosen := [] }
          match s.placeAll sid used crews with
          | some (s, _) => s.nextHead sid
          | none => s

/-- A crew of a parked take has ended as cancelled without a core (R137). -/
def State.cancelTake (s : State) (id : Nat) (t : Take) : State :=
  let s := s.updSlate t.slate fun x => { x with cancelled := true, ended := x.ended + (t.crew.kind == .vector : Bool).toNat }
  { s with takes := s.takes.del id }

/-- Room for a parked crew on a core. -/
def State.takeFits (s : State) (t : Take) (x : Slate) (core : Nat) : Bool :=
  let q0 := s.firstQuad core
  let c := if t.kind = 1 then t.crew.repack q0 else t.crew.requad q0
  s.unitsOk x c.crix core && s.ctlOk t.slate { x with ctlStarted := (x.ctlMember c.crix).toList } c.crix (core / 10)
    && s.roomFor c.ctx core c.n c.nregs (windowOf c.spadSize) (c.warps.map fun w => w.2.quad)

/-- A take restored on a core of its context. -/
def State.restoreOn (s : State) (id : Nat) (t : Take) (core : Nat) : State :=
  let base := (s.freeWindow core (windowOf t.crew.spadSize)).getD 0
  let cid := s.nextCrew
  let s := s.resume t core (if t.crew.spadSize = 0 then 0 else base)
  let s := s.updSlate t.slate fun x => x.bindUnits t.crew.crix core
  let s := ({ s with takes := s.takes.del id } : State).updQueue (s.slates.get {} t.slate).queue fun q => { q with takes := q.takes.filter (· != id) }
  let s := (s.recheckBytes core)
  let s := (List.range 32).foldl (fun s n => s.recheckArv (core / 10) n) s
  s.recheckBars cid

/-- A parked crew that has gone from its queue. -/
def State.dropTake (s : State) (id : Nat) (x : Slate) : State :=
  s.updQueue x.queue fun q => { q with takes := q.takes.filter (· != id) }

/-- A parked crew whose record is no longer one: the slate fails with cause 5, and the crew has ended (R312, R332). -/
def State.loseTake (s : State) (id : Nat) (t : Take) : State :=
  let s := s.updSlate t.slate fun x => { x with fail := 5, ended := x.ended + 1 }
  ({ s with takes := s.takes.del id } : State).slateRetire t.slate

/-- A parked take restored, after its check (R137, R142). -/
def State.tryTake (s : State) (id only : Nat) (cores : List Nat) : Try :=
  match s.takes.find id with
  | none => none
  | some t =>
    match s.slate t.slate with
    | none => none
    | some x =>
      if !s.genOk x then some (((s.cancelTake id t).dropTake id x).cancelSlate t.slate, .started)
      else
        match s.takeLoaded t with
        | none => some ((s.dropTake id x).loseTake id t, .started)
        | some u =>
          (pickCore only (s.takeFits u x) (s.among t.chosen cores)).map fun k =>
            s.tryOn [k / 10] (fun s => { s with takes := s.takes.set id { t with chosen := [k / 10] } }) fun s => s.restoreOn id u k

/-- Takes restored on some cores, with the cores used: each on the first core from which the later ones can be restored too. -/
def State.restoreAll (s : State) (cores : List Nat) : List (Nat × Take) → Option (State × List Nat)
  | [] => some (s, [])
  | (id, t) :: r => (cores.filter fun k => s.takeFits t (s.slates.get {} t.slate) k).findSome? fun k =>
    (State.restoreAll (s.restoreOn id t k) cores r).map fun (s, l) => (s, k :: l)

/-- A parked group restored whole (R156); a failed check ends every crew of it as cancelled, and a record that is no longer one ends
every crew with it. -/
def State.tryTakeGroup (s : State) (id : Nat) (cores : List Nat) : Try :=
  match s.takes.find id with
  | none => none
  | some t =>
    match s.slate t.slate with
    | none => none
    | some x =>
      let mine := s.takes.filter fun y => y.2.slate == t.slate && y.2.group == t.group
      if !s.genOk x then
        some (((mine.foldl (fun s (k, y) => s.cancelTake k y) s).dropTake id x).cancelSlate t.slate, .started)
      else
        match mine.mapM fun (k, y) => (s.takeLoaded y).map fun u => (k, u) with
        | none => some (mine.foldl (fun s (k, y) => s.loseTake k y) (s.dropTake id x), .started)
        | some loaded =>
          ((coreSets x.groupDom (s.among t.chosen cores)).findSome? fun l => s.restoreAll l loaded).map fun (_, used) =>
            s.tryOn (clustersOf used) (fun s => { s with takes := s.takes.set id { t with chosen := clustersOf used } }) fun s =>
              match s.restoreAll used loaded with
              | some (s, _) => s.dropTake id x
              | none => s

/-- The cluster on which a parked control thread is restored (R171): its member's, or the lowest-numbered one in its wider units. -/
def State.ctlCluster (s : State) (t : Take) (x : Slate) : Option Nat :=
  let cores := s.openCores x.ctx
  let held (cl : Nat) : Bool := cores.any fun k => k / 10 == cl
  let free (cl : Nat) : Bool := s.ctlFree x.ctx cl fun sl m => sl == t.slate && m == t.crew.member
  match x.clusterLevel with
  | none => none
  | some k =>
    let own := x.units.get (t.crew.core - 320) (2 ^ 32 * k + t.crew.member)
    if held own && free own then some own
    else
      let crix := t.crew.member * x.crewsBelow k
      let within (cl : Nat) : Bool := x.bound.all fun j =>
        x.doms.getD j 0 != 3 || (match x.units.find (x.unitKey j crix) with
          | none => true
          | some u => cl / 16 == u || !cores.any fun c => c / 160 == u)
      (List.range 32).find? fun cl => held cl && free cl && (s.cluster cl).owner != some x.ctx && within cl

/-- A parked control thread restored on a cluster with the state of its control core (R171, R428). -/
def State.restoreCtl (s : State) (id : Nat) (t : Take) (x : Slate) (cl : Nat) : State :=
  let old := t.crew.core - 320
  let stray := (s.ctx x.ctx).stray
  let src := match stray.find old with
    | some o => some o
    | none => if (s.cluster old).owner = some x.ctx then some (s.cluster old).owned else none
  let rows : List RowEnt := t.rows.map fun r => ⟨r.1, r.2, .expired, 0, some 0, [], 0, false⟩
  let s := if old ≠ cl && (stray.find old).isNone && (s.cluster old).owner = some x.ctx
    then s.updCluster old ClusterSt.unowned else s
  let s := s.updCtx x.ctx fun c => { c with stray := c.stray.del old }
  let s := (s.takeCtl x.ctx cl).updCluster cl fun c => { c.adopt (src.getD {}) x.ctx with rows := rows }
  let s := s.acquireHead (320 + cl)
  let s := s.newCrew { t.crew with core := 320 + cl, spill2 := false, takeCarry := none }
  let s := s.updSlate t.slate fun y => match y.clusterLevel with
    | some k => { y with units := y.units.set (2 ^ 32 * k + t.crew.member) cl }
    | none => y
  let s := ({ s with takes := s.takes.del id } : State).dropTake id x
  ((List.range 32).foldl (fun s n => s.recheckArv cl n) s).wakeMatrix cl

/-- A parked control thread restored on a die. -/
def State.tryControl (s : State) (id die : Nat) : Try :=
  match s.takes.find id with
  | none => none
  | some t =>
    match s.slate t.slate with
    | none => none
    | some x =>
      let at' (cl : Nat) : Bool := dieOf cl == die
      ((s.ctlCluster t x).filter at').map fun cl =>
        s.tryOn [cl] (fun s => { s with takes := s.takes.set id { t with chosen := [cl] } }) fun s => s.restoreCtl id t x cl

/-- Trying the first item of a queue on a die; a co-resident group that no cluster or die binds stands on all cores of its context.
(DEDUCED, log 73) -/
def State.tryQueue (s : State) (die d only : Nat) : Try :=
  match (s.queue d).ctx with
  | none => none
  | some ctx =>
    let all := s.openCores ctx
    let mine := all.filter fun k => k / 160 == die
    let wide (x : Option Slate) : List Nat := match x with | some x => if x.groupDom = 2 || x.groupDom = 3 then mine else all | none => mine
    match s.firstItem d with
    | none => none
    | some (.crew k) => s.tryCrew k only mine
    | some (.group k) => s.tryGroup k (wide (s.slate k))
    | some (.take id) => s.tryTake id only mine
    | some (.takeGroup id) => s.tryTakeGroup id (wide (s.itemSlate (.takeGroup id)))
    | some (.control id) => s.tryControl id die

/-! ### The dispatcher of a die (R119-R123) -/

/-- Whether a context has a ready item. -/
def State.hasItem (s : State) (ctx : Nat) : Bool := !(s.ctx ctx).drained && !(s.ranked ctx).isEmpty

/-- Whether the first item of a queue fits on either die now. -/
def State.placeable (s : State) (d : Nat) : Bool := (s.tryQueue 0 d 0).isSome || (s.tryQueue 1 d 0).isSome

/-- Whether the first item of a queue can start on a die now, or wakes the clusters that it needs. -/
def State.starts (s : State) (die d : Nat) : Bool := match s.tryQueue die d 0 with | some (_, r) => r != .waits | none => false

/-- Backfill has stopped on a context: some item that won was not placed for 2^16 ticks (R123). -/
def State.backfillOver (s : State) (ctx : Nat) : Bool :=
  (s.ranked ctx).any fun d => match (s.queue d).wonAt with | some t => decide (t + 65536 ≤ s.tick) | none => false

/-- The queue of a context whose item a die starts (R123): the winner, or when it fits on no core of the context and the dispatcher
backfills, which `back` says, the next that can start. -/
def State.pickQueue (s : State) (die ctx : Nat) (back : Bool) : Option Nat :=
  match s.ranked ctx with
  | [] => none
  | d :: rest =>
    if s.starts die d then some d
    else if !back || s.placeable d || s.backfillOver ctx then none
    else rest.find? (s.starts die)

/-- Winners that cannot be placed are remembered with the tick at which they first won (R123). -/
def State.noteWinners (s : State) : State :=
  let stuck := s.ctxs.filterMap fun c =>
    if !c.2.resident || c.2.drained then none else
    match s.ranked c.1 with
    | [] => none
    | d :: _ => if (s.queue d).wonAt.isSome || s.placeable d then none else some d
  stuck.foldl (fun s d => s.updQueue d fun q => { q with wonAt := some s.tick }) s

/-- One decision of a die's dispatcher: the context whose item starts, its queue, and the arbiter after it. -/
def State.decide' (s : State) (die : Nat) (back : Bool) : Option (Nat × Arbiter) :=
  let pick (ctx : Nat) : Option Nat := if (s.ctx ctx).drained then none else s.pickQueue die ctx back
  match s.arbitrate (s.arb die) s.hasItem fun ctx => (pick ctx).isSome with
  | none => none
  | some (ctx, a) => (pick ctx).map fun d => (d, a)

/-- A dispatcher's turn on die `unit`: the item that the three levels choose starts if its kind is one that the step takes. `val` is
one more than the core that the dispatcher takes of those that hold the item, 0 for the lowest-numbered; `flag` says that it does not
backfill. (DESIGN CHOICE, log 71) -/
def State.dispatch (s : State) (kind : ItemKind → Bool) : State :=
  let die := s.inp.unit
  let s := s.expireAll.noteWinners
  match s.decide' die !s.inp.flag with
  | none => s
  | some (d, a) =>
    if !((s.firstItem d).any kind) then s
    else
      match s.tryQueue die d s.inp.val with
      | some (t, .started) => (t.setArb die a).updQueue d fun q => { q with ageFrom := s.tick, wonAt := none }
      | some (t, _) => t
      | none => s

/-- CREW_PLACE: a crew of the winning slate. -/
def execCrewPlace (s : State) : Host.Outcome State Fault Refusal :=
  .next (s.dispatch fun i => match i with | .crew _ => true | _ => false)

/-- GROUP_PLACE: a co-resident group placed or restored whole (R155, R156). -/
def execGroupPlace (s : State) : Host.Outcome State Fault Refusal :=
  .next (s.dispatch fun i => match i with | .group _ | .takeGroup _ => true | _ => false)

/-- TAKE_RESTORE: a parked crew restored. -/
def execTakeRestore (s : State) : Host.Outcome State Fault Refusal :=
  .next (s.dispatch fun i => match i with | .take _ => true | _ => false)

/-- CONTROL_THREAD_RESTORE: a parked control thread restored (R171). -/
def execControlThreadRestore (s : State) : Host.Outcome State Fault Refusal :=
  .next (s.dispatch fun i => match i with | .control _ => true | _ => false)

/-- AGE_TICK of queue `unit`: its next period of 2^13 ticks is over (R122). -/
def execAgeTick (s : State) : Host.Outcome State Fault Refusal :=
  .next (if (s.firstItem s.inp.unit).isSome
    then s.untilTick ((s.queue s.inp.unit).ageFrom + 8192 * (s.age s.inp.unit + 1)) else s)

/-- BACKFILL_TIMEOUT of queue `unit`: 2^16 ticks have passed since its item first won (R123). -/
def execBackfillTimeout (s : State) : Host.Outcome State Fault Refusal :=
  match (s.queue s.inp.unit).wonAt with
  | none => .next s
  | some t => .next (s.untilTick (t + 65536))

/-! ### Engine commands (R119) -/

/-- Contexts with a command that has not started in an engine, and the first such command started. -/
def State.waitingCopy (s : State) (cl ctx : Nat) : Option Nat :=
  (s.cluster cl).copyQ.find? fun k => match s.copies.find k with | some c => c.ctx == ctx && !c.started && !c.done | none => false
def State.startCopy (s : State) (cl ctx : Nat) : State :=
  match s.waitingCopy cl ctx with
  | none => s
  | some k => (s.updCopy k fun c => { c with started := true }).copySettle k
def State.startDolly (s : State) (cl ctx : Nat) : State :=
  let q := (s.cluster cl).dollyQ
  match q.findIdx? fun c => c.ctx == ctx && !c.started with
  | none => s
  | some i => s.updCluster cl fun k => { k with dollyQ := q.modify i fun c => { c with started := true } }
def State.startSlot (s : State) (cl ctx : Nat) : State :=
  let q := (s.cluster cl).grammarQ
  match q.findIdx? fun c => c.ctx == ctx && !c.started with
  | none => s
  | some i => (s.updCluster cl fun k => { k with grammarQ := q.modify i fun c => { c with started := true } }).wakeEngine

/-- Whether a context has a command that has not started in an engine: 0 the copy engine, 1 the dolly, 2 the grammar slots. -/
def State.waitsInEngine (s : State) (cl eng ctx : Nat) : Bool :=
  match eng with
  | 0 => (s.waitingCopy cl ctx).isSome
  | 1 => (s.cluster cl).dollyQ.any fun c => c.ctx == ctx && !c.started
  | _ => s.slotWaits cl ctx

/-- The arbiter of an engine of a cluster. -/
def engineArb (cl eng : Nat) : Nat := match eng with | 0 => copyArb cl | 1 => dollyArb cl | _ => slotsArb cl

/-- A context's first command that has not started in an engine, started. -/
def State.startIn (s : State) (cl eng ctx : Nat) : State :=
  match eng with
  | 0 => s.startCopy cl ctx
  | 1 => s.startDolly cl ctx
  | _ => s.startSlot cl ctx

/-- ENGINE_COMMAND_START on cluster `unit`: engine `sub` starts the command that levels 1 and 2 choose; a DRAIN stops no engine command
(R73), but nothing starts on a cluster whose rails are off (R31). -/
def State.engineStart (s : State) (cl eng : Nat) : State :=
  if !s.railsOn cl then s else
  let has := s.waitsInEngine cl eng
  match s.arbitrate (s.arb (engineArb cl eng)) has has with
  | none => s
  | some (ctx, a) =>
    if s.asleep [cl] ≠ [] then s.wakeCluster cl
    else ((s.wakeCluster cl).setArb (engineArb cl eng) a).startIn cl eng ctx

/-- `ENGINE_COMMAND_START` (R119). -/
def execEngineCommandStart (s : State) : Host.Outcome State Fault Refusal := .next (s.engineStart s.inp.unit s.inp.sub)

end Sys2Proof.Machine
end

