-- ==== Sys2Proof/Machine/Power.lean ====
section
/-! DEFINITION. Power, clocks, heat and power states of the clusters and the package (R21-R41, R144, R192). What sensors and
governors decide comes with the step as its input; the conditions that the state shows are checked. -/

namespace Sys2Proof.Machine

/-! ### Clock, budget and slider (R22-R29) -/

/-- The step that the three limits of R23 allow a cluster. -/
def State.stepLimit (s : State) (cl : Nat) : Nat := min (s.pw cl).grant (min (s.pw cl).cap (s.stack (stackOf cl)).cap)

/-- CLOCK_STEP_CHANGE of cluster `unit` (R24). -/
def execClockStepChange (s : State) : Host.Outcome State Fault Refusal :=
  .next (s.updPw s.inp.unit fun p => { p with step := s.stepLimit s.inp.unit })

/-- The least favoured class among the resident contexts that hold cores on a cluster: 3 scavenger to 0 guaranteed, none without one. (DESIGN CHOICE, log 82) -/
def State.clusterClass (s : State) (cl : Nat) : Option Nat :=
  s.ctxs.foldl (fun b (_, c) =>
    if c.resident && c.cores.any (fun k => k / 10 == cl) then
      (match b with | some x => some (max x c.loop.cls) | none => some c.loop.cls)
    else b) none

/-- The place of a cluster in the order in which caps are lowered (R27): the lowest class first, then the highest step. The manual
says nothing of a cluster without a context: its cap is lowered last and raised first. (DESIGN CHOICE, log 82) -/
def State.capKey (s : State) (cl : Nat) : Nat :=
  128 * (match s.clusterClass cl with | some k => k + 1 | none => 0) + (s.pw cl).step

/-- The cluster whose cap is lowered next: among equals the lower number. -/
def State.lowerNext (s : State) : Option Nat :=
  let can := (List.range 32).filter fun cl => 0 < (s.pw cl).cap
  can.foldl (fun b cl => match b with | some x => if s.capKey x < s.capKey cl then some cl else b | none => some cl) none

/-- The cluster whose cap is raised next: the reverse order. -/
def State.raiseNext (s : State) : Option Nat :=
  let can := (List.range 32).filter fun cl => (s.pw cl).cap < 100
  can.foldl (fun b cl => match b with | some x => if s.capKey cl ≤ s.capKey x then some cl else b | none => some cl) none

/-- A number held between two bounds. -/
def clampN (lo hi x : Nat) : Nat := max lo (min hi x)

/-- The budget for the compute and memory rails when the I/O die draws `io` watts, and the shares of the two sides (R26). -/
def PowerSt.budget (p : PowerSt) (io : Nat) : Nat := p.plim - io
def PowerSt.memShare (p : PowerSt) (io : Nat) : Nat := p.budget io * clampN 8 40 p.mshr / 64
def PowerSt.cmpShare (p : PowerSt) (io : Nat) : Nat := p.budget io - p.memShare io

/-- BUDGET_CAP_ADJUST (R27): one side compares its measured draw of `val` watts with its share while the I/O die draws `unit` watts.
`sub` 0: the compute side lowers a cap by a step above its share and raises one below it; 1: the memory side's factor rises by one
above its share and falls by one below it. A side above its share is limited in this slider period (R28). (DESIGN CHOICE, log 82) -/
def execBudgetCapAdjust (s : State) : Host.Outcome State Fault Refusal :=
  let p := s.power
  if s.inp.sub = 0 then
    if p.cmpShare s.inp.unit < s.inp.val then
      let s1 : State := { s with power := { p with cmpcap := true } }
      .next (match s.lowerNext with | some cl => s1.updPw cl fun p => { p with cap := p.cap - 1 } | none => s1)
    else if s.inp.val < p.cmpShare s.inp.unit then
      .next (match s.raiseNext with | some cl => s.updPw cl fun p => { p with cap := p.cap + 1 } | none => s)
    else .next s
  else if p.memShare s.inp.unit < s.inp.val then .next { s with power := { p with memcap := true, memFactor := p.memFactor + 1 } }
  else if s.inp.val < p.memShare s.inp.unit then .next { s with power := { p with memFactor := p.memFactor - 1 } }
  else .next s

/-- SLIDER_PERIOD (R28), 2^14 ticks after the last: stall is `val` of `aux` issue cycles. -/
def execSliderPeriod (s : State) : Host.Outcome State Fault Refusal :=
  let p := s.power
  let due := p.sliderAt + 16384
  let m := if p.memcap && decide (3 * s.inp.aux ≤ 8 * s.inp.val) then p.mshr + 1
    else if p.cmpcap && decide (8 * s.inp.val < s.inp.aux) then p.mshr - 1 else p.mshr
  .next ({ s with power := { p with
    mshr := clampN 8 40 (if p.slfix then p.mfix else m), memcap := false, cmpcap := false, sliderAt := due } }.untilTick due)

/-- PWRCTL_WRITE of `val` (R29). -/
def execPwrctlWrite (s : State) : Host.Outcome State Fault Refusal :=
  let v := s.inp.val
  .next { s with power := { s.power with
    plim := clampN 1000 3200 (bits v 0 12), slfix := bits v 18 1 == 1, mfix := bits v 19 6 } }

/-! ### Heat (R30, R34) -/

/-- THERMAL_BAND_CHANGE of stack `unit` to band `val`. -/
def execThermalBandChange (s : State) : Host.Outcome State Fault Refusal :=
  let b := min 3 s.inp.val
  .next (s.updStack s.inp.unit fun k => { k with
    band := b, cap := if b = 3 then 0 else k.cap, bandTick := if b = k.band then k.bandTick else s.tick })

/-- THERMAL_CAP_TICK of stack `unit`. -/
def execThermalCapTick (s : State) : Host.Outcome State Fault Refusal :=
  .next (s.updStack s.inp.unit fun k => { k with
    cap := match k.band with | 0 => min 100 (k.cap + 1) | 1 => k.cap | 2 => k.cap - 4 | _ => 0 })

/-- Whether a matrix operation is in progress on an array: rows 0-31 of an operation run on array 0 and rows 32-63 on array 1
(R434, R444). -/
def MItem.onArray (q : MItem) (n : Nat) : Bool :=
  let rows : Bool := match q.op with
    | .mma => decide (32 < q.ca.rows)
    | .mmas => decide (32 < q.ca.rows)
    | .mmaq => decide (32 < q.ca.rows)
    | _ => true
  q.started && (n == 0 || rows)

/-- HALF_SWITCH of pair `sub` of cluster `unit`: arrays 0 and 1, and the control-core banks at 2; the active half is `val` degrees hotter
than the idle one. It is at least 4 degrees hotter, it has been active for 10 ms, and no matrix operation is in progress on an array
that switches (R34). -/
def execHalfSwitch (s : State) : Host.Outcome State Fault Refusal :=
  let cl := s.inp.unit
  let n := min 2 s.inp.sub
  if s.inp.val < 4 || (n < 2 && (s.mx cl).queue.any (·.onArray n)) then .next s
  else
    let s1 := s.until ((s.pw cl).since.get 0 n + 10000000000)
    .next (s1.updPw cl fun p =>
      let p := { p with since := p.since.set n s1.now }
      match n with | 0 => { p with half0 := !p.half0 } | 1 => { p with half1 := !p.half1 } | _ => { p with cbank := !p.cbank })

/-! ### Stops of crews and clusters (R31, R35, R144, R186, R192) -/

/-- A stop of kind S with its DETAIL (R176): the stop list is written with DEPTH 0 and the crew ends (R186). -/
def State.stopCrew (s : State) (cid cause detail : Nat) : State :=
  match s.crew cid with
  | none => s
  | some c =>
    if c.kind = .cue || c.ending.isSome then s
    else (((s.noteStop c.slate cause detail).writeStopList c cause 0 none 0).getD (s.noteStop c.slate cause detail)).endCrew cid cause

/-- Every crew and control thread that satisfies a test stops. -/
def State.stopCrews (s : State) (p : Crew → Bool) (cause detail : Nat) : State :=
  (s.crews.filter fun c => p c.2).foldl (fun s c => s.stopCrew c.1 cause detail) s

/-- Queued matrix instructions of a cluster that will not finish are reported failed with their slates (R192, R435). -/
def State.failMatrix (s : State) (cl cause : Nat) : State :=
  let s := (s.mx cl).queue.foldl (fun s q => s.updSlate q.slate fun x => { x with fail := if x.fail = 0 then failOf cause else x.fail }) s
  if (s.mx cl).queue = [] && (s.mx cl).shared = [] then s
  else s.updMx cl fun m => { m with queue := [], drainPoison := 0, shared := [] }

/-- Engine commands on clusters that satisfy a test report the items that cannot finish as FENCED; passes end as failed. (DEDUCED, log 66) -/
def State.failEngines (s : State) (p : Nat → Bool) : State :=
  let s := s.copyStop (fun c => p c.cluster) 0x13
  let s := (s.copies.filter fun c => c.2.op == .coll && !c.2.done && p c.2.cluster).foldl (fun s (k, _) => s.collStop k 0x0A) s
  let s := (s.bindings.filter fun b => p (b.1 / 4)).foldl (fun s (k, _) => s.stopBinding k false) s
  s.grammarFail fun cl _ => p cl

/-- L1 lines and buffered stores of a cluster's cores are written home. -/
def State.writeBackCluster (s : State) (cl : Nat) : State :=
  ((List.range 10).map (10 * cl + ·) ++ [320 + cl]).foldl (fun s k => (s.releaseAll k).fullFence k) s

/-- THERMAL_TRIP on stack `unit`: the compute rails go off, and every resident crew stops with THERMAL. What the crews have stored is
written home first, as on the way to W2 (R37). -/
def State.thermalTrip (s : State) (k : Nat) : State :=
  if s.power.tripped then s
  else
    let s : State := { s with power := { s.power with tripped := true, tripTick := s.tick } }
    let s := s.failEngines fun _ => true
    let s := s.stopCrews (fun _ => true) cTHERMAL k
    let s := (List.range 32).foldl (fun s cl => (s.failMatrix cl cTHERMAL).writeBackCluster cl) s
    s.post 0 { recThermalTrip with unit := unitOf 1 k }

/-- `THERMAL_TRIP` (R31). -/
def execThermalTrip (s : State) : Host.Outcome State Fault Refusal := .next (s.thermalTrip s.inp.unit)

/-- A cluster whose supply was off: what its cores and its own units held reads zero (R32, R37). -/
def State.dark (s : State) (cl : Nat) : State :=
  let s := (List.range 10).foldl (fun (s : State) v => { s with cores := s.cores.del (10 * cl + v) }) s
  let s : State := { s with cores := s.cores.del (320 + cl) }
  s.updCluster cl fun c => { c with
    mbx := [], mbxMark := [], arv := [], arvMark := [], tlb2 := [], rows := [], xfers := [], mx := {} }

/-- THERMAL_CLEAR (R32): every stack has been in band 0 for 10 ms, and the clusters come up as from W2. -/
def State.thermalClear (s : State) : State :=
  if !s.power.tripped || (List.range 16).any (fun k => (s.stack k).band != 0) then s
  else
    let s := s.untilTick ((List.range 16).foldl (fun m k => max m ((s.stack k).bandTick + 2000000)) 0)
    let off := s.tick - s.power.tripTick
    let s := s.bindings.foldl (fun s (k, _) => s.stopBinding k true) s
    let s := s.grammarFail fun _ _ => true
    let s : State := { s with gslots := [] }
    let s := (List.range 32).foldl (fun s cl => (s.dark cl).updPw cl fun p => { p with w := 0, hold := false, latched := false }) s
    let s : State := { s with power := { s.power with
      tripped := false, w3 := false, selfRefresh := false, linkIdle := false, inrush := [], inrushAt := [] } }
    s.post 0 { recThermalClear with d0 := off }

/-- `THERMAL_CLEAR` (R32). -/
def execThermalClear (s : State) : Host.Outcome State Fault Refusal := .next s.thermalClear

/-- CLUSTER_FENCED: cluster `unit` after a sag of `val` mV (R35): its crews stop with FENCED, its engines report what cannot finish,
and its cores leave their contexts, whose clock grants are worked out again (R101). -/
def State.fence (s : State) (cl sag : Nat) : State :=
  if (s.pw cl).fenced || sag ≤ 35 then s
  else
    let s := s.ctxs.foldl (fun s c => s.keepPools c.2.func) (s.keepPools 0)
    let s := s.updPw cl fun p => { p with fenced := true }
    let s := s.failEngines fun k => k == cl
    let s := s.stopCrews (fun c => clusterOf c.core == cl) cFENCED cl
    let s := (s.failMatrix cl cFENCED).writeBackCluster cl
    let s : State := { s with ctxs := s.ctxs.mapV fun _ c =>
      { c with cores := c.cores.filter fun k => k / 10 != cl, leaving := c.leaving.filter fun x => x.1 / 10 != cl } }
    let s := (s.updCluster cl fun c => { c with owner := none }).regrant
    s.post 0 { recClusterFenced with unit := unitOf 0 cl, d0 := sag }

/-- `CLUSTER_FENCED` (R35). -/
def execClusterFenced (s : State) : Host.Outcome State Fault Refusal := .next (s.fence s.inp.unit s.inp.val)

/-! ### Power states (R37-R41) -/

/-- Whether the host's tolerance allows a state with an exit latency in ns (R38). -/
def State.tolerates (s : State) (ns : Nat) : Bool := match s.power.tolerance with | none => true | some t => decide (ns ≤ t)

/-- What the state shows of the W2 condition (R37): no crew on the cluster, and no resident context owns its control core, holds one
of its grammar slots or has a binding on its dolly. -/
def State.w2Ready (s : State) (cl : Nat) : Bool :=
  !(s.crews.any fun c => clusterOf c.2.core == cl)
    && (match (s.cluster cl).owner with | some k => !(s.ctx k).resident | none => true)
    && !(s.gslots.any fun g => g.1 / 64 == cl && (s.ctx g.2.owner).resident)
    && !(s.bindings.any fun b => b.1 / 4 == cl && (s.ctx b.2.ctx).resident)

/-- When a cluster without a crew has had none for 50 µs (R37). -/
def State.crewlessAt (s : State) (cl : Nat) : Nat := (s.pw cl).lastCrew + 50000000

/-- Whether a cluster may stand in W2 now: its condition, the host's tolerance, and at most 9 clusters of a die there (R37-R39). -/
def State.w2May (s : State) (cl : Nat) : Bool :=
  let there := ((List.range 32).filter fun k => dieOf k == dieOf cl && (s.pw k).w == 2).length
  !s.power.w3 && decide (there < 9) && s.w2Ready cl && decide (s.crewlessAt cl ≤ s.now) && s.tolerates 24000

/-- A cluster powers down: its break-even hold begins (R40). -/
def State.powerDown (s : State) (cl : Nat) : State :=
  ((s.writeBackCluster cl).dark cl).updPw cl fun p => { p with w := 2, hold := true, latched := false, downAt := s.now }

/-- W1_ENTRY of cluster `unit`, which has not issued for 2 µs: the governor takes the deepest state that is allowed (R38). -/
def execW1Entry (s : State) : Host.Outcome State Fault Refusal :=
  let cl := s.inp.unit
  if (s.pw cl).w ≠ 0 || !s.tolerates 100 then .next s
  else
    let s1 := s.until ((s.pw cl).lastIssue + 2000000)
    .next (if s1.w2May cl then s1.powerDown cl else s1.updPw cl fun p => { p with w := 1 })

/-- W2_ENTRY of cluster `unit`, which has had no crew for 50 µs (R37, R39). -/
def execW2Entry (s : State) : Host.Outcome State Fault Refusal :=
  let cl := s.inp.unit
  let s1 := s.until (s.crewlessAt cl)
  .next (if (s.pw cl).w < 2 && s1.w2May cl then s1.powerDown cl else s)

/-- BREAK_EVEN_HOLD_END of cluster `unit`, 1.5 µs after it entered W2. -/
def execBreakEvenHoldEnd (s : State) : Host.Outcome State Fault Refusal :=
  let cl := s.inp.unit
  let p := s.pw cl
  if !p.hold then .next s
  else
    let s1 := (s.until (p.downAt + 1500000)).updPw cl fun p => { p with hold := false, latched := false }
    .next (if p.latched then s1.wakeRequest cl else s1)

/-- CLUSTER_POWER_UP_DONE on die `unit`: the first cluster of its FIFO is in W0, 2.5 µs after its power-up began (R40). The package
has left W3 when no cluster is in W2 (R39). -/
def execClusterPowerUpDone (s : State) : Host.Outcome State Fault Refusal :=
  match s.power.inrush.get [] s.inp.unit with
  | [] => .next s
  | cl :: rest =>
    let s := s.until (s.power.inrushAt.get 0 s.inp.unit + 2500000)
    let s1 : State := { s with power := { s.power with
      inrush := s.power.inrush.set s.inp.unit rest, inrushAt := s.power.inrushAt.set s.inp.unit s.now } }
    let s2 := s1.updPw cl fun p => { p with w := 0 }
    .next { s2 with power := { s2.power with w3 := s2.power.w3 && s2.power.clusters.any fun p => p.2.w == 2 } }

/-- W3_ENTRY (R39): every cluster is in W2 or meets its condition, and every hardware queue is empty, as are the queues of the
engines. (DESIGN CHOICE, log 75) -/
def execW3Entry (s : State) : Host.Outcome State Fault Refusal :=
  let up := (List.range 32).filter fun cl => (s.pw cl).w != 2
  let idle := up.all s.w2Ready
  let empty := s.queues.all fun q => q.2.depth == 0 && q.2.incoming == [] && q.2.takes == [] && q.2.ready == []
  let quiet := s.clusters.all fun c => c.2.copyQ == [] && c.2.dollyQ == [] && c.2.grammarQ == []
  if !(idle && empty && quiet && s.tolerates 180000) || s.power.w3 then .next s
  else
    let s1 := s.until (up.foldl (fun m cl => max m (s.crewlessAt cl)) 0)
    let s2 := up.foldl (fun s cl => s.powerDown cl) s1
    .next { s2 with power := { s2.power with w3 := true, selfRefresh := true, linkIdle := true } }

/-- LATENCY_TOLERANCE_REPORT (R38): snoop value `val` and no-snoop value `aux` in ns; `flag` says that the host has no requirement. What
stands in a state whose exit takes longer than the new tolerance is woken. -/
def execLatencyToleranceReport (s : State) : Host.Outcome State Fault Refusal :=
  let s1 : State := { s with power := { s.power with tolerance := if s.inp.flag then none else some (min s.inp.val s.inp.aux) } }
  let s2 := if s1.power.selfRefresh && !s1.tolerates 180000 then s1.leaveW3 0 else s1
  .next ((List.range 32).foldl (fun s cl =>
    match (s.pw cl).w with
    | 0 => s
    | 1 => if s.tolerates 100 then s else s.updPw cl fun p => { p with w := 0 }
    | _ => if s.tolerates 24000 then s else s.wakeRequest cl) s2)

end Sys2Proof.Machine
end

