-- ==== Sys2Proof/Machine/Fabric.lean ====
section
/-! DEFINITION. Gang links, scale-out lanes, the merge trees and the loss of a package (R42-R48, R53, R55-R60, R111). -/

namespace Sys2Proof.Machine

/-! ### Links and lanes (R42, R45-R48) -/

/-- Gang links 0 to 35, and scale-out lane `i` at 64 + i. -/
def laneKey (i : Nat) : Nat := 64 + i
def isLane (k : Nat) : Bool := decide (64 ≤ k)

def State.link (s : State) (k : Nat) : Link := s.fabric.links.get {} k
def State.updLink (s : State) (k : Nat) (f : Link → Link) : State :=
  { s with fabric := { s.fabric with links := s.fabric.links.set k (f (s.link k)) } }

/-- A link or a lane that the package has. -/
def linkExists (k : Nat) : Bool := decide (k < 36) || (decide (64 ≤ k) && decide (k < 80))

/-- The status register (R47). -/
def Link.status (l : Link) : Nat :=
  l.up.toNat + 2 * (l.lanes % 4) + 8 * l.fenced.toNat + 256 * (l.peer % 256) + 65536 * min l.retry 0xFFFF

/-- A change of a link's state leaves a record (R46). -/
def State.linkChanged (s : State) (k : Nat) : State :=
  s.post 0 { recLinkState with unit := if isLane k then unitOf 3 (k - 64) else unitOf 2 k, d1 := (s.link k).status }

/-- Lanes of a scale-out port (R45). -/
def State.portSize (s : State) : Nat := match s.fabric.ports with | 1 => 2 | 2 => 4 | _ => 1

/-- The links that stand for the link or the port of a link or a lane: the lanes of its port, of those not fenced (R45, R46). -/
def State.portOf (s : State) (k : Nat) : List Nat :=
  if !isLane k then [k]
  else ((List.range s.portSize).map fun i => laneKey ((k - 64) / s.portSize * s.portSize + i)).filter fun j => !(s.link j).fenced

/-- Something arrived: the link carries traffic. A link that comes up takes its working lanes and its peer from the input. -/
def State.linkHeard (s : State) (k lanes peer : Nat) : State :=
  let l := s.link k
  if l.fenced then s
  else if l.up then s.updLink k fun l => { l with lastRx := s.now }
  else
    let most := if isLane k then 1 else 2
    (s.updLink k fun l => { l with
      up := true, lanes := clampN 1 (most - l.failed) lanes, peer := peer % 256, lastRx := s.now }).linkChanged k

/-- Traffic on a port is traffic on each of its lanes. -/
def State.portHeard (s : State) (k lanes peer : Nat) : State := (s.portOf k).foldl (fun s j => s.linkHeard j lanes peer) s

/-- GANG_FLIT_RECEIVE on link `unit`; `flag` says that its CRC failed, `val` and `aux` give lanes and peer of a link that comes up. -/
def execGangFlitReceive (s : State) : Host.Outcome State Fault Refusal :=
  let k := s.inp.unit
  if 36 ≤ k then .next s
  else if s.inp.flag then .next (s.updLink k fun l => { l with retry := min 0xFFFF (l.retry + 1) })
  else .next (s.linkHeard k s.inp.val s.inp.aux)

/-- ETH_FRAME_RECEIVE on lane `unit` of a frame with EtherType `val` (R45). -/
def execEthFrameReceive (s : State) : Host.Outcome State Fault Refusal :=
  if 16 ≤ s.inp.unit || s.inp.val ≠ s.fabric.etype then .next s
  else .next (s.portHeard (laneKey s.inp.unit) 1 s.inp.aux)

/-- HEARTBEAT_SEND on link `unit`, or on the port of lane `unit`, idle for 100 µs. -/
def execHeartbeatSend (s : State) : Host.Outcome State Fault Refusal :=
  let k := s.inp.unit
  if !linkExists k || (s.link k).fenced then .next s
  else
    let s1 := s.until ((s.link k).lastTx + 100000000)
    .next ((s1.portOf k).foldl (fun s j => s.updLink j fun l => { l with lastTx := s1.now }) s1)

/-- LINK_DOWN of link `unit`, or of the port of lane `unit`, which has received nothing for 300 µs. -/
def execLinkDown (s : State) : Host.Outcome State Fault Refusal :=
  let k := s.inp.unit
  if !linkExists k || !(s.link k).up then .next s
  else
    let s1 := s.until ((s.link k).lastRx + 300000000)
    .next (((s1.portOf k).filter fun j => (s1.link j).up).foldl (fun s j => (s.updLink j fun l => { l with up := false }).linkChanged j) s1)

/-- LANE_FAILURE on link or lane `unit`: a link runs on with its other lane, and with every lane failed it is fenced; so is a scale-out
lane, while the other lanes of its port run on. -/
def execLaneFailure (s : State) : Host.Outcome State Fault Refusal :=
  let k := s.inp.unit
  let l := s.link k
  if !linkExists k || l.fenced then .next s
  else
    let n := l.failed + 1
    let most := if isLane k then 1 else 2
    let gone := decide (most ≤ n)
    .next ((s.updLink k fun l => { l with
      failed := n, lanes := min l.lanes (most - n), up := l.up && !gone, fenced := gone }).linkChanged k)

/-- FABCFG_WRITE of `val` (R48). -/
def execFabcfgWrite (s : State) : Host.Outcome State Fault Refusal :=
  let v := s.inp.val
  let down := (List.range 16).all fun i => !(s.link (laneKey i)).up
  .next { s with fabric := { s.fabric with
    etype := bits v 0 16, ports := if down then bits v 16 2 else s.fabric.ports, pos := min 71 (bits v 18 7) } }

/-! ### Merge trees (R55-R57, R111) -/

def State.mergeEnt (s : State) (i : Nat) : MergeEnt := s.fabric.merge.get {} i
def State.updMerge (s : State) (i : Nat) (f : MergeEnt → MergeEnt) : State :=
  { s with fabric := { s.fabric with merge := s.fabric.merge.set i (f (s.mergeEnt i)) } }

/-- An entry in force: valid, with its group, and whether this package is the root. -/
def MergeEnt.valid (e : MergeEnt) : Bool := bits e.parIn 16 1 == 1 && e.fgrpIn != 0
def MergeEnt.root (e : MergeEnt) : Bool := bits e.parIn 15 1 == 1

/-- The entry that governs a group: the lowest-numbered valid one (R57). -/
def State.mergeOf (s : State) (fgrp : Nat) : Option Nat :=
  if fgrp = 0 then none else (s.fabric.merge.find? fun x => x.2.valid && x.2.fgrpIn == fgrp).map (·.1)

/-- The smaller of two values, and the OR of the clip bits of those that equal it (R111). -/
def mergeMin (a : Option (Nat × Bool)) (b : Nat × Bool) : Option (Nat × Bool) :=
  match a with
  | none => some b
  | some (v, c) => if v < b.1 then some (v, c) else if b.1 < v then some b else some (v, c || b.2)

/-- A member's period ended with a measurement: it enters its node's own value (R57). -/
def State.mergeReport (s : State) (ctx m : Nat) (clip : Bool) : State :=
  match s.mergeOf (s.ctx ctx).loop.fgrp with
  | none => s
  | some i => s.updMerge i fun e => { e with own := e.own.set ctx (m, clip) }

/-- A restored context is stale until its first report (R116): what it reported before is no value of the node. -/
def State.mergeForget (s : State) (ctx : Nat) : State :=
  { s with fabric := { s.fabric with merge := s.fabric.merge.mapV fun _ e => { e with own := e.own.del ctx } } }

/-- The node's own value (R57): the minimum over its members, which are the resident contexts of the group, with their clip bits. -/
def State.mergeOwn (s : State) (e : MergeEnt) : Option (Nat × Bool) :=
  (e.own.filter fun x => (s.ctx x.1).resident && (s.ctx x.1).loop.fgrp == e.fgrpIn).foldl (fun a x => mergeMin a x.2) none

/-- A merged value reaches the members of a group at this package. -/
def State.mergeDown (s : State) (i : Nat) (v : Nat × Bool) : State :=
  let e := s.mergeEnt i
  let s := s.updMerge i fun e => { e with down := some v }
  { s with ctxs := s.ctxs.mapV fun _ c =>
      if c.resident && c.loop.fgrp == e.fgrpIn then { c with merged := some (BitVec.ofNat 32 v.1, v.2), mergedAge := 0 } else c }

/-- A record of a child that went stale or came back (R56). -/
def State.mergeStale (s : State) (child : Nat) (stale : Bool) : State :=
  s.post 0 { recMergeStale with d0 := child, d1 := stale.toNat }

/-- One entry at the end of the node's period: children age, the minimum goes up, or from the root down, and a change of the entry
takes effect. -/
def State.mergeEntryEnd (s : State) (i : Nat) : State :=
  let e := s.mergeEnt i
  let s :=
    if !e.valid then s
    else
      let kids := e.children.mapV fun _ c => { c with age := c.age + 1, fresh := decide (c.age + 1 < 8) }
      let gone := (e.children.filter fun c => c.2.fresh && !decide (c.2.age + 1 < 8)).map (·.1)
      let s := s.updMerge i fun e => { e with children := kids }
      let s := gone.foldl (fun s k => s.mergeStale k true) s
      match (kids.filter fun c => c.2.fresh).foldl (fun a c => mergeMin a (c.2.value, c.2.clip)) (s.mergeOwn e) with
      | none => s
      | some v => if e.root then s.mergeDown i v else s.updMerge i fun e => { e with up := some v }
  s.updMerge i fun e => { e with
    own := [], fgrpIn := e.fgrp, parIn := e.par, children := if e.fgrpIn = e.fgrp then e.children else [] }

/-- MERGE_PERIOD_END: 2^16 ticks of the management core have passed since the last one. -/
def execMergePeriodEnd (s : State) : Host.Outcome State Fault Refusal :=
  let s1 := s.untilTick (s.fabric.mergeAt + 65536)
  let s2 : State := { s1 with fabric := { s1.fabric with mergeAt := s1.fabric.mergeAt + 65536 } }
  .next ((s.fabric.merge.map (·.1)).foldl (fun s i => s.mergeEntryEnd i) s2)

/-- MERGE_MESSAGE_RECEIVE for group `unit` with value `val` and clip bit `aux`: from child package `sub`, or with `flag` from the parent. -/
def execMergeMessageReceive (s : State) : Host.Outcome State Fault Refusal :=
  let v := (s.inp.val % 2 ^ 32, s.inp.aux % 2 == 1)
  match s.mergeOf s.inp.unit with
  | none => .next s
  | some i =>
    if s.inp.flag then .next (s.mergeDown i v)
    else
      let back := match (s.mergeEnt i).children.find s.inp.sub with | some c => !c.fresh | none => false
      let s1 := s.updMerge i fun e => { e with children := e.children.set s.inp.sub ⟨v.1, v.2, 0, true⟩ }
      .next (if back then s1.mergeStale s.inp.sub false else s1)

/-- MRGTAG_WRITE and MRGPAR_WRITE of `val` on the entry that `MRGSEL` selects. -/
def execMrgtagWrite (s : State) : Host.Outcome State Fault Refusal :=
  .next (s.updMerge s.fabric.mrgsel fun e => { e with fgrp := s.inp.val % 2 ^ 32 })
/-- `MRGPAR_WRITE` (R57). -/
def execMrgparWrite (s : State) : Host.Outcome State Fault Refusal :=
  .next (s.updMerge s.fabric.mrgsel fun e => { e with par := bits s.inp.val 0 17 })

/-! ### Loss of a package (R58, R60) -/

/-- The groups of this package that hold a package (R58): those of unfinished collectives, and the beat-merge groups in whose trees it
is a child or the parent. (DEDUCED, log 84) -/
def State.groupsWith (s : State) (p : Nat) : Nat :=
  let colls := (s.copies.filter fun c => c.2.op == .coll && !c.2.done && c.2.members.any fun m => m.1 == p).map (·.2.members)
  let trees := s.fabric.merge.filter fun (_, e) => e.valid && ((e.children.find p).isSome || (!e.root && bits e.parIn 0 15 == p))
  colls.eraseDups.length + trees.length

/-- PACKAGE_LOST: package `unit`. Items with it are marked PEER_LOST; in merge trees its reports age as any child's; D1 counts the
groups affected. The package stays lost until a reset: later items with it end PEER_LOST at once. (DESIGN CHOICE, log 105) -/
def execPackageLost (s : State) : Host.Outcome State Fault Refusal :=
  let p := s.inp.unit
  if s.fabric.lost.contains p then .next s
  else
    let groups := s.groupsWith p
    let s1 : State := { s with fabric := { s.fabric with lost := insertNat s.fabric.lost p } }
    .next ((s1.collGone (fun m => m.1 == p) 0x02).post 0 { recPackageLost with d0 := p, d1 := groups })

end Sys2Proof.Machine
end

