-- ==== Sys2Proof/Machine/Loops.lean ====
section
/-! DEFINITION. Beats, the control law, the ladder and the allocator (R89-R107, R111-R118, R143, R487, R489). -/

namespace Sys2Proof.Machine

/-! ### Beats and targets reach the controller (R91, R93, R356) -/

/-- The oldest beats on their way are counted at a tick: in the running period, or in the next from the tick that ends it on. (DESIGN CHOICE, log 53) -/
def Ctx.beatArrive (c : Ctx) (tick : Nat) : Ctx :=
  match c.beatsOnWay with
  | [] => c
  | (ch, n, _) :: rest =>
    let c := { c with beatsOnWay := rest, beats := c.beats.set ch ((c.beats.get 0 ch + n) % 2 ^ 32) }
    let add (t : Tbl Nat) : Tbl Nat := t.set ch (min 0xFFFFFFFF (t.get 0 ch + n))
    if c.resident && decide (c.due ≤ tick) then { c with beatNext := add c.beatNext }
    else { c with
      beatCur := add c.beatCur, loop := if ch = 0 then { c.loop with cnt0 := min 0xFFFFFFFF (c.loop.cnt0 + n) } else c.loop }

/-- T and MODE written; a change of MODE from 0 to 1 is remembered for the next period end (R95). -/
def Loop.setTarget (l : Loop) (t : Word) (m : Nat) : Loop :=
  { l with t := t, mode := m % 4, rise := l.rise || ((l.mode == 0 || l.mode == 3) && m % 4 == 1) }

/-- The oldest target on its way sets T and MODE, from the ending tick on after the period end. -/
def Ctx.btgtArrive (c : Ctx) (tick : Nat) : Ctx :=
  match c.btgtOnWay with
  | [] => c
  | (t, m, _) :: rest =>
    if c.resident && decide (c.due ≤ tick) then { c with btgtOnWay := rest, btgtNext := some (t, m) }
    else { c with btgtOnWay := rest, loop := c.loop.setTarget t m }

/-- Everything on its way to the controller has reached it (R116). -/
def Ctx.flushBeats (c : Ctx) : Ctx :=
  let c := { c with due := c.due + 1 }
  let c := (List.range c.beatsOnWay.length).foldl (fun c _ => c.beatArrive 0) c
  let c := (List.range c.btgtOnWay.length).foldl (fun c _ => c.btgtArrive 0) c
  { c with due := c.due - 1 }

/-- What retired 2 µs before a tick has reached the controller (R93, R356). -/
def Ctx.overdueBeats (c : Ctx) (tick : Nat) : Ctx :=
  let c := (c.beatsOnWay.takeWhile fun b => b.2.2 + 400 ≤ tick).foldl (fun c _ => c.beatArrive 0) c
  (c.btgtOnWay.takeWhile fun b => b.2.2 + 400 ≤ tick).foldl (fun c _ => c.btgtArrive 0) c

/-- BEAT_ARRIVE and BTGT_ARRIVE at the controller of context `unit`. -/
def execBeatArrive (s : State) : Host.Outcome State Fault Refusal := .next (s.updCtx s.inp.unit fun c => c.beatArrive s.tick)
/-- `BTGT_ARRIVE` (R356). -/
def execBtgtArrive (s : State) : Host.Outcome State Fault Refusal := .next (s.updCtx s.inp.unit fun c => c.btgtArrive s.tick)

/-! ### The ladder (R98, R99) -/

/-- The span of the ladder. -/
def State.span (s : State) (ctx : Nat) : Nat := (List.range 5).foldl (fun a k => a + ((s.rung ctx k).2 - (s.rung ctx k).1)) 0

/-- The rungs that a demand of `n` notches sets (R99). -/
def State.want (s : State) (ctx n : Nat) : List Nat :=
  ((List.range 5).foldl (fun (a : Nat × List Nat) k =>
    let (lo, hi) := s.rung ctx k
    let take := min a.1 (hi - lo)
    (a.1 - take, a.2 ++ [lo + take])) (n, [])).2

/-- Clusters on which a context holds cores. -/
def Ctx.clusters (c : Ctx) : List Nat := c.cores.foldl (fun l k => insertNat l (k / 10)) []

/-- G in notches and CLIP from the granted values (R106). -/
def State.grantOf (s : State) (ctx : Nat) (granted want : List Nat) : Nat × Bool :=
  let clock := (s.ctx ctx).clusters.foldl (fun (m : Option Nat) cl =>
    let x := (s.pw cl).step / 4
    match m with | some y => some (min x y) | none => some x) none
  (List.range 5).foldl (fun (a : Nat × Bool) k =>
    if a.2 then a
    else
      let w := want.getD k 0
      let have' := match k with | 0 => w | 4 => clock.getD w | _ => granted.getD k 0
      (a.1 + (min have' w - (s.rung ctx k).1), decide (have' < w))) (0, false)

/-- G and CLIP of a context as the grants of the latest epoch stand, with the present clock steps (R106). (DEDUCED, log 78) -/
def State.reclip (s : State) (ctx : Nat) : State :=
  let c := s.ctx ctx
  let want := s.want ctx c.used
  let (g, clip) := s.grantOf ctx (c.pending.getD c.granted) want
  -- until the first epoch that takes the context in, CLIP says that a pooled rung stands above its floor (R489)
  let clip := if c.joined then clip else [1, 2, 3].any fun k => decide ((s.rung ctx k).1 < want.getD k 0)
  s.updCtx ctx fun c => { c with loop := { c.loop with grant := g, clip := clip } }

/-! ### The control law (R94-R96) -/

/-- A stored value that acts as zero below zero (R94). -/
def posPart {w : Nat} (x : BitVec w) : Int := max 0 x.toInt

/-- An integer held between two bounds. -/
def clampI (lo hi x : Int) : Int := max lo (min hi x)

/-- The limits Umx and Imx (R96). -/
def Loop.umx (l : Loop) (span : Nat) : Int := min (posPart l.umax) (span * 65536)
def Loop.imx (l : Loop) (span : Nat) : Int := min (posPart l.imax) (l.umx span)

/-- The measurement of a period with `n` beats (R96). -/
def Loop.measure (l : Loop) (n : Nat) : Loop :=
  let raw : Int := min ((n * 65536) >>> l.bshift) 0x7FFFFFFF
  let m := if l.fshift = 0 then raw else l.m.toInt + (raw - l.m.toInt) / 2 ^ l.fshift
  { l with m := BitVec.ofInt 32 m }

/-- The steps of R96 after the measurement; `merged` is a fresh merged value with its clip bit. -/
def Loop.law (l : Loop) (span : Nat) (merged : Option (BitVec 32 × Bool)) : Loop :=
  let m := l.m.toInt
  let (meff, gcl) := match merged with
    | some (v, c) => if v.toInt < m then (v.toInt, c) else (m, l.clip)
    | none => (m, l.clip)
  let e := clampI (-2 ^ 31) (2 ^ 31 - 1) (posPart l.t - meff)
  let e := if e.natAbs ≤ (posPart l.db).toNat then 0 else e
  let p := clampI (-2 ^ 31) (2 ^ 31 - 1) (posPart l.kp * e / 4096)
  let frz := (l.hi && decide (0 < e)) || (l.lo && decide (e < 0)) || ((l.clip || gcl) && decide (0 < e))
  let i := if frz then l.i.toInt else clampI (-l.imx span) (l.imx span) (l.i.toInt + posPart l.ki * e / 4096)
  let sum := p + i
  let u := clampI 0 (l.umx span) sum
  { l with
    i := BitVec.ofInt 32 i, u := BitVec.ofInt 32 u, hi := decide (l.umx span ≤ sum), lo := decide (sum ≤ 0), gclip := gcl,
    demand := (u / 65536).toNat }

/-- The end of a period in the mode in force (R95): modes 0 and 3 hold u, I and D at zero, mode 2 keeps them. -/
def Loop.periodEnd (l : Loop) (n span : Nat) (merged : Option (BitVec 32 × Bool)) : Loop :=
  let l := l.measure n
  let l := if l.rise then { l with i := 0, u := 0, rise := false } else l
  let l := match l.mode with
    | 1 => l.law span merged
    | 2 => { l with demand := (l.u.toInt / 65536).toNat }
    | _ => { l with i := 0, u := 0, demand := 0 }
  { l with cnt0 := 0, phase := 0, periods := (l.periods + 1) % 65536 }

/-- The engine commands of a context that have not completed. -/
def State.cmdsInFlight (s : State) (ctx : Nat) : Bool :=
  (s.copies.any fun c => c.2.ctx == ctx && !c.2.done)
    || s.clusters.any fun c => (c.2.dollyQ.any fun d => d.ctx == ctx) || c.2.grammarQ.any fun g => g.ctx == ctx

/-- The watchdog at a period end (R117, R118). -/
def State.watchdog (s : State) (ctx : Nat) : State :=
  let c := s.ctx ctx
  if c.pulse then s.updCtx ctx fun c => { c with pulse := false, silent := 0, wdPosted := false }
  else
    let waits := (s.crews.any fun k => k.2.ctx == ctx && k.2.kind != .cue) || s.cmdsInFlight ctx
      || s.queues.any fun q => q.2.ctx == some ctx && (q.2.depth != 0 || q.2.takes != [] || q.2.ready != [])
    if !waits then s
    else
      let n := c.silent + 1
      if c.loop.wdog ≠ 0 && c.loop.wdog ≤ n && !c.wdPosted then
        (s.updCtx ctx fun c => { c with silent := n, wdPosted := true }).post (s.funcOf ctx)
          { recWatchdog with ctx := ctx, d1 := c.loop.wdog * 65536 }
      else s.updCtx ctx fun c => { c with silent := n }

/-- A demand posted at a tick, after the one before it (R107). -/
def Ctx.postDemand (c : Ctx) (tick old : Nat) : Ctx := if c.demandAt = tick then c else { c with demandAt := tick, demandOld := old }

/-- CONTROL_PERIOD_END of context `unit`. Every controller counts the one tick of the package, at its nominal rate. (DESIGN CHOICE, log 53) -/
def State.controlPeriodEnd (s : State) (ctx : Nat) : State :=
  if !(s.ctx ctx).resident then s
  else
    -- 2^16 ticks have passed, or what was left of an interrupted period
    let s := s.untilTick (s.ctx ctx).due
    let s := s.updCtx ctx fun c => c.overdueBeats c.due
    let c := s.ctx ctx
    let age := c.mergedAge + 1
    let merged := if c.loop.fgrp ≠ 0 && (s.mergeOf c.loop.fgrp).isSome && age ≤ 8 then c.merged else none
    -- an epoch on the same tick has not set CLIP yet (R107)
    let clip := if c.clipAt = c.due && c.joined then c.clipOld else c.loop.clip
    let l := { c.loop with clip := clip }.periodEnd c.loop.cnt0 (s.span ctx) merged
    let next := c.beatNext.get 0 0
    let l := { l with clip := c.loop.clip, cnt0 := next }
    let l := match c.btgtNext with | some (t, m) => l.setTarget t m | none => l
    let s := s.updCtx ctx fun c => ({ c with
      loop := l, beatRate := c.beatCur, beatCur := c.beatNext, beatNext := [], btgtNext := none, mergedAge := age,
      due := c.due + 65536 }).postDemand c.due c.loop.demand
    let s := s.mergeReport ctx l.m.toNat clip
    (s.reclip ctx).watchdog ctx

/-- `CONTROL_PERIOD_END` (R96). -/
def execControlPeriodEnd (s : State) : Host.Outcome State Fault Refusal := .next (s.controlPeriodEnd s.inp.unit)

/-! ### The allocator (R102-R107) -/

/-- Resident contexts of a function. -/
def State.residents (s : State) (f : Nat) : List Nat := (s.ctxs.filter fun c => c.2.resident && c.2.func == f).map (·.1)

/-- The pool of a rung. -/
def State.pool (s : State) (f k : Nat) : Nat :=
  match k with | 1 => s.corePool f | 2 => s.wayPool f | _ => s.sharePool f

/-- One contender of a class on a rung: context, notches still wanted, notches granted, weight. -/
structure Bid where
  ctx : Nat
  left : Nat
  got : Nat
  weight : Nat
  deriving DecidableEq, Repr

/-- The rounds in which a class shares what does not suffice for it (R105): `fuel` rounds at most. -/
def shareOut : Nat → List Bid → Nat → List Bid × Nat
  | 0, l, avail => (l, avail)
  | n + 1, l, avail =>
    let live := l.filter fun b => b.left != 0
    let w := live.foldl (fun a b => a + b.weight) 0
    let give (b : Bid) : Nat := if b.left = 0 then 0 else min b.left (avail * b.weight / w)
    let given := l.foldl (fun a b => a + give b) 0
    if live = [] || avail = 0 || given = 0 then (l, avail)
    else shareOut n (l.map fun b => { b with left := b.left - give b, got := b.got + give b }) (avail - given)

/-- What is left, a notch each, by weight descending and then context number ascending. -/
def lastNotches (l : List Bid) (avail : Nat) : List Bid :=
  let before (a b : Bid) : Bool := decide (b.weight < a.weight) || (a.weight == b.weight && decide (a.ctx < b.ctx))
  l.map fun b =>
    let ahead := (l.filter fun a => a.left != 0 && before a b).length
    if b.left ≠ 0 && ahead < avail then { b with left := b.left - 1, got := b.got + 1 } else b

/-- A class on a rung: the grants and what remains for the lower classes. -/
def grantClass (l : List Bid) (avail : Nat) : List Bid × Nat :=
  let total := l.foldl (fun a b => a + b.left) 0
  if total ≤ avail then (l.map fun b => { b with left := 0, got := b.left }, avail - total)
  else
    let (l, rest) := shareOut (total + 1) l avail
    (lastNotches l rest, 0)

/-- The demand that an epoch which begins on a tick takes: one posted on that tick enters the next epoch (R105, R107). -/
def Ctx.demandAtEpoch (c : Ctx) (tick : Nat) : Nat := if c.demandAt = tick && tick != 0 then c.demandOld else c.loop.demand

/-- The grants of a pooled rung above the floors, by context. -/
def State.allocRung (s : State) (f k : Nat) : Tbl Nat :=
  let all := s.residents f
  let floors := all.foldl (fun a c => a + (s.rung c k).1) 0
  let bids (cls : Nat) : List Bid := all.filterMap fun c =>
    let x := s.ctx c
    let w := (s.want c (x.demandAtEpoch s.tick)).getD k 0 - (s.rung c k).1
    if x.loop.cls = cls && w ≠ 0 then some ⟨c, w, 0, max 1 x.loop.weight⟩ else none
  ((List.range 4).foldl (fun (a : Tbl Nat × Nat) cls =>
    let (l, rest) := grantClass (bids cls) a.2
    (l.foldl (fun t b => t.set b.ctx b.got) a.1, rest)) ([], s.pool f k - floors)).1

/-- A context's ladder re-based to its present pools (R116): I and U held to the new limits, D posted at once. -/
def State.rebase (s : State) (ctx : Nat) : State :=
  let span := s.span ctx
  s.updCtx ctx fun c =>
    let l := c.loop
    let u := clampI 0 (l.umx span) l.u.toInt
    { c with loop := { l with
      i := BitVec.ofInt 32 (clampI (-l.imx span) (l.imx span) l.i.toInt), u := BitVec.ofInt 32 u, demand := (u / 65536).toNat } }

/-- Cores of a function that no context holds and no scrub job keeps or waits for, ascending. -/
def State.freeCores (s : State) (f : Nat) : List Nat :=
  (List.range 320).filter fun k => s.coreFunc.get 0 k == f && !(s.pw (k / 10)).fenced
    && !(s.ctxs.any fun c => c.2.cores.contains k) && !(s.scrubs.any fun j => j.2.busy && j.2.cores.contains k)

/-- A core is withdrawn from a context (R100, R200): its cue warps are saved, its crews drain at their boundaries. -/
def State.withdraw (s : State) (ctx core : Nat) : State :=
  let s := s.updCtx ctx fun c => { c with leaving := c.leaving.set core s.tick }
  let s := (s.bindings.filter fun b => b.2.ctx == ctx).foldl (fun s b => s.stowCue b.1 fun k => k == core) s
  s.settleCores ctx

/-- A context is to hold `n` cores: cores on their way out come back first and the lowest free ones are added; the highest-numbered
are released first. (DESIGN CHOICE, log 80) -/
def State.setCores (s : State) (ctx n : Nat) : State :=
  let c := s.ctx ctx
  let open' := c.cores.filter fun k => (c.leaving.find k).isNone
  if open'.length ≤ n then
    let back := (c.leaving.map (·.1)).take (n - open'.length)
    let new := (s.freeCores c.func).take (n - open'.length - back.length)
    let s := s.updCtx ctx fun c => { c with
      leaving := c.leaving.filter fun x => !back.contains x.1, cores := new.foldl insertNat c.cores }
    -- a core that begins running a context has invalidated up to mark 0 (R253)
    new.foldl (fun s k => s.updCore k fun c => { c with acqMark := 0 }) s
  else ((open'.drop n).reverse).foldl (fun s k => s.withdraw ctx k) s

/-- A context that a command of its function, or a suspension of its function, is saving (R73, R78). -/
def State.beingSaved (s : State) (ctx : Nat) : Bool :=
  let of (f : Nat) (p : Cmd → Bool) : Bool := match (s.func f).running with | some c => c.stage == 1 && p c | none => false
  of (s.funcOf ctx) (fun c => (c.op == 2 || c.op == 4) && c.ctx == ctx)
    || of 0 fun c => c.op == 0x10 && c.arg % 128 == s.funcOf ctx

/-- GRANT_APPLY of context `unit`. -/
def State.grantApply (s : State) (ctx : Nat) : State :=
  match (s.ctx ctx).pending with
  | none => s
  | some g =>
    if !(s.ctx ctx).resident || s.beingSaved ctx then s.updCtx ctx fun c => { c with pending := none }
    else
      let s := s.updCtx ctx fun c => { c with granted := g, pending := none, asked := min 100 (4 * g.getD 4 0) }
      (s.setCores ctx (g.getD 1 1)).regrant

/-- `GRANT_APPLY` (R100). -/
def execGrantApply (s : State) : Host.Outcome State Fault Refusal := .next (s.grantApply s.inp.unit)

/-- ALLOCATOR_EPOCH of function `unit`: its next epoch begins on a multiple of 2^14 ticks, with the pools as they now stand, once the grants
of the epoch that ends have reached the actuators; its own follow from the demands posted before. A demand that the re-base posts is
one of the epoch that runs. -/
def State.allocate (s : State) (f : Nat) : State :=
  let k := max (s.func f).epoch ((s.tick + 16383) / 16384)
  let s := (s.untilTick (16384 * k)).updFunc f fun x => { x with pools := none, epoch := k + 1 }
  let s := (s.residents f).foldl (fun s c => s.grantApply c) s
  let t1 := s.allocRung f 1
  let t2 := s.allocRung f 2
  let t3 := s.allocRung f 3
  (s.residents f).foldl (fun s0 c =>
    let x := s.ctx c
    let d := x.demandAtEpoch s.tick
    let want := s.want c d
    let g := [want.getD 0 1, (s.rung c 1).1 + t1.get 0 c, (s.rung c 2).1 + t2.get 0 c, (s.rung c 3).1 + t3.get 0 c, want.getD 4 0]
    let (n, clip) := s.grantOf c g want
    (s0.updCtx c fun y => { y with
      pending := some g, joined := true, used := d, clipAt := s.tick, clipOld := x.loop.clip,
      loop := { y.loop with grant := n, clip := clip } }).rebase c) s

/-- `ALLOCATOR_EPOCH` (R105). -/
def execAllocatorEpoch (s : State) : Host.Outcome State Fault Refusal := .next (s.allocate s.inp.unit)

/-- CORE_RELEASE_TIMEOUT of core `sub` of context `unit`: two control periods have passed since it was withdrawn (R143). -/
def execCoreReleaseTimeout (s : State) : Host.Outcome State Fault Refusal :=
  match (s.ctx s.inp.unit).leaving.find s.inp.sub with
  | none => .next s
  | some t =>
    let s1 := s.untilTick (t + 131072)
    .next ((s1.crews.filter fun c => c.2.ctx == s.inp.unit && c.2.core == s.inp.sub).foldl (fun s c => s.preempt c.1) s1)

end Sys2Proof.Machine
end

