-- ==== Sys2Proof/Machine/Scrub.lean ====
section
/-! DEFINITION. The end of a context, key slots and scrub jobs (R70, R79-R84, R145, R473, R474, R477-R480, R488). -/

namespace Sys2Proof.Machine

/-! ### STATUS of a command (R71) -/

/-- STATUS codes of R73. -/
abbrev stOK : Nat := 0
abbrev stBADOP : Nat := 1
abbrev stNOTOWNER : Nat := 2
abbrev stRECSTATE : Nat := 3
abbrev stRESHELD : Nat := 4
abbrev stKEY : Nat := 5
abbrev stABORTED : Nat := 6
abbrev stNOROOM : Nat := 7

/-- Bytes that the device writes to package memory by their physical address: performed and signed in the log. -/
def State.devPut (s : State) (slot pa : Nat) (bs : List Byte) : State :=
  let s := (s.homePut false slot pa bs).logAppend (sigRange pa bs.length)
  s.markLines s.mem.logSeq ((List.range ((pa + bs.length - 1) / 128 - pa / 128 + 1)).map fun i => (false, pa / 128 + i))

/-- Command blocks lie in host memory, or from 2^64 on in package memory (R71). (DESIGN CHOICE, log 85) -/
def State.blockNum (s : State) (a n : Nat) : Nat :=
  if a < 2 ^ 64 then s.mem.hostMem.num a n else leNat (s.homeRead false 0 (a - 2 ^ 64) n)
def State.blockPut (s : State) (a : Nat) (bs : List Byte) : State :=
  if a < 2 ^ 64 then s.updMem fun m => { m with hostMem := m.hostMem.write a bs } else s.devPut 0 (a - 2 ^ 64) bs

/-- The STATUS byte of a command block is written and vector 1 raised when its FLAGS ask for it. -/
def State.writeStatus (s : State) (f : Nat) (c : Cmd) (status : Nat) : State :=
  let s := s.blockPut (c.block + 4) [BitVec.ofNat 8 status]
  if bits c.flags 0 1 = 1 then s.raiseVector f 1 else s

/-- The running command of a function ends. -/
def State.finishCmd (s : State) (f status : Nat) : State :=
  match (s.func f).running with
  | none => s
  | some c => (s.updFunc f fun x => { x with running := none }).writeStatus f c status

/-! ### The end of a context's work (R81 step 1, R84, R145, R192) -/

/-- The clusters whose control core a context owns. -/
def State.ownedBy (s : State) (ctx : Nat) : List Nat := (s.clusters.filter fun c => c.2.owner == some ctx).map (·.1)

/-- Engine commands, passes, slot commands and matrix work of a context are reported failed, and its peers' items with it are marked
PEER_RESET (R53, R210, R298, R435, R463). -/
def State.endEngines (s : State) (ctx : Nat) : State :=
  let s := s.copyStop (fun c => c.ctx == ctx) 0x14
  let s := (s.copies.filter fun c => c.2.op == .coll && !c.2.done && c.2.ctx == ctx).foldl (fun s c => s.collStop c.1 1) s
  let s := (s.collGone (fun m => m.1 == s.fabric.pkgid && m.2 == ctx) 1).dropRounds ctx
  let s := (s.bindings.filter fun b => b.2.ctx == ctx).foldl (fun s b => s.stopBinding b.1 true) s
  let s := s.grammarAbort ctx
  (s.ownedBy ctx).foldl (fun s cl => s.failMatrix cl cRESET) s

/-- L2 lines of a context become unowned (R488). -/
def State.unownLines (s : State) (ctx : Nat) : State :=
  s.updMem fun m => { m with l2 := m.l2.map fun l => if l.owner == some ctx then { l with owner := none } else l }

/-- Everything of a context stops: its engines' items are reported, its crews and control threads end with RESET, and its slates retire.
Dirty lines that no key slot of its own covers are written home. It is no longer resident, and still keeps its cores. -/
def State.stopWork (s : State) (ctx : Nat) : State :=
  let s := s.endEngines ctx
  let s := s.stopCrews (fun c => c.ctx == ctx) cRESET 0
  let s := s.crews.foldl (fun s c => if c.2.ctx == ctx then s.reap c.1 else s) s
  let s := s.failSlates ctx
  let key := (s.ctx ctx).kslot
  let s := (s.ctx ctx).cores.foldl (fun s k => (s.drainThread k none).flushLines k true fun l => l.slot == 0 || l.slot != key) s
  let s : State := { s with
    takes := s.takes.filter fun t => t.2.crew.ctx != ctx,
    priWaits := s.priWaits.filter fun p => p.1 != ctx }
  let s := s.updMem fun m => { m with walks := m.walks.filter fun w => w.ctx != ctx }
  let s := s.updCtx ctx fun c => { c with resident := false, leaving := [], stray := [], pending := none, joined := false }
  (s.unownLines ctx).regrant

/-- A context stops, and its cores leave it. -/
def State.stopContext (s : State) (ctx : Nat) : State := (s.stopWork ctx).updCtx ctx fun c => { c with cores := [] }

/-- A context is gone: its queues, control cores, grammar slots and key slot go back to its function (R73, R81 step 4). -/
def State.forget (s : State) (ctx : Nat) : State :=
  let c := s.ctx ctx
  let s : State := { s with
    queues := s.queues.mapV fun _ q => if q.ctx == some ctx then { func := q.func, cap := q.cap, rej := q.rej } else q,
    slotHeld := if s.slotHeld.find c.kslot == some ctx then s.slotHeld.del c.kslot else s.slotHeld,
    copies := s.copies.filter fun x => x.2.ctx != ctx,
    gslots := s.gslots.filter fun g => g.2.owner != ctx,
    keyWords := s.keyWords.filter fun w => w.ctx != ctx,
    clusters := s.clusters.mapV fun _ k => if k.owner == some ctx then k.unowned else k,
    ctxs := s.ctxs.set ctx { rootReg := c.rootReg, func := c.func, priv := c.priv } }
  s.tlbDrop (fun e => e.ctx == ctx) (fun e => e.ctx == ctx)

/-- A context exists while it is resident or saved. -/
def Ctx.live (c : Ctx) : Bool := c.resident || c.saved

/-! ### Pages that a context mapped with a slot (R81) -/

/-- The entries of a table and of those below it that map package memory through a slot: address of the entry, page, bytes. `fuel`
levels at most. -/
def MemSt.slotLeaves (m : MemSt) (slot : Nat) : Nat → Nat → Nat → List (Nat × Nat × Nat)
  | 0, _, _ => []
  | fuel + 1, level, table =>
    (List.range (if level = 4 then 32 else 512)).flatMap fun i =>
      let a := table + 8 * i
      let e := leNat ((List.range 8).map fun j => m.homeByte 0 (a + j))
      if bits e 0 1 = 0 || pteMalformed level e then []
      else if bits e 1 1 = 0 then MemSt.slotLeaves m slot fuel (level + 1) (bits e 12 41 * 4096)
      else if bits e 7 1 = 0 && bits e 53 8 = slot then [(a, bits e 16 37 * 65536, 2 ^ leafBits level)] else []

/-- The pages that a context maps with its slot, 0 for an unprotected one, in 4 KiB units, each once. -/
def State.slotPages (s : State) (ctx : Nat) : List (Nat × Nat) :=
  let c := s.ctx ctx
  (s.mem.slotLeaves c.kslot 5 0 c.root).foldl (fun l (_, pa, n) =>
    if l.any fun p => p.1 == pa then l else l ++ [(pa, n / 4096)]) []

/-- Those pages become slot-0 pages. -/
def State.plainPages (s : State) (ctx : Nat) : State :=
  let c := s.ctx ctx
  if c.kslot = 0 then s
  else (s.mem.slotLeaves c.kslot 5 0 c.root).foldl (fun s (a, _, _) =>
    let e := leNat (s.homeRead false 0 a 8)
    s.homePut false 0 a (bytesLE 8 (e - 2 ^ 53 * bits e 53 8))) s

/-! ### Scrub jobs (R81-R84, R473, R478-R480) -/

/-- The first free job. -/
def State.freeJob (s : State) : Option Nat := (List.range 8).find? fun j => !(s.scrubs.get {} j).busy

/-- 4 KiB units of a core (128 of registers, 64 of L1, 1 of trap stacks) and of the typed buffers of a control core. -/
abbrev coreUnits : Nat := 193
abbrev typedUnits : Nat := 2424

/-- Units of a phase. -/
def Scrub.phaseUnits (j : Scrub) : Nat → Nat
  | 2 => coreUnits * j.cores.length + j.spadUnits
  | 3 => typedUnits * j.clusters.length
  | 4 => j.pages.foldl (fun a p => a + p.2) 0
  | _ => 0

/-- A phase entered; one without units is passed at once (R479). -/
def Scrub.enter (j : Scrub) (p : Nat) : Scrub :=
  let p := if p = 2 && j.phaseUnits 2 = 0 then 3 else p
  let p := if p = 3 && j.phaseUnits 3 = 0 then 4 else p
  { j with phase := p, units := 0 }

def State.job (s : State) (j : Nat) : Scrub := s.scrubs.get {} j
def State.setJob (s : State) (j : Nat) (x : Scrub) : State := { s with scrubs := s.scrubs.set j x }

/-- A key slot is EMPTY. -/
def State.slotEmpty (s : State) (k : Nat) : Bool := (s.keys.find k).isNone && !s.zeroing.contains k

/-- A job that waits in PHASE 1 goes on once its context's slot reads EMPTY. -/
def State.passKey (s : State) (j : Nat) : State :=
  let x := s.job j
  if x.busy && x.phase = 1 && (x.kslot = 0 || s.slotEmpty x.kslot) then s.setJob j (x.enter 2) else s

/-- An L2 line discarded: memory holds what it held before the line was written (R81). -/
def MemSt.unwrite (m : MemSt) (l : L2Line) : MemSt :=
  l.old.zipIdx.foldl (fun m ((tag, bs), i) => { m with
    dram := m.dram.write (128 * l.line + 32 * i) bs,
    keyTag := if tag = 0 then m.keyTag.del (4 * l.line + i) else m.keyTag.set (4 * l.line + i) tag }) m

/-- The L2 lines that satisfy a test are discarded, dirty or not: first the copies in the die that is not their home. -/
def State.discardL2 (s : State) (p : L2Line → Bool) : State :=
  s.updMem fun m =>
    let hit := m.l2.filter p
    let far (l : L2Line) : Bool := l.die != homeDie l.host l.line
    let m := (hit.filter far ++ hit.filter fun l => !far l).foldl MemSt.unwrite m
    let m := (hit.filter far).foldl (fun m l => m.setDir l.host l.line { m.dirOf l.host l.line with remote := false, remoteDirty := false }) m
    { m with l2 := m.l2.filter fun l => !p l }

/-- A key slot starts zeroing (R81 step 2): every cached line tagged with it is discarded, dirty or not, and the device invalidates the
translations through it (R217). -/
def State.zeroKey (s : State) (k : Nat) : State :=
  if s.slotEmpty k || s.zeroing.contains k then s
  else
    let s := s.discardL2 fun l => !l.host && l.slot == k
    let s := s.tlbDrop (fun e => !e.host && e.slot == k) (fun e => (s.ctx e.ctx).kslot == k)
    { s with
      cores := s.cores.mapV fun _ c => { c with
        l1 := c.l1.filter fun l => l.slot != k, wbuf := c.wbuf.filter fun w => w.ent.slot != k,
        icache := c.icache.filter fun l => l.slot != k },
      keys := s.keys.del k, zeroing := insertNat s.zeroing k }

/-- The completion words of `KS.ZERO` on an EMPTY slot are written; one whose context is saved waits for it. (DEDUCED, log 93) -/
def State.keyWordsNow (s : State) : State :=
  let due := s.keyWords.filter fun w => s.slotEmpty w.slot && !((s.ctx w.ctx).saved)
  let s : State := { s with keyWords := s.keyWords.filter fun w => !(s.slotEmpty w.slot && !((s.ctx w.ctx).saved)) }
  due.foldl (fun s w => if (s.ctx w.ctx).resident then s.engStore w.ctx w.va (bytesLE 4 (2 ^ 31 + w.slot)) else s) s

/-- A slot has been zeroed: it reads EMPTY and is held no more, the completion words are written, and a job that waited for it passes
to PHASE 2 (R70, R477). -/
def State.keyZeroDone (s : State) (k : Nat) : State :=
  if !s.zeroing.contains k then s
  else
    let s : State := { s with zeroing := removeNat s.zeroing k, slotHeld := s.slotHeld.del k }
    (List.range 8).foldl (fun s j => s.passKey j) s.keyWordsNow

/-- A job starts on a context (R81 step 1, R473): the context stops, its resources are held, and PHASE is 1 until its slot reads
EMPTY. `zero` says that the job zeroes the slot itself. (DEDUCED, log 92) -/
def State.startJob (s : State) (j ctx starter : Nat) (command zero : Bool) : State :=
  let c := s.ctx ctx
  let spad := (s.crews.filter fun x => x.2.ctx == ctx && x.2.kind == .vector).foldl (fun a x => a + windowOf x.2.spadSize / 4096) 0
  let x : Scrub := {
    ctx := ctx, phase := 1, busy := true, starter := starter, command := command, kslot := c.kslot, cores := c.cores,
    spadUnits := spad, clusters := s.ownedBy ctx, pages := s.slotPages ctx }
  let n := x.phaseUnits 2 + x.phaseUnits 3 + x.phaseUnits 4
  let s := (s.stopContext ctx).setJob j { x with remain := n, total := n }
  let s := if zero && c.kslot ≠ 0 then s.zeroKey c.kslot else s
  s.passKey j

/-- 4 KiB of package memory zero, in plaintext. -/
def MemSt.zeroUnit (m : MemSt) (pa : Nat) : MemSt :=
  let out (k : Nat) : Bool := decide (32 * k < pa) || decide (pa + 4096 ≤ 32 * k)
  { m with dram := m.dram.zero pa 4096, keyTag := m.keyTag.filter fun x => out x.1,
           poison := m.poison.filter out, reported := m.reported.filter out }

/-- The unit `u` of a list of pages. -/
def unitAt : List (Nat × Nat) → Nat → Option Nat
  | [], _ => none
  | (pa, n) :: t, u => if u < n then some (pa + 4096 * u) else unitAt t (u - n)

/-- What the commit of the next unit of a job makes zero. Of a core and of typed buffers all is zero with the first of their units, so that
no unit is committed before (R83). -/
def State.zeroNext (s : State) (x : Scrub) : State :=
  let u := x.units
  match x.phase with
  | 2 => if u % coreUnits = 0 then
      (match x.cores[u / coreUnits]? with | some k => { s with cores := s.cores.del k } | none => s) else s
  | 3 => if u % typedUnits = 0 then
      (match x.clusters[u / typedUnits]? with | some cl => s.updMx cl fun _ => {} | none => s) else s
  | _ =>
    let s := match unitAt x.pages u with | some pa => s.updMem fun m => m.zeroUnit pa | none => s
    if u + 1 = x.phaseUnits 4 then s.plainPages x.ctx else s

/-- A job commits its next unit (R83). -/
def State.commitUnit (s : State) (j : Nat) : State :=
  let x := s.job j
  if !x.busy || x.phase < 2 || x.phaseUnits x.phase ≤ x.units then s
  else
    let y := { x with units := x.units + 1, remain := x.remain - 1 }
    (s.zeroNext x).setJob j (if y.units = x.phaseUnits x.phase && x.phase < 4 then y.enter (x.phase + 1) else y)

/-- A job ends (R478): the resources are released, the record is posted, PHASE takes 5, and the STATUS of a TEARDOWN is written (R82). -/
def State.endJob (s : State) (j : Nat) : State :=
  let x := s.job j
  if !x.busy || x.phase ≠ 4 || x.units < x.phaseUnits 4 then s
  else
    let f := s.funcOf x.ctx
    let s := s.forget x.ctx
    let s := s.post x.starter { recScrubDone with ctx := x.ctx, d0 := j, d1 := x.total }
    let s := s.setJob j { ctx := x.ctx, phase := 5, rst := x.rst, total := x.total, starter := x.starter }
    let s := if x.command then s.finishCmd f stOK else s
    s.wakeEngine

/-- `SCRUB_UNIT_COMMIT` (R83). -/
def execScrubUnitCommit (s : State) : Host.Outcome State Fault Refusal := .next (s.commitUnit s.inp.unit)
/-- `SCRUB_DONE` (R478). -/
def execScrubDone (s : State) : Host.Outcome State Fault Refusal := .next (s.endJob s.inp.unit)

/-- SCRUB_JOB_START: the oldest teardown that waits for a job takes the lowest-numbered free one. -/
def execScrubJobStart (s : State) : Host.Outcome State Fault Refusal :=
  match s.scrubQueue, s.freeJob with
  | (ctx, starter, command) :: rest, some j =>
    let s1 : State := { s with scrubQueue := rest }
    .next (if ((s1.ctx ctx).live || (s1.ctx ctx).kslot != 0) && !s1.ctxHeld ctx then s1.startJob j ctx starter command true
      else if command then s1.finishCmd (s1.funcOf ctx) stOK else s1)
  | _, _ => .next s

/-- A teardown of a context on a job of its own, which zeroes the context's slot: at once, or when a job is free (R83). -/
def State.teardownCtx (s : State) (ctx starter : Nat) (command : Bool) : State :=
  match s.freeJob with
  | some j => s.startJob j ctx starter command true
  | none => { s with scrubQueue := s.scrubQueue ++ [(ctx, starter, command)] }

/-! ### `XC.SCRB` and `KS.ZERO` (R473, R474) -/

/-- `XC_SCRB` (R473). -/
def execXcScrb (v a : BitVec 7) (s : State) : Host.Outcome State Fault Refusal :=
  runInstr (.xcScrb v a) s fun I =>
    I.command s s.freeJob.isSome v fun s =>
      let n := (I.warp.operand a).toNat
      if 1024 ≤ n then .refuse rBADDESC
      else if s.ctxHeld n then .refuse rSCRUBDUP
      else if n = I.crew.ctx || !(s.ctx n).live then .refuse rNOCTX
      else
        let j := s.freeJob.getD 0
        .accept (s.startJob j n (s.funcOf I.crew.ctx) false false) (replyOk j)

/-- `KS_ZERO` (R474). -/
def execKsZero (v a b : BitVec 7) (s : State) : Host.Outcome State Fault Refusal :=
  runInstr (.ksZero v a b) s fun I =>
    I.command s true v fun s =>
      let k := (I.warp.operand a).toNat
      let va := I.warp.operand64 b
      if 256 ≤ k then .refuse rBADDESC
      else if k = 0 then .refuse rKEYSLOT
      else if b ≠ 0 && !s.wordOk I.crew.ctx va 4 4 then .refuse rDESCPAGE
      else
        let s : State := if b = 0 then s else { s with keyWords := s.keyWords ++ [⟨k, I.crew.ctx, va, I.crew.core⟩] }
        .accept (s.zeroKey k).keyWordsNow (replyOk k)

/-! ### Key slots through the management window (R80) -/

/-- KEY_LOAD: `KSCMD` takes 1. -/
def execKeyLoad (s : State) : Host.Outcome State Fault Refusal :=
  let k := s.kssel
  .next (if k = 0 || (s.slotHeld.find k).isSome || s.zeroing.contains k then s
    else { s with keys := s.keys.set k s.ksdata, ksdata := 0 })

/-- KEY_ZERO: `KSCMD` takes 2. -/
def execKeyZero (s : State) : Host.Outcome State Fault Refusal := .next (if s.kssel = 0 then s else s.zeroKey s.kssel)

/-- KEY_ZERO_DONE of slot `unit`. -/
def execKeyZeroDone (s : State) : Host.Outcome State Fault Refusal := .next (s.keyZeroDone s.inp.unit)

end Sys2Proof.Machine
end

