-- ==== Sys2Proof/Machine/Commands.lean ====
section
/-! DEFINITION. The command streams: creating, saving, restoring, draining and ending contexts, continuity records, and suspending a
virtual function (R69-R78, R97, R103, R113-R116, R194, R209, R289, R298, R428, R435, R463, R488, R489, R495). -/

namespace Sys2Proof.Machine

/-! ### The stream (R71, R72, R74) -/

/-- The block at an address of the memory that its function reaches. -/
def State.blockAt (s : State) (a : Nat) : Cmd :=
  let f (o n : Nat) : Nat := s.blockNum (a + o) n
  { block := a, op := f 0 1, flags := f 1 1, ctx := f 2 2, addr := f 8 8, arg := f 16 8, size := f 24 8, began := s.tick }

/-- The operations of R73. -/
def knownOp (op : Nat) : Bool := [1, 2, 3, 4, 5, 6, 7, 8, 0x10, 0x11, 0x12].contains op

/-- A block that completes with BAD_OP whatever its operation finds. (DEDUCED, log 86) -/
def State.blockBad (s : State) (f : Nat) (c : Cmd) : Bool :=
  !knownOp c.op || decide (2 ≤ c.flags) || s.blockNum (c.block + 5) 3 != 0
    || (c.size != 0 && !(c.op == 2 || c.op == 4 || c.op == 0x10)) || (decide (0x10 ≤ c.op) && f != 0)

/-- The head of a function's stream begins when its operation satisfies a test; `run` gives its effect and its status, none while the
command waits. -/
def State.begin' (s : State) (f : Nat) (p : Nat → Bool) (run : State → Cmd → State × Option Nat) : State :=
  let x := s.func f
  if x.running.isSome || x.suspended then s else
  match x.waiting with
  | [] => s
  | b :: rest =>
    let c := s.blockAt b
    if !p c.op then s
    else
      let s := s.updFunc f fun x => { x with waiting := rest, running := some c }
      if s.blockBad f c then s.finishCmd f stBADOP
      else
        match run s c with
        | (s, some st) => s.finishCmd f st
        | (s, none) => s

/-- CMDDB_WRITE by function `func` of block address `val` (R71); `flag` says that the block lies in package memory. (DESIGN CHOICE, log 85) -/
def execCmddbWrite (s : State) : Host.Outcome State Fault Refusal :=
  let a := s.inp.val % 2 ^ 64 + 2 ^ 64 * s.inp.flag.toNat
  .next (s.updFunc s.inp.func fun x =>
    if 64 ≤ x.waiting.length then { x with drop := true } else { x with waiting := x.waiting ++ [a] })

/-- A command's stage and its length, while it waits. -/
def State.waitCmd (s : State) (f stage len : Nat) : State :=
  s.updFunc f fun x => { x with running := x.running.map fun c => { c with stage := stage, size := len } }

/-- The failure that the context number of a command gives. -/
def State.ctxBad (s : State) (f ctx : Nat) : Option Nat :=
  if 1024 ≤ ctx then some stBADOP else if s.funcOf ctx ≠ f then some stNOTOWNER else none

/-! ### Becoming resident (R97, R103, R104, R107, R116, R213, R489) -/

/-- The defaults of R97. -/
def State.defaultLoop (s : State) (f : Nat) : Loop := { his := [16, s.coresOf f, s.waysOf f, s.shareOf f, 25] }

/-- Floors beside those already resident fit the function's pools (R103). -/
def State.floorsFit (s : State) (f : Nat) (l : Loop) : Bool :=
  let fits (k pool : Nat) : Bool :=
    decide ((s.residents f).foldl (fun a c => a + (s.rung c k).1) (max (s.rungLimits f k).1 (l.los.getD k 0)) ≤ pool)
  fits 1 (s.coresOf f) && fits 2 (s.waysOf f) && fits 3 (s.shareOf f)

/-- A context becomes resident: its stored root is in force, its ladder is re-based, and it holds its floors on the pooled rungs. -/
def State.enterCtx (s : State) (ctx : Nat) (c : Ctx) : State :=
  let l := { c.loop with cls := max c.loop.cls (s.func c.func).ceil }
  let s : State := { s with ctxs := s.ctxs.set ctx { c with
    root := c.rootReg, resident := true, saved := false, loop := l, cores := [], leaving := [], pending := none, joined := false,
    pulse := false, silent := 0, wdPosted := false, merged := none } }
  let s := s.rebase ctx
  let d := (s.ctx ctx).loop.demand
  let want := s.want ctx d
  let lo (k : Nat) : Nat := (s.rung ctx k).1
  let s := s.updCtx ctx fun c => { c with
    granted := [want.getD 0 1, lo 1, lo 2, lo 3, want.getD 4 0], asked := min 100 (4 * want.getD 4 0), used := d }
  ((s.setCores ctx (lo 1)).regrant).reclip ctx

/-- Queues of a function that no context holds come to a context. -/
def State.claimQueues (s : State) (ctx : Nat) : State :=
  let f := s.funcOf ctx
  { s with queues := (List.range 4096).filterMap fun d =>
      let q := s.queue d
      if q.func == f && q.ctx == none then some (d, { q with ctx := some ctx })
      else if (s.queues.find d).isSome then some (d, q) else none }

/-- CREATE (R70, R73). (DEDUCED, log 88) -/
def State.create (s : State) (f : Nat) (c : Cmd) : State × Option Nat :=
  let k := c.arg
  let x := s.ctx c.ctx
  if 256 ≤ k then (s, some stBADOP) else
  match s.ctxBad f c.ctx with
  | some st => (s, some st)
  | none =>
    if x.live || s.ctxHeld c.ctx || (k != 0 && s.scrubs.any fun j => j.2.busy && j.2.kslot == k) then (s, some stRESHELD)
    else if k ≠ 0 && (s.slotFunc.get 0 k != f || (s.keys.find k).isNone || (s.slotHeld.find k).isSome) then (s, some stKEY)
    else
      let l := s.defaultLoop f
      if !s.floorsFit f l then (s, some stNOROOM)
      else
        let s : State := if k = 0 then s else { s with slotHeld := s.slotHeld.set k c.ctx }
        let s := s.enterCtx c.ctx { rootReg := x.rootReg, func := f, priv := x.priv, kslot := k, loop := l, due := s.tick + 65536 }
        (s.claimQueues c.ctx, some stOK)

/-- `CREATE` (R73). -/
def execCreate (s : State) : Host.Outcome State Fault Refusal :=
  .next (s.begin' s.inp.func (· == 1) fun s c => s.create s.inp.func c)

/-! ### The loop record (R113, R114) -/

/-- The RUNGS field. -/
def Loop.rungs (l : Loop) : Nat :=
  let lo (k : Nat) : Nat := l.los.getD k 0
  let hi (k : Nat) : Nat := l.his.getD k 0
  (lo 0 - 1) % 16 + 2 ^ 4 * ((hi 0 - 1) % 16) + 2 ^ 8 * (lo 1 % 512) + 2 ^ 17 * (hi 1 % 512) + 2 ^ 26 * (lo 2 % 32)
    + 2 ^ 31 * (hi 2 % 32) + 2 ^ 36 * (lo 3 % 128) + 2 ^ 43 * (hi 3 % 128) + 2 ^ 50 * (lo 4 % 32) + 2 ^ 55 * (hi 4 % 32)

/-- The CTL byte. -/
def Loop.ctl (l : Loop) : Nat :=
  l.mode % 4 + 4 * l.hi.toNat + 8 * l.lo.toNat + 16 * l.clip.toNat + 32 * l.gclip.toNat + 64 * (l.cls % 4)

/-- The 64 bytes of a loop record. -/
def Loop.bytes (l : Loop) : List Byte :=
  let w (x : BitVec 32) : List Byte := bytesLE 4 x.toNat
  w l.t ++ w l.m ++ w l.i ++ w l.u ++ bytesLE 2 l.kp.toNat ++ bytesLE 2 l.ki.toNat ++ w l.imax ++ w l.umax ++ w l.db
    ++ bytesLE 1 l.ctl ++ bytesLE 1 l.weight ++ bytesLE 1 (l.bshift % 16 + 16 * (l.fshift % 8)) ++ [0] ++ bytesLE 8 l.rungs
    ++ bytesLE 4 l.fgrp ++ bytesLE 2 l.demand ++ bytesLE 2 l.grant ++ bytesLE 2 l.miss ++ bytesLE 2 l.wdog ++ bytesLE 4 l.cnt0
    ++ bytesLE 4 (l.phase % 65536 + 65536 * (l.periods % 65536))

/-- The loop that 64 bytes describe. (DEDUCED, log 77) -/
def loopOf (bs : List Byte) : Loop :=
  let f := fieldAt bs
  let w (o : Nat) : BitVec 32 := BitVec.ofNat 32 (f o 4)
  let r := f 36 8
  let ctl := f 32 1
  let mode := bits ctl 0 2
  { t := w 0, m := w 4, i := w 8, u := w 12, kp := BitVec.ofNat 16 (f 16 2), ki := BitVec.ofNat 16 (f 18 2), imax := w 20,
    umax := w 24, db := w 28, mode := mode, hi := bits ctl 2 1 == 1, lo := bits ctl 3 1 == 1, clip := bits ctl 4 1 == 1,
    gclip := bits ctl 5 1 == 1, cls := bits ctl 6 2, weight := f 33 1, bshift := bits (f 34 1) 0 4, fshift := bits (f 34 1) 4 3,
    los := [bits r 0 4 + 1, bits r 8 9, bits r 26 5, bits r 36 7, bits r 50 5],
    his := [bits r 4 4 + 1, bits r 17 9, bits r 31 5, bits r 43 7, bits r 55 5],
    fgrp := f 44 4, demand := f 48 2, grant := f 50 2, miss := f 52 2, wdog := f 54 2, cnt0 := f 56 4,
    phase := bits (f 60 4) 0 16, periods := bits (f 60 4) 16 16 }

/-! ### Continuity records (R69) -/

/-- The 256 bytes of a record's header. -/
def recordBytes (state flags ctx gen len kslot func kcv : Nat) (loop : List Byte) : List Byte :=
  bytesLE 1 state ++ bytesLE 1 flags ++ bytesLE 2 ctx ++ bytesLE 4 gen ++ bytesLE 8 len ++ bytesLE 2 kslot ++ bytesLE 2 func
    ++ bytesLE 8 kcv ++ List.replicate 36 0 ++ loop ++ List.replicate 128 0

/-- STATE of the record at an address. -/
def State.recState (s : State) (a : Nat) : Nat := leNat (s.homeRead false 0 a 1)
def State.setRecState (s : State) (a st : Nat) : State := s.devPut 0 a (bytesLE 1 st)
/-- GEN that a completed save gives the record at an address. -/
def State.nextGen (s : State) (a : Nat) : Nat := (leNat (s.homeRead false 0 (a + 4) 4) + 1) % 2 ^ 32

/-- The bytes that a save needs: the layout of the body is the device's own, so their number is left open but for its granule. (DESIGN CHOICE, log 87) -/
def State.needLen (s : State) : Nat := 4096 * (1 + Config.freeNat s.fresh)

/-- An address where a record of `len` bytes can stand. -/
def recAddrOk (a len : Nat) : Bool := a % 4096 == 0 && decide (a + len ≤ dramSize)

/-- A save that needs more than SIZE: it completes with NO_ROOM and the length needed is written to SIZE (R72). -/
def State.noRoom (s : State) (c : Cmd) (len : Nat) : State × Option Nat :=
  (s.blockPut (c.block + 24) (bytesLE 8 len), some stNOROOM)

/-- A record stands at an address and belongs to a function that the test does not allow (R74). (DEDUCED, log 86) -/
def State.foreignRec (s : State) (a : Nat) (mine : Nat → Bool) : Bool :=
  let h (o n : Nat) : Nat := leNat (s.homeRead false 0 (a + o) n)
  decide (1 ≤ h 0 1) && decide (h 0 1 ≤ 3) && h 8 8 != 0 && h 8 8 % 4096 == 0 && h 28 4 == 0 && h 40 24 == 0 && !mine (h 18 2)

/-- Bytes of the device's own, left open. -/
def freeBytes (fresh n : Nat) : List Byte := (List.range n).map fun i => Config.freeByte (fresh + i)

/-- The number of the next record. -/
def State.nextRecord (s : State) : Nat := s.records.foldl (fun a r => max a (r.1 % 2 ^ 64)) 0 + 1

/-- A record's body: the number of what it holds, and bytes that the manual does not lay out. (DESIGN CHOICE, log 87) -/
def State.recordBody (s : State) (n len : Nat) : List Byte := bytesLE 8 n ++ freeBytes s.fresh (len - 264)

/-- The number in the body of the record at an address, read through a slot. -/
def State.recordNo (s : State) (slot a : Nat) : Nat := leNat (s.homeRead false slot (a + 256) 8)

/-- The record of a saved context written at an address: the header in plaintext, and the body through the context's slot. -/
def State.putRecord (s : State) (a len : Nat) (r : Saved) : State :=
  let k := r.cx.kslot
  let kcv := if k = 0 then 0 else (keyCheck (s.keys.get 0 k)).toNat
  let head := recordBytes 1 (2 + (k != 0 : Bool).toNat) r.ctx (s.nextGen a) len k r.cx.func kcv r.cx.loop.bytes
  let n := s.nextRecord
  let s := (s.devPut 0 a head).devPut k (a + 256) (s.recordBody n len)
  { s with fresh := s.fresh + len, records := s.records.set n r }

/-! ### Saving (R73, R116, R143, R209, R435, R463, R488) -/

/-- Every core is withdrawn from a context, so that its crews park at their take boundaries or are pre-empted after two periods. (DEDUCED, log 89) -/
def State.stopForSave (s : State) (ctx : Nat) : State :=
  ((s.ctx ctx).cores.filter fun k => ((s.ctx ctx).leaving.find k).isNone).foldl (fun s k => s.withdraw ctx k) s

/-- An unfinished copy command that a save waits for (R463). -/
def CopyCmd.local' (c : CopyCmd) : Bool := !c.done && (c.sspc != 0 || c.dspc != 0 || c.bword.isSome)

/-- A context that has stopped: no crew runs, and no engine work is left that a save waits for. -/
def State.stopped (s : State) (ctx : Nat) : Bool :=
  !(s.crews.any fun c => c.2.ctx == ctx) && !(s.copies.any fun c => c.2.ctx == ctx && c.2.local')
    && s.clusters.all fun c => c.2.grammarQ.all fun g => g.ctx != ctx

/-- A matrix queue as it is saved: no instruction executes. -/
def MatrixSt.paused (m : MatrixSt) : MatrixSt := { m with queue := m.queue.map fun q => { q with started := false } }

/-- Lines that a command's items still own are released. -/
def State.disownAll (s : State) (c : CopyCmd) : State := if c.done then s else (List.range c.items).foldl (fun s i => s.disown (c.owner i)) s

/-- A stopped context leaves the package: what it holds, and the package without it. -/
def State.capture (s : State) (ctx : Nat) : State × Saved :=
  let cx := (s.ctx ctx).flushBeats
  let cx := { cx with loop := { cx.loop with phase := min 65535 (65536 - (cx.due - s.tick)) } }
  let mine : Tbl CopyCmd := (s.copies.filter fun c => c.2.ctx == ctx).map fun c => (c.1, { c.2 with running := false })
  let owned : Tbl ClusterSt := (s.clusters.filter fun c => c.2.owner == some ctx).map fun c => (c.1, { c.2.owned with mx := c.2.mx.paused })
  let wakes : Tbl (List DollyCmd) := (s.clusters.filter fun c => c.2.dollyQ.any fun d => d.ctx == ctx).map fun c =>
    (c.1, c.2.dollyQ.filter fun d => d.ctx == ctx)
  let r : Saved := {
    ctx := ctx, cx := cx, takes := s.takes.filter fun t => t.2.crew.ctx == ctx,
    queues := s.queues.filter fun q => q.2.ctx == some ctx, slates := s.slates.filter fun x => x.2.ctx == ctx,
    bindings := s.bindings.filter fun b => b.2.ctx == ctx, dollyCmds := wakes, copies := mine,
    gslots := s.gslots.filter fun g => g.2.owner == ctx, owned := owned }
  let s := mine.foldl (fun s c => s.disownAll c.2) s
  let s : State := { s with
    takes := s.takes.filter fun t => t.2.crew.ctx != ctx, slates := s.slates.filter fun x => x.2.ctx != ctx,
    bindings := s.bindings.filter fun b => b.2.ctx != ctx, copies := s.copies.filter fun c => c.2.ctx != ctx,
    queues := s.queues.mapV fun _ q => if q.ctx == some ctx then
        { func := q.func, ctx := q.ctx, cap := q.cap, rej := q.rej, incoming := q.incoming, depth := q.depth } else q,
    clusters := s.clusters.mapV fun _ k =>
      let k := { k with
        dollyQ := k.dollyQ.filter fun d => d.ctx != ctx, copyQ := k.copyQ.filter fun c => c / 2 ^ 24 != ctx }
      if k.owner == some ctx then k.unowned else k,
    ctxs := s.ctxs.set ctx { root := cx.root, rootReg := cx.rootReg, func := cx.func, priv := cx.priv, kslot := cx.kslot, saved := true } }
  let s := s.updMem fun m => { m with walks := m.walks.filter fun w => w.ctx != ctx }
  let s : State := { s with priWaits := s.priWaits.filter fun p => p.1 != ctx }
  let s := s.tlbDrop (fun e => e.ctx == ctx) (fun e => e.ctx == ctx)
  (((s.unownLines ctx).regrant).wakeOwned, r)

/-- SAVE begins. -/
def State.saveBegin (s : State) (f : Nat) (c : Cmd) : State × Option Nat :=
  let len := s.needLen
  match s.ctxBad f c.ctx with
  | some st => (s, some st)
  | none =>
    if !recAddrOk c.addr len then (s, some stBADOP)
    else if !(s.ctx c.ctx).resident then (s, some stRECSTATE)
    else if s.foreignRec c.addr (· == f) then (s, some stNOTOWNER)
    else if c.size < len then s.nextFree.noRoom c len
    else (((s.nextFree).waitCmd f 1 len).stopForSave c.ctx, none)

/-- `SAVE` (R73). -/
def execSave (s : State) : Host.Outcome State Fault Refusal :=
  .next (s.begin' s.inp.func (· == 2) fun s c => if c.arg ≠ 0 then (s, some stBADOP) else s.saveBegin s.inp.func c)

/-- A stopped context is saved into the record of its command. -/
def State.saveNow (s : State) (c : Cmd) : State :=
  let (s, r) := s.capture c.ctx
  s.putRecord c.addr c.size r

/-! ### Restoring (R70, R73, R97, R103, R116, R194, R289, R463, R495) -/

/-- What a record holds, under another context number. (DEDUCED, log 90) -/
def Saved.renumber (r : Saved) (n : Nat) : Saved :=
  if r.ctx = n then r else
  let take (t : Take) : Take := { t with crew := { t.crew with ctx := n } }
  let dolly (d : DollyCmd) : DollyCmd := { d with ctx := n }
  { r with
    ctx := n, takes := r.takes.map (fun t => (t.1, take t.2)), slates := r.slates.map (fun x => (x.1, { x.2 with ctx := n })),
    bindings := r.bindings.map (fun b => (b.1, { b.2 with ctx := n })), dollyCmds := r.dollyCmds.map (fun d => (d.1, d.2.map dolly)),
    copies := r.copies.map (fun c => (n * 2 ^ 24 + c.1 % 2 ^ 24, { c.2 with ctx := n })),
    gslots := r.gslots.map (fun g => (g.1, { g.2 with owner := n })) }

/-- A live queue may take back what a record holds of it. -/
def State.queueBack (s : State) (f old ctx d : Nat) : Bool :=
  (s.queue d).func == f
    && ((s.queue d).ctx == none || ((s.queue d).ctx == some old && !(s.ctx old).resident) || (s.queue d).ctx == some ctx)

/-- A binding of a record cannot be put where it was (R194). -/
def State.bindingBlocked (s : State) (r : Saved) (key : Nat) (b : Binding) : Bool :=
  (s.bindings.find key).isSome || s.bindings.any (fun x => x.2.sbase == b.sbase)
    || s.savedRecords.any fun y => y.2.ctx != r.ctx && y.2.bindings.any fun x => x.2.sbase == b.sbase

/-- A key slot is no slot through which a function may restore a record (R70). -/
def State.keyBad (s : State) (f k : Nat) : Bool :=
  s.slotFunc.get 0 k != f || (s.keys.find k).isNone || (match s.slotHeld.find k with | some h => (s.ctx h).resident | none => false)

/-- Why what a record holds cannot become context `ctx` of function `f`. -/
def State.restoreBad (s : State) (f ctx : Nat) (r : Saved) (l : Loop) : Option Nat :=
  let k := r.cx.kslot
  if (s.ctx ctx).resident || (r.ctx != ctx && (s.ctx ctx).live) || s.ctxHeld ctx
      || (r.queues.any fun q => !s.queueBack f r.ctx ctx q.1 && (r.slates.any fun x => x.2.queue == q.1)) then some stRESHELD
  else if k ≠ 0 && s.keyBad f k then some stKEY
  else if !s.floorsFit f l || r.bindings.any (fun b => s.bindingBlocked r b.1 b.2) then some stNOROOM
  else none

/-- A queue as it comes back: what arrived since the save stands behind what was saved. -/
def State.returnQueue (s : State) (r : Saved) (d : Nat) (q : Queue) : State :=
  let now := s.queue d
  let n := (r.slates.filter fun x => x.2.queue == d && decide (x.2.state ≤ 2)).length
  s.updQueue d fun _ => { q with
    func := now.func, ctx := some r.ctx, cap := now.cap, rej := now.rej, incoming := now.incoming, depth := n + now.incoming.length }

/-- What belongs to the owner of a control core comes back on its cluster, or waits when another context owns that control core. -/
def State.returnOwned (s : State) (ctx cl : Nat) (o : ClusterSt) : State :=
  if ((s.cluster cl).owner == none || (s.cluster cl).owner == some ctx) && !(s.pw cl).fenced then
    (s.wakeCluster cl).updCluster cl fun c => c.adopt o ctx
  else s.updCtx ctx fun c => { c with stray := c.stray.set cl o }

/-- An unfinished copy command resumes on its cluster, or on the lowest-numbered one where the context holds a core. -/
def State.returnCopy (s : State) (key : Nat) (c : CopyCmd) : State :=
  let here (cl : Nat) : Bool := (s.ctx c.ctx).cores.any fun k => k / 10 == cl
  let cl := if here c.cluster || (s.cluster c.cluster).owner == some c.ctx then c.cluster
    else ((List.range 32).find? here).getD c.cluster
  let c := { c with cluster := cl }
  let s : State := { s with copies := s.copies.set key c }
  if c.done then s
  else
    let s := s.updCluster cl fun k => { k with copyQ := k.copyQ ++ [key] }
    if c.op == .coll then s
    else (List.range (c.items - c.stats.length)).foldl (fun s i =>
      s.own (c.owner (c.stats.length + i)) (s.itemLines c (c.stats.length + i))) s

/-- A context is resident again with what a record holds of it; its group has no report of it until its first (R116). -/
def State.install (s : State) (r : Saved) (ctx : Nat) (l : Loop) : State :=
  let old := r.ctx
  let r := r.renumber ctx
  let s : State := if old = ctx || !(s.ctx old).saved then s
    else { s with
      queues := s.queues.mapV fun _ q => if q.ctx == some old then { q with ctx := some ctx } else q,
      gslots := s.gslots.mapV fun _ g => if g.owner = old then { g with owner := ctx } else g,
      ctxs := s.ctxs.set old { rootReg := (s.ctx old).rootReg, func := (s.ctx old).func, priv := (s.ctx old).priv } }
  let x := s.ctx ctx
  let s : State := if r.cx.kslot = 0 then s else { s with slotHeld := s.slotHeld.set r.cx.kslot ctx }
  let s := s.enterCtx ctx { r.cx with
    rootReg := x.rootReg, func := x.func, priv := x.priv, loop := { l with phase := 0 }, due := s.tick + 65536 - l.phase }
  let s := s.mergeForget ctx
  let s := (r.queues.filter fun q => s.queueBack x.func ctx ctx q.1).foldl (fun s q => s.returnQueue r q.1 q.2) s
  let s : State := { s with
    slates := r.slates.foldl (fun t y => t.set y.1 y.2) s.slates, takes := r.takes.foldl (fun t y => t.set y.1 y.2) s.takes,
    bindings := r.bindings.foldl (fun t y => t.set y.1 y.2) s.bindings,
    gslots := r.gslots.foldl (fun t y => match t.find y.1 with
      | some g => if g.owner = ctx then t.set y.1 y.2 else t
      | none => t.set y.1 y.2) s.gslots }
  let s := r.dollyCmds.foldl (fun s d => s.updCluster d.1 fun k => { k with dollyQ := k.dollyQ ++ d.2 }) s
  let s := r.owned.foldl (fun s o => s.returnOwned ctx o.1 o.2) s
  let s := r.copies.foldl (fun s c => s.returnCopy c.1 c.2) s
  -- steps 2, 4 and 5 of deadlines that passed while it was saved (R495)
  let s := (r.slates.filter fun y => y.2.owedMiss).foldl (fun s y => (s.missCounts y.1 y.2).timeoutItems y.1) s
  s.keyWordsNow

/-- The restore of the record at an address as a context of a function: the state after it, or why it fails. -/
def State.restoreAt (s : State) (f ctx a : Nat) : Except Nat State :=
  let h (o n : Nat) : Nat := leNat (s.homeRead false 0 (a + o) n)
  match s.ctxBad f ctx with
  | some st => .error st
  | none =>
    if !recAddrOk a 4096 then .error stBADOP
    else if h 0 1 ≠ 1 then .error stRECSTATE
    else if h 18 2 ≠ f then .error stNOTOWNER
    else
      let k := h 16 2
      let prot := bits (h 1 1) 0 1 == 1
      if prot && (s.keyBad f k || (keyCheck (s.keys.get 0 k)).toNat != h 20 8) then .error stKEY else
      match s.records.find (s.recordNo (if prot then k else 0) a) with
      | none => .error stRECSTATE
      | some r =>
        let l := if bits (h 1 1) 1 1 = 1 then loopOf (s.homeRead false 0 (a + 64) 64) else s.defaultLoop f
        let r := { r with cx := { r.cx with kslot := if prot then k else 0 } }
        match s.restoreBad f ctx r l with
        | some st => .error st
        | none => .ok ((s.install r ctx l).setRecState a 3)

/-- `RESTORE` (R73). -/
def execRestore (s : State) : Host.Outcome State Fault Refusal :=
  .next (s.begin' s.inp.func (· == 3) fun s c =>
    if c.arg ≠ 0 then (s, some stBADOP) else
    match s.restoreAt s.inp.func c.ctx c.addr with
    | .error st => (s, some st)
    | .ok s => (s, some stOK))

/-- SWITCH begins with its save half (R75). -/
def execSwitch (s : State) : Host.Outcome State Fault Refusal :=
  .next (s.begin' s.inp.func (· == 4) fun s c =>
    if bits c.arg 10 2 ≠ 0 || !recAddrOk (c.arg / 4096 * 4096) 4096 then (s, some stBADOP) else s.saveBegin s.inp.func c)

/-- STATUS of a SWITCH whose restore half fails: the code with bit 7, NO_ROOM for a failure that R75 does not name. (DEDUCED, log 86) -/
def switchStatus (st : Nat) : Nat := 128 + if st = stNOTOWNER || st = stRECSTATE || st = stKEY then st else stNOROOM

/-- The restore half, once the save half has taken effect. -/
def State.switchNow (s : State) (f : Nat) (c : Cmd) : State × Nat :=
  let s := s.saveNow c
  match s.restoreAt f (bits c.arg 0 10) (c.arg / 4096 * 4096) with
  | .error st => (s, switchStatus st)
  | .ok s => (s, stOK)

/-! ### Ending and draining (R73, R81) -/

/-- `DESTROY` (R73). -/
def execDestroy (s : State) : Host.Outcome State Fault Refusal :=
  .next (s.begin' s.inp.func (· == 5) fun s c =>
    if c.arg ≠ 0 then (s, some stBADOP) else
    match s.ctxBad s.inp.func c.ctx with
    | some st => (s, some st)
    | none =>
      let x := s.ctx c.ctx
      if s.ctxHeld c.ctx then (s, some stRESHELD)
      else if !x.live then (s, some stRECSTATE)
      else if x.kslot ≠ 0 then (s, some stBADOP)
      else (((if x.resident then s.stopContext c.ctx else s).forget c.ctx).regrant, some stOK))

/-- `TEARDOWN` (R81). -/
def execTeardown (s : State) : Host.Outcome State Fault Refusal :=
  .next (s.begin' s.inp.func (· == 6) fun s c =>
    if c.arg ≠ 0 then (s, some stBADOP) else
    match s.ctxBad s.inp.func c.ctx with
    | some st => (s, some st)
    | none =>
      if s.ctxHeld c.ctx then (s, some stRESHELD)
      else if !(s.ctx c.ctx).live then (s, some stRECSTATE)
      else (s.teardownCtx c.ctx s.inp.func true, none))

/-- `DRAIN` (R73). -/
def execDrain (s : State) : Host.Outcome State Fault Refusal :=
  .next (s.begin' s.inp.func (· == 7) fun s c =>
    if 2 ^ 32 ≤ c.arg then (s, some stBADOP) else
    match s.ctxBad s.inp.func c.ctx with
    | some st => (s, some st)
    | none =>
      if !(s.ctx c.ctx).resident then (s, some stRECSTATE)
      else
        let s := s.updCtx c.ctx fun x => { x with drained := true, drainEnd := s.tick + 200 * c.arg }
        (s.waitCmd s.inp.func 1 0, none))

/-- The DRAIN that runs on a context. -/
def State.draining (s : State) (ctx : Nat) : Bool :=
  match (s.func (s.funcOf ctx)).running with
  | some c => c.op == 7 && c.stage == 1 && c.ctx == ctx
  | none => false

/-- DRAIN_TIMEOUT of context `unit`: every crew still running is pre-empted. -/
def execDrainTimeout (s : State) : Host.Outcome State Fault Refusal :=
  let ctx := s.inp.unit
  if !s.draining ctx then .next s
  else
    let s1 := s.untilTick (s.ctx ctx).drainEnd
    .next ((s1.crews.filter fun c => c.2.ctx == ctx).foldl (fun s c => s.preempt c.1) s1)

/-- `UNDRAIN` (R73). -/
def execUndrain (s : State) : Host.Outcome State Fault Refusal :=
  .next (s.begin' s.inp.func (· == 8) fun s c =>
    if c.arg ≠ 0 then (s, some stBADOP) else
    match s.ctxBad s.inp.func c.ctx with
    | some st => (s, some st)
    | none => (s.updCtx c.ctx fun x => { x with drained := false }, some stOK))

/-! ### Suspending a virtual function (R77, R78) -/

/-- Where the record of a suspended function, by its number, keeps a context. -/
def suspKey (n ctx : Nat) : Nat := n + 2 ^ 64 * (1 + ctx)

/-- Whether a VFSUSPEND may take effect on a function: between two commands, or inside a SAVE, RESTORE or SWITCH. (DEDUCED, log 91) -/
def State.suspendable (s : State) (f : Nat) : Bool :=
  match (s.func f).running with
  | none => true
  | some c => c.op == 2 || c.op == 3 || c.op == 4

/-- The running command of a function stops at its step, and its record is in transit. -/
def State.interrupt (s : State) (f : Nat) : State :=
  match (s.func f).running with
  | none => s
  | some c =>
    let s := s.updFunc f fun x => { x with running := some { c with stage := 4 } }
    (s.setRecState c.addr 2).devPut 0 (c.addr + 32) (bytesLE 8 (Config.freeNat s.fresh)) |>.nextFree

/-- VFSUSPEND of the function that ARG names. -/
def State.suspend (s : State) (c : Cmd) : State × Option Nat :=
  let f := c.arg
  let len := s.needLen
  if f = 0 || 64 < f || !recAddrOk c.addr len then (s, some stBADOP)
  else if (s.func f).suspended then (s, some stRECSTATE)
  else if s.foreignRec c.addr (fun g => g == f || g == 0) then (s, some stNOTOWNER)
  else if c.size < len then s.nextFree.noRoom c len
  else
    let s := (s.nextFree).interrupt f
    let s := s.updFunc f fun x => { x with suspended := true }
    let s := s.waitCmd 0 1 len
    ((s.residents f).foldl (fun s k => s.stopForSave k) s, none)

/-- VFSUSPEND begins once the function that it names is at a place where it may be suspended. -/
def execVfsuspend (s : State) : Host.Outcome State Fault Refusal :=
  match (s.func s.inp.func).waiting with
  | [] => .next s
  | b :: _ =>
    let c := s.blockAt b
    if s.inp.func = 0 && c.op = 0x10 && decide (1 ≤ c.arg) && decide (c.arg ≤ 64) && !s.suspendable c.arg then .next s
    else .next (s.begin' s.inp.func (· == 0x10) fun s c => s.suspend c)

/-- The stopped contexts of a function are saved into the record of a VFSUSPEND. -/
def State.suspendNow (s : State) (f a len : Nat) : State :=
  let n := s.nextRecord
  let s := (s.residents f).foldl (fun s k =>
    let (s, r) := s.capture k
    { s with records := s.records.set (suspKey n k) r }) s
  let head := recordBytes 1 0 (Config.freeNat s.fresh % 65536) (s.nextGen a) len 0 f 0 (List.replicate 64 0)
  let s := (s.devPut 0 a head).devPut 0 (a + 256) (s.recordBody n len)
  { s with fresh := s.fresh + len }

/-- The contexts of a suspended function become resident again, but for one that an interrupted save goes on with. -/
def State.resumeAll (s : State) (f skip : Nat) : List (Nat × Saved) → Except Nat State
  | [] => .ok s
  | (_, r) :: t =>
    if r.ctx = skip then State.resumeAll s f skip t
    else
      match s.restoreBad f r.ctx r r.cx.loop with
      | some st => .error st
      | none => State.resumeAll (s.install r r.ctx r.cx.loop) f skip t

/-- An interrupted command is finished from its step, by the record's number, and its STATUS is written. -/
def State.finishInterrupted (s : State) (f n : Nat) : State :=
  match (s.func f).running with
  | none => s
  | some c =>
    if c.stage ≠ 4 then s else
    match s.records.find (suspKey n c.ctx) with
    | none => s.finishCmd f stRECSTATE
    | some r =>
      let s := s.putRecord c.addr c.size r
      if c.op = 4 then
        (match s.restoreAt f (bits c.arg 0 10) (c.arg / 4096 * 4096) with
          | .error st => s.finishCmd f (switchStatus st)
          | .ok s => s.finishCmd f stOK)
      else s.finishCmd f stOK

/-- VFRESUME of the function that ARG names. -/
def State.vfResume (s : State) (c : Cmd) : State × Option Nat :=
  let f := c.arg
  let a := c.addr
  if f = 0 || 64 < f || !recAddrOk a 4096 then (s, some stBADOP)
  else if !(s.func f).suspended || s.recState a ≠ 1 then (s, some stRECSTATE)
  else if leNat (s.homeRead false 0 (a + 18) 2) ≠ f then (s, some stNOTOWNER)
  else
    let skip := match (s.func f).running with | some d => if d.stage = 4 then d.ctx else 1024 | none => 1024
    let n := s.recordNo 0 a
    match s.resumeAll f skip (s.records.filter fun r => r.1 % 2 ^ 64 == n && decide (2 ^ 64 ≤ r.1)) with
    | .error st => (s, some st)
    | .ok s =>
      let s := (s.updFunc f fun x => { x with suspended := false }).setRecState a 3
      (s.finishInterrupted f n, some stOK)

/-- `VFRESUME` (R78). -/
def execVfresume (s : State) : Host.Outcome State Fault Refusal :=
  .next (s.begin' s.inp.func (· == 0x11) fun s c => s.vfResume c)

/-! ### Completion (R71) -/

/-- COMMAND_COMPLETE of the stream of function `func`: what the running command waited for has come about. A head whose operation R73
does not name completes here. -/
def State.commandComplete (s : State) (f : Nat) : State :=
  match (s.func f).running with
  | none => s.begin' f (fun op => !knownOp op) fun s _ => (s, some stBADOP)
  | some c =>
    if c.stage ≠ 1 then s
    else if c.op = 2 || c.op = 4 then
      if !(s.ctx c.ctx).resident then s.finishCmd f stRECSTATE
      else if !s.stopped c.ctx then s
      else if c.op = 2 then (s.saveNow c).finishCmd f stOK
      else
        let (s, st) := s.switchNow f c
        s.finishCmd f st
    else if c.op = 7 then
      if s.crews.any fun k => k.2.ctx == c.ctx && k.2.kind != .cue then s else s.finishCmd f stOK
    else if c.op = 0x10 then
      if !((s.residents c.arg).all fun k => s.stopped k) then s else (s.suspendNow c.arg c.addr c.size).finishCmd f stOK
    else s

/-- `COMMAND_COMPLETE` (R71). -/
def execCommandComplete (s : State) : Host.Outcome State Fault Refusal := .next (s.commandComplete s.inp.func)

end Sys2Proof.Machine
end

