-- ==== Sys2Proof/Machine/Assign.lean ====
section
/-! DEFINITION. The assignment of cores, contexts, key slots, queues and pools to functions (R65, R76, R82, R103, R104, R487). -/

namespace Sys2Proof.Machine

/-- The record that an ASSIGN reads, with the function that it is for. -/
structure Assignment where
  func : Nat
  bytes : List Byte
  deriving DecidableEq, Repr

def Assignment.num (r : Assignment) (o n : Nat) : Nat := fieldAt r.bytes o n
/-- Bit `i` of a bitmap. -/
def Assignment.bit (r : Assignment) (o i : Nat) : Bool := bits (r.num (o + i / 8) 1) (i % 8) 1 == 1
def Assignment.core (r : Assignment) (k : Nat) : Bool := r.bit 16 k
def Assignment.ctx (r : Assignment) (n : Nat) : Bool := r.bit 64 n
def Assignment.priv (r : Assignment) (n : Nat) : Bool := r.bit 192 n
def Assignment.slot (r : Assignment) (k : Nat) : Bool := r.bit 320 k
def Assignment.queue (r : Assignment) (q : Nat) : Bool := r.bit 384 q
def Assignment.quanta (r : Assignment) : Nat := r.num 3 1
def Assignment.ways (r : Assignment) : Nat := r.num 4 1
def Assignment.share (r : Assignment) : Nat := r.num 5 1
def Assignment.qcap (r : Assignment) : Nat := r.num 6 2

/-- The functions that hold a core, a context, a key slot and a queue now. -/
def State.coreOwner (s : State) (k : Nat) : Nat := s.coreFunc.get 0 k
def State.slotOwner (s : State) (k : Nat) : Nat := s.slotFunc.get 0 k
def State.queueOwner (s : State) (q : Nat) : Nat := (s.queue q).func

/-- The function that holds a resource afterwards, given whether the record lists it. -/
def Assignment.owner (r : Assignment) (listed : Bool) (now : Nat) : Nat :=
  if r.func = 0 then now else if listed then r.func else if now = r.func then 0 else now

/-- A resource moves. -/
def Assignment.moves (r : Assignment) (listed : Bool) (now : Nat) : Bool := r.owner listed now != now

/-- Check 1: BAD_OP. -/
def Assignment.malformed (s : State) (r : Assignment) : Bool :=
  let q := r.qcap
  r.num 0 2 != 1 || decide (4 ≤ r.num 2 1) || decide (64 < r.quanta) || decide (15 < r.ways) || decide (62 < r.share)
    || decide (q < 16) || decide (4096 < q) || q != 2 ^ Nat.log2 q
    || r.num 8 8 != 0 || r.num 56 8 != 0 || r.num 352 32 != 0 || r.num 896 128 != 0 || r.slot 0
    || (if r.func = 0 then
          r.quanta != 0 || r.ways != 0 || r.share != 0 || r.num 16 48 != 0 || r.num 64 128 != 0 || r.num 320 32 != 0 || r.num 384 512 != 0
            || (List.range 1024).any fun n => r.priv n && s.funcOf n != 0
        else r.num 192 128 != 0)

/-- Check 2: NOT_OWNER: a listed resource belongs to another VF. -/
def Assignment.foreign (s : State) (r : Assignment) : Bool :=
  let other (f : Nat) : Bool := f != 0 && f != r.func
  (List.range 320).any (fun k => r.core k && other (s.coreOwner k)) || (List.range 1024).any (fun n => r.ctx n && other (s.funcOf n))
    || (List.range 256).any (fun k => r.slot k && other (s.slotOwner k)) || (List.range 4096).any fun q => r.queue q && other (s.queueOwner q)

/-- Check 3: RES_HELD: a resource that moves is held. -/
def Assignment.held (s : State) (r : Assignment) : Bool :=
  let jobs := s.scrubs.filter fun j => j.2.busy
  (List.range 320).any (fun k => r.moves (r.core k) (s.coreOwner k) && (jobs.any (fun j => j.2.cores.contains k)
      || s.ctxs.any fun c => s.ctxHeld c.1 && c.2.cores.contains k))
    || (List.range 1024).any (fun n => r.moves (r.ctx n) (s.funcOf n) && (s.ctxHeld n || (s.ctx n).resident))
    || (List.range 256).any (fun k => r.moves (r.slot k) (s.slotOwner k)
        && ((s.slotHeld.find k).isSome || (k != 0 && jobs.any fun j => j.2.kslot == k)))
    || (List.range 4096).any fun q => r.moves (r.queue q) (s.queueOwner q)
        && (s.queueHeld q || (s.queue q).depth != 0 || (match (s.queue q).ctx with | some c => (s.ctx c).resident | none => false))

/-- The capacity of a queue afterwards. -/
def Assignment.capOf (s : State) (r : Assignment) (q : Nat) : Nat :=
  let f := r.owner (r.queue q) (s.queueOwner q)
  if f = r.func then r.qcap else (s.func f).qcap

/-- Check 4: NO_ROOM: also of the floors resident in the PF, from which a VF takes what it gets (R103, R487). -/
def Assignment.noRoom (s : State) (r : Assignment) : Bool :=
  let others (g : Func → Nat) : Nat := s.funcs.foldl (fun a f => if f.1 = 0 || f.1 = r.func then a else a + g f.2) 0
  let floors (f k : Nat) : Nat := (s.residents f).foldl (fun a c => a + (s.rung c k).1) 0
  let cores (f : Nat) : Nat := ((List.range 320).filter fun k => r.owner (r.core k) (s.coreOwner k) == f && !(s.pw (k / 10)).fenced).length
  (r.func != 0 && (decide (64 < others (·.quanta) + r.quanta) || decide (15 < others (·.ways) + r.ways)
      || decide (62 < others (·.share) + r.share)
      || decide (cores r.func < floors r.func 1) || decide (r.ways < floors r.func 2) || decide (r.share < floors r.func 3)
      || decide (cores 0 < floors 0 1) || decide (15 < others (·.ways) + r.ways + floors 0 2)
      || decide (62 < others (·.share) + r.share + floors 0 3)))
    || decide (262144 < (List.range 4096).foldl (fun a q => a + r.capOf s q) 0)
    || (List.range 4096).any fun q => r.owner (r.queue q) (s.queueOwner q) == r.func && decide (r.qcap < (s.queue q).depth)

/-- The table of owners other than the PF. -/
def ownerTable (n : Nat) (f : Nat → Nat) : Tbl Nat := (List.range n).filterMap fun k => if f k = 0 then none else some (k, f k)

/-- The assignment takes effect. A queue that moves leaves its context, with REJ and its miss count 0 (DESIGN CHOICE, log 110), and a context
that leaves the PF is privileged no more. -/
def Assignment.apply (s : State) (r : Assignment) : State :=
  let f := r.func
  let s := if f = 0 then s else (s.keepPools f).keepPools 0
  let queues := (List.range 4096).filterMap fun q =>
    let x := s.queue q
    let y : Queue := if r.moves (r.queue q) x.func then { func := r.owner (r.queue q) x.func, cap := r.capOf s q }
      else { x with cap := r.capOf s q }
    if y = {} then none else some (q, y)
  let ctxs := (List.range 1024).foldl (fun t n =>
    let x := s.ctx n
    let g := r.owner (r.ctx n) x.func
    let y := { x with func := g, priv := if f = 0 then r.priv n else x.priv && g == 0 }
    if y = x then t else t.set n y) s.ctxs
  let s1 : State := { s with
    coreFunc := ownerTable 320 fun k => r.owner (r.core k) (s.coreOwner k),
    slotFunc := ownerTable 256 fun k => r.owner (r.slot k) (s.slotOwner k),
    queues := queues, ctxs := ctxs }
  let s1 := s1.updFunc f fun x =>
    let x := { x with ceil := r.num 2 1 % 4, qcap := r.qcap }
    if f = 0 then x else { x with quanta := r.quanta, ways := r.ways, share := r.share }
  let s1 := (s1.residents f).foldl (fun s c => s.updCtx c fun x => { x with loop := { x.loop with cls := max x.loop.cls (r.num 2 1 % 4) } }) s1
  -- cores that left the function of a resident context are withdrawn from it
  (s1.ctxs.filter fun c => c.2.resident).foldl (fun s c =>
    (c.2.cores.filter fun k => s.coreOwner k != c.2.func && (c.2.leaving.find k).isNone).foldl (fun s k => s.withdraw c.1 k) s) s1

/-- ASSIGN (R76). -/
def State.assign (s : State) (c : Cmd) : State × Option Nat :=
  if 64 < c.arg || c.addr % 64 ≠ 0 || dramSize < c.addr + 1024 then (s, some stBADOP)
  else
    let r : Assignment := ⟨c.arg, s.homeRead false 0 c.addr 1024⟩
    if r.malformed s then (s, some stBADOP)
    else if r.foreign s then (s, some stNOTOWNER)
    else if r.held s then (s, some stRESHELD)
    else if r.noRoom s then (s, some stNOROOM)
    else (r.apply s, some stOK)

/-- `ASSIGN` (R76). -/
def execAssign (s : State) : Host.Outcome State Fault Refusal :=
  .next (s.begin' s.inp.func (· == 0x12) fun s c => s.assign c)

end Sys2Proof.Machine
end

