-- ==== Sys2Proof/Machine/Host.lean ====
section
/-! DEFINITION. The registers of the host interface and the resets (R13, R14, R29, R47, R48, R57, R61-R66, R71, R80, R83-R86, R213). -/

namespace Sys2Proof.Machine

/-! ### Writes with a row of their own -/

/-- Records of a backlog written to the ring, oldest first. -/
def State.flushBacklog (s : State) (f : Nat) : List Rec → State
  | [] => s.updFunc f fun x => { x with backlog := [] }
  | r :: t => State.flushBacklog (s.ringPut f r) f t

/-- DLSIZE_WRITE of `val` by function `func` (R86). -/
def State.writeDlsize (s : State) (f v : Nat) : State :=
  let s := s.updFunc f fun x => { x with dlsize := v }
  if !ringEnabled v then s
  else
    let s := s.updFunc f fun x => { x with ringBase := x.dlbase, dlhead := 0, dltail := 0, lap := true }
    s.flushBacklog f (s.func f).backlog

/-- `DLSIZE_WRITE` (R86). -/
def execDlsizeWrite (s : State) : Host.Outcome State Fault Refusal := .next (s.writeDlsize s.inp.func (s.inp.val % 2 ^ 32))

/-- PTROOT_WRITE of `val` by function `func` for context `sub` (R213). -/
def State.writePtroot (s : State) (f n v : Nat) : State :=
  if 1024 ≤ n || s.funcOf n ≠ f then s else s.updCtx n fun c => { c with rootReg := bits v 12 28 * 4096 }

/-- `PTROOT_WRITE` (R213). -/
def execPtrootWrite (s : State) : Host.Outcome State Fault Refusal := .next (s.writePtroot s.inp.func s.inp.sub s.inp.val)

/-! ### Register maps (R13, R14, R64) -/

/-- The PF's function window starts here in its BAR0. -/
abbrev pfWindow : Nat := 0x1000000

/-- A word of 32 bits set in a number. -/
def setWord (x i v : Nat) : Nat := x - 2 ^ (32 * i) * bits x (32 * i) 32 + 2 ^ (32 * i) * (v % 2 ^ 32)

/-- A field of `n` bits from bit `lo` of its register, of which a write clears the bits that it writes 1 to (R13). -/
def clearField (x v lo n : Nat) : Nat := x - (x &&& bits v lo n)

/-- A link whose status register stands at an offset of the management window (R47). -/
def linkAt (o : Nat) : Option Nat :=
  if 0x1100 ≤ o && o < 0x1190 && o % 4 = 0 then some ((o - 0x1100) / 4)
  else if 0x1200 ≤ o && o < 0x1240 && o % 4 = 0 then some (laneKey ((o - 0x1200) / 4)) else none

/-- A write to the management window. -/
def State.mgmtWrite (s : State) (o v : Nat) : State :=
  match linkAt o with
  | some k => s.updLink k fun l => { l with retry := clearField l.retry v 16 16 }
  | none =>
    if o = 0x2000 then { s with kssel := v % 256 }
    else if 0x2040 ≤ o && o < 0x2080 && o % 4 = 0 then { s with ksdata := setWord s.ksdata ((o - 0x2040) / 4) v }
    else if o = 0x1400 then { s with fabric := { s.fabric with mrgsel := v % 256 } }
    else if o = 0x140C then { s with fabric := { s.fabric with pkgid := v % 2 ^ 15 } }
    else s

/-- The local queue and the register of it that an offset of a function window names. -/
def queueAt (o : Nat) : Option (Nat × Nat) := if 0x40000 ≤ o && o < 0x80000 then some ((o - 0x40000) / 64, (o - 0x40000) % 64) else none

/-- A write to a function window. (DEDUCED, log 94) -/
def State.windowWrite (s : State) (f o v : Nat) : State :=
  match queueAt o with
  | some (q, 8) =>
    (match s.queueNo f q with
      | some d => s.updQueue d fun x => { x with rej := clearField x.rej v 16 8 }
      | none => s)
  | some _ => s
  | none =>
    if o = 8 then s.updFunc f fun x => { x with drop := x.drop && bits v 0 1 == 0 }
    else if o = 0x100 then s.updFunc f fun x => { x with dlbase := bits v 12 52 * 4096 }
    else if o = 0x10C then s.updFunc f fun x => { x with dltail := v % 2 ^ 32 }
    else if o = 0x114 then s.updFunc f fun x => { x with dllost := x.dllost - (x.dllost &&& bits v 0 4) }
    else s

/-- Enables of the host port: ATS, PRI and CXL.cache (R61-R63). -/
def State.portWrite (s : State) (n : Nat) (on : Bool) : State :=
  match n with
  | 0 => { s with ats := on }
  | 1 => { s with pri := on }
  | _ => { s with cxl := on }

/-- REGISTER_WRITE of `val` by function `func` at offset `unit` of its BAR0. `flag` says that it sets an enable `sub` of the host port
instead. -/
def State.registerWrite (s : State) (f o v : Nat) : State :=
  if f ≠ 0 then s.windowWrite f o v
  else if o < pfWindow then s.mgmtWrite o v
  else s.windowWrite 0 (o - pfWindow) v

/-- `REGISTER_WRITE` (R13). -/
def execRegisterWrite (s : State) : Host.Outcome State Fault Refusal :=
  .next (if s.inp.flag then s.portWrite s.inp.sub (s.inp.val % 2 == 1) else s.registerWrite s.inp.func s.inp.unit s.inp.val)

/-! ### What the registers read -/

/-- `CMDST` (R71). -/
def Func.cmdst (x : Func) : Nat := x.drop.toNat + 2 ^ 8 * x.waiting.length + 2 ^ 15 * x.running.isSome.toNat + 2 ^ 16 * x.suspended.toNat

/-- `QSTAT` of a device queue (R66). EN reads 1 also while a scrub job holds the context of the queue. (DESIGN CHOICE, log 111) -/
def State.qstat (s : State) (d : Nat) : Nat :=
  let q := s.queue d
  let en := match q.ctx with | some c => (s.ctx c).live || s.ctxHeld c | none => false
  q.depth + 2 ^ 13 * en.toNat + 2 ^ 14 * (q.depth == q.cap).toNat + 2 ^ 15 * (s.queueHeld d).toNat + 2 ^ 16 * q.rej

/-- `KSSTAT` (R80). -/
def State.ksstat (s : State) : Nat :=
  let k := s.kssel
  (if (s.keys.find k).isSome then 1 else if s.zeroing.contains k then 2 else 0) + 4 * (s.slotHeld.find k).isSome.toNat

/-- `PWRCTL` (R29). -/
def PowerSt.pwrctl (p : PowerSt) : Nat := p.plim + 2 ^ 12 * p.mshr + 2 ^ 18 * p.slfix.toNat + 2 ^ 19 * p.mfix

/-- `FABCFG` (R48). -/
def FabricSt.fabcfg (x : FabricSt) : Nat := x.etype + 2 ^ 16 * x.ports + 2 ^ 18 * x.pos

/-- What a read of the management window returns: zero at an offset that no map names, and of a write-only register. -/
def State.mgmtRead (s : State) (o : Nat) : Nat :=
  match linkAt o with
  | some k => (s.link k).status
  | none =>
    if o = 0x1000 then s.power.pwrctl
    else if o = 0x1300 then s.fabric.fabcfg
    else if o = 0x1400 then s.fabric.mrgsel
    else if o = 0x1404 then (s.mergeEnt s.fabric.mrgsel).fgrp
    else if o = 0x1408 then (s.mergeEnt s.fabric.mrgsel).par
    else if o = 0x140C then s.fabric.pkgid
    else if o = 0x2000 then s.kssel
    else if o = 0x2008 then s.ksstat
    else if 0x3000 ≤ o && o < 0x3080 && o % 16 = 0 then (s.job ((o - 0x3000) / 16)).status
    else if 0x3000 ≤ o && o < 0x3080 && o % 16 = 8 then (s.job ((o - 0x3000) / 16)).remain
    else 0

/-- What a read of a function window returns. (DEDUCED, log 95) -/
def State.windowRead (s : State) (f o : Nat) : Nat :=
  let x := s.func f
  match queueAt o with
  | some (q, 8) => (match s.queueNo f q with | some d => s.qstat d | none => 0)
  | some _ => 0
  | none =>
    if o = 8 then x.cmdst
    else if o = 0x100 then x.dlbase
    else if o = 0x108 then x.dlsize
    else if o = 0x10C then x.dltail
    else if o = 0x110 then x.dlhead
    else if o = 0x114 then x.dllost
    else if 0x20000 ≤ o && o < 0x22000 && o % 8 = 0 then
      (let n := (o - 0x20000) / 8
       if s.funcOf n = f then (s.ctx n).rootReg else 0)
    else 0

/-- What a read by a function at an offset of its BAR0 returns. -/
def State.registerRead (s : State) (f o : Nat) : Nat :=
  if f ≠ 0 then s.windowRead f o else if o < pfWindow then s.mgmtRead o else s.windowRead 0 (o - pfWindow)

/-! ### Resets (R84-R86, R145) -/

/-- Blocks of a function that wait, and the running one unless it is a TEARDOWN, complete with ABORTED_BY_RESET. -/
def State.abortCmds (s : State) (f : Nat) : State :=
  let x := s.func f
  let s := x.waiting.foldl (fun s b => s.writeStatus f (s.blockAt b) stABORTED) s
  match x.running with
  | some c => if c.op = 6 then s else s.finishCmd f stABORTED
  | none => s

/-- The window of a function as a reset leaves it: its ring is disabled, its backlog is empty, SEQ counts from 0; its assignment and a
running TEARDOWN stay. -/
def State.resetWindow (s : State) (f : Nat) : State :=
  let s := s.updFunc f fun x => {
    running := x.running, ceil := x.ceil, quanta := x.quanta, ways := x.ways, share := x.share, qcap := x.qcap, pools := x.pools }
  { s with
    queues := s.queues.mapV fun _ q => if q.func = f then { q with rej := 0 } else q,
    ctxs := s.ctxs.mapV fun _ c => if c.func = f then { c with rootReg := 0 } else c }

/-- A context ends by a reset: an unprotected one as under DESTROY, a protected one on a scrub job of its own (R84). -/
def State.resetContext (s : State) (f ctx : Nat) : State :=
  if (s.ctx ctx).kslot = 0 then ((s.stopContext ctx).forget ctx).regrant
  else if s.scrubQueue.any fun q => q.1 == ctx then s.stopWork ctx
  else
    match s.freeJob with
    | some j => s.startJob j ctx f false true
    | none => { s.stopWork ctx with scrubQueue := s.scrubQueue ++ [(ctx, f, false)] }

/-- Jobs that are busy while a reset arrives. -/
def State.markJobs (s : State) (p : Nat → Bool) : State :=
  { s with scrubs := s.scrubs.mapV fun _ j => if j.busy && p j.ctx then { j with rst := true } else j }

/-- The reset of a function. (DEDUCED, log 96) -/
def State.resetFunc (s : State) (f : Nat) : State :=
  let s := s.abortCmds f
  let s := (s.residents f).foldl (fun s c => if s.ctxHeld c then s else s.resetContext f c) s
  s.resetWindow f

/-- FLR_VF of virtual function `unit`; the PF's ring learns of it (R87). -/
def execFlrVf (s : State) : Host.Outcome State Fault Refusal :=
  let f := s.inp.unit
  if f = 0 || 64 < f then .next s
  else
    let s1 := s.markJobs fun c => s.funcOf c == f
    .next ((s1.resetFunc f).post 0 { recVfReset with d1 := f })

/-- FLR_PF: the PF's stream, contexts and window; scrub jobs go on. -/
def execFlrPf (s : State) : Host.Outcome State Fault Refusal := .next ((s.markJobs fun _ => true).resetFunc 0)

/-- Every register of the package takes its reset value, and what the chip holds of links, power states and accesses in flight is gone.
Clusters and links fenced before stay so until a cold reset (R36, R46). (DEDUCED, log 97) -/
def State.resetChip (s : State) : State :=
  let busy (cl : Nat) : Bool := s.scrubs.any fun j => j.2.busy && (j.2.clusters.contains cl || j.2.cores.any fun k => k / 10 == cl)
  let s := ((List.range 32).filter fun cl => !busy cl).foldl (fun s cl => s.dark cl) s
  let alone (_ : Nat) (d : DirEnt) : DirEnt := { d with remote := false, remoteDirty := false }
  let s := s.updMem fun m => { m with walks := [], walkCache := [], l2 := [], dir := m.dir.mapV alone, hostDir := m.hostDir.mapV alone }
  { s with
    power := { clusters := (s.power.clusters.filter fun c => c.2.fenced).map fun c => (c.1, { fenced := true }) },
    fabric := { links := (s.fabric.links.filter fun l => l.2.fenced).map fun l => (l.1, { fenced := true, failed := l.2.failed }) },
    arbiters := [], vectors := [], migrations := [], migrating := [], priWaits := [],
    ats := false, pri := false, cxl := false, kssel := 0, ksdata := 0 }

/-- A reset of the device: every function is reset, with the records that the reset itself posted; scrub jobs survive. (DESIGN CHOICE, log 98) -/
def State.resetDevice (s : State) : State :=
  (List.range 65).foldl (fun s f => s.resetWindow f)
    ((List.range 65).foldl (fun s f => s.resetFunc f) (s.markJobs fun _ => true)).resetChip

/-- `HOT_RESET` (R84). -/
def execHotReset (s : State) : Host.Outcome State Fault Refusal := .next s.resetDevice
/-- `WARM_RESET` (R84). -/
def execWarmReset (s : State) : Host.Outcome State Fault Refusal := .next s.resetDevice

/-- POWER_ON: everything as at reset; `list` names the clusters that the cold reset's test finds cracked (R36). The host's memory is
outside the package. -/
def execPowerOn (s : State) : Host.Outcome State Fault Refusal :=
  .next { State.reset with
    agenda := s.agenda, fresh := s.fresh, mem := { hostMem := s.mem.hostMem },
    power := { clusters := (s.inp.list.foldl (fun l k => if k < 32 then insertNat l k else l) ([] : List Nat)).map fun k => (k, { fenced := true }) } }

end Sys2Proof.Machine
end

