-- ==== Sys2Proof/Machine/Dispatch.lean ====
section
/-! DEFINITION. One arm per instruction and per step that no word encodes: a direct call of its meaning. -/

namespace Sys2Proof.Machine

def exec (i : Instr) (s : State) : Host.Outcome State Fault Refusal :=
  match i with
  | .cwrQcfg a => Sys2Proof.Machine.execCwrQcfg a s
  | .cwrTkill a => Sys2Proof.Machine.execCwrTkill a s
  | .cwrArv a n => Sys2Proof.Machine.execCwrArv a n s
  | .bra o => Sys2Proof.Machine.execBra o s
  | .call o => Sys2Proof.Machine.execCall o s
  | .trap c => Sys2Proof.Machine.execTrap c s
  | .brx m o => Sys2Proof.Machine.execBrx m o s
  | .brxAny m o => Sys2Proof.Machine.execBrxAny m o s
  | .brxAll m o => Sys2Proof.Machine.execBrxAll m o s
  | .brn m o => Sys2Proof.Machine.execBrn m o s
  | .brnAny m o => Sys2Proof.Machine.execBrnAny m o s
  | .brnAll m o => Sys2Proof.Machine.execBrnAll m o s
  | .brd m o => Sys2Proof.Machine.execBrd m o s
  | .brl d o => Sys2Proof.Machine.execBrl d o s
  | .loop d o => Sys2Proof.Machine.execLoop d o s
  | .arrw d a b n => Sys2Proof.Machine.execArrw d a b n s
  | .jmpi a => Sys2Proof.Machine.execJmpi a s
  | .calli a => Sys2Proof.Machine.execCalli a s
  | .reform k a => Sys2Proof.Machine.execReform k a s
  | .beat a c => Sys2Proof.Machine.execBeat a c s
  | .btgt a m => Sys2Proof.Machine.execBtgt a m s
  | .spawn d a b => Sys2Proof.Machine.execSpawn d a b s
  | .cancel a => Sys2Proof.Machine.execCancel a s
  | .winb b => Sys2Proof.Machine.execWinb b s
  | .winq d => Sys2Proof.Machine.execWinq d s
  | .tagq d a => Sys2Proof.Machine.execTagq d a s
  | .tagg d => Sys2Proof.Machine.execTagg d s
  | .elect k => Sys2Proof.Machine.execElect k s
  | .rwr a n => Sys2Proof.Machine.execRwr a n s
  | .cwait a b => Sys2Proof.Machine.execCwait a b s
  | .cwake a => Sys2Proof.Machine.execCwake a s
  | .cloc d sc => Sys2Proof.Machine.execCloc d sc s
  | .crd d n => Sys2Proof.Machine.execCrd d n s
  | .cwr a n => Sys2Proof.Machine.execCwr a n s
  | .iadd p d a b t => Sys2Proof.Machine.execIadd p d a b t s
  | .isub p d a b t => Sys2Proof.Machine.execIsub p d a b t s
  | .imul p d a b t => Sys2Proof.Machine.execImul p d a b t s
  | .imulh p d a b t => Sys2Proof.Machine.execImulh p d a b t s
  | .imulhn p d a b t => Sys2Proof.Machine.execImulhn p d a b t s
  | .imad p d a b t => Sys2Proof.Machine.execImad p d a b t s
  | .idiv p d a b t => Sys2Proof.Machine.execIdiv p d a b t s
  | .idivn p d a b t => Sys2Proof.Machine.execIdivn p d a b t s
  | .irem p d a b t => Sys2Proof.Machine.execIrem p d a b t s
  | .iremn p d a b t => Sys2Proof.Machine.execIremn p d a b t s
  | .iabs p d a t => Sys2Proof.Machine.execIabs p d a t s
  | .imin p d a b t => Sys2Proof.Machine.execImin p d a b t s
  | .iminn p d a b t => Sys2Proof.Machine.execIminn p d a b t s
  | .imax p d a b t => Sys2Proof.Machine.execImax p d a b t s
  | .imaxn p d a b t => Sys2Proof.Machine.execImaxn p d a b t s
  | .bfx p d a b t => Sys2Proof.Machine.execBfx p d a b t s
  | .bfxs p d a b t => Sys2Proof.Machine.execBfxs p d a b t s
  | .bfi p d a b t => Sys2Proof.Machine.execBfi p d a b t s
  | .shl p d a b t => Sys2Proof.Machine.execShl p d a b t s
  | .shr p d a b t => Sys2Proof.Machine.execShr p d a b t s
  | .sar p d a b t => Sys2Proof.Machine.execSar p d a b t s
  | .rol p d a b t => Sys2Proof.Machine.execRol p d a b t s
  | .and p d a b t => Sys2Proof.Machine.execAnd p d a b t s
  | .or p d a b t => Sys2Proof.Machine.execOr p d a b t s
  | .xor p d a b t => Sys2Proof.Machine.execXor p d a b t s
  | .andn p d a b t => Sys2Proof.Machine.execAndn p d a b t s
  | .mov p d a t => Sys2Proof.Machine.execMov p d a t s
  | .popc p d a t => Sys2Proof.Machine.execPopc p d a t s
  | .clz p d a t => Sys2Proof.Machine.execClz p d a t s
  | .ctz p d a t => Sys2Proof.Machine.execCtz p d a t s
  | .brev p d a t => Sys2Proof.Machine.execBrev p d a t s
  | .lea p d a b sc => Sys2Proof.Machine.execLea p d a b sc s
  | .icmp p k a b c t => Sys2Proof.Machine.execIcmp p k a b c t s
  | .sel p d a b w k => Sys2Proof.Machine.execSel p d a b w k s
  | .iaddi p d a im => Sys2Proof.Machine.execIaddi p d a im s
  | .movi p d im => Sys2Proof.Machine.execMovi p d im s
  | .movh p d im => Sys2Proof.Machine.execMovh p d im s
  | .fadd p d a b t => Sys2Proof.Machine.execFadd p d a b t s
  | .fsub p d a b t => Sys2Proof.Machine.execFsub p d a b t s
  | .fmul p d a b t => Sys2Proof.Machine.execFmul p d a b t s
  | .ffma p d a b t => Sys2Proof.Machine.execFfma p d a b t s
  | .fmin p d a b t => Sys2Proof.Machine.execFmin p d a b t s
  | .fmax p d a b t => Sys2Proof.Machine.execFmax p d a b t s
  | .fdiv p d a b t => Sys2Proof.Machine.execFdiv p d a b t s
  | .fcpys p d a b t => Sys2Proof.Machine.execFcpys p d a b t s
  | .fabs p d a t => Sys2Proof.Machine.execFabs p d a t s
  | .fneg p d a t => Sys2Proof.Machine.execFneg p d a t s
  | .frnd p d a t => Sys2Proof.Machine.execFrnd p d a t s
  | .ffrac p d a t => Sys2Proof.Machine.execFfrac p d a t s
  | .fsqrt p d a t => Sys2Proof.Machine.execFsqrt p d a t s
  | .frcp p d a t => Sys2Proof.Machine.execFrcp p d a t s
  | .frsq p d a t => Sys2Proof.Machine.execFrsq p d a t s
  | .fclass p d a t => Sys2Proof.Machine.execFclass p d a t s
  | .fexp2 p d a t => Sys2Proof.Machine.execFexp2 p d a t s
  | .flog2 p d a t => Sys2Proof.Machine.execFlog2 p d a t s
  | .fsin p d a t => Sys2Proof.Machine.execFsin p d a t s
  | .fcos p d a t => Sys2Proof.Machine.execFcos p d a t s
  | .ftanh p d a t => Sys2Proof.Machine.execFtanh p d a t s
  | .ferf p d a t => Sys2Proof.Machine.execFerf p d a t s
  | .fsigm p d a t => Sys2Proof.Machine.execFsigm p d a t s
  | .fcmp p k a b c t => Sys2Proof.Machine.execFcmp p k a b c t s
  | .hadd2 p d a b t => Sys2Proof.Machine.execHadd2 p d a b t s
  | .hmul2 p d a b t => Sys2Proof.Machine.execHmul2 p d a b t s
  | .hfma2 p d a b t => Sys2Proof.Machine.execHfma2 p d a b t s
  | .hmin2 p d a b t => Sys2Proof.Machine.execHmin2 p d a b t s
  | .hmax2 p d a b t => Sys2Proof.Machine.execHmax2 p d a b t s
  | .rng p d a b t => Sys2Proof.Machine.execRng p d a b t s
  | .cvtpk p d a b t => Sys2Proof.Machine.execCvtpk p d a b t s
  | .cvtun p d a t => Sys2Proof.Machine.execCvtun p d a t s
  | .cvtif p d a f im => Sys2Proof.Machine.execCvtif p d a f im s
  | .cvtfi p d a f im => Sys2Proof.Machine.execCvtfi p d a f im s
  | .cvtw p d a x sc e => Sys2Proof.Machine.execCvtw p d a x sc e s
  | .cvtn p d a x sc e => Sys2Proof.Machine.execCvtn p d a x sc e s
  | .cvtne p d a x sc e => Sys2Proof.Machine.execCvtne p d a x sc e s
  | .mand p k j im => Sys2Proof.Machine.execMand p k j im s
  | .mor p k j im => Sys2Proof.Machine.execMor p k j im s
  | .mxor p k j im => Sys2Proof.Machine.execMxor p k j im s
  | .mandn p k j im => Sys2Proof.Machine.execMandn p k j im s
  | .mnot p k j => Sys2Proof.Machine.execMnot p k j s
  | .mmov p k j => Sys2Proof.Machine.execMmov p k j s
  | .mset p k a => Sys2Proof.Machine.execMset p k a s
  | .mget p d j => Sys2Proof.Machine.execMget p d j s
  | .mpop p d j => Sys2Proof.Machine.execMpop p d j s
  | .mffs p d j => Sys2Proof.Machine.execMffs p d j s
  | .shfl p d a b m w => Sys2Proof.Machine.execShfl p d a b m w s
  | .voteAny p d j => Sys2Proof.Machine.execVoteAny p d j s
  | .voteAll p d j => Sys2Proof.Machine.execVoteAll p d j s
  | .voteUni p d a => Sys2Proof.Machine.execVoteUni p d a s
  | .wred p d a o t => Sys2Proof.Machine.execWred p d a o t s
  | .wscan p d a o t => Sys2Proof.Machine.execWscan p d a o t s
  | .ld p d a sc k w => Sys2Proof.Machine.execLd p d a sc k w s
  | .st p d a sc k w => Sys2Proof.Machine.execSt p d a sc k w s
  | .ldl p d a q w => Sys2Proof.Machine.execLdl p d a q w s
  | .stl p d a q w => Sys2Proof.Machine.execStl p d a q w s
  | .ldc p d a w => Sys2Proof.Machine.execLdc p d a w s
  | .ldx p d a w => Sys2Proof.Machine.execLdx p d a w s
  | .stx p d a w => Sys2Proof.Machine.execStx p d a w s
  | .atom p d a k sc o t => Sys2Proof.Machine.execAtom p d a k sc o t s
  | .atomCas p d a k sc t => Sys2Proof.Machine.execAtomCas p d a k sc t s
  | .atoml p d a k o t => Sys2Proof.Machine.execAtoml p d a k o t s
  | .atomlCas p d a k t => Sys2Proof.Machine.execAtomlCas p d a k t s
  | .redm p d a k sc o t => Sys2Proof.Machine.execRedm p d a k sc o t s
  | .fenceAcq sc => Sys2Proof.Machine.execFenceAcq sc s
  | .fenceRel sc => Sys2Proof.Machine.execFenceRel sc s
  | .fenceFull sc => Sys2Proof.Machine.execFenceFull sc s
  | .bar a n => Sys2Proof.Machine.execBar a n s
  | .barTake k n => Sys2Proof.Machine.execBarTake k n s
  | .bara a n => Sys2Proof.Machine.execBara a n s
  | .barw n => Sys2Proof.Machine.execBarw n s
  | .barq d n => Sys2Proof.Machine.execBarq d n s
  | .pres d a => Sys2Proof.Machine.execPres d a s
  | .pclr a => Sys2Proof.Machine.execPclr a s
  | .pset a => Sys2Proof.Machine.execPset a s
  | .pref a l => Sys2Proof.Machine.execPref a l s
  | .cinv a b => Sys2Proof.Machine.execCinv a b s
  | .cwb a b => Sys2Proof.Machine.execCwb a b s
  | .cfls a b => Sys2Proof.Machine.execCfls a b s
  | .bci a b => Sys2Proof.Machine.execBci a b s
  | .bca a b => Sys2Proof.Machine.execBca a b s
  | .bcw a b => Sys2Proof.Machine.execBcw a b s
  | .ract a => Sys2Proof.Machine.execRact a s
  | .rcon t a => Sys2Proof.Machine.execRcon t a s
  | .rconWs a b => Sys2Proof.Machine.execRconWs a b s
  | .rcls a => Sys2Proof.Machine.execRcls a s
  | .rstat d a => Sys2Proof.Machine.execRstat d a s
  | .tshape t a => Sys2Proof.Machine.execTshape t a s
  | .tclr t => Sys2Proof.Machine.execTclr t s
  | .omap t a => Sys2Proof.Machine.execOmap t a s
  | .tld t a b => Sys2Proof.Machine.execTld t a b s
  | .tst t a b => Sys2Proof.Machine.execTst t a b s
  | .tfeed t a b => Sys2Proof.Machine.execTfeed t a b s
  | .mma c im j => Sys2Proof.Machine.execMma c im j s
  | .mmas c im j => Sys2Proof.Machine.execMmas c im j s
  | .mmaq c im j => Sys2Proof.Machine.execMmaq c im j s
  | .mzero c => Sys2Proof.Machine.execMzero c s
  | .mload c a => Sys2Proof.Machine.execMload c a s
  | .mdrn c a b => Sys2Proof.Machine.execMdrn c a b s
  | .mcoop a => Sys2Proof.Machine.execMcoop a s
  | .mwait l => Sys2Proof.Machine.execMwait l s
  | .scpl a b => Sys2Proof.Machine.execScpl a b s
  | .scinv a => Sys2Proof.Machine.execScinv a s
  | .scq d a => Sys2Proof.Machine.execScq d a s
  | .cbld c a => Sys2Proof.Machine.execCbld c a s
  | .tlbi a r => Sys2Proof.Machine.execTlbi a r s
  | .xcCopy v a b => Sys2Proof.Machine.execXcCopy v a b s
  | .xcTcopy v a b => Sys2Proof.Machine.execXcTcopy v a b s
  | .xcGath v a b => Sys2Proof.Machine.execXcGath v a b s
  | .xcScat v a b => Sys2Proof.Machine.execXcScat v a b s
  | .xcFill v a b => Sys2Proof.Machine.execXcFill v a b s
  | .xcStat v a => Sys2Proof.Machine.execXcStat v a s
  | .xcCanc v a => Sys2Proof.Machine.execXcCanc v a s
  | .swBind v a b => Sys2Proof.Machine.execSwBind v a b s
  | .swUnbind v b => Sys2Proof.Machine.execSwUnbind v b s
  | .swPass v a b => Sys2Proof.Machine.execSwPass v a b s
  | .swWake v a b => Sys2Proof.Machine.execSwWake v a b s
  | .swStat v a b => Sys2Proof.Machine.execSwStat v a b s
  | .gpBind v a b => Sys2Proof.Machine.execGpBind v a b s
  | .gpStep v a b => Sys2Proof.Machine.execGpStep v a b s
  | .gpMask v a b => Sys2Proof.Machine.execGpMask v a b s
  | .gpFork v a b => Sys2Proof.Machine.execGpFork v a b s
  | .gpRoll v a b => Sys2Proof.Machine.execGpRoll v a b s
  | .gpSave v a b => Sys2Proof.Machine.execGpSave v a b s
  | .gpLoad v a b => Sys2Proof.Machine.execGpLoad v a b s
  | .dtBuild v a => Sys2Proof.Machine.execDtBuild v a s
  | .ptLook v a => Sys2Proof.Machine.execPtLook v a s
  | .ptPin v a => Sys2Proof.Machine.execPtPin v a s
  | .ptUnpin v a => Sys2Proof.Machine.execPtUnpin v a s
  | .ptIns v a b => Sys2Proof.Machine.execPtIns v a b s
  | .ptEvict v a => Sys2Proof.Machine.execPtEvict v a s
  | .xcScrb v a => Sys2Proof.Machine.execXcScrb v a s
  | .ksZero v a b => Sys2Proof.Machine.execKsZero v a b s
  | .clockStepChange => Sys2Proof.Machine.execClockStepChange s
  | .budgetCapAdjust => Sys2Proof.Machine.execBudgetCapAdjust s
  | .sliderPeriod => Sys2Proof.Machine.execSliderPeriod s
  | .pwrctlWrite => Sys2Proof.Machine.execPwrctlWrite s
  | .thermalBandChange => Sys2Proof.Machine.execThermalBandChange s
  | .thermalCapTick => Sys2Proof.Machine.execThermalCapTick s
  | .thermalTrip => Sys2Proof.Machine.execThermalTrip s
  | .thermalClear => Sys2Proof.Machine.execThermalClear s
  | .pageMigrationStart => Sys2Proof.Machine.execPageMigrationStart s
  | .pageMigrated => Sys2Proof.Machine.execPageMigrated s
  | .halfSwitch => Sys2Proof.Machine.execHalfSwitch s
  | .clusterFenced => Sys2Proof.Machine.execClusterFenced s
  | .w1Entry => Sys2Proof.Machine.execW1Entry s
  | .w2Entry => Sys2Proof.Machine.execW2Entry s
  | .breakEvenHoldEnd => Sys2Proof.Machine.execBreakEvenHoldEnd s
  | .clusterPowerUpDone => Sys2Proof.Machine.execClusterPowerUpDone s
  | .w3Entry => Sys2Proof.Machine.execW3Entry s
  | .latencyToleranceReport => Sys2Proof.Machine.execLatencyToleranceReport s
  | .gangFlitReceive => Sys2Proof.Machine.execGangFlitReceive s
  | .ethFrameReceive => Sys2Proof.Machine.execEthFrameReceive s
  | .heartbeatSend => Sys2Proof.Machine.execHeartbeatSend s
  | .linkDown => Sys2Proof.Machine.execLinkDown s
  | .laneFailure => Sys2Proof.Machine.execLaneFailure s
  | .fabcfgWrite => Sys2Proof.Machine.execFabcfgWrite s
  | .collectiveItemDone => Sys2Proof.Machine.execCollectiveItemDone s
  | .collectiveCommit => Sys2Proof.Machine.execCollectiveCommit s
  | .mergePeriodEnd => Sys2Proof.Machine.execMergePeriodEnd s
  | .mergeMessageReceive => Sys2Proof.Machine.execMergeMessageReceive s
  | .mrgtagWrite => Sys2Proof.Machine.execMrgtagWrite s
  | .mrgparWrite => Sys2Proof.Machine.execMrgparWrite s
  | .packageLost => Sys2Proof.Machine.execPackageLost s
  | .qsubWrite => Sys2Proof.Machine.execQsubWrite s
  | .slateAccept => Sys2Proof.Machine.execSlateAccept s
  | .cmddbWrite => Sys2Proof.Machine.execCmddbWrite s
  | .create => Sys2Proof.Machine.execCreate s
  | .save => Sys2Proof.Machine.execSave s
  | .restore => Sys2Proof.Machine.execRestore s
  | .switch => Sys2Proof.Machine.execSwitch s
  | .destroy => Sys2Proof.Machine.execDestroy s
  | .teardown => Sys2Proof.Machine.execTeardown s
  | .drain => Sys2Proof.Machine.execDrain s
  | .drainTimeout => Sys2Proof.Machine.execDrainTimeout s
  | .undrain => Sys2Proof.Machine.execUndrain s
  | .vfsuspend => Sys2Proof.Machine.execVfsuspend s
  | .vfresume => Sys2Proof.Machine.execVfresume s
  | .assign => Sys2Proof.Machine.execAssign s
  | .commandComplete => Sys2Proof.Machine.execCommandComplete s
  | .dlsizeWrite => Sys2Proof.Machine.execDlsizeWrite s
  | .ptrootWrite => Sys2Proof.Machine.execPtrootWrite s
  | .keyLoad => Sys2Proof.Machine.execKeyLoad s
  | .keyZero => Sys2Proof.Machine.execKeyZero s
  | .keyZeroDone => Sys2Proof.Machine.execKeyZeroDone s
  | .registerWrite => Sys2Proof.Machine.execRegisterWrite s
  | .scrubJobStart => Sys2Proof.Machine.execScrubJobStart s
  | .scrubUnitCommit => Sys2Proof.Machine.execScrubUnitCommit s
  | .scrubDone => Sys2Proof.Machine.execScrubDone s
  | .flrVf => Sys2Proof.Machine.execFlrVf s
  | .flrPf => Sys2Proof.Machine.execFlrPf s
  | .hotReset => Sys2Proof.Machine.execHotReset s
  | .warmReset => Sys2Proof.Machine.execWarmReset s
  | .powerOn => Sys2Proof.Machine.execPowerOn s
  | .priResponse => Sys2Proof.Machine.execPriResponse s
  | .beatArrive => Sys2Proof.Machine.execBeatArrive s
  | .btgtArrive => Sys2Proof.Machine.execBtgtArrive s
  | .controlPeriodEnd => Sys2Proof.Machine.execControlPeriodEnd s
  | .allocatorEpoch => Sys2Proof.Machine.execAllocatorEpoch s
  | .grantApply => Sys2Proof.Machine.execGrantApply s
  | .coreReleaseTimeout => Sys2Proof.Machine.execCoreReleaseTimeout s
  | .quantumEnd => Sys2Proof.Machine.execQuantumEnd s
  | .ageTick => Sys2Proof.Machine.execAgeTick s
  | .backfillTimeout => Sys2Proof.Machine.execBackfillTimeout s
  | .crewPlace => Sys2Proof.Machine.execCrewPlace s
  | .groupPlace => Sys2Proof.Machine.execGroupPlace s
  | .takeSpillDone => Sys2Proof.Machine.execTakeSpillDone s
  | .takeRestore => Sys2Proof.Machine.execTakeRestore s
  | .controlThreadRestore => Sys2Proof.Machine.execControlThreadRestore s
  | .engineCommandStart => Sys2Proof.Machine.execEngineCommandStart s
  | .slateRetire => Sys2Proof.Machine.execSlateRetire s
  | .deadlineExpiry => Sys2Proof.Machine.execDeadlineExpiry s
  | .binIssue => Sys2Proof.Machine.execBinIssue s
  | .divergenceYield => Sys2Proof.Machine.execDivergenceYield s
  | .passStart => Sys2Proof.Machine.execPassStart s
  | .blockPass => Sys2Proof.Machine.execBlockPass s
  | .passEnd => Sys2Proof.Machine.execPassEnd s
  | .wakeApply => Sys2Proof.Machine.execWakeApply s
  | .pageWalkDone => Sys2Proof.Machine.execPageWalkDone s
  | .scratchpadAccessDone => Sys2Proof.Machine.execScratchpadAccessDone s
  | .rowTransferEnd => Sys2Proof.Machine.execRowTransferEnd s
  | .prechargeEnd => Sys2Proof.Machine.execPrechargeEnd s
  | .rowForcedClose => Sys2Proof.Machine.execRowForcedClose s
  | .bankRefresh => Sys2Proof.Machine.execBankRefresh s
  | .patrolScrub => Sys2Proof.Machine.execPatrolScrub s
  | .copyItemStart => Sys2Proof.Machine.execCopyItemStart s
  | .copyItemComplete => Sys2Proof.Machine.execCopyItemComplete s
  | .grammarSlotPerform => Sys2Proof.Machine.execGrammarSlotPerform s
  | .matrixExecStart => Sys2Proof.Machine.execMatrixExecStart s
  | .matrixExecDone => Sys2Proof.Machine.execMatrixExecDone s
  | .scaleFetchDone => Sys2Proof.Machine.execScaleFetchDone s
  | .nop => Sys2Proof.Machine.execNop s
  | .ret => Sys2Proof.Machine.execRet s
  | .rjoin => Sys2Proof.Machine.execRjoin s
  | .exit => Sys2Proof.Machine.execExit s
  | .yield => Sys2Proof.Machine.execYield s
  | .tret => Sys2Proof.Machine.execTret s
  | .ifence => Sys2Proof.Machine.execIfence s
  | .mfence => Sys2Proof.Machine.execMfence s
  | .activateToFirstConsume => Sys2Proof.Machine.execActivateToFirstConsume s
  | .writeBufferDrain => Sys2Proof.Machine.execWriteBufferDrain s
  | .sharedTileWriteDone => Sys2Proof.Machine.execSharedTileWriteDone s
  | .hostPortAccess => Sys2Proof.Machine.execHostPortAccess s

end Sys2Proof.Machine
end

