-- ==== Sys2Proof/Machine/Fetch.lean ====
section
/-! DEFINITION. Which warp of a quadrant issues, and the fetch of its instruction (R159, R161, R164, R177, R181, R182, R220, R226,
R258, R308, R315, R346). -/

namespace Sys2Proof.Machine

/-! ### The warp that issues -/

/-- The core and quadrant of a focus. -/
def Focus.place : Focus → Option (Nat × Nat)
  | .none => Option.none
  | .quad core q => some (core, q % 4)
  | .control cl => some (320 + cl, 0)

/-- Whether the clusters of a core's clock run so that it can issue: the compute rails are on, and its cluster is not in W2 (R31,
R37). -/
def State.powered (s : State) (core : Nat) : Bool := !s.power.tripped && decide ((s.pw (clusterOf core)).w < 2)

/-- Whether a crew still runs: it is not being written to a take record and has not ended. -/
def Crew.runs (c : Crew) : Bool := c.takeCarry.isNone && !c.spill2 && c.ending.isNone

/-- Whether a warp of a crew may issue: while a trap is handled, only the faulting warp, and before that the siblings within their
skid (R178, R182). -/
def Crew.mayIssue (c : Crew) (wid : Nat) : Bool :=
  c.runs && (match c.stop with
    | some st => st.left.get 0 wid != 0
    | none => match c.frames with | [] => true | fr :: _ => fr.wid == wid)

/-- Whether a side that parked on a scratchpad line can still perform its access. -/
def State.standing (s : State) (x : ParkedOn) : Bool :=
  match s.crew x.crew with
  | none => false
  | some c => c.mayIssue x.warp && (match c.warps.find x.warp with | none => false | some w => w.threads &&& x.lanes != 0)

/-- Accesses that parked on one line are performed in the order in which they parked (R226): whether lanes of a warp stand behind
another side. -/
def State.behind (s : State) (core cid wid : Nat) (lanes : BitVec 32) : Bool :=
  let q := (s.core core).parkQ
  let mine (x : ParkedOn) : Bool := x.crew == cid && x.warp == wid && x.lanes &&& lanes != 0
  match q.find? mine with
  | none => false
  | some e => (q.takeWhile fun x => !mine x).any fun x => x.line == e.line && s.standing x

/-- A warp with a side that can issue, that side running (R161); a warp whose scratchpad load has not completed issues nothing
(R225). (DEDUCED, log 30) -/
def Warp.ready (c : Crew) (w : Warp) : Option Warp :=
  let w := w.settle c
  if w.spadBusy || w.run.lanes = 0 || w.run.blocked c w then none else some w

/-- The warps of a quadrant that can issue, as crew and warp, in a fixed order. -/
def State.readyWarps (s : State) (core q : Nat) : List (Nat × Nat × Bool) :=
  s.crews.flatMap fun (cid, c) =>
    if c.core != core then [] else
    c.warps.filterMap fun (wid, w) =>
      if w.quad == q && c.mayIssue wid && decide (w.since ≤ (s.core core).cycle.get 0 q) then
        match w.ready c with
        | some w => if s.behind core cid wid w.run.lanes then none else some (cid, wid, w.skipTurn)
        | none => none
      else none

/-- The order of the round robin (R159): from the warp after the one that issued last. -/
def rotate (last : Option (Nat × Nat)) (l : List (Nat × Nat × Bool)) : List (Nat × Nat × Bool) :=
  match last with
  | none => l
  | some (c, w) =>
    let later (x : Nat × Nat × Bool) : Bool := decide (c < x.1) || (x.1 == c && decide (w < x.2.1))
    l.filter later ++ l.filter fun x => !later x

/-- The warps that give up their turn before the one that issues, and that one (R346): a warp alone in its quadrant that gives up
its turn leaves the cycle without an issue. -/
def firstTurn (l : List (Nat × Nat × Bool)) : List (Nat × Nat) × Option (Nat × Nat) :=
  let skip := (l.takeWhile fun x => x.2.2).map fun x => (x.1, x.2.1)
  match l.dropWhile fun x => x.2.2 with
  | x :: _ => (skip, some (x.1, x.2.1))
  | [] => match skip with
    | x :: _ :: _ => (skip, some x)
    | _ => (skip, none)

/-- A warp takes its turn: the side that can issue runs, one that has issued 64 instructions yields (R161). -/
def Warp.takeTurn (c : Crew) (w : Warp) : Warp :=
  let w := w.settle c
  if 64 ≤ w.issued && w.div != [] then w.yieldSide c else w

/-- Warps that gave up a turn have given it up. -/
def State.tookSkips (s : State) (l : List (Nat × Nat)) : State :=
  l.foldl (fun s (cid, wid) => s.updCrew cid fun c =>
    match c.warps.find wid with
    | some w => { c with warps := c.warps.set wid { w with skipTurn := false } }
    | none => c) s

/-- The parked access of a side is performed now, and sides that are gone are forgotten. -/
def State.unpark (s : State) (core cid wid : Nat) (lanes : BitVec 32) : State :=
  if (s.core core).parkQ = [] then s
  else
    let keep (x : ParkedOn) : Bool := s.standing x && !(x.crew == cid && x.warp == wid && x.lanes &&& lanes != 0)
    s.updCore core fun k => { k with parkQ := k.parkQ.filter keep }

/-- A quadrant's cycle: entries leave the hold list, and the warp whose turn it is becomes the issuer (R159, R164); none when no
warp issues. (DEDUCED, log 18) -/
def State.pick (s : State) (core q : Nat) : State × Bool :=
  if !s.powered core then (s, false) else
  let s := (s.cycleBegin core q).endStops core q
  let (skips, who) := firstTurn (rotate ((s.core core).last.find q) (s.readyWarps core q))
  let s := s.tookSkips skips
  match who with
  | none => (s, false)
  | some (cid, wid) =>
    match s.crew cid with
    | none => (s, false)
    | some c =>
      match c.warps.find wid with
      | none => (s, false)
      | some w =>
        let w := w.takeTurn c
        let s := (s.unpark core cid wid w.run.lanes).setCrew cid { c with warps := c.warps.set wid w }
        let s := s.updCore core fun k => { k with last := k.last.set q (cid, wid) }
        let s := s.updPw (clusterOf core) fun p => { p with w := 0, lastIssue := s.now }
        ({ s with cur := some (cid, wid) }, true)

/-! ### Fetch -/

/-- The cache with a line put at the front; the least recently used of its set of four leaves (R220). -/
def icachePut (l : List ILine) (x : ILine) : List ILine :=
  let rest := l.filter fun y => !(y.line == x.line && y.host == x.host && y.slot == x.slot)
  let same := rest.filter fun y => y.line % 128 == x.line % 128
  match (if 4 ≤ same.length then same.getLast? else none) with
  | none => x :: rest
  | some v => x :: rest.filter fun y => y != v

/-- The word at an address of a line. -/
def wordIn (d : BitVec 1024) (pa : Nat) : BitVec 32 := d.extractLsb' (8 * (pa % 128)) 32

/-- What the fetch of a word gives. -/
inductive Fetched where
  | word (s : State) (w : BitVec 32)
  /-- The side waits, and the instruction is fetched again. -/
  | held (s : State)
  | trap (s : State) (t : TrapInfo)

/-- The word at an address for the issuer (R177, R216, R220, R258): through the core's instruction cache, which a miss fills from
home. Memory of the host without CXL.cache is not cached. (DEDUCED, log 24) -/
def Iss.fetchWord (I : Iss) (s : State) (va : Nat) : Fetched :=
  let q : Need := { n := 4, exec := true }
  let bad (s : State) (c : Nat) : Fetched := .trap s { cause := c, detail := q.detail, taddr := va, lanes := I.warp.m0 }
  match I.warp.badPages.find? (fun b => b.page == va / 65536) with
  | some b => bad s b.cause
  | none =>
    match s.tlbHit I.core I.crew.ctx va with
    | none => .held (I.startWalk s va)
    | some e =>
      match s.permits e q with
      | some c => bad s c
      | none =>
        let pa := e.addr va
        if e.host && !s.cxl then .word s (BitVec.ofNat 32 (leNat (s.homeRead true 0 pa 4))) else
        match (s.core I.core).icache.find? fun l => l.line == pa / 128 && l.host == e.host && l.slot == e.slot with
        | some l => .word (s.updCore I.core fun k => { k with icache := icachePut k.icache l }) (wordIn l.data pa)
        | none =>
          let owners := (s.mem.dirOf e.host (pa / 128)).owners
          if owners ≠ [] && !(I.warp.badPages.any fun b => b.line == some (e.host, pa / 128)) then
            .held (I.stall s (.owned e.host (pa / 128) owners))
          else if !e.host && s.mem.poison.contains (pa / 32) then bad (I.reportAt s cPOISON [(va, 4)]) cPOISON
          else if !e.host && s.mem.poison.any fun k => k / 4 == pa / 128 then
            .word s (BitVec.ofNat 32 (leNat (s.homeRead false e.slot pa 4)))
          else
            let l : ILine := ⟨pa / 128, e.host, e.slot, lineOf (s.homeRead e.host e.slot (pa / 128 * 128) 128)⟩
            let s := s.l2Core I.core e.host e.slot (pa / 128) false false
            .word (s.updCore I.core fun k => { k with icache := icachePut k.icache l }) (wordIn l.data pa)

/-- What the fetch of an instruction gives. -/
inductive FetchedInstr where
  | instr (s : State) (i : Instr)
  | held (s : State)
  | trap (s : State) (t : TrapInfo)

/-- What a list of bytes stands for where it is fetched: a word that is no instruction is ILLEGAL (R328). -/
def decoded (s : State) (bs : List Byte) : FetchedInstr :=
  match decodeBytes bs with
  | .ok (i, _) => .instr s i
  | .error _ => .trap s illegalT

/-- A word that begins a prefixed pair (R309). -/
def beginsPair (w : BitVec 32) : Bool := w.extractLsb' 26 6 == 0x3B#6 && w.extractLsb' 0 8 == 0#8

/-- The instruction at the issuer's PC: one word, or a prefix and the word after it, fetched as one instruction (R315). -/
def Iss.fetch (I : Iss) (s : State) : FetchedInstr :=
  match I.fetchWord s I.warp.run.pc.toNat with
  | .held s => .held s
  | .trap s t => .trap s t
  | .word s w =>
    if beginsPair w then
      match I.fetchWord s (I.warp.run.pc + 4).toNat with
      | .held s => .held s
      | .trap s t => .trap s t
      | .word s w2 => decoded s (bytesLE 4 w.toNat ++ bytesLE 4 w2.toNat)
    else decoded s (bytesLE 4 w.toNat)

/-! ### After an instruction -/

/-- Whether lanes of the issuer still stand before the instruction at a PC, waiting. -/
def Warp.standsAt (w : Warp) (pc : VAddr) (lanes : BitVec 32) : Bool :=
  (w.run :: w.div).any fun sd => sd.pc == pc && sd.lanes &&& lanes != 0 && sd.wait != .none

/-- The instructions with which a crew can end. -/
def endsCrew : Instr → Bool
  | .exit | .cwrTkill _ | .bar _ _ | .barTake _ _ | .bara _ _ => true
  | _ => false

/-- Whether the instruction that a warp issued has retired, by the state after it: its side does not stand before it, and no trap
was taken. (DEDUCED, log 17) -/
def Iss.retired (I : Iss) (i : Instr) (t : State) : Bool :=
  match t.crew I.cid with
  | none => endsCrew i
  | some c =>
    if I.crew.frames.length < c.frames.length then false else
    match c.warps.find I.wid with
    | none => true
    | some w => !w.standsAt I.warp.run.pc I.warp.run.lanes

/-- The end of the cycle in which an instruction issued: a retired instruction sends a pulse (R117), and bins issue (R164). -/
def Iss.finish (I : Iss) (i : Instr) (q : Nat) (t : State) : State :=
  let t := if I.retired i t then (t.updCrew I.cid fun c => c.skidded I.wid).pulse I.crew.ctx else t
  t.cycleEnd I.core q

end Sys2Proof.Machine
end

