-- ==== Sys2Proof/Machine/Progress.lean ====
section
/-! DEFINITION. One turn of an agent, and what goes on by itself when the agenda is empty and no warp of the focus can issue: work
that the machine has accepted and that needs nothing from outside. -/

namespace Sys2Proof.Machine

/-- A constructor that no word encodes. -/
def Instr.isEvent (i : Instr) : Bool := decide (encode i = [])

/-! ### Work that the machine has accepted -/

/-- Steps that complete work of the memory system: walks, scratchpad banks, write buffers. -/
def State.memoryWork (s : State) : List (Instr × Input) :=
  (if s.mem.walks = [] then [] else [(.pageWalkDone, ({} : Input))])
    ++ s.cores.flatMap (fun (k, c) => c.bankQ.map fun x => (.scratchpadAccessDone, { unit := k, sub := x.1 }))
    ++ s.cores.flatMap (fun (k, c) => c.wbuf.map fun x => (.writeBufferDrain, { unit := k, sub := x.bankGroup }))

/-- Steps of the matrix unit of a cluster. -/
def matrixWork (cl : Nat) : List (Instr × Input) :=
  [(.scaleFetchDone, { unit := cl }), (.matrixExecDone, { unit := cl }), (.matrixExecStart, { unit := cl }),
   (.sharedTileWriteDone, { unit := cl })]

/-- Steps of the engines of a cluster. -/
def State.engineWork (s : State) (cl : Nat) : List (Instr × Input) :=
  let c := s.cluster cl
  c.copyQ.flatMap (fun k => [(.copyItemComplete, { unit := k }), (.copyItemStart, { unit := k })])
    ++ c.grammarQ.map (fun g => (.grammarSlotPerform, { unit := cl, sub := g.slot }))
    ++ (if c.dollyQ = [] then [] else
        (.wakeApply, { unit := cl }) :: (List.range 4).flatMap fun n =>
          [(.passEnd, { unit := cl, sub := n }), (.blockPass, { unit := cl, sub := n }), (.passStart, { unit := bindKey cl n })])
    ++ (List.range 3).map (fun e => (.engineCommandStart, { unit := cl, sub := e }))

/-- Steps of the collectives between members of this package. -/
def State.collectiveWork (s : State) : List (Instr × Input) :=
  s.copies.flatMap fun (k, c) =>
    if c.op != .coll || c.done then [] else
    ((List.range c.members.length).filter fun p => (c.members.getD p (0, 0)).1 == s.fabric.pkgid).map
        (fun p => (Instr.collectiveItemDone, ({ unit := k, sub := p } : Input)))
      ++ [(.collectiveItemDone, { unit := k })]
      ++ (if c.members.all fun m => m.1 == s.fabric.pkgid then [(.collectiveCommit, { unit := k, flag := true })] else [])

/-- Take records of crews that have left their warps. -/
def State.spillWork (s : State) : List (Instr × Input) :=
  (s.crews.filter fun x => !x.2.runs).map fun x => (.takeSpillDone, { unit := x.1 })

/-- What the machine can complete by itself, in the order in which it is tried. -/
def State.work (s : State) : List (Instr × Input) :=
  s.memoryWork ++ s.clusters.flatMap (fun (cl, _) => matrixWork cl ++ s.engineWork cl) ++ s.collectiveWork ++ s.spillWork

/-- A step taken with its input, if it changes anything. -/
def State.tryStep (s : State) (x : Instr × Input) : Option State :=
  match exec x.1 { s with inp := x.2 } with
  | .next t => if t = { s with inp := t.inp, fresh := t.fresh } then none else some t
  | .fault _ => none
  | .refused _ => none

/-- The times after now at which something of a cluster's open-row bus changes (R233-R236). -/
def State.busTimes (s : State) (cl : Nat) : List Nat :=
  let st := stackOf cl
  let rows := [2 * st, 2 * st + 1].flatMap fun k => (s.cluster k).rows.flatMap fun r => [r.tAct + tFirst, r.tAct + tOpenMin, r.tAct + tOpenMax, r.tPre.getD 0]
  let banks := (List.range 384).flatMap fun b => [(s.bank st b).preEnd, (s.bank st b).refEnd]
  let stack := match (s.stack st).lastAct with | some t => [t + Config.activateGap * s.power.memFactor, t + 64000] | none => []
  ((s.cluster cl).xfers.map (·.tEnd) ++ rows ++ banks ++ stack).filter fun t => decide (s.now < t)

/-- Whether the control thread of a cluster waits on the bus or on matrix work. -/
def State.waitsOnBus (s : State) (cl : Nat) : Bool :=
  s.crews.any fun x => x.2.kind == .control && x.2.core == 320 + cl && x.2.warps.any fun w =>
    match w.2.run.wait with | .row => true | .matrix => true | .mwait _ => true | _ => false

/-- Time passes to the next change of the bus of a cluster whose control thread waits. -/
def State.busStep (s : State) : Option State :=
  (s.clusters.map (·.1)).findSome? fun cl =>
    if !s.waitsOnBus cl then none else
    match s.busTimes cl with
    | [] => none
    | t :: ts => some (((s.until (ts.foldl min t)).settleStack (stackOf cl)).wakeRows (stackOf cl))

/-- What goes on by itself: the first step of `work` that changes anything, or time on a bus. -/
def State.progress (s : State) : Option State :=
  match s.work.findSome? s.tryStep with
  | some t => some t
  | none => s.busStep

/-! ### One turn -/

/-- The issuer fetches its instruction and executes it (R159, R315). -/
def State.run (s : State) (q : Nat) : Host.Outcome State Fault Refusal :=
  match s.issuer with
  | none => .fault .noIssuer
  | some I =>
    match I.fetch s with
    | .held t => .next (t.cycleEnd I.core q)
    | .trap t x => .next ((t.takeTrap x).cycleEnd I.core q)
    | .instr t i =>
      match exec i t with
      | .next u => .next (I.finish i q u)
      | .fault r => .fault r
      | .refused r => .refused r

/-- A turn of a quadrant: its warp issues, or its cycle passes without an issue. -/
def State.turn (s : State) (core q : Nat) : Host.Outcome State Fault Refusal :=
  let (t, found) := s.pick core q
  if found then t.run q else .next (t.cycleEnd core q)

/-- A turn of a focus. -/
def State.turnOfFocus (s : State) (f : Focus) : Host.Outcome State Fault Refusal :=
  match f.place with
  | none => .next s
  | some (core, q) => s.turn core q

/-- With an empty agenda the focus issues; when it cannot, accepted work goes on. (DESIGN CHOICE, log 2) -/
def State.alone (s : State) : Host.Outcome State Fault Refusal :=
  match s.focus.place with
  | none => .next (s.progress.getD s)
  | some (core, q) =>
    let (t, found) := s.pick core q
    if found then t.run q
    else match s.progress with
      | some u => .next u
      | none => .next (t.cycleEnd core q)

/-- The place of a prefix-table command among those of one cycle (R307). -/
def ptRank : Instr → Option Nat
  | .ptPin _ _ => some 0
  | .ptUnpin _ _ => some 1
  | .ptLook _ _ => some 2
  | .ptIns _ _ _ => some 3
  | .ptEvict _ _ => some 4
  | _ => none

/-- The prefix-table command that a turn would issue: its context, and its key in the order of R307. -/
def State.ptTurn (s : State) (a : Act) : Option (Nat × Nat) :=
  match a with
  | .event _ _ => none
  | .issue f => f.place.bind fun p =>
    let t := (s.pick p.1 p.2).1
    if !(s.pick p.1 p.2).2 then none else
    t.issuer.bind fun I =>
      match I.fetch t with
      | .instr _ i => (ptRank i).map fun r => (I.crew.ctx, 64 * r + clusterOf p.1)
      | .held _ | .trap _ _ => none

/-- Commands of one context's units that reach the prefix table in the same cycle take effect in the order of R307: of the turns
that share a time, the one whose command goes first changes places with the head. -/
def State.ptFirst (s : State) (x : Item) (rest : List Item) : Item × List Item :=
  let same := rest.takeWhile fun y => y.dt = 0
  match (if same = [] then none else s.ptTurn x.act) with
  | none => (x, rest)
  | some (ctx, k) =>
    let keys := (List.range same.length).filterMap fun j =>
      match s.ptTurn (same.getD j x).act with
      | some (c, k') => if c == ctx && decide (k' < k) then some (k', j) else none
      | none => none
    match keys with
    | [] => (x, rest)
    | a :: as =>
      let j := (as.foldl (fun m b => if b.1 < m.1 then b else m) a).2
      let y := same.getD j x
      ({ x with act := y.act }, rest.set j { y with act := x.act })

/-- The head of the agenda happens. (DESIGN CHOICE, log 5) -/
def State.happen (s : State) (x : Item) (rest : List Item) : Host.Outcome State Fault Refusal :=
  let (x, rest) := { s with agenda := rest, now := s.now + x.dt }.ptFirst x rest
  let s : State := { s with agenda := rest, now := s.now + x.dt }
  match x.act with
  | .issue f => s.turnOfFocus f
  | .event i inp => if Instr.isEvent i then exec i { s with inp := inp } else .next s

end Sys2Proof.Machine
end

