-- ==== Sys2Proof/Machine/Load.lean ====
section
/-! DEFINITION. A state in which a given instruction is the next to run: what placing a program's first crew would leave, with the
instruction in memory. It stands for the load of a program and for its placement, which the host's commands do otherwise. -/

namespace Sys2Proof.Machine

/-- The address at which the instruction is put, virtual and physical: page 1 of device memory. -/
abbrev loadAt : Nat := 0x10000

/-- The crew that runs an instruction: a control thread for the instructions of a control core, cue runs for those of cue mode, and
otherwise a crew of one warp. -/
def loadKind : Option Instr → CrewKind
  | none => .vector
  | some i => if controlOnly i then .control else if cueOnly i then .cue else .vector

/-- The core of that crew. -/
def loadCore (k : CrewKind) : Nat := match k with | .control => 320 | _ => 0

/-- Its warp: 32 threads, or the control thread, at the first instruction. -/
def loadWarp (k : CrewKind) : Warp :=
  let n := match k with | .control => 1 | _ => 32
  { run := ⟨BitVec.ofNat 57 loadAt, BitVec.ofNat 32 (2 ^ n - 1), 0, .none⟩,
    lanes := (List.range 32).map fun i => if i < n then some i else none }

/-- The translation of its page. -/
def loadTlb (ctx : Nat) : TlbEnt := ⟨ctx, loadAt, 16, loadAt, true, true, true, 0, false, 0, 0⟩

/-- The bytes put in memory, the translation, and what would keep them from being fetched taken away. -/
def State.loadBytesAt (s : State) (core : Nat) (bs : List Byte) : State :=
  let s := s.homePut false 0 loadAt bs
  let s := s.updMem fun m =>
    { m with poison := m.poison.filter fun k => k / 4 != loadAt / 128,
             dir := if (m.dirOf false (loadAt / 128)).owners = [] then m.dir else m.dir.del (loadAt / 128) }
  s.updCore core fun k =>
    { k with tlb := tlbPut 64 k.tlb (loadTlb 0), icache := k.icache.filter fun l => l.line != loadAt / 128 }

/-- The crew placed, resident and privileged, as the next to issue on its core. -/
def State.loadCrew (s : State) (k : CrewKind) : State :=
  let core := loadCore k
  let cid := s.nextCrew
  let c : Crew := { kind := k, ctx := 0, slate := s.nextSlate, core := core, n := 32, warps := [(0, loadWarp k)], nextWid := 1,
                    nregs := 512, spadSize := 65536, header := BitVec.ofNat 57 loadAt }
  let s := s.updCtx 0 fun x => { x with resident := true, priv := true, cores := insertNat x.cores 0 }
  let s : State := { s with
    crews := s.crews.set cid c, nextCrew := cid + 1,
    slates := s.slates.set s.nextSlate { state := 3, ncrews := 1, placed := 1, nregs := 512, spad := 65536 },
    nextSlate := s.nextSlate + 1 }
  let s := s.updCore core fun x => { x with last := if cid = 0 then x.last.del 0 else x.last.set 0 (cid - 1, 2 ^ 32) }
  match k with
  | .control => s.updCluster 0 fun x => { x with owner := some 0 }
  | .cue =>
    let b : Binding := { ctx := 0, dbase := 0, cbase := 0, sbase := 0, ubase := 0, nelem := 32, esize := 0, stw := false,
                         ncore := 1, cue := loadAt, cparm := 0 }
    { s with bindings := s.bindings.set 0 b }
  | .vector => s

/-- The clocks run. -/
def State.loadPower (s : State) : State :=
  let s : State := if s.power.tripped then { s with power := { s.power with tripped := false } } else s
  if (s.pw 0).w = 0 then s else s.updPw 0 fun p => { p with w := 0 }

/-- The state with an instruction of `nbits` bits `w`, and zeros above them, as the next to run. (DESIGN CHOICE, log 3) -/
def State.loadWord (s : State) (nbits w : Nat) : State :=
  let k := loadKind (decodeTableWord nbits w)
  let s := (s.loadPower.loadCrew k).loadBytesAt (loadCore k) (bytesLE 8 (w % 2 ^ nbits))
  { s with agenda := [], focus := match k with | .control => .control 0 | _ => .quad 0 0 }

end Sys2Proof.Machine
end

