-- ==== Sys2Proof/Machine/Step.lean ====
section
/-! DEFINITION. One step of the machine, and the state in which an instruction is the next to run. -/

namespace Sys2Proof.Machine

/-- One step: the head of the agenda happens; with an empty agenda the focus issues. -/
def step (s : State) : Host.Outcome State Fault Refusal :=
  match s.agenda with
  | [] => s.alone
  | x :: rest => s.happen x rest

/-- The state with an instruction of `nbits` bits `w` where the next step fetches. -/
def State.withFetchWord (s : State) (nbits w : Nat) : State := s.loadWord nbits w

end Sys2Proof.Machine
end

