-- ==== Sys2Proof/Safety.lean ====
section
/-! DEFINITION. The terms in which claims are stated: when an instruction runs its own effect, and what the effects that
many instructions share leave, the frame included. -/

namespace Sys2Proof.Machine

/-! ### When an instruction runs -/

/-- Nothing stops an instruction before its own effect: the state names an issuer, the instruction is not ILLEGAL where it
is issued (R328), and no register that it would read is poisoned in a lane of its effective mask (R239). -/
structure Runs (i : Instr) (s : State) (I : Iss) : Prop where
  issuer : s.issuer = some I
  legal : illegal i s I = false
  clean : poisonedLanes i I = 0

/-! ### Effects on the issuer alone -/

/-- A warp that differs from another in its vector registers at most, poison of what is written included. -/
def Warp.sameButRegs (w v : Warp) : Prop := ∃ r q, w = { v with regs := r, poison := q }

/-- A value of `cnt` registers written to the registers from `d` on, in the effective mask of prefix `p`, and nothing else of the
warp changed (R310, R314, R339): each lane of the effective mask holds the value; a thread's lane outside it keeps its word,
or holds 0 where the prefix asks for zero and the lane is active; a control thread has one lane, and a write with an empty
mask leaves its registers alone (R169); register 0 takes no write. -/
structure Warp.Written (v w : Warp) (ctl : Bool) (p : Option Pfx) (d : BitVec 7) (cnt : Nat) (val : Nat → Nat) : Prop where
  same : w.sameButRegs v
  value : d ≠ 0 → ∀ l, l < 32 → (v.eff p).getLsbD l = true → (ctl = true → l = 0) →
    w.laneNat d l cnt = val l % 2 ^ (32 * cnt)
  outside : ctl = false → ∀ l, l < 32 → (v.eff p).getLsbD l = false → v.threads.getLsbD l = true → ∀ k, k < cnt →
    w.lane (regPlus d k) l = if zeroing p && v.m0.getLsbD l then 0 else v.lane (regPlus d k) l
  suppressed : ctl = true → (v.eff p).getLsbD 0 = false → w.regs = v.regs
  others : ∀ r, (∀ k, k < cnt → d ≠ 0 → r ≠ physReg v.run.wbase d + k) →
    w.regs.get (.uniform 0) r = v.regs.get (.uniform 0) r

/-- The state after an instruction whose only effects are those on the issuing warp, on its crew's flags, and the step to the
next instruction: no other crew, no memory and no other register of the machine changes. -/
def Iss.retiredWith (I : Iss) (s : State) (w : Warp) (fl : Flags) (size : Nat) : State :=
  ((({ I with warp := w } : Iss).addFlags fl).retire size).put s

/-- An instruction wrote a register result and nothing else. -/
def WritesReg (I : Iss) (s t : State) (p : Option Pfx) (d : BitVec 7) (cnt : Nat) (val : Nat → Nat) (fl : Flags) : Prop :=
  ∃ w : Warp, I.warp.Written w I.ctl p d cnt val ∧ t = I.retiredWith s w fl (sizeP p)

/-- An instruction wrote a mask result and nothing else (R314): a lane of the effective mask holds the bit; another lane keeps
its bit, or is cleared where the prefix asks for zero and the lane is active; `m0` takes no write, and a control thread's write with
an empty mask is suppressed (R169). -/
def WritesMask (I : Iss) (s t : State) (p : Option Pfx) (k : Nat) (val : Nat → Bool) (fl : Flags) : Prop :=
  ∃ w : Warp, t = I.retiredWith s w fl (sizeP p) ∧ w = { I.warp with masks := w.masks }
    ∧ (∀ j, j ≠ k ∨ k = 0 → w.masks.get 0 j = I.warp.masks.get 0 j)
    ∧ (I.ctl = true → (I.warp.eff p).getLsbD 0 = false → w.masks = I.warp.masks)
    ∧ (k ≠ 0 → (I.ctl = true → (I.warp.eff p).getLsbD 0 = true) → ∀ l, l < 32 → (w.masks.get 0 k).getLsbD l =
        if (I.warp.eff p).getLsbD l then val l
        else (I.warp.masks.get 0 k).getLsbD l && !(zeroing p && I.warp.m0.getLsbD l))

/-! ### Results of register instructions -/

/-- Element `j` of width `w` of a value (R259). -/
def elemOf (w x j : Nat) : BitVec w := BitVec.ofNat w (x >>> (w * j))

/-- An instruction that computes each element of its result from the matching elements of two sources: its prefix, its
registers, the element width, the width of what it acts on, and the element function. -/
structure ElemForm where
  pfx : Option Pfx
  d : BitVec 7
  a : BitVec 7
  b : BitVec 7
  w : Nat
  tot : Nat
  f : (w : Nat) → BitVec w → BitVec w → BitVec w

/-- The element-wise integer instructions and what they compute (R361, R363). -/
def intForm : Instr → Option ElemForm
  | .iadd p d a b t => some ⟨p, d, a, b, intW t.toNat, intTot t.toNat, fun _ x y => x + y⟩
  | .isub p d a b t => some ⟨p, d, a, b, intW t.toNat, intTot t.toNat, fun _ x y => x - y⟩
  | .imul p d a b t => some ⟨p, d, a, b, intW t.toNat, intTot t.toNat, fun _ x y => x * y⟩
  | .imulh p d a b t => some ⟨p, d, a, b, intW t.toNat, intTot t.toNat,
      fun w x y => BitVec.ofInt w (x.toInt * y.toInt / ((2 ^ w : Nat) : Int))⟩
  | .imulhn p d a b t => some ⟨p, d, a, b, intW t.toNat, intTot t.toNat, fun w x y => BitVec.ofNat w (x.toNat * y.toNat / 2 ^ w)⟩
  | .iabs p d a t => some ⟨p, d, a, a, intW t.toNat, intTot t.toNat, fun w x _ => BitVec.ofNat w x.toInt.natAbs⟩
  | .imin p d a b t => some ⟨p, d, a, b, intW t.toNat, intTot t.toNat, fun _ x y => if y.toInt < x.toInt then y else x⟩
  | .iminn p d a b t => some ⟨p, d, a, b, intW t.toNat, intTot t.toNat, fun _ x y => if y.toNat < x.toNat then y else x⟩
  | .imax p d a b t => some ⟨p, d, a, b, intW t.toNat, intTot t.toNat, fun _ x y => if x.toInt < y.toInt then y else x⟩
  | .imaxn p d a b t => some ⟨p, d, a, b, intW t.toNat, intTot t.toNat, fun _ x y => if x.toNat < y.toNat then y else x⟩
  | .shl p d a b t => some ⟨p, d, a, b, intW t.toNat, intTot t.toNat, fun _ x y => x <<< y.toNat⟩
  | .shr p d a b t => some ⟨p, d, a, b, intW t.toNat, intTot t.toNat, fun _ x y => x >>> y.toNat⟩
  | .sar p d a b t => some ⟨p, d, a, b, intW t.toNat, intTot t.toNat, fun _ x y => x.sshiftRight y.toNat⟩
  | .rol p d a b t => some ⟨p, d, a, b, intW t.toNat, intTot t.toNat, fun _ x y => x.rotateLeft y.toNat⟩
  | _ => none

/-- The element-wise instructions of raw codes (R361): `MOV`, the counts and the bit reversal use their first source alone. -/
def rawForm : Instr → Option ElemForm
  | .and p d a b t => some ⟨p, d, a, b, rawW t.toNat, rawTot t.toNat, fun _ x y => x &&& y⟩
  | .or p d a b t => some ⟨p, d, a, b, rawW t.toNat, rawTot t.toNat, fun _ x y => x ||| y⟩
  | .xor p d a b t => some ⟨p, d, a, b, rawW t.toNat, rawTot t.toNat, fun _ x y => x ^^^ y⟩
  | .andn p d a b t => some ⟨p, d, a, b, rawW t.toNat, rawTot t.toNat, fun _ x y => x &&& ~~~y⟩
  | .mov p d a t => some ⟨p, d, a, a, rawW t.toNat, rawTot t.toNat, fun _ x _ => x⟩
  | .popc p d a t => some ⟨p, d, a, a, rawW t.toNat, rawTot t.toNat,
      fun w x _ => BitVec.ofNat w ((List.range w).countP fun i => x.getLsbD i)⟩
  | .clz p d a t => some ⟨p, d, a, a, rawW t.toNat, rawTot t.toNat,
      fun w x _ => BitVec.ofNat w ((List.range w).countP fun i => decide (x.toNat < 2 ^ i))⟩
  | .ctz p d a t => some ⟨p, d, a, a, rawW t.toNat, rawTot t.toNat,
      fun w x _ => BitVec.ofNat w ((List.range w).countP fun i => decide (x.toNat % 2 ^ (i + 1) = 0))⟩
  | .brev p d a t => some ⟨p, d, a, a, rawW t.toNat, rawTot t.toNat, fun _ x _ => x.reverse⟩
  | _ => none

/-- What an element-wise instruction leaves: a register result whose every element is the element function of the sources'. -/
def ElemForm.Leaves (o : ElemForm) (I : Iss) (s t : State) : Prop :=
  ∃ val : Nat → Nat, WritesReg I s t o.pfx o.d (o.tot / 32) val 0 ∧
    ∀ l j, j < o.tot / o.w → elemOf o.w (val l) j =
      o.f o.w (elemOf o.w (I.warp.laneNat o.a l (o.tot / 32)) j) (elemOf o.w (I.warp.laneNat o.b l (o.tot / 32)) j)

/-- An instruction that writes one value in each lane: its prefix, destination, registers, the value of a lane and the flags it
sets. -/
structure LaneForm where
  pfx : Option Pfx
  d : BitVec 7
  cnt : Nat
  val : Iss → Nat → Nat
  flags : Iss → Flags

/-- What it leaves. -/
def LaneForm.Leaves (o : LaneForm) (I : Iss) (s t : State) : Prop := WritesReg I s t o.pfx o.d o.cnt (o.val I) (o.flags I)

/-- The integer instructions with a value of their own (R361-R366). -/
def wideForm : Instr → Option LaneForm
  | .imad p d a b t => some ⟨p, d, intRegs t, fun I l =>
      let n := intRegs t
      let c := thirdReg p d
      packElems (intW t.toNat) ((List.range (intTot t.toNat / intW t.toNat)).map fun j =>
        (elemOf (intW t.toNat) (I.warp.laneNat a l n) j * elemOf (intW t.toNat) (I.warp.laneNat b l n) j
          + elemOf (intW t.toNat) (I.warp.laneNat c l n) j).toNat), fun _ => 0⟩
  | .bfx p d a b t =>
    let n := if t = 1 then 2 else 1
    some ⟨p, d, n, fun I l =>
      let q := I.warp.lane b l
      let len := (q.extractLsb' 8 8).toNat
      let f := (I.warp.laneNat a l n >>> (q.extractLsb' 0 8).toNat) % 2 ^ len
      ((BitVec.ofNat len f).signExtend (32 * n)).toNat, fun _ => 0⟩
  | .bfxs p d a b t =>
    let n := if t = 1 then 2 else 1
    some ⟨p, d, n, fun I l =>
      let q := I.warp.lane b l
      (I.warp.laneNat a l n >>> (q.extractLsb' 0 8).toNat) % 2 ^ (q.extractLsb' 8 8).toNat, fun _ => 0⟩
  | .bfi p d a b t =>
    let n := intRegs t
    some ⟨p, d, n, fun I l =>
      let q := I.warp.lane b l
      let m : BitVec (32 * n) := BitVec.ofNat _ ((2 ^ (q.extractLsb' 8 8).toNat - 1) <<< (q.extractLsb' 0 8).toNat)
      let x : BitVec (32 * n) := BitVec.ofNat _ (I.warp.laneNat a l n)
      let old : BitVec (32 * n) := BitVec.ofNat _ (I.warp.laneNat d l n)
      ((old &&& ~~~m) ||| ((x <<< (q.extractLsb' 0 8).toNat) &&& m)).toNat, fun _ => 0⟩
  | .lea p d a b k => some ⟨p, d, 2, fun I l =>
      (BitVec.ofNat 64 (I.warp.laneNat a l 2) + (I.warp.lane b l).signExtend 64 <<< k.toNat).toNat, fun _ => 0⟩
  | .sel p d a b w k =>
    let n := if w = 1 then 2 else 1
    some ⟨p, d, n, fun I l => I.warp.laneNat (if (I.warp.mask k.toNat).getLsbD l then a else b) l n, fun _ => 0⟩
  | .iaddi p d a i => some ⟨p, d, 1, fun I l => (I.warp.lane a l + i.signExtend 32).toNat, fun _ => 0⟩
  | .movi p d i => some ⟨p, d, 1, fun _ _ => (i.signExtend 32).toNat, fun _ => 0⟩
  | .movh p d i => some ⟨p, d, 1, fun I l => (i ++ (I.warp.lane d l).extractLsb' 0 13).toNat, fun _ => 0⟩
  | _ => none

/-- Quotient and remainder of an element with the edge cases of R260: a zero divisor gives all ones and the dividend, and the most
negative value divided by minus one wraps. -/
def quotOf (signed : Bool) (w : Nat) (x y : BitVec w) : BitVec w :=
  if y = 0 then BitVec.allOnes w else if signed then BitVec.ofInt w (x.toInt.tdiv y.toInt) else BitVec.ofNat w (x.toNat / y.toNat)
def remOf (signed : Bool) (w : Nat) (x y : BitVec w) : BitVec w :=
  if y = 0 then x else if signed then BitVec.ofInt w (x.toInt.tmod y.toInt) else BitVec.ofNat w (x.toNat % y.toNat)

/-- The divisions: element form, and whether the type is signed. -/
def divForm : Instr → Option (ElemForm × Bool)
  | .idiv p d a b t => some (⟨p, d, a, b, intW t.toNat, intTot t.toNat, quotOf true⟩, true)
  | .idivn p d a b t => some (⟨p, d, a, b, intW t.toNat, intTot t.toNat, quotOf false⟩, false)
  | .irem p d a b t => some (⟨p, d, a, b, intW t.toNat, intTot t.toNat, remOf true⟩, true)
  | .iremn p d a b t => some (⟨p, d, a, b, intW t.toNat, intTot t.toNat, remOf false⟩, false)
  | _ => none

/-- A lane with a zero divisor, and one that overflows (R187). -/
def ElemForm.DivZero (o : ElemForm) (I : Iss) (l : Nat) : Prop :=
  ∃ j, j < o.tot / o.w ∧ elemOf o.w (I.warp.laneNat o.b l (o.tot / 32)) j = 0
def ElemForm.DivOverflow (o : ElemForm) (I : Iss) (l : Nat) : Prop :=
  ∃ j, j < o.tot / o.w ∧ elemOf o.w (I.warp.laneNat o.a l (o.tot / 32)) j = BitVec.intMin o.w
    ∧ elemOf o.w (I.warp.laneNat o.b l (o.tot / 32)) j = BitVec.allOnes o.w

/-! ### Floating point, conversions and cross-lane results -/

/-- A form that gives each lane one word and flags, the flags of the effective lanes ORed (R283). -/
def flagForm (p : Option Pfx) (d : BitVec 7) (cnt : Nat) (g : Iss → Nat → Nat × Flags) : LaneForm :=
  ⟨p, d, cnt, fun I l => (g I l).1, fun I => orFlags (I.warp.eff p) fun l => (g I l).2⟩

/-- A form of two floating sources under the rounding and saturation modes in force (R279, R370). -/
def float2 (p : Option Pfx) (d a b : BitVec 7) (t : BitVec 3) (f : Fmt → RMode → SatMode → Nat → Nat → Nat × Flags) : LaneForm :=
  flagForm p d 1 fun I l =>
    f (fltFmt t.toNat) (I.rmode p t.toNat) (I.smode p t.toNat) (I.flt t.toNat a l) (I.flt t.toNat b l)

/-- A form of one floating source. -/
def float1 (p : Option Pfx) (d a : BitVec 7) (t : BitVec 3) (f : Fmt → RMode → SatMode → Nat → Nat × Flags) : LaneForm :=
  flagForm p d 1 fun I l => f (fltFmt t.toNat) (I.rmode p t.toNat) (I.smode p t.toNat) (I.flt t.toNat a l)

/-- A form of two packed pairs: each half as one FP16 or BF16 value (R384). -/
def float2x2 (p : Option Pfx) (d a b : BitVec 7) (t : BitVec 3) (f : Fmt → RMode → SatMode → Nat → Nat → Nat × Flags) : LaneForm :=
  flagForm p d 1 fun I l =>
    let g (i : Nat) := f (fltFmt t.toNat) (I.rmode p t.toNat) (I.smode p t.toNat)
      ((I.warp.lane a l).toNat >>> (16 * i) % 65536) ((I.warp.lane b l).toNat >>> (16 * i) % 65536)
    ((g 0).1 % 65536 + 65536 * ((g 1).1 % 65536), (g 0).2 ||| (g 1).2)

/-- The arithmetic and conversion instructions of majors 0x18-0x23 with a register result in a format (R368-R391). -/
def floatForm : Instr → Option LaneForm
  | .fadd p d a b t => some (float2 p d a b t faddC)
  | .fsub p d a b t => some (float2 p d a b t fsubC)
  | .fmul p d a b t => some (float2 p d a b t fmulC)
  | .ffma p d a b t => some (flagForm p d 1 fun I l =>
      ffmaC (fltFmt t.toNat) (I.rmode p t.toNat) (I.smode p t.toNat) (I.flt t.toNat a l) (I.flt t.toNat b l)
        (I.flt t.toNat (thirdReg p d) l))
  | .fmin p d a b t => some (float2 p d a b t fun f _ _ => fminmaxC f false)
  | .fmax p d a b t => some (float2 p d a b t fun f _ _ => fminmaxC f true)
  | .fdiv p d a b t => some (float2 p d a b t fdivC)
  | .fcpys p d a b t => some (float2 p d a b t fun f _ _ x y => (f.signed (f.sign y) (f.mag x), 0))
  | .fabs p d a t => some (float1 p d a t fun f _ _ x => (f.mag x, 0))
  | .fneg p d a t => some (float1 p d a t fun f _ _ x => (f.signed (!f.sign x) (f.mag x), 0))
  | .frnd p d a t => some (float1 p d a t fun f rm _ => frndC f rm)
  | .ffrac p d a t => some (float1 p d a t fun f _ _ => ffracC f)
  | .fsqrt p d a t => some (float1 p d a t fsqrtC)
  | .frcp p d a t => some (float1 p d a t frcpC)
  | .frsq p d a t => some (float1 p d a t frsqC)
  | .fclass p d a t => some (float1 p d a t fun f _ _ x => (fclassC f x, 0))
  | .fexp2 p d a t => some (float1 p d a t fun _ _ sm => exp2C t.toNat sm)
  | .flog2 p d a t => some (float1 p d a t fun _ _ sm => log2C t.toNat sm)
  | .fsin p d a t => some (float1 p d a t fun _ _ sm => sinC t.toNat sm)
  | .fcos p d a t => some (float1 p d a t fun _ _ sm => cosC t.toNat sm)
  | .ftanh p d a t => some (float1 p d a t fun _ _ sm => oddC .tanh t.toNat sm)
  | .ferf p d a t => some (float1 p d a t fun _ _ sm => oddC .erf t.toNat sm)
  | .fsigm p d a t => some (float1 p d a t fun _ _ sm => sigmC t.toNat sm)
  | .hadd2 p d a b t => some (float2x2 p d a b t faddC)
  | .hmul2 p d a b t => some (float2x2 p d a b t fmulC)
  | .hfma2 p d a b t => some (flagForm p d 1 fun I l =>
      let g (i : Nat) := ffmaC (fltFmt t.toNat) (I.rmode p t.toNat) (I.smode p t.toNat)
        ((I.warp.lane a l).toNat >>> (16 * i) % 65536) ((I.warp.lane b l).toNat >>> (16 * i) % 65536)
        ((I.warp.lane (thirdReg p d) l).toNat >>> (16 * i) % 65536)
      ((g 0).1 % 65536 + 65536 * ((g 1).1 % 65536), (g 0).2 ||| (g 1).2))
  | .hmin2 p d a b t => some (float2x2 p d a b t fun f _ _ => fminmaxC f false)
  | .hmax2 p d a b t => some (float2x2 p d a b t fun f _ _ => fminmaxC f true)
  | .rng p d a b t => some (flagForm p d 1 fun I l =>
      let y := cbg (I.warp.lane a l) (I.warp.lane (regPlus a 1) l) (I.warp.lane b l) (I.warp.lane (regPlus b 1) l)
      (if t = 0 then cbgUniform y else y.toNat, 0))
  | .cvtpk p d a b t => some (flagForm p d 1 fun I l =>
      let g (n : BitVec 7) := (fltFmt t.toNat).convert (I.rmode p t.toNat) (I.smode p t.toNat) (fp32.value (I.warp.lane n l).toNat)
      ((g a).1 % 65536 + 65536 * ((g b).1 % 65536), (g a).2 ||| (g b).2))
  | .cvtun p d a t => some (flagForm p d 2 fun I l =>
      let g (i : Nat) := fp32.widen ((fltFmt t.toNat).value ((I.warp.lane a l).toNat >>> (16 * i) % 65536))
      ((g 0).1 + 2 ^ 32 * (g 1).1, (g 0).2 ||| (g 1).2))
  | .cvtif p d a f i => some (flagForm p d 1 fun I l =>
      (fltFmt f.toNat).convert (I.rmode p f.toNat) (I.smode p f.toNat)
        (intV (intOf (intS i.toNat) (intW i.toNat) (I.warp.laneNat a l (intRegs i)))))
  | .cvtfi p d a f i => some (flagForm p d (intRegs i) fun I l =>
      let r := toIntC (intS i.toNat) (intW i.toNat) (I.rmode p 0) (I.imode p) ((fltFmt f.toNat).value (I.flt f.toNat a l))
      (if intW i.toNat < 32 then (BitVec.ofInt 32 (intOf (intS i.toNat) (intW i.toNat) r.1)).toNat else r.1, r.2))
  | .cvtw p d a x sc e => some (flagForm p d 1 fun I l =>
      (cvf x.toNat).widen ((cvf sc.toNat).value (cvElem sc.toNat e.toNat (I.warp.lane a l).toNat)))
  | .cvtn p d a x sc e => some (flagForm p d 1 fun I l =>
      let q := (cvf x.toNat).convert (I.rmode p x.toNat) (I.smode p x.toNat) ((cvf sc.toNat).value (I.flt sc.toNat a l))
      (cvInsert x.toNat e.toNat (I.warp.lane d l).toNat q.1, q.2))
  | _ => none

/-- The participating lanes of a combination up to a lane, ascending. -/
def lanesUpTo (e : BitVec 32) (l : Nat) : List Nat := (laneList e).filter fun i => decide (i ≤ l)

/-- The combination of `WRED` and `WSCAN` over lanes (R397): one lane after another, ascending. -/
def Iss.combined (I : Iss) (p : Option Pfx) (o t cnt : Nat) (a : BitVec 7) : List Nat → Nat
  | [] => 0
  | l :: ls => ls.foldl (fun u i => (I.combine p o t u (I.warp.laneNat a i cnt)).1) (I.warp.laneNat a l cnt)

/-- The flags of the combination: of each lane but the first, with what stands before it. -/
def Iss.combinedFlags (I : Iss) (p : Option Pfx) (o t cnt : Nat) (a : BitVec 7) : Flags :=
  (laneList (I.warp.eff p)).foldl (fun fl l =>
    match lanesUpTo (I.warp.eff p) (l - 1) with
    | [] => fl
    | x :: xs => if l = 0 then fl else fl ||| (I.combine p o t (I.combined p o t cnt a (x :: xs)) (I.warp.laneNat a l cnt)).2) 0

/-- The instructions that give the warp one word, or move words between lanes (R349, R352, R393-R397). -/
def warpForm : Instr → Option LaneForm
  | .mget p d j => some ⟨p, d, 1, fun I _ => (I.warp.mask j.toNat).toNat, fun _ => 0⟩
  | .mpop p d j => some ⟨p, d, 1, fun I _ =>
      (List.range 32).countP fun l => (I.warp.eff p).getLsbD l && (I.warp.mask j.toNat).getLsbD l, fun _ => 0⟩
  | .mffs p d j => some ⟨p, d, 1, fun I _ =>
      ((List.range 32).find? fun l => (I.warp.eff p).getLsbD l && (I.warp.mask j.toNat).getLsbD l).getD 32, fun _ => 0⟩
  | .shfl p d a b m w => some ⟨p, d, if w = 1 then 2 else 1, fun I l =>
      let v := (I.warp.lane b l).toNat
      let j : Int := match m.toNat with | 0 => v % 32 | 1 => (l : Int) - v | 2 => (l : Int) + v | _ => ((l ^^^ (v % 32) : Nat) : Int)
      I.warp.laneNat a (if 0 ≤ j ∧ j < 32 ∧ (I.warp.eff p).getLsbD j.toNat = true then j.toNat else l) (if w = 1 then 2 else 1),
      fun _ => 0⟩
  | .wred p d a o t => some ⟨p, d, if t = 2 ∨ t = 3 then 2 else 1, fun I _ =>
      I.combined p o.toNat t.toNat (if t = 2 ∨ t = 3 then 2 else 1) a (laneList (I.warp.eff p)),
      fun I => I.combinedFlags p o.toNat t.toNat (if t = 2 ∨ t = 3 then 2 else 1) a⟩
  | .wscan p d a o t => some ⟨p, d, if t = 2 ∨ t = 3 then 2 else 1, fun I l =>
      I.combined p o.toNat t.toNat (if t = 2 ∨ t = 3 then 2 else 1) a (lanesUpTo (I.warp.eff p) l),
      fun I => I.combinedFlags p o.toNat t.toNat (if t = 2 ∨ t = 3 then 2 else 1) a⟩
  | .winq d => some ⟨none, d, 1, fun I _ => I.warp.run.wbase.toNat + 32 * (I.crew.nregs / 16), fun _ => 0⟩
  | .tagq d a => some ⟨none, d, 1, fun I _ => match I.warp.reg a with | .uniform _ => 0 | .affine _ _ => 1 | .general _ => 2, fun _ => 0⟩
  | _ => none

/-- The votes: the result (R396). -/
def voteForm : Instr → Option (Option Pfx × BitVec 7 × (Iss → Prop))
  | .voteAny p d j => some (p, d, fun I => ∃ l, l < 32 ∧ (I.warp.eff p).getLsbD l = true ∧ (I.warp.mask j.toNat).getLsbD l = true)
  | .voteAll p d j => some (p, d, fun I => ∀ l, l < 32 → (I.warp.eff p).getLsbD l = true → (I.warp.mask j.toNat).getLsbD l = true)
  | .voteUni p d a => some (p, d, fun I => ∀ l m, l < 32 → m < 32 → (I.warp.eff p).getLsbD l = true →
      (I.warp.eff p).getLsbD m = true → I.warp.lane a l = I.warp.lane a m)
  | _ => none

/-- An instruction that writes mask bits: its prefix, mask register, the bit of a lane and the flags it sets. -/
structure MaskForm where
  pfx : Option Pfx
  k : BitVec 4
  val : Iss → Nat → Bool
  flags : Iss → Flags

/-- The mask instructions and comparisons (R353, R365, R379, R392, R393). -/
def maskForm : Instr → Option MaskForm
  | .mand p k j i => some ⟨p, k, fun I l => (I.warp.mask j.toNat).getLsbD l && (I.warp.mask i.toNat).getLsbD l, fun _ => 0⟩
  | .mor p k j i => some ⟨p, k, fun I l => (I.warp.mask j.toNat).getLsbD l || (I.warp.mask i.toNat).getLsbD l, fun _ => 0⟩
  | .mxor p k j i => some ⟨p, k, fun I l => (I.warp.mask j.toNat).getLsbD l != (I.warp.mask i.toNat).getLsbD l, fun _ => 0⟩
  | .mandn p k j i => some ⟨p, k, fun I l => (I.warp.mask j.toNat).getLsbD l && !(I.warp.mask i.toNat).getLsbD l, fun _ => 0⟩
  | .mnot p k j => some ⟨p, k, fun I l => !(I.warp.mask j.toNat).getLsbD l, fun _ => 0⟩
  | .mmov p k j => some ⟨p, k, fun I l => (I.warp.mask j.toNat).getLsbD l, fun _ => 0⟩
  | .mset p k a => some ⟨p, k, fun I l => (I.warp.lane a (lowest I.warp.m0)).getLsbD l, fun _ => 0⟩
  | .elect k => some ⟨none, k, fun I l => I.warp.m0.getLsbD l && (List.range l).all fun j => !I.warp.m0.getLsbD j, fun _ => 0⟩
  | .icmp p k a b c t => some ⟨p, k, fun I l =>
      let w := intW t.toNat
      let x := elemOf w (I.warp.laneNat a l (intRegs t)) 0
      let y := elemOf w (I.warp.laneNat b l (intRegs t)) 0
      match c.toNat with
      | 0 => x == y
      | 1 => x != y
      | 2 => if t.toNat < 4 then x.slt y else x.ult y
      | _ => if t.toNat < 4 then x.sle y else x.ule y, fun _ => 0⟩
  | .fcmp p k a b c t => some ⟨p, k, fun I l => (fcmpC (fltFmt t.toNat) c.toNat (I.flt t.toNat a l) (I.flt t.toNat b l)).1,
      fun I => orFlags (I.warp.eff p) fun l => (fcmpC (fltFmt t.toNat) c.toNat (I.flt t.toNat a l) (I.flt t.toNat b l)).2⟩
  | _ => none

/-! ### Control flow -/

/-- What a branch looks at (R344): its offset in words and the lanes that take it. -/
structure BranchForm where
  off : Int
  taken : Iss → BitVec 32

def branchForm : Instr → Option BranchForm
  | .bra o => some ⟨o.toInt, fun I => I.warp.m0⟩
  | .call o => some ⟨o.toInt, fun I => I.warp.m0⟩
  | .brl _ o => some ⟨o.toInt, fun I => I.warp.m0⟩
  | .brx m o => some ⟨o.toInt, fun I => I.warp.m0 &&& I.warp.mask m.toNat⟩
  | .brxAny m o => some ⟨o.toInt, fun I => if I.warp.m0 &&& I.warp.mask m.toNat = 0 then 0 else I.warp.m0⟩
  | .brxAll m o => some ⟨o.toInt, fun I => if I.warp.m0 &&& ~~~(I.warp.mask m.toNat) = 0 then I.warp.m0 else 0⟩
  | .brn m o => some ⟨o.toInt, fun I => I.warp.m0 &&& ~~~(I.warp.mask m.toNat)⟩
  | .brnAny m o => some ⟨o.toInt, fun I => if I.warp.m0 &&& ~~~(I.warp.mask m.toNat) = 0 then 0 else I.warp.m0⟩
  | .brnAll m o => some ⟨o.toInt, fun I => if I.warp.m0 &&& I.warp.mask m.toNat = 0 then I.warp.m0 else 0⟩
  | .loop d o => some ⟨o.toInt, fun I => I.warp.m0 &&& maskOf fun l => I.warp.lane d l - 1 != 0⟩
  | _ => none

/-- The target of an offset: the branch address plus four bytes a word (R316). -/
def Iss.targetOf (I : Iss) (off : Int) : VAddr := I.warp.run.pc + BitVec.ofInt 57 (4 * off)

/-- The warp after a branch or jump has written its registers: the pair of a return address holds the next word's address in every
lane of `m0`, `LOOP` has lowered its count, and nothing else changed. -/
def Linked (i : Instr) (v w : Warp) (ctl : Bool) : Prop :=
  match i with
  | .call _ => v.Written w ctl none 126 2 fun _ => (v.run.pc + 4).toNat
  | .calli _ => v.Written w ctl none 126 2 fun _ => (v.run.pc + 4).toNat
  | .brl d _ => v.Written w ctl none d 2 fun _ => (v.run.pc + 4).toNat
  | .loop d _ => v.Written w ctl none d 1 fun l => (v.lane d l - 1).toNat
  | _ => w = v

/-- The warp of a retired instruction: its side stands at `pc`, the progress index and the failed translations are gone, and one more
instruction is counted (R161, R189). -/
def Warp.movedTo (w : Warp) (pc : VAddr) : Warp :=
  { w with run := { w.run with pc := pc }, pending := none, badPages := [], issued := w.issued + 1 }

/-- The warp after a branch whose taking lanes are `T` has resolved (R344): all go, none go, or the taking lanes run at the target
and the others wait at the next word at the front of the divergence list. -/
def Warp.resolved (w : Warp) (T : BitVec 32) (target : VAddr) : Warp :=
  if T = w.m0 then w.movedTo target
  else if T = 0 then w.movedTo (w.run.pc + 4)
  else { w.movedTo target with
    run := ⟨target, T, w.run.wbase, .none⟩, div := ⟨w.run.pc + 4, w.m0 &&& ~~~T, w.run.wbase, .none⟩ :: w.div }

/-- The issuer with another warp, put back. -/
def Iss.withWarp (I : Iss) (s : State) (w : Warp) : State := ({ I with warp := w } : Iss).put s

/-- The target pair of a jump (R345). -/
def jumpPair : Instr → Option (BitVec 7)
  | .jmpi a => some a
  | .calli a => some a
  | .ret => some 126
  | _ => none

/-! ### Memory as a core sees it -/

/-- Memory by bytes: host memory or device memory, and a physical address. -/
abbrev Image := Bool → Nat → Byte

/-- The number that bytes at given places hold, the first least significant. -/
def Image.read (m : Image) (cs : List (Bool × Nat)) : Nat := leNat (cs.map fun c => m c.1 c.2)

/-- Bytes put at given places, one after another. -/
def Image.put : Image → List (Bool × Nat) → List Byte → Image
  | m, c :: cs, b :: bs => Image.put (fun h x => if h = c.1 ∧ x = c.2 then b else m h x) cs bs
  | m, _, _ => m

/-- The byte that a core has written last at an address, or else the byte at home (R242, R244): its L1 holds what it wrote and has not
written back as dirty bytes. -/
def State.image (s : State) (core : Nat) : Image := fun host pa =>
  match (s.core core).l1.find? fun l => l.line == pa / 128 && l.host == host && l.dirty.getLsbD (pa % 128) with
  | some l => lineByte l.data (pa % 128)
  | none => if host then s.mem.hostMem.get pa else s.mem.dram.get pa

/-- A core whose L1 mirrors memory: no store waits in its write buffers, it holds a line once, its clean bytes are those at home, what it
holds of device memory is encrypted there under the key of the line, no bound tensor has store wakes, and no cue run has stores that
are not visible yet. -/
structure State.Mirrors (s : State) (core : Nat) : Prop where
  noBuffered : (s.core core).wbuf = []
  once : (s.core core).l1.Pairwise fun x y => ¬(x.line = y.line ∧ x.host = y.host)
  same : ∀ l, l ∈ (s.core core).l1 → ∀ i, i < 128 → lineByte l.data i = s.image core l.host (128 * l.line + i)
  keyed : ∀ l, l ∈ (s.core core).l1 → l.host = false → ∀ k, k < 4 → s.mem.keyTag.get 0 (4 * l.line + k) = s.keyOf l.slot
  noWakes : ∀ x, x ∈ s.allBindings → x.2.stw = false
  noHidden : ∀ x, x ∈ s.bindings → x.2.hidden = []

/-- No byte of a lane's access lies in the data of the element whose run the lane is (R203): what a run stores there stays hidden. -/
def Iss.Elsewhere (I : Iss) (s : State) (a : BitVec 7) (n : Nat) : Prop :=
  I.crew.kind = .cue → ∀ b, s.bindings.find I.crew.binding = some b → ∀ l, l < 32 → ∀ i, i < n →
    b.ownData (I.warp.index l) (I.warp.laneNat a l 2 + i) = false

/-- Where the bytes of a lane's access lie, its address translated as the access is (R216). -/
def Iss.cells (I : Iss) (a : BitVec 7) (n : Nat) (acc : Nat → TlbEnt × Option TlbEnt) (l : Nat) : List (Bool × Nat) :=
  (List.range n).map fun i =>
    let x := partOf (I.warp.laneNat a l 2) i (acc l).1 (acc l).2
    (x.1.host, x.2)

/-- Every lane of a mask may make its access at once (R216, R402): its check succeeds with the translation `acc`, no engine item owns a
line of it, its lines of device memory are held under the key of their page and, where it reads, are not poisoned. -/
structure Iss.Reaches (I : Iss) (s : State) (q : Need) (a : BitVec 7) (e : BitVec 32) (acc : Nat → TlbEnt × Option TlbEnt) : Prop where
  checked : ∀ l, l < 32 → e.getLsbD l = true →
    s.checkAccess I.crew.core I.crew.ctx (I.warp.laneNat a l 2) I.warp.badPages q = .ok (acc l).1 (acc l).2
  unowned : ∀ l, l < 32 → e.getLsbD l = true → ∀ c, c ∈ I.cells a q.n acc l → (s.mem.dirOf c.1 (c.2 / 128)).owners = []
  keyed : ∀ l, l < 32 → e.getLsbD l = true → ∀ i, i < q.n →
    let x := partOf (I.warp.laneNat a l 2) i (acc l).1 (acc l).2
    (x.1.host = false → ∀ k, k < 4 → s.mem.keyTag.get 0 (4 * (x.2 / 128) + k) = s.keyOf x.1.slot) ∧
    ∀ k, k ∈ (s.core I.crew.core).l1 → k.line = x.2 / 128 → k.host = x.1.host → k.slot = x.1.slot
  unpoisoned : q.write = false ∨ q.atomic = true → ∀ l, l < 32 → e.getLsbD l = true → ∀ c, c ∈ I.cells a q.n acc l → c.1 = false →
    c.2 / 32 ∉ s.mem.poison

/-- What accesses of memory leave of the stacks' clocks (R27): they note their latest command, and time passes only where a limit on
the memory side spaces commands. -/
structure State.Paced (s t : State) : Prop where
  rest : t.power = { s.power with hbms := t.power.hbms }
  noted : ∀ k, t.stack k = { s.stack k with lastCmd := (t.stack k).lastCmd }
  later : s.now ≤ t.now
  free : s.power.memFactor = 0 → t.now = s.now ∧ t.power = s.power

/-- What the memory accesses of one instruction of a core leave alone: everything but memory, its pace and the core's own caches and
buffers; no key of a sector changes and no sector becomes poisoned. -/
structure State.MemoryOnly (s t : State) (core : Nat) : Prop where
  rest : t = { s with mem := t.mem, cores := t.cores, now := t.now, power := t.power }
  paced : s.Paced t
  others : ∀ k, k ≠ core → t.core k = s.core k
  core : t.core core = { s.core core with
    l1 := (t.core core).l1, accum := (t.core core).accum, acqMark := (t.core core).acqMark, wbuf := (t.core core).wbuf, own := (t.core core).own }
  keys : t.mem.keyTag = s.mem.keyTag
  poison : ∀ k, k ∈ t.mem.poison → k ∈ s.mem.poison
  banks : t.mem.banks = s.mem.banks ∧ t.mem.walks = s.mem.walks

/-- The stores of lanes in ascending order, so that the highest lane's byte stands (R403). -/
def Iss.stored (I : Iss) (a : BitVec 7) (n : Nat) (acc : Nat → TlbEnt × Option TlbEnt) (f : Nat → List Byte) (m : Image) (ls : List Nat) :
    Image := ls.foldl (fun m l => m.put (I.cells a n acc l) (f l)) m

/-- The result of an atomic operation at a width (R408): code 7 is compare-and-swap. -/
def atomOp (o w : Nat) (signed : Bool) (old x cmp : BitVec w) : BitVec w :=
  let less : Bool := if signed then x.slt old else x.ult old
  match o with
  | 0 => old + x
  | 1 => if less then x else old
  | 2 => if less then old else x
  | 3 => old &&& x
  | 4 => old ||| x
  | 5 => old ^^^ x
  | 6 => x
  | _ => if old = cmp then x else old

/-- Read-modify-writes of lanes in ascending order (R408): memory after them, and each lane's old value. -/
def Iss.modified (I : Iss) (a : BitVec 7) (n : Nat) (acc : Nat → TlbEnt × Option TlbEnt) (f : Nat → Nat → Nat) :
    Image → List Nat → Image × List (Nat × Nat)
  | m, [] => (m, [])
  | m, l :: ls =>
    let old := m.read (I.cells a n acc l)
    let (m', vs) := Iss.modified I a n acc f (m.put (I.cells a n acc l) (bytesLE n (f l old))) ls
    (m', (l, old) :: vs)

/-- Whether a scope takes an access to its home slice (R404, R405). -/
def wideScope (sc : BitVec 3) : Bool := decide (3 ≤ sc.toNat)

/-- The lanes of a mask, ascending. -/
def lanesOf (e : BitVec 32) : List Nat := (List.range 32).filter fun l => e.getLsbD l

/-- A load of `n` bytes in the lanes of `e`, as completed with values `val` (R401). -/
def LoadsValue (I : Iss) (s t : State) (p : Option Pfx) (d : BitVec 7) (cnt : Nat) (val : Nat → Nat) : Prop :=
  ∃ u w, s.MemoryOnly u I.crew.core ∧ u.image I.crew.core = s.image I.crew.core ∧ I.warp.Written w I.ctl p d cnt val
    ∧ t = I.retiredWith u w 0 (sizeP p)

/-! ### The scratchpad -/

/-- Every lane of a mask may access `n` bytes of the crew's window at once (R224-R226): its offset lies in the window and is aligned, its
line is present, no bank queue is full, and where it reads its sector is not poisoned. -/
structure Iss.SpadReady (I : Iss) (s : State) (a : BitVec 7) (n : Nat) (reads : Bool) (e : BitVec 32) : Prop where
  within : ∀ l, l < 32 → e.getLsbD l = true → (I.warp.lane a l).toNat + n ≤ I.crew.spadSize
  aligned : ∀ l, l < 32 → e.getLsbD l = true → (I.warp.lane a l).toNat % n = 0
  present : ∀ l, l < 32 → e.getLsbD l = true → (I.crew.spadBase + (I.warp.lane a l).toNat) / 128 ∉ (s.core I.crew.core).absent
  queues : ∀ b, ((s.core I.crew.core).bankQ.filter fun x => x.1 == b).length < 8
  unpoisoned : reads = true → (s.core I.crew.core).spadPoison = []

/-- Nothing of the core waits on what a scratchpad access changes: no store in its write buffers or hidden by a cue run, no side of a
crew on a byte-count word. -/
structure State.SpadQuiet (s : State) (core : Nat) : Prop where
  noBuffered : (s.core core).wbuf = []
  noHidden : ∀ x, x ∈ s.bindings → x.2.hidden = []
  noWaits : ∀ x, x ∈ s.crews → x.2.core = core → ∀ y, y ∈ x.2.warps → ∀ sd, sd ∈ y.2.run :: y.2.div → ∀ o, sd.wait ≠ .bytes o

/-- The requests of an access in the bank queues (R225): one for each line that the lanes touch; `spad` are the bytes after it. An access
that returns a value keeps its warp until its requests are answered. -/
def Iss.queued (I : Iss) (s u : State) (a : BitVec 7) (e : BitVec 32) (value : Bool) (w v : Warp) (spad : Cells) : Prop :=
  ∃ ls po : List Nat, ls.Nodup ∧ (∀ j, j ∈ ls ↔ ∃ l, l < 32 ∧ e.getLsbD l = true ∧ j = (I.crew.spadBase + (I.warp.lane a l).toNat) / 128)
    ∧ v = { w with spadOut := I.warp.spadOut + ls.length, spadBusy := I.warp.spadBusy || (value && ls != []) }
    ∧ u = s.setCore I.crew.core { s.core I.crew.core with
        bankQ := (s.core I.crew.core).bankQ ++ ls.map (fun j => (j % 32, I.cid, I.wid)), spad := spad, spadPoison := po }
    ∧ ∀ k, k ∈ po → k ∈ (s.core I.crew.core).spadPoison

/-- The scratchpad after stores of lanes in ascending order. -/
def Iss.spadStored (I : Iss) (a : BitVec 7) (f : Nat → List Byte) (m : Cells) (ls : List Nat) : Cells :=
  ls.foldl (fun m l => m.write (I.crew.spadBase + (I.warp.lane a l).toNat) (f l)) m

/-- Read-modify-writes of lanes in ascending order in the scratchpad: the bytes after them, and each lane's old value. -/
def Iss.spadModified (I : Iss) (a : BitVec 7) (n : Nat) (f : Nat → Nat → Nat) : Cells → List Nat → Cells × List (Nat × Nat)
  | m, [] => (m, [])
  | m, l :: ls =>
    let o := I.crew.spadBase + (I.warp.lane a l).toNat
    let old := m.num o n
    let (m', vs) := Iss.spadModified I a n f (m.write o (bytesLE n (f l old))) ls
    (m', (l, old) :: vs)

/-- Where a warp stands once its running side is `sd`, which waits or yields (R161): with an empty list it stays; otherwise it goes to
the back, and a front entry that waits on nothing and meets no equal PC runs. -/
def Warp.stoodAside (w v : Warp) (sd : Side) : Prop :=
  (w.div = [] ∧ v = { w with run := sd }) ∨
  ∃ x rest, w.div = x :: rest ∧ x.wait = .none ∧ (∀ y, y ∈ rest ++ [sd] → y.pc ≠ x.pc)
    ∧ v = { w with run := x, div := rest ++ [sd], issued := 0 }

/-- An arrival at a crew barrier (R415, R416): its barrier, count operand, take flag and carry set, and whether the side waits. -/
structure BarForm where
  n : Nat
  a : BitVec 7
  take : Bool
  carry : Nat
  waits : Bool

def barForm : Instr → Option BarForm
  | .bar a n => some ⟨n.toNat, a, false, 0, true⟩
  | .bara a n => some ⟨n.toNat, a, false, 0, false⟩
  | .barTake k n => some ⟨n.toNat, 0, true, k.toNat, true⟩
  | _ => none

/-- The count of an arrival (R415). -/
def BarForm.count (f : BarForm) (I : Iss) : Nat := if f.a = 0 then 0 else (I.warp.operand f.a).toNat

/-- An arrival that counts at once (R415): the count is legal, no active thread has arrived, the phase agrees, and a take's carry set
holds registers of the crew. -/
structure BarForm.Counts (f : BarForm) (I : Iss) : Prop where
  legal : f.count I ≤ 1024 ∧ (f.a ≠ 0 → f.count I ≠ 0)
  fresh : ∀ i, i ∈ I.warp.indices I.warp.m0 → i ∉ (I.crew.bar f.n).arrived
  phase : (I.crew.bar f.n).arrived = [] ∨
    ((I.crew.bar f.n).exp = f.count I ∧ (I.crew.bar f.n).take = f.take ∧ (I.crew.bar f.n).carry = f.carry)
  carried : f.take = true → ∀ j, j ∈ I.crew.carrySet f.carry → 16 * I.warp.run.wbase.toNat + j < I.crew.nregs

/-! ### Control registers and engines -/

/-- The canonical form of a table: its keys rise strictly. -/
def Tbl.Rising {α : Type} (t : Tbl α) : Prop := t.Pairwise fun x y => x.1 < y.1

/-- No side of any crew waits on what a test names. -/
def State.NoneWaits (s : State) (p : Wait → Prop) : Prop :=
  ∀ x, x ∈ s.crews → ∀ y, y ∈ x.2.warps → ∀ sd, sd ∈ y.2.run :: y.2.div → ¬p sd.wait

/-- A release at cluster scope or wider by a core (R252): only memory and its caches change, what it sees does not, its accumulator
is in the log, and no byte of a release-consistent page is dirty in its L1. -/
structure State.Released (s u : State) (core : Nat) : Prop where
  only : s.MemoryOnly u core
  seen : u.image core = s.image core
  logged : (u.core core).accum = 0
  clean : ∀ l, l ∈ (u.core core).l1 → l.ord = ordRC → l.dirty = 0

/-- An instruction that wrote one word to a register in every active lane, in state `u`, and ended earlier fences of its threads. -/
def Replied (I : Iss) (u t : State) (v : BitVec 7) (reply : Nat) : Prop :=
  ∃ w fences, I.warp.Written w I.ctl none v 1 (fun _ => reply) ∧ (∀ x, x ∈ fences → x ∈ I.crew.relFence)
    ∧ t = ({ I with crew := { I.crew with relFence := fences } } : Iss).retiredWith u w 0 4

/-- What `CRD` gives in a lane (R150-R152, R350). (DESIGN CHOICE, log 49) -/
def Iss.crValue (I : Iss) (s : State) (n l : Nat) : Nat :=
  if n = 0x020 then (if I.ctl then 0 else I.warp.index l)
  else if 0x028 ≤ n ∧ n < 0x030 then (I.coord s (n - 0x028)).1 l
  else I.crNum s n

/-- The crew after a `CWR` of one of its registers (R278, R282, R135, R181). -/
def Crew.written (c : Crew) (n : Nat) (v : Word) : Option Crew :=
  match n with
  | 0x000 => some { c with nmode := v }
  | 0x001 => some { c with flags := v.setWidth 8 }
  | 0x002 => some (match c.frames with | [] => c | f :: r => { c with frames := { f with pidx := v } :: r })
  | 0x004 => some { c with qsel := v &&& 0xFFF }
  | 0x040 => some { c with tvec := v }
  | 0x041 => some { c with tcfg := v &&& 0x1F }
  | 0x042 => some { c with ten := v &&& 0x3 }
  | 0x043 => some { c with tska := v }
  | 0x046 => some (match c.frames with
      | [] => c
      | f :: r => { c with frames := { f with epc := f.epc.extractLsb' 32 25 ++ (v &&& 0xFFFFFFFC) } :: r })
  | 0x047 => some (match c.frames with
      | [] => c
      | f :: r => { c with frames := { f with epc := v.extractLsb' 0 25 ++ f.epc.extractLsb' 0 32 } :: r })
  | _ => none

/-! ### Traps and the end of threads -/

/-- The frame that a trap pushes (R177, R181, R182): EPC, cause, detail, address, the lanes that raised it, or all of `m0` for a control
thread, but for FMT_DIVERGE, and where it names none, and what the handler does not keep. -/
def Iss.frameOf (I : Iss) (x : TrapInfo) : Frame :=
  { epc := x.epc.getD I.warp.run.pc, cause := x.cause, detail := x.detail, taddr := x.taddr,
    lanes := if (I.ctl = true ∧ x.cause ≠ cFMT) ∨ x.lanes = 0 then I.warp.m0 else x.lanes, mask := I.warp.m0, pidx := BitVec.ofNat 32 x.pidx,
    wbase := I.warp.run.wbase, div := I.warp.div, wid := I.wid }

/-- The warp that enters the handler (R182): at the kernel header plus `c.TVEC` words, in the handler's window, 24 at most, with `m0` as it
was and no other side. -/
def Iss.atHandler (I : Iss) : Warp :=
  { I.warp with
    run := ⟨I.crew.header + BitVec.ofInt 57 (4 * I.crew.tvec.toInt), I.warp.m0, BitVec.ofNat 5 (min 24 (I.crew.tcfg.toNat % 32)), .none⟩,
    div := [], issued := 0, pending := none, badPages := [] }

/-- A crew or control thread that can take a trap (R182, R185): it has a handler and a free frame. -/
def Iss.handles (I : Iss) : Prop := I.crew.kind ≠ .cue ∧ I.crew.tvec ≠ 0 ∧ I.crew.frames.length < 4

/-- A trap of this warp holds up for no sibling (R178): none can issue, or the crew is in a handler, where siblings stand. -/
def Iss.Alone (I : Iss) : Prop :=
  I.crew.frames ≠ [] ∨ ∀ y, y ∈ I.crew.warps → y.1 ≠ I.wid → y.2.canIssue I.crew = false

/-- A crew table whose numbers are in use once, and whose new warps get new numbers. -/
structure Crew.Tidy (c : Crew) : Prop where
  warps : Tbl.Rising c.warps
  fresh : ∀ x, x ∈ c.warps → x.1 < c.nextWid
  bins : Tbl.Rising c.bins
  room : ∀ x, x ∈ c.bins → x.2.threads.length < 32

/-- What a thread takes along at a `REFORM` (R163): its crew index, its bits of the mask registers, and its carry registers. -/
def Iss.filedAs (I : Iss) (set : List Nat) (l : Nat) (f : Filed) : Prop :=
  f.thread = I.warp.index l ∧ f.src = I.wid ∧ (∀ k, f.masks.get false k = (I.warp.masks.get 0 k).getLsbD l)
    ∧ ∀ j, j ∈ set → f.value.get 0 (16 * I.warp.run.wbase.toNat + j) = I.warp.lane (BitVec.ofNat 7 j) l

/-- What the lanes of a cue warp leave in their elements' contexts (R199), lane by lane: WAIT, ARG and DATA from a lane's function of its
old DATA, FLT clear, and the word after this instruction as resume point. -/
def Iss.cueLeaves (I : Iss) (s : State) (off : Nat) (f : Nat → Nat → Nat × Nat × Nat) : State :=
  (lanesOf I.warp.m0).foldl (fun u l =>
    match u.bindings.find I.crew.binding with
    | none => u
    | some b =>
      let r := f l (ctxData (u.context b (I.warp.index l)))
      u.putContext I.crew.binding b (I.warp.index l) (ctxWord off r.1 r.2.1 false 0 r.2.2)) s

/-! ### Engine commands -/

/-- The state in which an engine reads a command: after the release at package scope by the issuing threads (R256, R463). -/
def Iss.released (I : Iss) (s : State) : State := (I.releaseFor s I.warp.m0 scPackage).1

/-- A command ends with a reply in state `u`, the engine's effect: the issuer, as that state holds it, writes the reply and goes on. -/
def CommandGives (i : Instr) (s : State) (I : Iss) (v : BitVec 7) (u : State) (reply : Nat) : Prop :=
  ∃ t, exec i s = .next t ∧ Replied (I.reread u) u t v reply

/-- Bytes that an engine may read for a context: aligned, translated and readable, and with no line of them owned by engine items (R223). -/
structure State.Readable (u : State) (ctx va n align : Nat) (bs : List Byte) : Prop where
  aligned : va % align = 0
  there : ∃ ps, u.engRange ctx false va n = .ok ps ∧ u.partsOwned ps = none ∧ u.partsRead ps = bs

/-- Bytes that an engine may not read: misaligned, or not readable throughout. -/
def State.Unreadable (u : State) (ctx va n align : Nat) : Prop :=
  va % align ≠ 0 ∨ ∃ c, u.engRange ctx false va n = .error c

/-- What the reads of an engine leave alone (R108, R222): all but the lines that the L2s hold, the directory's record of copies, and
the pace of the stacks. -/
structure State.Fetched (s t : State) : Prop where
  rest : t = { s with mem := { s.mem with l2 := t.mem.l2, dir := t.mem.dir, hostDir := t.mem.hostDir }, now := t.now, power := t.power }
  paced : s.Paced t
  lines : ∀ host line, t.mem.dirOf host line =
    { s.mem.dirOf host line with remote := (t.mem.dirOf host line).remote, remoteDirty := (t.mem.dirOf host line).remoteDirty }

/-- A dolly number names no binding of the issuing context: on its cluster, or under that number on a fenced one (R210, R464). -/
def Iss.NoBinding (I : Iss) (u : State) (n : Nat) : Prop :=
  4 ≤ n ∨ (∃ y, u.bindings.find (4 * I.cluster + n) = some y ∧ y.ctx ≠ I.crew.ctx) ∨
  (u.bindings.find (4 * I.cluster + n) = none ∧
    ∀ y, y ∈ u.bindings → y.1 % 4 = n → y.2.ctx = I.crew.ctx → (u.pw (y.1 / 4)).fenced = false)

/-- A dolly number names binding `x` of the issuing context, which then stands on its cluster in state `w` (R193, R210): it stands there
already, or comes over from the fenced cluster where it is the context's only one of that number. -/
def Iss.Binds (I : Iss) (u w : State) (n : Nat) (x : Binding) : Prop :=
  n < 4 ∧ x.ctx = I.crew.ctx ∧
  ((w = u ∧ u.bindings.find (4 * I.cluster + n) = some x) ∨
   (u.bindings.find (4 * I.cluster + n) = none ∧ ∃ old, old % 4 = n ∧ (u.pw (old / 4)).fenced = true ∧ u.bindings.find old = some x ∧
     (∀ y, y ∈ u.bindings → y.1 % 4 = n → y.2.ctx = I.crew.ctx → (u.pw (y.1 / 4)).fenced = true → y.1 = old) ∧
     w = { u with bindings := (u.bindings.del old).set (4 * I.cluster + n) x }))

/-- A grammar, draft-tree or prefix-table command ends with status, index and, where the manual defines it, detail (R287), after the
reads that it makes; `u` has the effect of the command, `arb` the arbiters after it. -/
def SlotGives (i : Instr) (s : State) (I : Iss) (v : BitVec 7) (u : State) (st idx : Nat) (detail : Option Nat) : Prop :=
  ∃ r w arb, ({ u with arbiters := arb } : State).Fetched w ∧ (∀ k, k ≠ 128 + I.cluster → arb.get {} k = u.arbiters.get {} k)
    ∧ CommandGives i s I v w.nextFree r ∧ r % 65536 = st + 256 * idx ∧ ∀ d, detail = some d → r / 65536 = d % 65536

/-- It is the turn of the issuing context at its cluster's grammar slots (R119, R120, R289): its earlier commands have all been
performed, none is under way in the given slots, it is resident, its function holds quanta, and no other context waits there. -/
structure State.SlotsFree (s : State) (I : Iss) (ns : List Nat) : Prop where
  performed : s.grammarsOf I.cluster I.crew.ctx = 0
  idle : ∀ n, n ∈ ns → ∀ c, c ∈ (s.cluster I.cluster).grammarQ → c.slot ≠ n
  resident : (s.ctx I.crew.ctx).resident = true
  quanta : (s.ctx I.crew.ctx).func < 65 ∧ s.quantaOf (s.ctx I.crew.ctx).func ≠ 0
  alone : ∀ c, c ∈ (s.cluster I.cluster).grammarQ → c.ctx ≠ I.crew.ctx → c.started = true

/-- The binding that a descriptor of 64 bytes describes (R193). -/
def boundBy (ctx : Nat) (bs : List Byte) : Binding :=
  let f (o n : Nat) : Nat := leNat ((bs.drop o).take n)
  { ctx := ctx, dbase := f 0 8, cbase := f 8 8, sbase := f 16 8, ubase := f 24 8, nelem := f 32 4, esize := f 36 1,
    stw := f 37 1 == 1, ncore := f 38 1, cue := f 40 8, cparm := f 48 8, cursor := (f 32 4 + 255) / 256 }

/-- Every array of a binding lies on pages that its context reads and writes, and all but the data in package DRAM (R194). -/
def State.ArraysOk (u : State) (b : Binding) : Prop :=
  u.arrayOk b.ctx true b.dbase (b.nelem * 2 ^ b.esize) = true ∧ u.arrayOk b.ctx false b.cbase (8 * b.nelem) = true ∧
    u.arrayOk b.ctx false b.sbase b.skipLen = true ∧ u.arrayOk b.ctx false b.ubase b.sumLen = true

/-- The copy command that an issuer's descriptor describes (R465, R467, R469). -/
def Iss.commandOf (I : Iss) (op : CopyOp) (bs ds : List Byte) (b : BitVec 7) : CopyCmd :=
  let c := I.copyOf op bs (if b = 0 then none else some (I.crew.spadBase + (I.warp.operand b).toNat))
  match op with
  | .gath => { c with aux1 := c.aux1 % 2 ^ 32 }
  | .scat => { c with aux1 := c.aux1 % 2 ^ 32 }
  | .tcopy => { c with dims := (dimsOf ds (bits c.item 8 8)).getD [] }
  | _ => c

/-- What acceptance of a copy command leaves (R223, R226, R466): the command under its handle behind the context's others, its
destination lines owned, the lines of the scratchpad that it fills absent, and nothing else changed. -/
structure CopyAccepted (I : Iss) (u t : State) (c : CopyCmd) : Prop where
  kept : t.copies.find (c.ctx * 2 ^ 24 + c.handle) = some c
  handle : c.handle = ((u.ctx c.ctx).handles + 1) % 2 ^ 24 ∧ (t.ctx c.ctx).handles = (u.ctx c.ctx).handles + 1
  queued : (t.cluster I.cluster).copyQ = (u.cluster I.cluster).copyQ ++ [c.ctx * 2 ^ 24 + c.handle]
  counted : c.seq = u.copySeq ∧ t.copySeq = u.copySeq + 1 ∧ t.slates = (u.cmdUp c.slate).slates
  owned : ∀ i, i < c.items → ∀ x, x ∈ u.itemLines c i → c.owner i ∈ (t.mem.dirOf x.1 x.2).owners
  absent : ∀ i, i < c.items → ∀ j, j ∈ c.spadLines i → j ∈ (t.core I.crew.core).absent
  rest : t = { u with copies := t.copies, copySeq := t.copySeq, ctxs := t.ctxs, clusters := t.clusters, slates := t.slates,
                      mem := { u.mem with dir := t.mem.dir, hostDir := t.mem.hostDir }, cores := t.cores }

/-- A grammar's header (R290): words, classes and places. -/
structure Grammar where
  nstate : Nat
  nsym : Nat
  nclass : Nat
  vocab : Nat
  cmap : Nat
  ridx : Nat
  rows : Nat

def grammarOf (bs : List Byte) : Grammar :=
  let f (o n : Nat) : Nat := leNat ((bs.drop o).take n)
  ⟨f 0 2, f 2 2, f 4 2, f 8 4, f 16 8, f 24 8, f 32 8⟩

/-- The symbol on top of a slot's stack, 0 for an empty one (R290). -/
def GSlot.topSym (g : GSlot) : Nat := if g.depth = 0 then 0 else g.stack.getD (g.depth - 1) 0

/-- The entries in use of a slot's stack, bottom first, and of its log, oldest first (R291). -/
def GSlot.symbols (g : GSlot) : List Nat := g.stack.take g.depth
def GSlot.entries (g : GSlot) : List Nat := g.log.take g.logn

/-- A slot after an action word (R293): its new state, its stack after a push, pop or replacement, the log of 32 entries at most, and
every other field as it was. -/
structure GSlot.After (g g' : GSlot) (w : Nat) : Prop where
  state : g'.state = w % 65536
  symbols : g'.symbols =
    match w / 2 ^ 24 % 4 with
    | 1 => g.symbols ++ [w / 65536 % 256] | 2 => g.symbols.dropLast | 3 => g.symbols.dropLast ++ [w / 65536 % 256] | _ => g.symbols
  depth : g'.depth = match w / 2 ^ 24 % 4 with | 1 => g.depth + 1 | 2 => g.depth - 1 | _ => g.depth
  entries : g'.entries = (if g.logn < 32 then g.entries else g.entries.tail) ++ [g.state + 2 ^ 16 * g.topSym + 2 ^ 24 * (w / 2 ^ 24 % 4)]
  logn : g'.logn = min 32 (g.logn + 1)
  steps : g'.steps = (g.steps + 1) % 2 ^ 32
  rest : g' = { g with state := g'.state, depth := g'.depth, stack := g'.stack, logn := g'.logn, log := g'.log, steps := g'.steps }

/-- State and stack of a slot with one log entry undone (R296). -/
def undone (x : Nat × List Nat) (e : Nat) : Nat × List Nat :=
  let top := e / 65536 % 256
  (e % 65536, match e / 2 ^ 24 % 4 with | 1 => x.2.dropLast | 2 => x.2 ++ [top] | 3 => x.2.dropLast ++ [top] | _ => x.2)

/-- A log whose newest `k` entries the stack answers to: a push is undone from a stack that is not empty, a pop into one that is not
full. -/
def GSlot.answers (g : GSlot) (k : Nat) : Prop :=
  ∀ j, j < k →
    let e := g.entries.getD (g.logn - 1 - j) 0 / 2 ^ 24 % 4
    let d := ((g.entries.drop (g.logn - j)).reverse.foldl undone (g.state, g.symbols)).2.length
    (e = 1 ∨ e = 3 → 0 < d) ∧ (e = 2 → d < 64)

/-- A slot rolled back by `k` steps (R296). -/
structure GSlot.Rolled (g g' : GSlot) (k current : Nat) : Prop where
  state : g'.state = ((g.entries.drop (g.logn - k)).reverse.foldl undone (g.state, g.symbols)).1
  symbols : g.answers k → g'.symbols = ((g.entries.drop (g.logn - k)).reverse.foldl undone (g.state, g.symbols)).2
  entries : g'.entries = g.entries.take (g.logn - k)
  logn : g'.logn = g.logn - k
  steps : g'.steps = (g.steps + 2 ^ 32 - k) % 2 ^ 32
  gen : g'.gen = current
  rest : g' = { g with state := g'.state, depth := g'.depth, stack := g'.stack, logn := g'.logn, log := g'.log, steps := g'.steps, gen := g'.gen }

/-- A slot holds all its entries (R291): 64 of the stack and 32 of the log, of which DEPTH and LOGN count the used. -/
structure GSlot.Whole (g : GSlot) : Prop where
  stack : g.stack.length = 64
  log : g.log.length = 32
  depth : g.depth ≤ 64
  logn : g.logn ≤ 32

/-- The issuing context holds a slot of its cluster. -/
def Iss.Holds (I : Iss) (u : State) (n : Nat) (g : GSlot) : Prop :=
  n < 64 ∧ u.gslots.find (64 * I.cluster + n) = some g ∧ g.owner = I.crew.ctx

/-- It does not. -/
def Iss.HoldsNot (I : Iss) (u : State) (n : Nat) : Prop :=
  n < 64 ∧ ∀ g, u.gslots.find (64 * I.cluster + n) = some g → g.owner ≠ I.crew.ctx

/-- The depths of a tree in preorder (R299). -/
def TreeOk (d : List Nat) : Prop :=
  d.getD 0 0 = 0 ∧ ∀ i, 0 < i → i < d.length → 1 ≤ d.getD i 0 ∧ d.getD i 0 ≤ d.getD (i - 1) 0 + 1 ∧ d.getD i 0 ≤ 63

/-- The parent of each node of a tree: the last node before it of a lower depth, 0xFFFF for none (R299). -/
def Parents (d ps : List Nat) : Prop :=
  ps.length = d.length ∧ ∀ i, i < d.length →
    (ps.getD i 0 = 0xFFFF ∧ ∀ j, j < i → d.getD i 0 ≤ d.getD j 0) ∨
    (ps.getD i 0 < i ∧ d.getD (ps.getD i 0) 0 < d.getD i 0 ∧ ∀ j, ps.getD i 0 < j → j < i → d.getD i 0 ≤ d.getD j 0)

/-- The ancestors of each node, itself among them, as bits (R299). -/
def Ancestors (ps rows : List Nat) : Prop :=
  rows.length = ps.length ∧ ∀ i, i < ps.length → ∀ j,
    ((rows.getD i 0).testBit j = true ↔ j = i ∨ (ps.getD i 0 ≠ 0xFFFF ∧ (rows.getD (ps.getD i 0) 0).testBit j = true))

/-! ### Rows and the matrix unit -/

/-- The row address that a row instruction names (R423). -/
def Iss.rowVa' (I : Iss) (a : BitVec 7) : Nat := I.warp.operand64 a / 2048 * 2048

/-- A row that a control thread may act on (R232, R423): its page is held by a TLB, lies in the row affinity of the thread's own stack,
is readable, and its key is loaded. -/
structure Iss.RowAt (I : Iss) (s : State) (a : BitVec 7) (e : TlbEnt) : Prop where
  low : I.warp.operand64 a < 2 ^ 57
  known : ∀ b, b ∈ I.warp.badPages → b.page ≠ I.rowVa' a / 65536
  hit : s.tlbHit I.crew.core I.crew.ctx (I.rowVa' a) = some e
  mapped : e.host = false ∧ e.aff = 1 ∧ e.r = true
  keyed : e.slot = 0 ∨ s.keys.find e.slot ≠ none
  near : stackOfPa (e.addr (I.rowVa' a)) = stackOf I.cluster

/-- The trap of a row instruction (R423). -/
def Iss.rowTrap (I : Iss) (a : BitVec 7) (cause bank : Nat) : TrapInfo :=
  { cause := cause, detail := bank, taddr := I.rowVa' a % 2 ^ 57, lanes := 1 }

/-- An access of `n` bytes at an address that a thread may make at once, as `Iss.Reaches` says it of lanes. -/
structure Iss.ReachAt (I : Iss) (s : State) (q : Need) (va : Nat) (x : TlbEnt × Option TlbEnt) : Prop where
  checked : s.checkAccess I.crew.core I.crew.ctx va I.warp.badPages q = .ok x.1 x.2
  unowned : ∀ i, i < q.n → let p := partOf va i x.1 x.2
    (s.mem.dirOf p.1.host (p.2 / 128)).owners = []
  keyed : ∀ i, i < q.n → let p := partOf va i x.1 x.2
    (p.1.host = false → ∀ k, k < 4 → s.mem.keyTag.get 0 (4 * (p.2 / 128) + k) = s.keyOf p.1.slot) ∧
    ∀ k, k ∈ (s.core I.crew.core).l1 → k.line = p.2 / 128 → k.host = p.1.host → k.slot = p.1.slot
  unpoisoned : q.write = false → ∀ i, i < q.n → let p := partOf va i x.1 x.2
    p.1.host = false → p.2 / 32 ∉ s.mem.poison

/-- The places of its bytes, and the bytes that the core sees there. -/
def placesAt (va n : Nat) (x : TlbEnt × Option TlbEnt) : List (Bool × Nat) :=
  (List.range n).map fun i => let p := partOf va i x.1 x.2; (p.1.host, p.2)
def State.seenAt (s : State) (core va n : Nat) (x : TlbEnt × Option TlbEnt) : List Byte :=
  (placesAt va n x).map fun c => s.image core c.1 c.2

/-- The address of row `r` of a tile in memory (R439). -/
def Iss.rowPlace (I : Iss) (a b : BitVec 7) (r : Nat) : Nat :=
  (BitVec.ofNat 64 (I.warp.operand64 a) + BitVec.ofNat 64 r * (I.warp.operand b).signExtend 64).toNat

/-- A register of a control thread, `k` after `n`. -/
def Iss.num (I : Iss) (n : BitVec 7) (k : Nat) : Nat := (I.warp.operand (regPlus n k)).toNat

/-- The scale blocks of a queued instruction can be read (R442): every id is bound, and each block's page is held by a TLB and readable. -/
def Iss.ScalesReach (I : Iss) (s : State) (q : MItem) : Prop :=
  ∀ b, b ∈ q.blocks → ∃ base, (s.mx I.cluster).scBase.find b.1 = some base ∧
    let va := (base + b.2) % 2 ^ 64
    va < 2 ^ 57 ∧ (∀ x, x ∈ I.warp.badPages → x.page ≠ va / 65536) ∧
    ∃ e, s.tlbHit I.crew.core I.crew.ctx va = some e ∧ s.permits e { n := 1 } = none

/-- The issuer's side after a step: at the next word, waiting on `wt`. -/
def Iss.StandsAt (I : Iss) (t : State) (wt : Wait) : Prop :=
  ∃ c w, t.crew I.cid = some c ∧ c.warps.find I.wid = some w ∧ w.run = { I.warp.run with pc := I.warp.run.pc + 4, wait := wt }

/-! ### Command streams -/

/-- A block stands at the head of the stream of the function that the input names, and the stream may begin it (R71, R77). -/
structure State.Heads (s : State) (op : Nat) (c : Cmd) (rest : List Nat) : Prop where
  idle : (s.func s.inp.func).running = none
  awake : (s.func s.inp.func).suspended = false
  head : (s.func s.inp.func).waiting = c.block :: rest
  read : c = s.blockAt c.block
  op : c.op = op

/-- The block is in form (R72, R74): its reserved bits are zero, SIZE is zero where the operation has none, and an operation of the PF
comes from the PF. -/
def State.InForm (s : State) (c : Cmd) : Prop :=
  c.flags < 2 ∧ s.blockNum (c.block + 5) 3 = 0 ∧ (c.size = 0 ∨ c.op = 2 ∨ c.op = 4 ∨ c.op = 0x10) ∧ (0x10 ≤ c.op → s.inp.func = 0)

/-- The block has left the queue and runs. -/
def State.begun (s : State) (c : Cmd) (rest : List Nat) : State :=
  s.updFunc s.inp.func fun x => { x with waiting := rest, running := some c }

/-- The event that begins an operation (R73). -/
def commandEvent : Nat → Option Instr
  | 1 => some .create | 2 => some .save | 3 => some .restore | 4 => some .switch | 5 => some .destroy | 6 => some .teardown
  | 7 => some .drain | 8 => some .undrain | 0x10 => some .vfsuspend | 0x11 => some .vfresume | 0x12 => some .assign
  | _ => none

/-! ### Dispatch -/

/-- The state in which a dispatcher decides: deadlines that have passed have taken effect, and winners that fit nowhere are noted (R123,
R139). -/
def State.atTurn (s : State) : State := s.expireAll.noteWinners

/-- What the three levels of arbitration give a dispatcher: the winning queue, of which context, the first item there and the arbiter
after it (R119-R123). -/
def State.Wins (s : State) (ctx d : Nat) (a : Arbiter) (i : ItemKind) : Prop :=
  s.atTurn.decide' s.inp.unit (!s.inp.flag) = some (d, a) ∧ s.atTurn.firstItem d = some i ∧ (s.atTurn.queue d).ctx = some ctx

/-- The cores of a context on a dispatcher's die. -/
def State.coresFor (s : State) (ctx : Nat) : List Nat := (s.atTurn.openCores ctx).filter fun k => k / 160 == s.inp.unit

/-! ### The canonical form of memory -/

/-- The memories of the package and of the host in canonical form: addresses rise strictly, and no entry is zero. -/
def MemSt.Canonical (m : MemSt) : Prop := m.dram.wf = true ∧ m.hostMem.wf = true

end Sys2Proof.Machine
end

