-- ==== Sys2Proof/Certificates/Slice0/Obligations.lean ====
section
/-! DEFINITION. The statements for the provers. Each docstring names the rules of the manual that a statement formalises. -/

open Sys2Proof Sys2Proof.Machine

/-- R361, R363: an integer instruction of majors 0x0C-0x0F that runs computes each element of its result from the matching
elements of its sources, writes it in the lanes of its effective mask, and changes nothing else but the step to the next
instruction. -/
def Claims.IntegerElements : Prop :=
  ∀ (i : Instr) (o : ElemForm) (s : State) (I : Iss), intForm i = some o → Runs i s I →
    ∃ t, exec i s = .next t ∧ o.Leaves I s t

/-- R361: an instruction of raw codes that runs computes each element of its result. -/
def Claims.RawElements : Prop :=
  ∀ (i : Instr) (o : ElemForm) (s : State) (I : Iss), rawForm i = some o → Runs i s I →
    ∃ t, exec i s = .next t ∧ o.Leaves I s t

/-- R362, R364-R366: the multiply-add, bit-field, address, selection and immediate instructions. -/
def Claims.IntegerValues : Prop :=
  ∀ (i : Instr) (o : LaneForm) (s : State) (I : Iss), wideForm i = some o → Runs i s I →
    ∃ t, exec i s = .next t ∧ o.Leaves I s t

/-- R361-R366: the integer instructions that run: element by element, of raw codes, and the wider forms. -/
def Obligations.IntegerArithmetic : Prop := Claims.IntegerElements ∧ Claims.RawElements ∧ Claims.IntegerValues

/-- R187, R260: a division with no enabled fault writes every lane and sets IDZ and IOV as they occur. -/
def Claims.DivisionCompletes : Prop :=
  ∀ (i : Instr) (o : ElemForm) (signed : Bool) (s : State) (I : Iss), divForm i = some (o, signed) → Runs i s I →
    (∀ l, l < 32 → (I.warp.eff o.pfx).getLsbD l = true →
      ¬ (I.crew.ten.getLsbD 0 = true ∧ o.DivZero I l) ∧
      ¬ (I.crew.ten.getLsbD 1 = true ∧ signed = true ∧ o.DivOverflow I l)) →
    ∃ t val fl, exec i s = .next t ∧ WritesReg I s t o.pfx o.d (o.tot / 32) val fl
      ∧ (∀ l j, j < o.tot / o.w → elemOf o.w (val l) j =
          o.f o.w (elemOf o.w (I.warp.laneNat o.a l (o.tot / 32)) j) (elemOf o.w (I.warp.laneNat o.b l (o.tot / 32)) j))
      ∧ ∀ k, k < 8 → (fl.getLsbD k = true ↔
          (k = 6 ∧ ∃ l, l < 32 ∧ (I.warp.eff o.pfx).getLsbD l = true ∧ o.DivZero I l) ∨
          (k = 7 ∧ signed = true ∧ ∃ l, l < 32 ∧ (I.warp.eff o.pfx).getLsbD l = true ∧ o.DivOverflow I l))

/-- R187: a division with an enabled fault in some lane writes nothing and raises INT_DZ if a lane of the enabled set has a
zero divisor, INT_OV otherwise, with the enabled set in TLANE and DETAIL bits 0 and 1 for any active lane. -/
def Claims.DivisionTraps : Prop :=
  ∀ (i : Instr) (o : ElemForm) (signed : Bool) (s : State) (I : Iss), divForm i = some (o, signed) → Runs i s I →
    ∀ dz ov en : BitVec 32,
    (∀ l, l < 32 → (dz.getLsbD l = true ↔ (I.warp.eff o.pfx).getLsbD l = true ∧ o.DivZero I l)) →
    (∀ l, l < 32 → (ov.getLsbD l = true ↔ (I.warp.eff o.pfx).getLsbD l = true ∧ signed = true ∧ o.DivOverflow I l)) →
    (∀ l, l < 32 → (en.getLsbD l = true ↔
      (I.crew.ten.getLsbD 0 = true ∧ dz.getLsbD l = true) ∨ (I.crew.ten.getLsbD 1 = true ∧ ov.getLsbD l = true))) →
    en ≠ 0 →
    exec i s = .next (s.takeTrap
      { cause := if en &&& dz ≠ 0 then cINTDZ else cINTOV,
        detail := (if dz ≠ 0 then 1 else 0) + (if ov ≠ 0 then 2 else 0), lanes := en })

/-- R187, R260: a division completes, or traps, by its enabled faults. (Rests on choices of the model: log 15.) -/
def Obligations.Divisions : Prop := Claims.DivisionCompletes ∧ Claims.DivisionTraps

/-! ### Floating point, conversions, masks and cross-lane instructions -/

/-- R368-R391: an arithmetic or conversion instruction that runs writes in each lane of its effective mask the result that its
rule gives, and ORs the flags of those lanes into `c.FLAGS`. -/
def Claims.FloatResults : Prop :=
  ∀ (i : Instr) (o : LaneForm) (s : State) (I : Iss), floatForm i = some o → Runs i s I →
    ∃ t, exec i s = .next t ∧ o.Leaves I s t

/-- R390: `CVTNE` writes the narrowed element as `CVTN` does and the residual in the fourth operand, which a named prefix gives. -/
def Claims.NarrowWithResidual : Prop :=
  ∀ (p : Pfx) (d a : BitVec 7) (x sc e : BitVec 3) (s : State) (I : Iss), Runs (.cvtne (some p) d a x sc e) s I →
    ∃ t w v, exec (.cvtne (some p) d a x sc e) s = .next t
      ∧ I.warp.Written v I.ctl (some p) d 1 (fun l => cvInsert x.toNat e.toNat (I.warp.lane d l).toNat (I.narrow (some p) a x.toNat sc.toNat l).1)
      ∧ v.Written w I.ctl (some p) p.op4 1
          (fun l => residualC (I.cvSrc sc.toNat a l) ((cvf x.toNat).value (I.narrow (some p) a x.toNat sc.toNat l).1))
      ∧ t = I.retiredWith s w (orFlags (I.warp.eff (some p)) fun l => (I.narrow (some p) a x.toNat sc.toNat l).2) 8

/-- R368-R391: the floating-point arithmetic and conversions. (Rests on choices of the model: log 7.) -/
def Obligations.FloatingPoint : Prop := Claims.FloatResults ∧ Claims.NarrowWithResidual

/-- R349, R352, R393-R397: the instructions that give the warp one word and those that move words between lanes. -/
def Claims.WarpResults : Prop :=
  ∀ (i : Instr) (o : LaneForm) (s : State) (I : Iss), warpForm i = some o → Runs i s I →
    ∃ t, exec i s = .next t ∧ o.Leaves I s t

/-- R396: a vote with a participating lane writes 1 in each of them when its condition holds and 0 when it does not; with none it
writes nothing. -/
def Claims.Votes : Prop :=
  ∀ (i : Instr) (p : Option Pfx) (d : BitVec 7) (C : Iss → Prop) (s : State) (I : Iss), voteForm i = some (p, d, C) → Runs i s I →
    ∃ t, exec i s = .next t ∧
      (I.warp.eff p ≠ 0 → ∃ v : Nat, WritesReg I s t p d 1 (fun _ => v) 0 ∧ (v = 1 ∧ C I ∨ v = 0 ∧ ¬ C I)) ∧
      (I.warp.eff p = 0 → t = I.retiredWith s I.warp 0 (sizeP p))

/-- R353, R365, R379, R392, R393: the instructions that write mask bits. -/
def Claims.MaskResults : Prop :=
  ∀ (i : Instr) (o : MaskForm) (s : State) (I : Iss), maskForm i = some o → Runs i s I →
    ∃ t, exec i s = .next t ∧ WritesMask I s t o.pfx o.k.toNat (o.val I) (o.flags I)

/-- R349, R352, R353, R365, R379, R392-R397: values for the warp, moves between lanes, votes and mask bits. (Rests on choices of the model: log 19.) -/
def Obligations.CrossLane : Prop := Claims.WarpResults ∧ Claims.Votes ∧ Claims.MaskResults

/-! ### Control flow -/

/-- R344, R160: a branch with room in the divergence list, which does not go back while other sides wait, writes its return address
or its count, and resolves: all lanes go, none go, or the taking lanes run at the target and the others are pushed. -/
def Claims.BranchResolves : Prop :=
  ∀ (i : Instr) (f : BranchForm) (s : State) (I : Iss), branchForm i = some f → Runs i s I →
    I.warp.div.length < 16 → (I.warp.div = [] ∨ I.warp.run.pc.toNat < (I.targetOf f.off).toNat) →
    ((I.targetOf f.off).toNat ≤ I.warp.run.pc.toNat → f.taken I = I.warp.m0 ∨ f.taken I = 0) →
    ∃ w, Linked i I.warp w I.ctl ∧ exec i s = .next (I.withWarp s (w.resolved (f.taken I) (I.targetOf f.off)))

/-- R160: a branch that would push onto a divergence list of sixteen entries raises DIVERGE_OVF and changes no register. -/
def Claims.BranchOverflows : Prop :=
  ∀ (i : Instr) (f : BranchForm) (s : State) (I : Iss), branchForm i = some f → Runs i s I →
    16 ≤ I.warp.div.length → f.taken I ≠ I.warp.m0 → f.taken I ≠ 0 →
    exec i s = .next (s.takeTrap { cause := cDIVERGE, lanes := I.warp.m0 })

/-- R161: a taken backward branch is a yield point: the running side goes to the back of the list and the front entry runs. -/
def Claims.BackwardBranchYields : Prop :=
  ∀ (i : Instr) (f : BranchForm) (s : State) (I : Iss) (sd : Side) (rest : List Side), branchForm i = some f → Runs i s I →
    f.taken I = I.warp.m0 → (I.targetOf f.off).toNat ≤ I.warp.run.pc.toNat → I.warp.m0 ≠ 0 →
    I.warp.div = sd :: rest → sd.wait = .none →
    (∀ x, x ∈ rest ++ [{ I.warp.run with pc := I.targetOf f.off }] → x.pc ≠ sd.pc) →
    ∃ w, Linked i I.warp w I.ctl ∧ exec i s = .next (I.withWarp s { w.movedTo (I.targetOf f.off) with
      run := sd, div := rest ++ [{ I.warp.run with pc := I.targetOf f.off }], issued := 0 })

/-- R160, R161: a backward branch that splits its lanes pushes those that fall through, and then yields: they run at the next word, and
the taking lanes stand at the back of the list. -/
def Claims.BackwardSplitYields : Prop :=
  ∀ (i : Instr) (f : BranchForm) (s : State) (I : Iss), branchForm i = some f → Runs i s I →
    f.taken I ≠ I.warp.m0 → f.taken I ≠ 0 → (I.targetOf f.off).toNat ≤ I.warp.run.pc.toNat → I.warp.div.length < 16 →
    I.targetOf f.off ≠ I.warp.run.pc + 4 → (∀ x, x ∈ I.warp.div → x.pc ≠ I.warp.run.pc + 4) →
    ∃ w, Linked i I.warp w I.ctl ∧ exec i s = .next (I.withWarp s { w.movedTo (I.targetOf f.off) with
      run := ⟨I.warp.run.pc + 4, I.warp.m0 &&& ~~~(f.taken I), I.warp.run.wbase, .none⟩,
      div := I.warp.div ++ [⟨I.targetOf f.off, f.taken I, I.warp.run.wbase, .none⟩], issued := 0 })

/-- R162: a `BRD` on which the lanes of some slice agree to fall through, in a quadrant with room for a warp, leaves those slices to a
new warp at the next word, and the rest of the warp resolves as any branch. -/
def Claims.BrdSplits : Prop :=
  ∀ (m : BitVec 4) (o : BitVec 20) (s : State) (I : Iss), Runs (.brd m o) s I →
    let T := I.warp.m0 &&& I.warp.mask m.toNat
    let moved := brdMoved I.warp T
    T ≠ I.warp.m0 → T ≠ 0 → moved ≠ 0 → I.warp.m0 &&& ~~~T &&& ~~~moved = 0 →
    s.warpsIn I.crew.core I.warp.quad < 64 → I.warp.run.pc.toNat < (I.targetOf o.toInt).toNat →
    ∃ t c v, exec (.brd m o) s = .next t ∧ t.crew I.cid = some c ∧ c.nextWid = I.crew.nextWid + 1
      ∧ c.warps.find I.crew.nextWid = some v
      ∧ v.run = ⟨I.warp.run.pc + 4, I.warp.m0 &&& moved, I.warp.run.wbase, .none⟩ ∧ v.div = []
      ∧ v.lanes = keepLanes I.warp.lanes moved true ∧ v.regs = I.warp.regs ∧ v.masks = I.warp.masks
      ∧ (I.wid ≠ I.crew.nextWid → ∃ w, c.warps.find I.wid = some w ∧ w.run = ⟨I.targetOf o.toInt, T, I.warp.run.wbase, .none⟩
          ∧ w.div = I.warp.div ∧ w.lanes = keepLanes I.warp.lanes moved false ∧ w.regs = I.warp.regs)

/-- R160, R162, R344: how a branch resolves, overflows the divergence list, or splits its warp. (Rests on choices of the model: logs 14, 19.) -/
def Obligations.Branches : Prop := Claims.BranchResolves ∧ Claims.BranchOverflows ∧ Claims.BrdSplits

/-- R345: a jump whose lanes hold aligned targets within 57 bits, with room for the sides it pushes, runs the lanes of the target that
the lowest active lane holds, with the other targets at the front of the list in the order of their lowest lanes. -/
def Claims.JumpGroups : Prop :=
  ∀ (i : Instr) (a : BitVec 7) (s : State) (I : Iss), jumpPair i = some a → Runs i s I →
    let tgt (l : Nat) := I.warp.laneNat a l 2
    (∀ l, l < 32 → I.warp.m0.getLsbD l = true → tgt l % 4 = 0 ∧ tgt l < 2 ^ 57) → I.warp.m0 ≠ 0 →
    (∀ gs : List Nat, gs.Nodup → (∀ x ∈ gs, ∃ l, l < 32 ∧ I.warp.m0.getLsbD l = true ∧ tgt l = x) →
      I.warp.div.length + gs.length ≤ 17) →
    ∃ w g gs, Linked i I.warp w I.ctl
      ∧ exec i s = .next (I.withWarp s { w.movedTo g.pc with run := g, div := gs ++ I.warp.div })
      ∧ (∀ x ∈ g :: gs, x.lanes ≠ 0 ∧ x.wbase = I.warp.run.wbase ∧ x.wait = .none
          ∧ ∀ l, l < 32 → (x.lanes.getLsbD l = true ↔ I.warp.m0.getLsbD l = true ∧ tgt l = x.pc.toNat))
      ∧ (∀ l, l < 32 → I.warp.m0.getLsbD l = true → ∃ x ∈ g :: gs, x.lanes.getLsbD l = true)
      ∧ List.Pairwise (fun x y => lowest x.lanes < lowest y.lanes) (g :: gs)

/-- R345, R328: a jump with a misaligned target in some active lane raises ILLEGAL with those lanes and jumps no lane. -/
def Claims.JumpMisaligned : Prop :=
  ∀ (i : Instr) (a : BitVec 7) (s : State) (I : Iss) (odd : BitVec 32), jumpPair i = some a → Runs i s I →
    (∀ l, l < 32 → (odd.getLsbD l = true ↔ I.warp.m0.getLsbD l = true ∧ I.warp.laneNat a l 2 % 4 ≠ 0)) → odd ≠ 0 →
    exec i s = .next (s.takeTrap { cause := cILLEGAL, lanes := odd })

/-- R346, R349, R352: `NOP`, and `RJOIN` and `YIELD` of a warp with one side, step to the next instruction; `YIELD` gives up the
warp's next turn except on a control core; `WINB` with room sets the window base; `TAGG` makes a register general and keeps its words. -/
def Claims.FlowSteps : Prop :=
  ∀ (s : State) (I : Iss),
    (Runs .nop s I → exec .nop s = .next (I.withWarp s (I.warp.movedTo (I.warp.run.pc + 4)))) ∧
    (Runs .rjoin s I → I.warp.div = [] → exec .rjoin s = .next (I.withWarp s (I.warp.movedTo (I.warp.run.pc + 4)))) ∧
    (Runs .yield s I → I.warp.div = [] →
      exec .yield s = .next (I.withWarp s { I.warp.movedTo (I.warp.run.pc + 4) with skipTurn := !I.ctl || I.warp.skipTurn })) ∧
    (∀ b, Runs (.winb b) s I → 16 * b.toNat + 16 ≤ I.crew.nregs → I.crew.nregs ≤ 512 →
      exec (.winb b) s = .next (I.withWarp s { I.warp.movedTo (I.warp.run.pc + 4) with
        run := { I.warp.run with pc := I.warp.run.pc + 4, wbase := BitVec.ofNat 5 b.toNat } })) ∧
    (∀ b, Runs (.winb b) s I → I.crew.nregs < 16 * b.toNat + 16 → exec (.winb b) s = .next (s.takeTrap illegalT)) ∧
    (∀ d, Runs (.tagg d) s I → ∃ w : Warp, exec (.tagg d) s = .next (I.withWarp s (w.movedTo (I.warp.run.pc + 4)))
      ∧ w = { I.warp with regs := w.regs }
      ∧ (∀ n l, l < 32 → w.lane n l = I.warp.lane n l)
      ∧ (d ≠ 0 → (w.reg d).isUni = false ∧ (w.reg d).aff? = none))

/-- R328, R345, R346, R349, R352: jumps, and the instructions that step on. -/
def Obligations.Jumps : Prop := Claims.JumpGroups ∧ Claims.JumpMisaligned ∧ Claims.FlowSteps

/-- R346, R161: `RJOIN` and `YIELD` of a warp with a front side that can issue go to the back of the list, and that side runs. -/
def Claims.YieldSwitches : Prop :=
  ∀ (i : Instr) (s : State) (I : Iss) (sd : Side) (rest : List Side), i = .rjoin ∨ i = .yield → Runs i s I → I.warp.m0 ≠ 0 →
    I.warp.div = sd :: rest → sd.wait = .none →
    (∀ x, x ∈ rest ++ [{ I.warp.run with pc := I.warp.run.pc + 4 }] → x.pc ≠ sd.pc) →
    exec i s = .next (I.withWarp s { I.warp.movedTo (I.warp.run.pc + 4) with
      run := sd, div := rest ++ [{ I.warp.run with pc := I.warp.run.pc + 4 }], issued := 0,
      skipTurn := (i == .yield && !I.ctl) || I.warp.skipTurn })

/-- R160, R161, R346: the yield points. (Rests on choices of the model: log 14.) -/
def Obligations.YieldingFlow : Prop :=
  Claims.BackwardBranchYields ∧ Claims.BackwardSplitYields ∧ Claims.YieldSwitches

/-! ### Memory accesses -/

/-- R400, R401, R403, R404: a load whose lanes reach memory gives each lane of its effective mask the bytes that the core sees at the
lane's address, zero- or sign-extended; nothing that the core sees changes, and nothing else of the machine. -/
def Claims.Loads : Prop :=
  ∀ (p : Option Pfx) (d a : BitVec 7) (sc : BitVec 3) (k : BitVec 2) (w : BitVec 3) (s : State) (I : Iss) acc,
    Runs (.ld p d a sc k w) s I → s.Mirrors I.crew.core →
    I.Reaches s { n := ldwBytes w.toNat, aligned := decide (k ≠ 0), home := decide (k ≠ 0) && wideScope sc } a (I.warp.eff p) acc →
    ∃ t, exec (.ld p d a sc k w) s = .next t ∧
      LoadsValue I s t p d (ldwRegs w) fun l => ldwValue w.toNat ((s.image I.crew.core).read (I.cells a (ldwBytes w.toNat) acc l))

/-- R405: `LDC` reads once, at the address in the lowest active lane, and gives every lane of its effective mask that value. -/
def Claims.LoadsConstant : Prop :=
  ∀ (p : Option Pfx) (d a : BitVec 7) (w : BitVec 3) (s : State) (I : Iss) acc,
    Runs (.ldc p d a w) s I → s.Mirrors I.crew.core → I.warp.m0 ≠ 0 →
    I.Reaches s { n := ldwBytes w.toNat } a (laneBit (lowest I.warp.m0)) acc →
    ∃ t, exec (.ldc p d a w) s = .next t ∧ LoadsValue I s t p d (ldwRegs w) fun _ =>
      ldwValue w.toNat ((s.image I.crew.core).read (I.cells a (ldwBytes w.toNat) acc (lowest I.warp.m0)))

/-- R188, R189, R406: `LDX` loads lane by lane from the lane of a pending progress index at its own address, or from lane 0; lanes below
that index, and lanes outside its effective mask without zeroing, keep their words; an index beyond the last lane leaves nothing to do. -/
def Claims.GathersLanes : Prop :=
  ∀ (p : Option Pfx) (d a : BitVec 7) (w : BitVec 3) (s : State) (I : Iss) acc (start : Nat),
    Runs (.ldx p d a w) s I → s.Mirrors I.crew.core → start = I.startItem →
    I.Reaches s { n := ldwBytes w.toNat } a (I.warp.eff p &&& maskOf fun l => decide (start ≤ l)) acc →
    ∃ t u v, exec (.ldx p d a w) s = .next t ∧ s.MemoryOnly u I.crew.core ∧ u.image I.crew.core = s.image I.crew.core
      ∧ v.sameButRegs I.warp ∧ t = I.retiredWith u v 0 (sizeP p)
      ∧ (d ≠ 0 → ∀ l, l < 32 → (I.warp.eff p).getLsbD l = true → start ≤ l →
          v.laneNat d l (ldwRegs w) = ldwValue w.toNat ((s.image I.crew.core).read (I.cells a (ldwBytes w.toNat) acc l)))
      ∧ (∀ l, l < 32 → (I.warp.eff p).getLsbD l = true → l < start → ∀ k, k < ldwRegs w →
          v.lane (regPlus d k) l = I.warp.lane (regPlus d k) l)
      ∧ (∀ l, l < 32 → (I.warp.eff p).getLsbD l = false → ∀ k, k < ldwRegs w →
          v.lane (regPlus d k) l = if zeroing p && I.warp.m0.getLsbD l
              && (start == 0 || I.warp.eff p &&& maskOf (fun j => decide (start ≤ j)) != 0) then 0 else I.warp.lane (regPlus d k) l)
      ∧ ∀ r, (∀ k, k < ldwRegs w → r ≠ physReg I.warp.run.wbase d + k) → v.regs.get (.uniform 0) r = I.warp.regs.get (.uniform 0) r

/-- R188, R189, R400-R406: the loads. (Rests on choices of the model: log 12.) -/
def Obligations.LoadsComplete : Prop := Claims.Loads ∧ Claims.LoadsConstant ∧ Claims.GathersLanes

/-- R403, R405, R248: a store whose lanes reach memory puts the low bytes of the register at each lane's address, the highest lane's
byte standing where lanes overlap, and every other byte that the core sees stays; an SR store at cluster scope or wider waits in
the write buffers unless its page is strongly ordered or of the host. -/
def Claims.Stores : Prop :=
  ∀ (p : Option Pfx) (d a : BitVec 7) (sc : BitVec 3) (k : BitVec 2) (w : BitVec 3) (s : State) (I : Iss) acc,
    Runs (.st p d a sc k w) s I → s.Mirrors I.crew.core → I.Elsewhere s a (rawBytes w.toNat) →
    I.Reaches s { n := rawBytes w.toNat, write := true, aligned := decide (k ≠ 0), home := decide (k ≠ 0) && wideScope sc } a
      (I.warp.eff p) acc →
    let n := rawBytes w.toNat
    let data (l : Nat) := bytesLE n (I.warp.laneNat d l (rawRegs w))
    let now (l : Nat) : Bool := k = 0 || k = 2 || !wideScope sc || (acc l).1.ord = ordSO || ((acc l).1.host && !s.cxl)
    (∀ l m, l < 32 → m < 32 → now l ≠ now m → ∀ c, c ∈ I.cells a n acc l → ∀ c', c' ∈ I.cells a n acc m →
      c.1 ≠ c'.1 ∨ c.2 / 128 ≠ c'.2 / 128) →
    ∃ t u fences, exec (.st p d a sc k w) s = .next t ∧ s.MemoryOnly u I.crew.core
      ∧ u.image I.crew.core = I.stored a n acc data (s.image I.crew.core) ((lanesOf (I.warp.eff p)).filter now)
      ∧ (u.core I.crew.core).wbuf = ((lanesOf (I.warp.eff p)).filter fun l => !now l).map (fun l =>
          let va := I.warp.laneNat a l 2
          ⟨I.cid, I.warp.index l, (acc l).1.addr va, data l, bits ((acc l).1.addr va) 7 2, (acc l).1⟩)
      ∧ (k ≠ 2 → fences = I.crew.relFence)
      ∧ t = (({ I with crew := { I.crew with relFence := fences } } : Iss).retire (sizeP p)).put u

/-- R203: what a cue run stores to the data of its own element, but at its home slice, changes nothing that anything else sees: it is kept
with the binding, in the order of the lanes. -/
def Claims.RunsStoreHidden : Prop :=
  ∀ (p : Option Pfx) (d a : BitVec 7) (sc w : BitVec 3) (s : State) (I : Iss) (b : Binding) acc,
    Runs (.st p d a sc 0 w) s I → s.mem.poison = [] → I.crew.relFence = [] → I.crew.kind = .cue →
    I.Reaches s { n := rawBytes w.toNat, write := true } a (I.warp.eff p) acc → s.bindings.find I.crew.binding = some b →
    let n := rawBytes w.toNat
    let at' (l i : Nat) := partOf (I.warp.laneNat a l 2) i (acc l).1 (acc l).2
    let kept : List Hidden := (lanesOf (I.warp.eff p)).flatMap fun l => (List.range n).map fun i =>
      ⟨I.warp.index l, I.warp.laneNat a l 2 + i, (at' l i).1, (bytesLE n (I.warp.laneNat d l (rawRegs w))).getD i 0⟩
    (∀ l, l < 32 → ∀ i, i < n → b.ownData (I.warp.index l) (I.warp.laneNat a l 2 + i) = true ∧ atHome s (at' l i).1 (at' l i).2 false = false) →
    ∃ u, exec (.st p d a sc 0 w) s = .next ((I.retire (sizeP p)).put u) ∧ u = { s with bindings := u.bindings, cores := u.cores }
      ∧ u.bindings.find I.crew.binding = some { b with hidden := b.hidden ++ kept }
      ∧ (∀ k, k ≠ I.crew.binding → u.bindings.find k = s.bindings.find k)
      ∧ (∀ k, k ≠ I.crew.core → u.core k = s.core k)
      ∧ u.core I.crew.core = { s.core I.crew.core with own := (u.core I.crew.core).own }

/-- R188, R406: `STX` stores lane by lane from the lane of a pending progress index at its own address, or from lane 0. -/
def Claims.ScattersLanes : Prop :=
  ∀ (p : Option Pfx) (d a : BitVec 7) (w : BitVec 3) (s : State) (I : Iss) acc (start : Nat),
    Runs (.stx p d a w) s I → s.Mirrors I.crew.core → s.allBindings = [] → start = I.startItem →
    I.Reaches s { n := rawBytes w.toNat, write := true } a (I.warp.eff p &&& maskOf fun l => decide (start ≤ l)) acc →
    ∃ u, exec (.stx p d a w) s = .next ((I.retire (sizeP p)).put u) ∧ s.MemoryOnly u I.crew.core
      ∧ u.image I.crew.core = I.stored a (rawBytes w.toNat) acc
          (fun l => bytesLE (rawBytes w.toNat) (I.warp.laneNat d l (rawRegs w))) (s.image I.crew.core)
          ((lanesOf (I.warp.eff p)).filter fun l => decide (start ≤ l))

/-- R408-R410: an atomic whose lanes reach memory updates the value at each lane's address in ascending lane order, each seeing what the
lower lanes left, and gives each lane the value that it found; compare-and-swap takes its comparand from the prefix's fourth operand. -/
def Claims.Atomics : Prop :=
  ∀ (i : Instr) (p : Option Pfx) (d a : BitVec 7) (k : BitVec 2) (sc : BitVec 3) (o : Nat) (t : BitVec 2) (cmp : BitVec 7) (s : State) (I : Iss) acc,
    (∃ c : BitVec 3, c.toNat = o ∧ cmp = 0 ∧ i = .atom p d a k sc c t) ∨
      (∃ q, p = some q ∧ cmp = q.op4 ∧ o = 7 ∧ i = .atomCas p d a k sc t) →
    Runs i s I → s.Mirrors I.crew.core → I.Elsewhere s a (atomW t.toNat / 8) →
    I.Reaches s { n := atomW t.toNat / 8, atomic := true, write := true, aligned := true, home := wideScope sc } a (I.warp.eff p) acc →
    let w := atomW t.toNat
    let val (n : BitVec 7) (l : Nat) : BitVec w := BitVec.ofNat w (I.warp.laneNat n l (atomRegs t))
    let r := I.modified a (w / 8) acc
      (fun l old => (atomOp o w (atomS t.toNat) (BitVec.ofNat w old) (val d l) (val cmp l)).toNat)
      (s.image I.crew.core) (lanesOf (I.warp.eff p))
    ∃ t' u v fences, exec i s = .next t' ∧ s.MemoryOnly u I.crew.core ∧ u.image I.crew.core = r.1
      ∧ I.warp.Written v I.ctl p d (atomRegs t) (fun l => valOf r.2 l)
      ∧ (k = 0 ∨ k = 1 → fences = I.crew.relFence)
      ∧ t' = ({ I with crew := { I.crew with relFence := fences } } : Iss).retiredWith u v 0 (sizeP p)

/-- R188, R407: `REDM` updates memory as an atomic without a result, lane by lane from its progress index; its code 6 is the FP32 sum
rounded to nearest even. -/
def Claims.Reductions : Prop :=
  ∀ (p : Option Pfx) (d a : BitVec 7) (k : BitVec 2) (sc o : BitVec 3) (t : BitVec 2) (s : State) (I : Iss) acc (start : Nat),
    Runs (.redm p d a k sc o t) s I → s.Mirrors I.crew.core → s.allBindings = [] → start = I.startItem →
    I.Reaches s { n := atomW t.toNat / 8, atomic := true, write := true, aligned := true, home := wideScope sc } a
      (I.warp.eff p &&& maskOf fun l => decide (start ≤ l)) acc →
    let w := atomW t.toNat
    ∃ u fences, exec (.redm p d a k sc o t) s = .next ((({ I with crew := { I.crew with relFence := fences } } : Iss).retire (sizeP p)).put u)
      ∧ s.MemoryOnly u I.crew.core ∧ (k ≠ 2 → fences = I.crew.relFence)
      ∧ u.image I.crew.core = (I.modified a (w / 8) acc
          (fun l old =>
            if o = 6 then (faddC fp32 .rne .ieee old (I.warp.laneNat d l (atomRegs t))).1
            else (atomOp o.toNat w (atomS t.toNat) (BitVec.ofNat w old) (BitVec.ofNat w (I.warp.laneNat d l (atomRegs t))) 0).toNat)
          (s.image I.crew.core) ((lanesOf (I.warp.eff p)).filter fun l => decide (start ≤ l))).1

/-- R188, R407-R410: the atomics and reductions of memory. (Rests on choices of the model: log 26.) -/
def Obligations.AtomicsComplete : Prop := Claims.Atomics ∧ Claims.Reductions

/-- R177, R402: when lanes of a load, store or atomic fail their checks and none needs a walk, the cause with the lowest code is raised
before any effect, with every lane that has it and the address of the lowest of them. -/
def Claims.AccessTraps : Prop :=
  ∀ (i : Instr) (q : Need) (p : Option Pfx) (a : BitVec 7) (s : State) (I : Iss) (cause : Nat) (lanes : BitVec 32) (l0 ta : Nat),
    ((∃ d sc k w, i = .ld p d a sc k w ∧
        q = { n := ldwBytes w.toNat, aligned := decide (k ≠ 0), home := decide (k ≠ 0) && wideScope sc }) ∨
     (∃ d sc k w, i = .st p d a sc k w ∧
        q = { n := rawBytes w.toNat, write := true, aligned := decide (k ≠ 0), home := decide (k ≠ 0) && wideScope sc }) ∨
     (∃ d sc k o t, i = .atom p d a k sc o t ∧
        q = { n := atomW t.toNat / 8, atomic := true, write := true, aligned := true, home := wideScope sc }) ∨
     (∃ d sc k t, i = .atomCas p d a k sc t ∧
        q = { n := atomW t.toNat / 8, atomic := true, write := true, aligned := true, home := wideScope sc })) →
    Runs i s I →
    let chk (l : Nat) := s.checkAccess I.crew.core I.crew.ctx (I.warp.laneNat a l 2) I.warp.badPages q
    (∀ l, l < 32 → (I.warp.eff p).getLsbD l = true → ∀ va, chk l ≠ .miss va) →
    (∀ l, l < 32 → (I.warp.eff p).getLsbD l = true → ∀ c v, chk l = .bad c v → cause ≤ c) →
    (∀ l, l < 32 → (lanes.getLsbD l = true ↔ (I.warp.eff p).getLsbD l = true ∧ ∃ v, chk l = .bad cause v)) →
    lanes ≠ 0 → l0 = lowest lanes → chk l0 = .bad cause ta → cause ≠ cPOISON →
    exec i s = .next (s.takeTrap { cause := cause, detail := q.detail, taddr := ta % 2 ^ 57, lanes := lanes })

/-- R216, R80, R402: what an access of `n` bytes whose page is held by a TLB gets: PAGE beyond 57 address bits, ALIGN where it must be
aligned and is not, ACCESS without the permission, PROTECT when the key slot of the page is not loaded. -/
def Claims.AccessCauses : Prop :=
  ∀ (s : State) (core ctx va : Nat) (q : Need) (bad : List BadPage),
    (2 ^ 57 ≤ va → s.checkAccess core ctx va bad q = .bad cPAGE va) ∧
    ∀ e, va < 2 ^ 57 → s.tlbHit core ctx va = some e → bad = [] → va % 65536 + q.n ≤ 65536 → q.align = 0 → 0 < q.n →
      (q.aligned = true → va % q.n ≠ 0 → s.permits e q = none → s.allBindings = [] → s.migrating = [] →
        s.ownedLine core e (e.addr va) 1 (atHome s e (e.addr va) q.home) bad = none → s.checkAccess core ctx va bad q = .bad cALIGN va) ∧
      ((q.write = true ∨ q.atomic = true) → e.w = false → s.checkAccess core ctx va bad q = .bad cACCESS va) ∧
      (q.write = false ∨ q.atomic = true → q.exec = false → e.r = false → s.checkAccess core ctx va bad q = .bad cACCESS va) ∧
      (q.exec = true → e.x = false → s.checkAccess core ctx va bad q = .bad cACCESS va) ∧
      (e.r = true → e.w = true → e.x = true → e.host = false → e.slot ≠ 0 → s.keys.find e.slot = none →
        s.checkAccess core ctx va bad q = .bad cPROTECT va)

/-- R80, R177, R216, R402: which accesses trap, and with what. (Rests on choices of the model: logs 26, 44.) -/
def Obligations.AccessFaults : Prop := Claims.AccessTraps ∧ Claims.AccessCauses

/-- R188, R177: a lane-by-lane instruction whose lane `j` fails its check after lower lanes succeeded raises the cause with that
lane as its progress index, and the lanes below it are done: here of `STX`. -/
def Claims.ScatterStops : Prop :=
  ∀ (p : Option Pfx) (d a : BitVec 7) (w : BitVec 3) (s : State) (I : Iss) acc (start j cause ta : Nat),
    Runs (.stx p d a w) s I → s.Mirrors I.crew.core → s.allBindings = [] → start = I.startItem →
    start ≤ j → j < 32 → (I.warp.eff p).getLsbD j = true →
    I.Reaches s { n := rawBytes w.toNat, write := true } a (I.warp.eff p &&& maskOf fun l => decide (start ≤ l ∧ l < j)) acc →
    s.checkAccess I.crew.core I.crew.ctx (I.warp.laneNat a j 2) I.warp.badPages { n := rawBytes w.toNat, write := true } = .bad cause ta →
    cause ≠ cPOISON → (∀ host line, (s.mem.dirOf host line).owners = []) →
    ∃ u, exec (.stx p d a w) s = .next ((I.put u).takeTrap
        { cause := cause, detail := 1, taddr := ta % 2 ^ 57, lanes := laneBit j, pidx := j })
      ∧ s.MemoryOnly u I.crew.core
      ∧ u.image I.crew.core = I.stored a (rawBytes w.toNat) acc
          (fun l => bytesLE (rawBytes w.toNat) (I.warp.laneNat d l (rawRegs w))) (s.image I.crew.core)
          ((lanesOf (I.warp.eff p)).filter fun l => decide (start ≤ l) && decide (l < j))

/-- R177, R188, R203, R248, R403, R405, R406: the stores. (Rests on choices of the model: logs 30, 33.) -/
def Obligations.StoresComplete : Prop := Claims.Stores ∧ Claims.RunsStoreHidden ∧ Claims.ScattersLanes ∧ Claims.ScatterStops

/-! ### The scratchpad -/

/-- R225, R411: `LDL` gives each lane the bytes at its offset in the crew's window, extended; its requests enter the bank queues. -/
def Claims.ScratchpadLoads : Prop :=
  ∀ (p : Option Pfx) (d a : BitVec 7) (q : BitVec 1) (w : BitVec 3) (s : State) (I : Iss),
    Runs (.ldl p d a q w) s I → I.SpadReady s a (ldwBytes w.toNat) true (I.warp.eff p) →
    ∃ t u v v', exec (.ldl p d a q w) s = .next t
      ∧ I.warp.Written v I.ctl p d (ldwRegs w) (fun l =>
          ldwValue w.toNat ((s.core I.crew.core).spad.num (I.crew.spadBase + (I.warp.lane a l).toNat) (ldwBytes w.toNat)))
      ∧ I.queued s u a (I.warp.eff p) true v v' (s.core I.crew.core).spad ∧ t = I.retiredWith u v' 0 (sizeP p)

/-- R225, R411: `STL` writes the low bytes of the register at each lane's offset, and no other byte of the scratchpad changes. -/
def Claims.ScratchpadStores : Prop :=
  ∀ (p : Option Pfx) (d a : BitVec 7) (q : BitVec 1) (w : BitVec 3) (s : State) (I : Iss),
    Runs (.stl p d a q w) s I → s.SpadQuiet I.crew.core → I.SpadReady s a (rawBytes w.toNat) false (I.warp.eff p) →
    ∃ u v, exec (.stl p d a q w) s = .next (I.retiredWith u v 0 (sizeP p)) ∧
      I.queued s u a (I.warp.eff p) false I.warp v (I.spadStored a (fun l => bytesLE (rawBytes w.toNat) (I.warp.laneNat d l (rawRegs w)))
        (s.core I.crew.core).spad (lanesOf (I.warp.eff p)))

/-- R410: the atomics of the scratchpad. -/
def Claims.ScratchpadAtomics : Prop :=
  ∀ (i : Instr) (p : Option Pfx) (d a : BitVec 7) (k : BitVec 2) (o : Nat) (t : BitVec 2) (cmp : BitVec 7) (s : State) (I : Iss),
    (∃ c : BitVec 3, c.toNat = o ∧ cmp = 0 ∧ i = .atoml p d a k c t) ∨
      (∃ q, p = some q ∧ cmp = q.op4 ∧ o = 7 ∧ i = .atomlCas p d a k t) →
    Runs i s I → s.SpadQuiet I.crew.core → I.SpadReady s a (atomW t.toNat / 8) true (I.warp.eff p) →
    let w := atomW t.toNat
    let val (n : BitVec 7) (l : Nat) : BitVec w := BitVec.ofNat w (I.warp.laneNat n l (atomRegs t))
    let r := I.spadModified a (w / 8)
      (fun l old => (atomOp o w (atomS t.toNat) (BitVec.ofNat w old) (val d l) (val cmp l)).toNat)
      (s.core I.crew.core).spad (lanesOf (I.warp.eff p))
    ∃ u v v', exec i s = .next (I.retiredWith u v' 0 (sizeP p)) ∧ I.warp.Written v I.ctl p d (atomRegs t) (fun l => valOf r.2 l)
      ∧ I.queued s u a (I.warp.eff p) true v v' r.1

/-- R412: the presence instructions: `PRES` reads the bit, `PCLR` clears it, and `PSET` sets the bit of every line that no copy
item is filling, after which nothing waits on it. -/
def Claims.PresenceBits : Prop :=
  ∀ (s : State) (I : Iss) (d a : BitVec 7) (line : Nat → Nat),
    (∀ l, line l = (I.crew.spadBase + (I.warp.lane a l).toNat) / 128) → I.warp.m0 ≠ 0 →
    (∀ l, l < 32 → I.warp.m0.getLsbD l = true → (I.warp.lane a l).toNat < I.crew.spadSize) →
    (Runs (.pres d a) s I → ∃ t, exec (.pres d a) s = .next t ∧ WritesReg I s t none d 1
      (fun l => if line l ∈ (s.core I.crew.core).absent then 0 else 1) 0) ∧
    (Runs (.pclr a) s I → ∃ ab, exec (.pclr a) s = .next (I.retiredWith
        (s.setCore I.crew.core { s.core I.crew.core with absent := ab }) I.warp 0 4)
      ∧ ∀ j, j ∈ ab ↔ j ∈ (s.core I.crew.core).absent ∨ ∃ l, l < 32 ∧ I.warp.m0.getLsbD l = true ∧ j = line l) ∧
    (Runs (.pset a) s I → (s.core I.crew.core).wbuf = [] → (∀ x, x ∈ s.bindings → x.2.hidden = []) → ∃ t, exec (.pset a) s = .next t
      ∧ t = { s with cores := t.cores, crews := t.crews }
      ∧ (∀ k, k ≠ I.crew.core → t.core k = s.core k)
      ∧ t.core I.crew.core = { s.core I.crew.core with absent := (t.core I.crew.core).absent }
      ∧ ∀ j, let hit := (∃ l, l < 32 ∧ I.warp.m0.getLsbD l = true ∧ j = line l) ∧ ∀ x, x ∈ (s.core I.crew.core).filling → x.1 ≠ j
          (j ∈ (t.core I.crew.core).absent ↔ j ∈ (s.core I.crew.core).absent ∧ ¬hit) ∧
          (hit → ∀ x, x ∈ t.crews → x.2.core = I.crew.core → x.2.kind ≠ .control → ∀ y, y ∈ x.2.warps →
            ∀ sd, sd ∈ y.2.run :: y.2.div → sd.wait ≠ .line j))

/-- R225, R410-R412: the accesses of the scratchpad. (Rests on choices of the model: logs 12, 30.) -/
def Obligations.Scratchpad : Prop :=
  Claims.ScratchpadLoads ∧ Claims.ScratchpadStores ∧ Claims.ScratchpadAtomics ∧ Claims.PresenceBits

/-! ### Fences, barriers and caches -/

/-- R250, R413: a fence below cluster scope changes no memory; at cluster scope or wider `FENCE.FULL` leaves the core's L1 empty and home
memory as the core saw it, `FENCE.REL` leaves no dirty byte of a release-consistent page, appends the accumulated signature to the
release log and marks each active thread, and `FENCE.ACQ` leaves no release-consistent line that a log entry since the core's
mark matches, and raises that mark to the log's head. -/
def Claims.Fences : Prop :=
  ∀ (i : Instr) (sc : BitVec 7) (s : State) (I : Iss),
    (i = .fenceAcq sc ∨ i = .fenceRel sc ∨ i = .fenceFull sc) → Runs i s I → s.Mirrors I.crew.core →
    (s.core I.crew.core).acqMark ≤ s.mem.logSeq →
    ∃ u fences, exec i s = .next ((({ I with crew := { I.crew with relFence := fences } } : Iss).retire 4).put u)
      ∧ s.MemoryOnly u I.crew.core ∧ u.image I.crew.core = s.image I.crew.core
      ∧ (sc.toNat < 3 → u = s)
      ∧ (i ≠ .fenceRel sc → ∀ x, x ∈ fences ↔ x ∈ I.crew.relFence ∧ x.1 ∉ I.warp.indices I.warp.m0)
      ∧ (i = .fenceRel sc → ∀ k, k ∈ I.warp.indices I.warp.m0 →
          fences.find k = some ⟨sc.toNat, if sc.toNat < 3 then 0 else u.mem.logSeq⟩)
      ∧ (3 ≤ sc.toNat → i = .fenceFull sc → (u.core I.crew.core).l1 = [] ∧ ∀ host pa,
          s.image I.crew.core host pa = if host then u.mem.hostMem.get pa else u.mem.dram.get pa)
      ∧ (3 ≤ sc.toNat → i = .fenceRel sc → (u.core I.crew.core).accum = 0
          ∧ (∀ l, l ∈ (u.core I.crew.core).l1 → l.ord = ordRC → l.dirty = 0)
          ∧ ((s.core I.crew.core).accum = 0 → u.mem.relLog = s.mem.relLog ∧ u.mem.logSeq = s.mem.logSeq)
          ∧ ((s.core I.crew.core).accum ≠ 0 → u.mem.relLog = ((s.core I.crew.core).accum :: s.mem.relLog).take 512
              ∧ u.mem.logSeq = s.mem.logSeq + 1))
      ∧ (3 ≤ sc.toNat → i = .fenceAcq sc → (u.core I.crew.core).acqMark = s.mem.logSeq
          ∧ ∀ l, l ∈ (u.core I.crew.core).l1 → l.ord = ordRC →
              s.mem.logSeq - (s.core I.crew.core).acqMark ≤ 512 ∧
              ∀ sig, sig ∈ s.mem.relLog.take (s.mem.logSeq - (s.core I.crew.core).acqMark) → sigMatches sig l.line = false)

/-- R258: `IFENCE` empties the core's instruction cache. -/
def Claims.InstructionFence : Prop :=
  ∀ (s : State) (I : Iss), Runs .ifence s I → (s.core I.crew.core).wbuf = [] → (∀ x, x ∈ s.bindings → x.2.hidden = []) →
    exec .ifence s = .next ((I.retire 4).put (s.setCore I.crew.core { s.core I.crew.core with icache := [] }))

/-- R250, R258, R413: the fences. (Rests on choices of the model: log 30.) -/
def Obligations.Fencing : Prop := Claims.Fences ∧ Claims.InstructionFence

/-- R415, R416: an arrival that does not complete its barrier adds the active threads to the arrival set; the side waits after
`BAR` and goes on after `BARA`, and yields. -/
def Claims.BarrierArrives : Prop :=
  ∀ (i : Instr) (f : BarForm) (s : State) (I : Iss) (v : Warp), barForm i = some f → Runs i s I → f.Counts I →
    (s.core I.crew.core).wbuf = [] → I.warp.m0 ≠ 0 → (I.crew.bar f.n).arrived.Pairwise (· < ·) →
    (I.warp.movedTo (I.warp.run.pc + 4)).stoodAside v
      { I.warp.run with pc := I.warp.run.pc + 4, wait := if f.waits then .bar f.n else I.warp.run.wait } →
    ∃ l, l.Pairwise (· < ·) ∧ (∀ x, x ∈ l ↔ x ∈ (I.crew.bar f.n).arrived ∨ x ∈ I.warp.indices I.warp.m0)
      ∧ ((if f.count I = 0 then ∃ x, x ∈ I.crew.live ∧ x ∉ l else l.length < f.count I) →
        exec i s = .next (({ I with crew := { I.crew with bars := I.crew.bars.set f.n ⟨l, f.count I, f.take, f.carry⟩ }, warp := v } : Iss).put s))

/-- R415, R137: the arrival that completes a barrier empties its set; a take of a crew outside a co-resident group, whose generation
check holds, then makes the crew spill its carry set. -/
def Claims.BarrierCompletes : Prop :=
  ∀ (i : Instr) (f : BarForm) (s : State) (I : Iss) (v : Warp), barForm i = some f → Runs i s I → f.Counts I →
    (s.core I.crew.core).wbuf = [] → I.warp.m0 ≠ 0 → (I.crew.bar f.n).arrived.Pairwise (· < ·) →
    I.warp.indices I.warp.m0 ≠ [] → I.crew.cancelled = false → (f.take = true → s.genOk (s.slates.get {} I.crew.slate) = true) →
    (I.warp.movedTo (I.warp.run.pc + 4)).stoodAside v
      { I.warp.run with pc := I.warp.run.pc + 4, wait := if f.waits then .bar f.n else I.warp.run.wait } →
    (if f.count I = 0 then ∀ x, x ∈ I.crew.live → x ∈ (I.crew.bar f.n).arrived ∨ x ∈ I.warp.indices I.warp.m0
      else ∀ l : List Nat, l.Pairwise (· < ·) → (∀ x, x ∈ l ↔ x ∈ (I.crew.bar f.n).arrived ∨ x ∈ I.warp.indices I.warp.m0) →
        f.count I ≤ l.length) →
    exec i s = .next (({ I with
      crew := { I.crew with
        bars := I.crew.bars.set f.n ⟨[], f.count I, f.take, f.carry⟩,
        takeCarry := if f.take && (s.slates.get {} I.crew.slate).groupSize.isNone then some f.carry else I.crew.takeCarry },
      warp := v } : Iss).put s)

/-- R415: an arrival with an illegal count, or one that differs from the phase's, raises ILLEGAL; a side with a thread in the arrival set
waits at its instruction. -/
def Claims.BarrierRefuses : Prop :=
  ∀ (i : Instr) (f : BarForm) (s : State) (I : Iss), barForm i = some f → Runs i s I →
    (f.take = true → ∀ j, j ∈ I.crew.carrySet f.carry → 16 * I.warp.run.wbase.toNat + j < I.crew.nregs) →
    ((1024 < f.count I ∨ (f.a ≠ 0 ∧ f.count I = 0)) → exec i s = .next (s.takeTrap illegalT)) ∧
    (f.count I ≤ 1024 → (f.a ≠ 0 → f.count I ≠ 0) →
      ((∃ x, x ∈ I.warp.indices I.warp.m0 ∧ x ∈ (I.crew.bar f.n).arrived) → I.warp.div = [] →
        exec i s = .next (({ I with warp := { I.warp with run := { I.warp.run with wait := .bar f.n } } } : Iss).put s)) ∧
      ((∀ x, x ∈ I.warp.indices I.warp.m0 → x ∉ (I.crew.bar f.n).arrived) → (I.crew.bar f.n).arrived ≠ [] →
        ((I.crew.bar f.n).exp ≠ f.count I ∨ (I.crew.bar f.n).take ≠ f.take ∨ (I.crew.bar f.n).carry ≠ f.carry) →
        exec i s = .next (s.takeTrap illegalT)))

/-- R415, R417: `BARW` waits while an active thread is in the arrival set and otherwise goes on; `BARQ` writes the barrier's state. -/
def Claims.BarrierWaits : Prop :=
  ∀ (d n : BitVec 7) (s : State) (I : Iss) (v : Warp),
    (Runs (.barw n) s I → (∀ x, x ∈ I.warp.indices I.warp.m0 → x ∉ (I.crew.bar n.toNat).arrived) →
      exec (.barw n) s = .next ((I.retire 4).put s)) ∧
    (Runs (.barw n) s I → I.warp.m0 ≠ 0 → (∃ x, x ∈ I.warp.indices I.warp.m0 ∧ x ∈ (I.crew.bar n.toNat).arrived) →
      (I.warp.movedTo (I.warp.run.pc + 4)).stoodAside v { I.warp.run with pc := I.warp.run.pc + 4, wait := .bar n.toNat } →
      exec (.barw n) s = .next (I.withWarp s v)) ∧
    (Runs (.barq d n) s I → ∃ t, exec (.barq d n) s = .next t ∧ WritesReg I s t none d 1
      (fun _ => let b := I.crew.bar n.toNat
        b.arrived.length + 2 ^ 11 * b.exp + 2 ^ 22 * (if b.take then 1 else 0) + 2 ^ 23 * b.carry) 0)

/-- R418: `BCI` sets a byte-count word, `BCA` adds to ARRIVED, and `BCW` adds to EXPECT and waits unless the word is satisfied. -/
def Claims.ByteCounts : Prop :=
  ∀ (i : Instr) (a b : BitVec 7) (s : State) (I : Iss), (i = .bci a b ∨ i = .bca a b ∨ i = .bcw a b) → Runs i s I →
    s.SpadQuiet I.crew.core → I.warp.m0 ≠ 0 →
    let o := I.crew.spadBase + (I.warp.operand a).toNat
    let c := s.core I.crew.core
    (I.warp.operand a).toNat + 8 ≤ I.crew.spadSize → (I.warp.operand a).toNat % 8 = 0 → o / 128 ∉ c.absent → c.spadPoison = [] →
    I.crew.kind = .vector →
    (i = .bci a b → ∃ mark, exec i s = .next ((I.retire 4).put (s.setCore I.crew.core { c with
        spad := c.spad.write o (bytesLE 4 0 ++ bytesLE 4 (I.warp.operand b).toNat), bcMark := mark }))) ∧
    (i = .bca a b → exec i s = .next ((I.retire 4).put (s.setCore I.crew.core { c with
        spad := c.spad.write o (bytesLE 4 ((c.spad.num o 4 + (I.warp.operand b).toNat) % 2 ^ 32)) }))) ∧
    (i = .bcw a b →
      let e := (c.spad.num (o + 4) 4 + (I.warp.operand b).toNat) % 2 ^ 32
      let u := s.setCore I.crew.core { c with spad := c.spad.write (o + 4) (bytesLE 4 e) }
      (c.bcMark.get 0 o ≤ c.acqMark → I.warp.div = [] → (c.spad.num o 4 + 2 ^ 32 - e) % 2 ^ 32 < 2 ^ 31 →
        I.warp.run.wait = .none → exec i s = .next ((I.retire 4).put u)) ∧
      (2 ^ 31 ≤ (c.spad.num o 4 + 2 ^ 32 - e) % 2 ^ 32 → ∀ v,
        (I.warp.movedTo (I.warp.run.pc + 4)).stoodAside v
          { I.warp.run with pc := I.warp.run.pc + 4, wait := .bytes (I.warp.operand a).toNat } →
        exec i s = .next (I.withWarp u v)))

/-- R137, R415-R418: the barriers of a crew. (Rests on choices of the model: logs 13, 37, 38, 39.) -/
def Obligations.Barriers : Prop :=
  Claims.BarrierArrives ∧ Claims.BarrierCompletes ∧ Claims.BarrierRefuses ∧ Claims.BarrierWaits ∧ Claims.ByteCounts

/-- R420, R421: `PREF` changes nothing that the core sees; `CWB`, `CINV` and `CFLS` bring what the core wrote in the range home and
leave its lines clean, leave none of them, or leave none in either die's L2 too. -/
def Claims.CacheMaintenance : Prop :=
  ∀ (i : Instr) (a b : BitVec 7) (s : State) (I : Iss), (i = .pref a b ∨ i = .cwb a b ∨ i = .cinv a b ∨ i = .cfls a b) →
    Runs i s I → s.Mirrors I.crew.core → (∀ x, x ∈ s.mem.dir → x.2.owners = []) →
    (i = .pref a b → ∀ e, s.translate I.crew.core I.crew.ctx (I.warp.operand64 a) = some e →
      (∀ k, k < 4 → s.mem.keyTag.get 0 (4 * (e.addr (I.warp.operand64 a) / 128) + k) = s.keyOf e.slot) ∧
      ∀ l, l ∈ (s.core I.crew.core).l1 → l.line = e.addr (I.warp.operand64 a) / 128 → l.host = false → l.slot = e.slot) →
    ∃ u, exec i s = .next ((I.retire 4).put u) ∧ s.MemoryOnly u I.crew.core ∧ u.image I.crew.core = s.image I.crew.core
      ∧ (i ≠ .pref a b → ∀ host line, inParts (I.cacheRange s a b) line host = true →
          (∀ k, k < 128 → s.image I.crew.core host (128 * line + k) =
            if host then u.mem.hostMem.get (128 * line + k) else u.mem.dram.get (128 * line + k))
          ∧ (∀ l, l ∈ (u.core I.crew.core).l1 → l.line = line → l.host = host → i = .cwb a b ∧ l.dirty = 0)
          ∧ (i = .cfls a b → ∀ l, l ∈ u.mem.l2 → l.line = line → l.host ≠ host))

/-- R422: `TLBI` takes every translation of the pages, or of the contexts, that its lanes name from every TLB and walker cache, empties
the core's L1, and leaves no buffered store of any core that used such a translation; where none stood elsewhere, the core sees the same
memory. A lane that names no address raises PAGE, and one that names no context ILLEGAL, and nothing is invalidated. -/
def Claims.TranslationInvalidates : Prop :=
  ∀ (a r : BitVec 7) (s : State) (I : Iss), Runs (.tlbi a r) s I → s.Mirrors I.crew.core →
    let named (n : Nat) : Prop := ∃ l, l < 32 ∧ I.warp.m0.getLsbD l = true ∧ I.warp.laneNat a l 2 = n
    (∀ bad : BitVec 32, r = 1 → bad ≠ 0 → (∀ l, l < 32 → (bad.getLsbD l = true ↔ I.warp.m0.getLsbD l = true ∧ 1024 ≤ I.warp.laneNat a l 2)) →
      exec (.tlbi a r) s = .next (s.takeTrap { cause := cILLEGAL, lanes := bad })) ∧
    (∀ (bad : BitVec 32) (va : Nat), r = 0 → bad ≠ 0 →
      (∀ l, l < 32 → (bad.getLsbD l = true ↔ I.warp.m0.getLsbD l = true ∧ 2 ^ 57 ≤ I.warp.laneNat a l 2)) →
      (∃ l, l < 32 ∧ bad.getLsbD l = true ∧ I.warp.laneNat a l 2 = va ∧ ∀ m, m < l → bad.getLsbD m = false) →
      exec (.tlbi a r) s = .next (s.takeTrap { cause := cPAGE, lanes := bad, taddr := va })) ∧
    ((∀ n, named n → n < if r = 0 then 2 ^ 57 else 1024) → ∃ t, exec (.tlbi a r) s = .next t
      ∧ (t.core I.crew.core).l1 = []
      ∧ (∀ k w, w ∈ (t.core k).wbuf →
          if r = 0 then ∀ va, named va → w.ent.base ≠ va / 2 ^ w.ent.lg * 2 ^ w.ent.lg else ¬named w.ent.ctx)
      ∧ ((∀ x, x ∈ s.cores → x.2.wbuf = []) → t.image I.crew.core = s.image I.crew.core
        ∧ t = { s with mem := t.mem, cores := t.cores, clusters := t.clusters, crews := t.crews, now := t.now, power := t.power }
        ∧ s.Paced t)
      ∧ (∀ e, (∃ k, e ∈ (t.core k).tlb) ∨ (∃ k, e ∈ (t.cluster k).tlb2) →
          if r = 0 then ∀ va, named va → e.base ≠ va / 2 ^ e.lg * 2 ^ e.lg else ¬named e.ctx)
      ∧ ∀ x, x ∈ t.mem.walkCache → ∀ e, e ∈ x.2 → if r = 0 then ∀ va, named va → e.tag ≠ walkTag e.level va else ¬named e.ctx)

/-- R420-R422: cache maintenance and invalidation of translations. (Rests on choices of the model: logs 28, 29.) -/
def Obligations.Maintenance : Prop := Claims.CacheMaintenance ∧ Claims.TranslationInvalidates

/-! ### Control registers, beats, submission and the control core -/

/-- R350, R151, R152, R174: `CRD` of a register that the issuer may read writes its value in every active lane, or the lane's crew index or
coordinate; only a read of a mailbox or of a scrub job in its last phase, an acquire, touches the core's caches. -/
def Claims.ControlReads : Prop :=
  ∀ (d : BitVec 7) (n : BitVec 12) (s : State) (I : Iss), Runs (.crd d n) s I → s.Mirrors I.crew.core →
    (crOwned n.toNat = true → (s.cluster I.cluster).owner = some I.crew.ctx) →
    (I.crew.kind = .cue → crPlace n.toNat = false) →
    (0x028 ≤ n.toNat → n.toNat < 0x030 → ∀ l, l < 32 → I.warp.index l < (I.slate s).sizes.getD 0 1) →
    ∃ t u w, exec (.crd d n) s = .next t ∧ s.MemoryOnly u I.crew.core ∧ u.image I.crew.core = s.image I.crew.core
      ∧ (¬(0x050 ≤ n.toNat ∧ n.toNat < 0x058) → ¬(0x800 ≤ n.toNat ∧ n.toNat < 0x808) → u = s)
      ∧ I.warp.Written w I.ctl none d (crRegs n.toNat) (I.crValue s n.toNat)
      ∧ t = I.retiredWith u w 0 4

/-- R351: `CWR` of a register of the crew writes its writable bits with the warp operand and nothing else, and a `CRD` then reads
what was written. -/
def Claims.ControlWrites : Prop :=
  ∀ (a : BitVec 7) (n : BitVec 12) (s : State) (I : Iss) (c : Crew), Runs (.cwr a n) s I → I.crew.kind ≠ .cue →
    I.crew.written n.toNat (I.warp.operand a) = some c →
    exec (.cwr a n) s = .next (({ I with crew := c } : Iss).retire 4 |>.put s) ∧
    ({ I with crew := c } : Iss).crNum s n.toNat =
      match n.toNat with
      | 0x000 => (I.warp.operand a).toNat
      | 0x001 => (I.warp.operand a).toNat % 2 ^ 8
      | 0x002 => if I.crew.frames = [] then 0 else (I.warp.operand a).toNat
      | 0x004 => (I.warp.operand a).toNat % 2 ^ 12
      | 0x041 => (I.warp.operand a).toNat % 2 ^ 5
      | 0x042 => (I.warp.operand a).toNat % 2 ^ 2
      | 0x046 => if I.crew.frames = [] then 0 else (I.warp.operand a).toNat / 4 * 4
      | 0x047 => if I.crew.frames = [] then 0 else (I.warp.operand a).toNat % 2 ^ 25
      | _ => (I.warp.operand a).toNat

/-- R135, R136, R173, R186, R351: the writes that act outside the crew's registers: of a mailbox and of an arrival counter by their owner,
of a queue's shot-list address, of `c.QCFG` with a count of 0, which empties the shot list, and of `c.TKILL`. -/
def Claims.ControlWritesElsewhere : Prop :=
  ∀ (a : BitVec 7) (s : State) (I : Iss),
    (∀ n : BitVec 12, Runs (.cwr a n) s I → 0x050 ≤ n.toNat → n.toNat < 0x058 → (s.cluster I.cluster).owner = some I.crew.ctx →
      ∃ m, exec (.cwr a n) s = .next ((I.retire 4).put (s.updCluster I.cluster fun c => { c with
        mbx := c.mbx.set (n.toNat - 0x050) (I.warp.operand a), mbxMark := m }))) ∧
    (∀ n : BitVec 5, Runs (.cwrArv a n) s I → (s.cluster I.cluster).owner = some I.crew.ctx →
      s.NoneWaits (fun w => ∃ t d, w = .arrw n.toNat t d) →
      ∃ m, exec (.cwrArv a n) s = .next ((I.retire 4).put (s.updCluster I.cluster fun c => { c with
        arv := c.arv.set n.toNat (I.warp.operand a), arvMark := m }))) ∧
    (∀ (n : BitVec 12) q, Runs (.cwr a n) s I → I.queueSel s = some q →
      (n = 0x005 → exec (.cwr a n) s = .next ((I.retire 4).put (s.updQueue q fun x => { x with
        shotL := I.warp.operand a &&& 0xFFFFFFE0 }))) ∧
      (n = 0x006 → exec (.cwr a n) s = .next ((I.retire 4).put (s.updQueue q fun x => { x with
        shotH := I.warp.operand a &&& 0x1FFFFFF })))) ∧
    (Runs (.cwrQcfg a) s I →
      (I.queueSel s = none → exec (.cwrQcfg a) s = .next ((I.retire 4).put s)) ∧
      (∀ q, I.queueSel s = some q → (I.warp.operand a).toNat % 128 = 0 →
        exec (.cwrQcfg a) s = .next ((I.retire 4).put (s.updQueue q fun x => { x with nshot := 0, shots := [] }))) ∧
      (∀ q e cnt, I.queueSel s = some q → (I.warp.operand a).toNat % 128 = cnt → 0 < cnt → cnt ≤ 64 → s.Mirrors I.crew.core →
        let va := (s.queue q).shotL.toNat + 2 ^ 32 * (s.queue q).shotH.toNat
        s.checkAccess I.crew.core I.crew.ctx va I.warp.badPages { n := 32 * cnt } = .ok e none →
        (∀ i, i < 32 * cnt → let pa := e.addr va + i
          (e.host = false → ∀ k, k < 4 → s.mem.keyTag.get 0 (4 * (pa / 128) + k) = s.keyOf e.slot) ∧
          ∀ l, l ∈ (s.core I.crew.core).l1 → l.line = pa / 128 → l.host = e.host → l.slot = e.slot) →
        ∃ u, s.MemoryOnly u I.crew.core ∧ u.image I.crew.core = s.image I.crew.core ∧
          exec (.cwrQcfg a) s = .next ((I.retire 4).put (u.updQueue q fun x => { x with
            nshot := cnt,
            shots := (List.range cnt).map fun j =>
              shotOf ((List.range 32).map fun i => s.image I.crew.core e.host (e.addr va + 32 * j + i)) })))) ∧
    (Runs (.cwrTkill a) s I → s.crews.Rising →
      ((I.warp.operand a).getLsbD 0 = false → exec (.cwrTkill a) s = .next ((I.retire 4).put s)) ∧
      ((I.warp.operand a).getLsbD 0 = true → ∃ t, exec (.cwrTkill a) s = .next t ∧
        ∀ c, t.crew I.cid = some c → c.warps = [] ∧ c.ending ≠ none))

/-- R173: the mailboxes and counters of a control core that another context owns raise PROTECT, with the DETAIL of a read, a write or an
atomic. -/
def Claims.ControlCoreProtected : Prop :=
  ∀ (i : Instr) (detail : Nat) (s : State) (I : Iss),
    ((∃ d n, i = .crd d n ∧ crOwned n.toNat = true ∧ detail = 0) ∨ (∃ a n, i = .cwr a n ∧ crOwned n.toNat = true ∧ detail = 1) ∨
      (∃ a n, i = .cwrArv a n ∧ detail = 1) ∨ (∃ d a b n, i = .arrw d a b n ∧ detail = 5) ∨ (∃ a n, i = .rwr a n ∧ detail = 1)) →
    Runs i s I → (s.cluster I.cluster).owner ≠ some I.crew.ctx →
    exec i s = .next (s.takeTrap { cause := cPROTECT, detail := detail, lanes := I.warp.m0 })

/-- R135, R136, R151, R152, R173, R174, R186, R350, R351: reads and writes of the control registers. (Rests on choices of the model: logs 47, 49, 50, 52,
112.) -/
def Obligations.ControlRegisters : Prop :=
  Claims.ControlReads ∧ Claims.ControlWrites ∧ Claims.ControlWritesElsewhere ∧ Claims.ControlCoreProtected

/-- R359, R360: `RWR` releases and writes a mailbox; `ARRW` releases and adds to a counter, and either writes the new value at once, or
when the sum has reached its target, or waits. -/
def Claims.RemoteWrites : Prop :=
  ∀ (s : State) (I : Iss), s.Mirrors I.crew.core → (s.cluster I.cluster).owner = some I.crew.ctx →
    (∀ a n, Runs (.rwr a n) s I → ∃ u fences, s.Released u I.crew.core ∧
      exec (.rwr a n) s = .next ((({ I with crew := { I.crew with relFence := fences } } : Iss).retire 4).put
        (u.updCluster I.cluster fun c => { c with mbx := c.mbx.set n.toNat (I.warp.operand a), mbxMark := c.mbxMark.set n.toNat u.mem.logSeq }))) ∧
    (∀ d a b n, Runs (.arrw d a b n) s I → s.NoneWaits (fun w => ∃ t e, w = .arrw n.toNat t e) →
      let v := (s.cluster I.cluster).arv.get 0 n.toNat + I.warp.operand a
      let mailed (u : State) := u.updCluster I.cluster fun c => { c with
        arv := c.arv.set n.toNat v, arvMark := c.arvMark.set n.toNat (max u.mem.logSeq (c.arvMark.get 0 n.toNat)) }
      (b = 0 → ∃ u t, s.Released u I.crew.core ∧ exec (.arrw d a b n) s = .next t ∧ Replied I (mailed u) t d v.toNat) ∧
      (b ≠ 0 → (v - I.warp.operand b).toNat < 2 ^ 31 → I.warp.div = [] → I.warp.run.wait = .none → (s.core I.crew.core).acqMark ≤ s.mem.logSeq →
        ∃ u w t fences, s.MemoryOnly u I.crew.core ∧ u.image I.crew.core = s.image I.crew.core ∧ exec (.arrw d a b n) s = .next t
          ∧ I.warp.Written w I.ctl none d 1 (fun _ => v.toNat)
          ∧ t = ({ I with crew := { I.crew with relFence := fences } } : Iss).retiredWith (mailed u) w 0 4) ∧
      (b ≠ 0 → 2 ^ 31 ≤ (v - I.warp.operand b).toNat → I.warp.div = [] → ∃ u fences, s.Released u I.crew.core ∧
        exec (.arrw d a b n) s = .next (({ I with
          crew := { I.crew with relFence := fences },
          warp := { I.warp.movedTo (I.warp.run.pc + 4) with
            run := { I.warp.run with pc := I.warp.run.pc + 4, wait := .arrw n.toNat (I.warp.operand b) d } } } : Iss).put (mailed u))))

/-- R93, R355, R356, R358: `BEAT` sends the sum of the active lanes' low halves, `BTGT` a target and a mode, each from its tick of the
reference; `CANCEL` counts a generation up, or
raises ILLEGAL beyond 255. -/
def Claims.BeatsAndTargets : Prop :=
  ∀ (s : State) (I : Iss) (a m : BitVec 7),
    (Runs (.beat a m) s I → exec (.beat a m) s = .next ((I.retire 4).put (s.updCtx I.crew.ctx fun c => { c with
      beatsOnWay := c.beatsOnWay ++ [(m.toNat, ((lanesOf I.warp.m0).map fun l => (I.warp.lane a l).toNat % 65536).sum % 2 ^ 32, s.now / 5000)] }))) ∧
    (Runs (.btgt a m) s I → exec (.btgt a m) s = .next ((I.retire 4).put (s.updCtx I.crew.ctx fun c => { c with
      btgtOnWay := c.btgtOnWay ++ [(I.warp.operand a, m.toNat, s.now / 5000)] }))) ∧
    (Runs (.cancel a) s I → (I.warp.operand a).toNat ≤ 255 →
      exec (.cancel a) s = .next ((I.retire 4).put (s.updCtx I.crew.ctx fun c => { c with
        gen := c.gen.set (I.warp.operand a).toNat (c.gen.get 0 (I.warp.operand a).toNat + 1) }))) ∧
    (Runs (.cancel a) s I → 255 < (I.warp.operand a).toNat →
      exec (.cancel a) s = .next (s.takeTrap { cause := cILLEGAL, lanes := laneBit (lowest I.warp.m0) }))

/-- R132, R357: `SPAWN` to a queue of the issuing context, whose offered slates can be read and find room together, raises the queue's depth
by their number and gives each offering lane its place among them; with a bad address, too little room or no such queue each
offering lane gets the code that says so, and the queue stays; without an offer nothing happens. -/
def Claims.Submits : Prop :=
  ∀ (d a b : BitVec 7) (s : State) (I : Iss) (offer : BitVec 32), Runs (.spawn d a b) s I → s.Mirrors I.crew.core →
    (∀ l, l < 32 → (offer.getLsbD l = true ↔ I.warp.m0.getLsbD l = true ∧ I.warp.laneNat a l 2 ≠ 0)) →
    let result (u : State) (f : Nat → Nat) := ∃ w fences,
      w.sameButRegs I.warp ∧ (d ≠ 0 → ∀ l, l < 32 → (I.ctl = true → l = 0) → offer.getLsbD l = true ∨ I.warp.threads.getLsbD l = true → w.lane d l = if offer.getLsbD l then BitVec.ofNat 32 (f l) else I.warp.lane d l) ∧
      exec (.spawn d a b) s = .next (({ I with crew := { I.crew with relFence := fences } } : Iss).retiredWith u w 0 4)
    (offer = 0 → exec (.spawn d a b) s = .next ((I.retire 4).put s)) ∧
    (offer ≠ 0 → let u := I.released s
      s.Released u I.crew.core ∧
      (∀ q, (I.warp.operand b).toNat < 4096 → u.queueNo (u.funcOf I.crew.ctx) (I.warp.operand b).toNat = some q →
        (u.queue q).ctx = some I.crew.ctx → u.queueHeld q = false →
        let ok (l : Nat) := u.slateReadable I.crew.core I.crew.ctx (I.warp.laneNat a l 2)
        ((∀ l, l ∈ lanesOf offer → ok l = true) → (lanesOf offer).length ≤ (u.queue q).cap - (u.queue q).depth →
          result (u.updQueue q fun x => { x with
              depth := x.depth + (lanesOf offer).length,
              incoming := x.incoming ++ (lanesOf offer).map fun l => I.warp.laneNat a l 2 })
            fun l => ((lanesOf offer).filter fun m => decide (m < l)).length) ∧
        ((∀ l, l ∈ lanesOf offer → ok l = true) → (u.queue q).cap - (u.queue q).depth < (lanesOf offer).length →
          result u fun _ => 0xFFFFFFFF) ∧
        ((∃ l, l ∈ lanesOf offer ∧ ok l = false) → result u fun l => if ok l then 0xFFFFFFFD else 0xFFFFFFFE)) ∧
      (4096 ≤ (I.warp.operand b).toNat → result u fun _ => 0xFFFFFFFC))

/-- R132, R355-R360: messages to control cores, beats, and submission. (Rests on choices of the model: logs 13, 20, 47, 53, 54.) -/
def Obligations.Messages : Prop := Claims.RemoteWrites ∧ Claims.BeatsAndTargets ∧ Claims.Submits

/-! ### Traps, the end of threads and reform -/

/-- R182: taking a trap of kind P or X pushes a frame with the trap registers, `m0`, the window base and the divergence list, and sends the
warp to its handler; every other warp, register and the rest of the machine stays, but for the stop list where `c.TSKA` asks for
one. So it is where no sibling can issue, or in a handler. -/
def Claims.TrapEntry : Prop :=
  ∀ (s : State) (I : Iss) (x : TrapInfo), s.issuer = some I → I.handles → I.crew.stop = none → I.Alone →
    let c : Crew := { I.crew with frames := I.frameOf x :: I.crew.frames }
    (I.crew.tska = 0 → s.takeTrap x = ({ I with crew := c, warp := I.atHandler } : Iss).put s) ∧
    ∀ u, s.writeStopList { c with warps := c.warps.set I.wid I.warp } x.cause (I.crew.frames.length + 1) (some I.wid)
        (x.epc.getD I.warp.run.pc) x.pidx = some u →
      s.takeTrap x = ({ I with crew := c, warp := I.atHandler } : Iss).put u

/-- R178: while siblings of its warp can issue, a trap is at first raised only: each of them may issue at most 16 instructions more, and
with none to issue the handler is entered. -/
def Claims.TrapRaised : Prop :=
  ∀ (s : State) (I : Iss) (x : TrapInfo), s.issuer = some I → I.handles → I.crew.stop = none → I.crew.frames = [] → ¬I.Alone → I.crew.tska = 0 →
    ∃ n, let u := { s with fresh := n }
      s.takeTrap x = ({ I with crew := { I.crew with frames := [I.frameOf x] }, warp := I.atHandler } : Iss).put u ∨
      ∃ left : Tbl Nat, left ≠ [] ∧ (∀ y, y ∈ left → y.1 ≠ I.wid ∧ 0 < y.2 ∧ y.2 ≤ 16 ∧ ∃ w, (y.1, w) ∈ I.crew.warps ∧ w.canIssue I.crew = true) ∧
        s.takeTrap x = ({ I with crew := { I.crew with stop := some ⟨I.wid, s.now, x, left⟩ } } : Iss).put u

/-- R179: a sibling that traps within its skid stops at its instruction and shows its cause in the list; only in the same cycle, from
another quadrant and with the smaller crew index does it take the trap itself, and the other stops. -/
def Claims.TrapWithinSkid : Prop :=
  ∀ (s : State) (I : Iss) (x : TrapInfo) st w, s.issuer = some I → I.crew.kind ≠ .cue → I.crew.stop = some st → I.crew.warps.find st.wid = some w →
    let first (v : Warp) (n : Nat) := v.m0 &&& ~~~v.threads = 0 ∧ (∃ l, l < 32 ∧ v.m0.getLsbD l = true ∧ v.index l = n) ∧
      ∀ l, l < 32 → v.m0.getLsbD l = true → n ≤ v.index l
    let stopped (v : Warp) (t : TrapInfo) : Warp :=
      { v with ownTrap := some t.cause, badPages := [], pending := if t.pidx = 0 then v.pending else some (v.run.pc, t.pidx) }
    (s.now ≠ st.at' ∨ w.quad = I.warp.quad ∨ (∃ m n, first w m ∧ first I.warp n ∧ m ≤ n) →
      s.takeTrap x = ({ I with crew := { I.crew with stop := some { st with left := st.left.del I.wid } }, warp := stopped I.warp x } : Iss).put s) ∧
    (s.now = st.at' → w.quad ≠ I.warp.quad → (∃ m n, first w m ∧ first I.warp n ∧ n < m ∧ m < 0xFFFF) →
      s.takeTrap x = ({ I with crew := { I.crew with
        warps := I.crew.warps.set st.wid (stopped w st.trap),
        stop := some { st with wid := I.wid, trap := x, left := st.left.del I.wid } } } : Iss).put s)

/-- R178, R182: a raised trap is taken, by the warp that raised it, once no sibling has an instruction left that it can issue. -/
def Claims.TrapAfterSkid : Prop :=
  ∀ (s : State) (cid : Nat) (c : Crew) st w, s.crew cid = some c → c.stop = some st → c.warps.find st.wid = some w → c.tska = 0 →
    (∀ y, y ∈ st.left → y.2 = 0 ∨ ∀ v, c.warps.find y.1 = some v → v.canIssue c = false) →
    let I : Iss := ⟨cid, st.wid, c, w⟩
    s.endStop cid false = ({ I with crew := { c with frames := I.frameOf st.trap :: c.frames, stop := none }, warp := I.atHandler } : Iss).put s

/-- R176, R185, R186: a trap with no handler, or with four frames held, ends the crew: it leaves the machine, or keeps only its window
until copy items that use it are done; its slate then holds the cause of the trap as DETAIL. -/
def Claims.TrapEscalates : Prop :=
  ∀ (s : State) (I : Iss) (x : TrapInfo), s.issuer = some I → I.crew.kind ≠ .cue → I.crew.stop = none → s.crews.Rising →
    (I.crew.tvec = 0 ∨ 4 ≤ I.crew.frames.length) →
    (s.windowBusy I.cid = false → (s.takeTrap x).crew I.cid = none) ∧
    (s.windowBusy I.cid = true → ((s.takeTrap x).slates.get {} I.crew.slate).stop = some (cESCALATED, x.cause)
      ∧ ∃ c, (s.takeTrap x).crew I.cid = some c ∧ c.warps = [] ∧ c.bins = [] ∧ c.ending = some (I.crew.ending.getD cESCALATED))

/-- R354: `TRAP` raises SOFTWARE with its code as DETAIL and the next word as EPC; `c.TLANE` and `c.TMASK` both hold `m0`, and the instruction writes
nothing else; in cue mode it is ILLEGAL. -/
def Obligations.SoftwareTrap : Prop :=
  ∀ (code : BitVec 16) (s : State) (I : Iss),
    encode (.trap code) = [0x04200000#32 ||| code.setWidth 32] ∧
    (Runs (.trap code) s I → exec (.trap code) s = .next (s.takeTrap { cause := 0x06, detail := code.toNat, lanes := I.warp.m0, epc := some (I.warp.run.pc + 4) })) ∧
    (Runs (.trap code) s I → I.handles → I.crew.stop = none → I.Alone → I.crew.tska = 0 → ∃ fr : Frame,
      fr.cause = 0x06 ∧ fr.detail = code.toNat ∧ fr.epc = I.warp.run.pc + 4 ∧ fr.lanes = I.warp.m0 ∧ fr.mask = I.warp.m0 ∧ fr.taddr = 0
        ∧ fr.wbase = I.warp.run.wbase ∧ fr.div = I.warp.div
        ∧ exec (.trap code) s = .next (({ I with crew := { I.crew with frames := fr :: I.crew.frames }, warp := I.atHandler } : Iss).put s)) ∧
    (s.issuer = some I → I.crew.kind = .cue → exec (.trap code) s = .next (s.takeTrap illegalT))

/-- R183: `TRET` goes to the PC of the top frame with its lanes, window base and divergence list, leaves `c.PIDX` as the pending progress
index, and pops the frame; after the last one every warp of the crew starts its skid afresh; without a frame, or with a misaligned PC, it is ILLEGAL. -/
def Claims.TrapReturns : Prop :=
  ∀ (s : State) (I : Iss), Runs .tret s I →
    (∀ fr rest, I.crew.frames = fr :: rest → fr.epc.toNat % 4 = 0 →
      let back (w : Warp) : Warp := if rest = [] then { w with skid := 0, ownTrap := none } else w
      exec .tret s = .next (({ I with
        crew := { I.crew with frames := rest, warps := I.crew.warps.mapV fun _ w => back w },
        warp := { back I.warp with
          run := ⟨fr.epc, fr.mask &&& I.warp.threads, fr.wbase, .none⟩, div := fr.div, issued := 0, badPages := [],
          pending := if fr.pidx = 0 then none else some (fr.epc, fr.pidx.toNat) } } : Iss).put s)) ∧
    (I.crew.frames = [] → exec .tret s = .next (s.takeTrap illegalT)) ∧
    (∀ fr rest, I.crew.frames = fr :: rest → fr.epc.toNat % 4 ≠ 0 → exec .tret s = .next (s.takeTrap illegalT))

/-- R178, R179, R182, R183, R185, R186: taking a trap and returning from it. (Rests on choices of the model: logs 15, 23.) -/
def Obligations.TrapsTaken : Prop :=
  Claims.TrapEntry ∧ Claims.TrapRaised ∧ Claims.TrapWithinSkid ∧ Claims.TrapAfterSkid ∧ Claims.TrapEscalates ∧ Claims.TrapReturns

/-- R348, R186: `EXIT` outside cue mode ends the active threads: with other threads of the crew alive and no live-mode barrier it takes them
out of the warp and leaves the rest; with none alive, or in a trap handler, the crew leaves the machine. -/
def Claims.ThreadsExit : Prop :=
  ∀ (s : State) (I : Iss), Runs .exit s I → I.crew.kind ≠ .cue → s.crews.Rising → Tbl.Rising I.crew.warps →
    (I.crew.frames = [] → (∃ v w, v ≠ I.wid ∧ I.crew.warps.find v = some w ∧ w.indices w.threads ≠ []) →
      (∀ x, x ∈ I.crew.bars → x.2.exp ≠ 0) →
      ∃ c fences, exec .exit s = .next (s.setCrew I.cid c) ∧ c = { I.crew with warps := c.warps, relFence := fences }
        ∧ (∀ v, v ≠ I.wid → c.warps.find v = I.crew.warps.find v)
        ∧ (I.warp.threads &&& ~~~I.warp.m0 = 0 → c.warps.find I.wid = none)
        ∧ (∀ sd rest, I.warp.threads &&& ~~~I.warp.m0 ≠ 0 → I.warp.div = sd :: rest → sd.wait = .none → (∀ y, y ∈ rest → y.pc ≠ sd.pc) →
            ∃ w, c.warps.find I.wid = some w ∧ w.regs = I.warp.regs ∧ w.run = sd ∧ w.div = rest
              ∧ w.threads = I.warp.threads &&& ~~~I.warp.m0)) ∧
    ((I.crew.frames ≠ [] ∨ ((∀ x, x ∈ I.crew.warps → x.1 ≠ I.wid → x.2.indices x.2.threads = []) ∧ I.warp.threads &&& ~~~I.warp.m0 = 0 ∧
        (∀ x, x ∈ I.crew.bins → x.2.threads = []) ∧ ∀ x, x ∈ I.crew.hold → x.2 = [])) →
      s.windowBusy I.cid = false → ∃ t, exec .exit s = .next t ∧ t.crew I.cid = none)

/-- R163, R164, R347: `REFORM` takes the active threads out of the warp; no thread of the crew is lost; threads with one resume point,
fewer than 32 and with no bin or hold list in the way, stand together in a bin of that point, carry set and window base with what they
carry. -/
def Claims.ReformFiles : Prop :=
  ∀ (k a : BitVec 7) (s : State) (I : Iss), Runs (.reform k a) s I → I.crew.Tidy →
    (∀ j, j ∈ I.crew.carrySet k.toNat → 16 * I.warp.run.wbase.toNat + j < I.crew.nregs ∧ j < 128) →
    (I.crew.carrySet k.toNat).Pairwise (· < ·) → I.warp.m0 &&& ~~~I.warp.threads = 0 →
    ∃ t c, exec (.reform k a) s = .next t ∧ t = { s with crews := t.crews, cores := t.cores } ∧ t.crew I.cid = some c
      ∧ (∀ x, x ∈ c.live ↔ x ∈ I.crew.live)
      ∧ (∀ r, I.crew.bins = [] → I.crew.hold = [] → (s.core I.crew.core).holdOrder = [] → s.otherBins I.cid I.crew.core I.warp.quad < 16 →
          (∀ l, l < 32 → I.warp.m0.getLsbD l = true → I.warp.lane a l = r) → I.warp.m0 ≠ 0 → (lanesOf I.warp.m0).length < 32 →
          ∃ b, c.bins.find (16 * I.warp.quad) = some b
            ∧ b.key = ⟨I.warp.run.pc + 4 + BitVec.ofInt 57 (4 * r.toInt), k.toNat, I.warp.run.wbase⟩
            ∧ b.threads.length = (lanesOf I.warp.m0).length
            ∧ ∀ (j : Nat) f l, b.threads[j]? = some f → (lanesOf I.warp.m0)[j]? = some l → I.filedAs (I.crew.carrySet k.toNat) l f)

/-- R163, R164, R186, R347, R348: threads that leave their warp. (Rests on choices of the model: logs 16, 17, 74.) -/
def Obligations.ThreadsEnd : Prop := Claims.ThreadsExit ∧ Claims.ReformFiles

/-! ### Cue runs -/

/-- R199, R202, R204, R475: in cue mode `EXIT` and `CWAIT` write the contexts of the active lanes' elements and end their runs, `CWAKE` wakes
the elements that its lanes name after a release, and `CLOC` gives a lane its place. -/
def Claims.CueInstructions : Prop :=
  ∀ (s : State) (I : Iss) (b : Binding), I.crew.kind = .cue → s.bindings.find I.crew.binding = some b →
    let off := cueOff s I.crew.binding I.warp.run.pc + 1
    (Runs .exit s I → 0 ≤ off → off < 65536 → exec .exit s = .next
      ((I.dropLanes I.warp.m0).putOrDrop (I.cueLeaves s off.toNat fun _ d => (3, 0, d)))) ∧
    (∀ a d, Runs (.cwait a d) s I → 0 ≤ off → off < 65536 →
      (∀ l, l < 32 → I.warp.m0.getLsbD l = true → (I.warp.lane a l).toNat < 2 ^ 12) →
      exec (.cwait a d) s = .next ((I.dropLanes I.warp.m0).putOrDrop (I.cueLeaves s off.toNat fun l _ =>
        ((I.warp.lane a l).toNat % 16, (I.warp.lane a l).toNat / 16, (I.warp.lane d l).toNat)))) ∧
    (∀ a, Runs (.cwake a) s I → s.Mirrors I.crew.core →
      (∀ l, l < 32 → I.warp.m0.getLsbD l = true → (I.warp.lane a l).toNat < b.nelem) →
      ∃ u fences, s.Released u I.crew.core ∧ exec (.cwake a) s = .next ((({ I with crew := { I.crew with relFence := fences } } : Iss).retire 4).put
        ((lanesOf I.warp.m0).foldl (fun v l => v.wakeElem b (I.warp.lane a l).toNat) u))) ∧
    (∀ d sel, Runs (.cloc d sel) s I → sel.toNat ≤ 4 → ∃ t, exec (.cloc d sel) s = .next t ∧ WritesReg I s t none d 1 (fun l =>
      match sel.toNat with
      | 0 => I.warp.index l
      | 1 => I.warp.index l * 2 ^ b.esize
      | 2 => b.pass
      | 3 => b.cparm
      | _ => b.cparm / 2 ^ 32 % 2 ^ 25) 0)

/-! ### Engine commands -/

/-- R462: a command whose engine holds 64 unfinished commands of the context waits at its instruction. -/
def Claims.CommandsWait : Prop :=
  ∀ (i : Instr) (s : State) (I : Iss), Runs i s I →
    ((∃ v a, i = .xcStat v a ∨ i = .xcCanc v a ∨ i = .xcCopy v a 0 ∨ i = .xcTcopy v a 0 ∨ i = .xcGath v a 0 ∨ i = .xcScat v a 0 ∨
        i = .xcFill v a 0) ∧ 64 ≤ s.copiesOf I.cluster I.crew.ctx ∨
     (∃ v a b, i = .swBind v a 0 ∨ i = .swPass v a b ∨ i = .swWake v a b ∨ i = .swStat v a b) ∧ 64 ≤ s.dolliesOf I.cluster I.crew.ctx ∨
     (∃ v a b, i = .gpBind v a b ∨ i = .gpStep v a b ∨ i = .gpMask v a b ∨ i = .gpFork v a b ∨ i = .gpRoll v a b ∨ i = .gpSave v a b ∨
        i = .gpLoad v a b) ∧ 64 ≤ s.grammarsOf I.cluster I.crew.ctx) →
    exec i s = .next (({ I with warp := { I.warp with run := { I.warp.run with wait := .engine } } } : Iss).put s)

/-- R193, R194, R210, R464, R471: `SW.BIND` binds a tensor under the lowest free number of the dolly, or tells why not; with UNBIND it ends a
binding without passes, its accepted wakes having taken effect. -/
def Claims.BindingBegins : Prop :=
  ∀ (v a b : BitVec 7) (s : State) (I : Iss), s.dolliesOf I.cluster I.crew.ctx < 64 →
    let u := I.released s
    let w := (I.warp.operand b).toNat
    let va := I.warp.operand64 a
    (∀ bs, Runs (.swBind v a b) s I → (b = 0 ∨ (w % 2 = 0 ∧ w < 8)) → u.Readable I.crew.ctx va 64 64 bs →
      let x := boundBy I.crew.ctx bs
      (descrBad bs = true → CommandGives (.swBind v a b) s I v s 0x40) ∧
      (descrBad bs = false → ¬u.ArraysOk x → CommandGives (.swBind v a b) s I v s 0x41) ∧
      (descrBad bs = false → u.ArraysOk x →
        (u.sbaseUsed x.sbase = true → CommandGives (.swBind v a b) s I v s 0x44) ∧
        (u.sbaseUsed x.sbase = false → (∀ n, n < 4 → u.bindings.find (4 * I.cluster + n) ≠ none) →
          CommandGives (.swBind v a b) s I v s 0x43) ∧
        (∀ n, u.sbaseUsed x.sbase = false → n < 4 → u.bindings.find (4 * I.cluster + n) = none →
          (∀ m, m < n → u.bindings.find (4 * I.cluster + m) ≠ none) →
          CommandGives (.swBind v a b) s I v { u with bindings := u.bindings.set (4 * I.cluster + n) x } (256 * n)))) ∧
    (Runs (.swBind v a b) s I → (b = 0 ∨ (w % 2 = 0 ∧ w < 8)) → u.Unreadable I.crew.ctx va 64 64 →
      CommandGives (.swBind v a b) s I v s 0x41) ∧
    (Runs (.swBind v a b) s I → b ≠ 0 → w % 2 = 0 → 8 ≤ w → CommandGives (.swBind v a b) s I v s 0x40) ∧
    (Runs (.swUnbind v b) s I → w % 2 = 1 → w < 8 → b ≠ 0 →
      let key := 4 * I.cluster + w / 2
      (I.NoBinding u (w / 2) → CommandGives (.swUnbind v b) s I v s 0x42) ∧
      ∀ y x, I.Binds u y (w / 2) x →
        (x.running ≠ none ∨ x.queued ≠ [] → CommandGives (.swUnbind v b) s I v s 0x45) ∧
        (x.running = none → x.queued = [] →
          CommandGives (.swUnbind v b) s I v { y.flushWakes key with bindings := (y.flushWakes key).bindings.del key } 0))

/-- R198, R204, R210, R464, R471: `SW.PASS` queues a pass under the next number, `SW.WAKE` queues the indices of its list that name elements
and counts the others, and `SW.STAT` reports a binding; a number without a binding of the context gives NO_BIND. -/
def Claims.BindingCommands : Prop :=
  ∀ (v a b : BitVec 7) (s : State) (I : Iss) (u : State) (x : Binding), s.dolliesOf I.cluster I.crew.ctx < 64 →
    let n := (I.warp.operand a).toNat
    let va := I.warp.operand64 b
    (∀ i, i = Instr.swPass v a b ∨ i = Instr.swStat v a b → Runs i s I → I.NoBinding (I.released s) n → CommandGives i s I v s 0x42) ∧
    (Runs (.swPass v a b) s I → I.Binds (I.released s) u n x →
      (b ≠ 0 → u.wordOk I.crew.ctx va 4 4 = false → CommandGives (.swPass v a b) s I v s 0x41) ∧
      ((b = 0 ∨ u.wordOk I.crew.ctx va 4 4 = true) →
        let p := (x.assigned + 1) % 2 ^ 32
        CommandGives (.swPass v a b) s I v
          (((u.updBinding (4 * I.cluster + n) fun y => { y with
              assigned := p, queued := y.queued ++ [(p, if b = 0 then 2 ^ 64 else va, I.crew.slate)] }).updCluster I.cluster fun c => { c with
              dollyQ := c.dollyQ ++ [⟨I.crew.ctx, n, I.crew.slate, .pass, false⟩] }).cmdUp I.crew.slate) (256 * (p % 2 ^ 24)))) ∧
    (Runs (.swWake v a b) s I →
      let cnt := n / 256 % 2 ^ 13
      (n / 4 % 64 ≠ 0 ∨ 2 ^ 21 ≤ n ∨ cnt = 0 ∨ 4096 < cnt → CommandGives (.swWake v a b) s I v s 0x40) ∧
      (n / 4 % 64 = 0 → n < 2 ^ 21 → 0 < cnt → cnt ≤ 4096 → I.NoBinding (I.released s) (n % 4) → CommandGives (.swWake v a b) s I v s 0x42) ∧
      (n / 4 % 64 = 0 → n < 2 ^ 21 → 0 < cnt → cnt ≤ 4096 → I.Binds (I.released s) u (n % 4) x →
        (u.Unreadable I.crew.ctx va (4 * cnt) 4 → CommandGives (.swWake v a b) s I v s 0x41) ∧
        ∀ bs, u.Readable I.crew.ctx va (4 * cnt) 4 bs →
          let idx := (List.range cnt).map fun i => leNat ((bs.drop (4 * i)).take 4)
          let good := idx.filter fun e => decide (e < x.nelem)
          CommandGives (.swWake v a b) s I v
            (if good = [] then u else (u.updCluster I.cluster fun c => { c with
              dollyQ := c.dollyQ ++ [⟨I.crew.ctx, n % 4, I.crew.slate, .wake good, false⟩] }).cmdUp I.crew.slate)
            (256 * (cnt - good.length)))) ∧
    (Runs (.swStat v a b) s I → I.Binds (I.released s) u n x →
      (b = 0 → CommandGives (.swStat v a b) s I v (u.acquire I.crew.core x.endMark)
        ((if x.running = none then 0 else 256) + (if x.queued = [] then 0 else 512)
          + 1024 * ((if x.running = none then x.blocks else x.cursor) % 2 ^ 22))) ∧
      (b ≠ 0 → u.wordOk I.crew.ctx va 64 64 = false → CommandGives (.swStat v a b) s I v s 0x41) ∧
      (b ≠ 0 → u.wordOk I.crew.ctx va 64 64 = true → ∃ rec tail, rec.length = 32 ∧ tail.length = 28 ∧
        let u' := u.acquire I.crew.core x.endMark
        (∀ j, j < 8 → leNat ((rec.drop (4 * j)).take 4) = ([x.pass, if x.running = none then x.blocks else x.cursor, x.runs, x.faults, x.fidx,
          x.fcause, x.failed, (u'.bindFlags (4 * I.cluster + n) x).toNat].getD j 0) % 2 ^ 32) ∧
        CommandGives (.swStat v a b) s I v
          (((({ u' with fresh := u'.fresh + 28 } : State).engStore I.crew.ctx va (rec ++ tail)).engStore I.crew.ctx (va + 60)
            (bytesLE 4 (2 ^ 31 + x.pass % 2 ^ 24))).noteWord I.crew.ctx (va + 60) scCluster)
          ((if x.running = none then 0 else 256) + (if x.queued = [] then 0 else 512)
            + 1024 * ((if x.running = none then x.blocks else x.cursor) % 2 ^ 22))))

/-- R193, R194, R198, R204, R462, R464, R471: the commands of a dolly. (Rests on choices of the model: logs 55, 58, 64.) -/
def Obligations.Bindings : Prop := Claims.CommandsWait ∧ Claims.BindingBegins ∧ Claims.BindingCommands

/-- R462-R467, R469: a copy command of this device whose descriptor breaks no rule and whose words can be reached is accepted under the
next handle of its context, with the index list of a gather or scatter as it reads then; one whose descriptor cannot be read gets DESC_PAGE, and one that breaks a rule BAD_DESC. -/
def Claims.CopiesAccepted : Prop :=
  ∀ (i : Instr) (op : CopyOp) (v a b : BitVec 7) (s : State) (I : Iss) (bs ds : List Byte),
    (i = .xcCopy v a b ∧ op = .copy ∨ i = .xcTcopy v a b ∧ op = .tcopy ∨ i = .xcGath v a b ∧ op = .gath ∨ i = .xcScat v a b ∧ op = .scat ∨
      i = .xcFill v a b ∧ op = .fill) →
    Runs i s I → s.copiesOf I.cluster I.crew.ctx < 64 →
    (b ≠ 0 → I.ctl = false ∧ I.crew.kind ≠ .cue ∧ (I.warp.operand b).toNat + 8 ≤ I.crew.spadSize ∧ (I.warp.operand b).toNat % 8 = 0) →
    let u := I.released s
    let va := I.warp.operand64 a
    let c := I.commandOf op bs ds b
    (u.Unreadable I.crew.ctx va 64 64 → CommandGives i s I v s 0x41) ∧
    (u.Readable I.crew.ctx va 64 64 bs →
      (headBad bs = true → CommandGives i s I v s 0x40) ∧
      (headBad bs = false → (op = .copy → c.scope < 6) →
        (op = .tcopy → let n := c.item / 256 % 256
          0 < n ∧ n ≤ 16 ∧ u.Readable I.crew.ctx (va + 64) (24 * n) 1 ds ∧ dimsOf ds n ≠ none) →
        (I.localBad u c = true → CommandGives i s I v s 0x40) ∧
        (I.localBad u c = false → u.copyPages { c with items := c.itemCount } = false → CommandGives i s I v s 0x41) ∧
        (I.localBad u c = false → u.copyPages { c with items := c.itemCount } = true →
          (op ≠ .gath → op ≠ .scat →
            ∃ t h, CopyAccepted I u t { c with items := c.itemCount, handle := h, seq := u.copySeq } ∧ CommandGives i s I v t (256 * h)) ∧
          (op = .gath ∨ op = .scat → u.Unreadable I.crew.ctx c.aux0 (4 * c.len) 1 → CommandGives i s I v s 0x41) ∧
          (op = .gath ∨ op = .scat → ∀ ns, u.Readable I.crew.ctx c.aux0 (4 * c.len) 1 ns → ∀ ps, u.engRange I.crew.ctx false c.aux0 (4 * c.len) = .ok ps →
            let po := u.partsPoison c.aux0 ps
            let w := u.reportSectors recEccUncorrected (some I.crew.ctx) po
            ∃ t h idxs, (∀ j, j < c.len → ∃ p, idxs[j]? = some (leNat ((ns.drop (4 * j)).take 4), p) ∧
                (p = true ↔ ∃ x, x ∈ po ∧ x.2 < c.aux0 + 4 * j + 4 ∧ c.aux0 + 4 * j < x.2 + 32)) ∧ idxs.length = c.len ∧
              CopyAccepted I w t { c with items := c.itemCount, idxs := idxs, handle := h, seq := u.copySeq } ∧ CommandGives i s I v t (256 * h)))))

/-- R470: `XC.STAT` and `XC.CANC` of a handle that is not among the context's latest 1,024 give UNKNOWN; `XC.STAT` tells whether the command
is queued, running or done and how many items have ended; `XC.CANC` ends the items that have not started, and leaves a finished
command as it is. -/
def Claims.CopiesControlled : Prop :=
  ∀ (i : Instr) (v a : BitVec 7) (s : State) (I : Iss) (c : CopyCmd), (i = .xcStat v a ∨ i = .xcCanc v a) → Runs i s I →
    s.copiesOf I.cluster I.crew.ctx < 64 →
    let u := I.released s
    let h := (I.warp.operand a).toNat % 2 ^ 24
    let key := I.crew.ctx * 2 ^ 24 + h
    let age := ((u.ctx I.crew.ctx).handles + 2 ^ 24 - h) % 2 ^ 24
    (1024 ≤ age ∨ u.copies.find key = none → CommandGives i s I v s 0x46) ∧
    (age < 1024 → u.copies.find key = some c →
      (i = .xcStat v a →
        CommandGives i s I v (if c.done = true ∧ 3 ≤ c.scope then u.acquire I.crew.core c.mark else u)
          (256 * (if c.done then (if c.stats.all (· == 0) && c.peer.all (fun x => x.2 == 0) then 2 else 3) else if c.started then 1 else 0)
            + 2048 * min (c.stats.length + c.peer.length) (2 ^ 21 - 1))) ∧
      (i = .xcCanc v a → c.done = true ∨ (c.op ≠ .coll ∧ c.stop ≠ none) → CommandGives i s I v u 0) ∧
      (i = .xcCanc v a → c.done = false → c.op = .coll →
        CommandGives i s I v (u.collStop key 0x03) (256 * ((c.items - c.peer.length) % 2 ^ 24))) ∧
      (i = .xcCanc v a → c.done = false → c.op ≠ .coll → c.stop = none →
        (c.running = false → CommandGives i s I v ((u.updCopy key fun x => { x with stop := some 0x03 }).copySettle key)
          (256 * ((c.items - c.stats.length) % 2 ^ 24))) ∧
        (c.running = true → CommandGives i s I v (u.updCopy key fun x => { x with stop := some 0x03 })
          (256 * ((c.items - c.stats.length - 1) % 2 ^ 24)))))

/-- R293: `GP.STEP` of a slot that the context holds: a stale slot, a token beyond the vocabulary or after acceptance, a class that the row
refuses, and a stack with no room or nothing to take end with their status and change nothing; otherwise the action word gives the
new state, which the reply carries, with the undo entry logged. -/
def Claims.GrammarSteps : Prop :=
  ∀ (v a b : BitVec 7) (s : State) (I : Iss) (g : GSlot), Runs (.gpStep v a b) s I →
    let n := (I.warp.operand a).toNat
    let t := (I.warp.operand b).toNat
    s.SlotsFree I [n] →
    let u := I.released s
    let ctx := I.crew.ctx
    let fresh := g.gen = ((u.ctx ctx).gen.get 0 g.gsel).toNat
    I.Holds u n g →
    let bad (st : Nat) : Prop := SlotGives (.gpStep v a b) s I v u st n (some g.state)
    (¬fresh → bad 0x05) ∧
    (fresh → g.state = 0xFFFF → bad 0x04) ∧
    (fresh → g.state ≠ 0xFFFF → u.Unreadable ctx (g.gbase + 8) 4 1 → bad 0x10) ∧
    ∀ vb, fresh → g.state ≠ 0xFFFF → u.Readable ctx (g.gbase + 8) 4 1 vb →
      (leNat vb ≤ t → bad 0x04) ∧
      (t < leNat vb → u.Unreadable ctx g.gbase 40 1 → bad 0x10) ∧
      ∀ hd, t < leNat vb → u.Readable ctx g.gbase 40 1 hd →
        let G := grammarOf hd
        (u.Unreadable ctx (G.cmap + 2 * t) 2 1 → bad 0x10) ∧
        ∀ cb, u.Readable ctx (G.cmap + 2 * t) 2 1 cb →
          (G.nclass ≤ leNat cb ∨ G.nstate ≤ g.state → bad 0x10) ∧
          (leNat cb < G.nclass → g.state < G.nstate →
            let cell := G.ridx + 4 * (g.state * G.nsym + g.topSym)
            (u.Unreadable ctx cell 4 1 → bad 0x10) ∧
            ∀ rb, u.Readable ctx cell 4 1 rb →
              let row := G.rows + leNat rb * (G.nclass / 8 + 4 * G.nclass)
              (u.Unreadable ctx (row + leNat cb / 8) 1 1 → bad 0x10) ∧
              ∀ bb, u.Readable ctx (row + leNat cb / 8) 1 1 bb →
                let action := row + G.nclass / 8 + 4 * leNat cb
                ((leNat bb).testBit (leNat cb % 8) = false → bad 0x01) ∧
                ((leNat bb).testBit (leNat cb % 8) = true → u.Unreadable ctx action 4 1 → bad 0x10) ∧
                ∀ wb, (leNat bb).testBit (leNat cb % 8) = true → u.Readable ctx action 4 1 wb →
                  let op := leNat wb / 2 ^ 24 % 4
                  (op = 1 → 64 ≤ g.depth → bad 0x02) ∧
                  (op = 2 ∨ op = 3 → g.depth = 0 → bad 0x03) ∧
                  (g.Whole → (op = 1 → g.depth < 64) → (op = 2 ∨ op = 3 → g.depth ≠ 0) → ∃ g', g.After g' (leNat wb) ∧ g'.Whole ∧
                    SlotGives (.gpStep v a b) s I v { u with gslots := u.gslots.set (64 * I.cluster + n) g' } 0 n (some (leNat wb % 65536))))

/-- R289, R292, R295-R297, R472: `GP.BIND`, `GP.FORK`, `GP.ROLL` and `GP.LOAD` give a slot its new contents; a slot of another context, a
grammar or image that cannot be read or breaks its rule, and a count beyond the log end with their status and change nothing. -/
def Claims.GrammarSlots : Prop :=
  ∀ (v a b : BitVec 7) (s : State) (I : Iss),
    let u := I.released s
    let n := (I.warp.operand a).toNat
    let w := (I.warp.operand b).toNat
    let base := 64 * I.cluster
    (Runs (.gpBind v a b) s I → s.SlotsFree I [] → (w / 64 % 4 ≠ 0 ∨ 2 ^ 16 ≤ w) → SlotGives (.gpBind v a b) s I v u 0x10 0xFF none) ∧
    (Runs (.gpBind v a b) s I → w / 64 % 4 = 0 → w < 2 ^ 16 →
      (∀ g, s.SlotsFree I [] → s.gslots.find (base + w % 64) = some g → g.owner ≠ I.crew.ctx →
        (∃ c, c ∈ (s.cluster I.cluster).grammarQ ∧ c.slot = w % 64) → SlotGives (.gpBind v a b) s I v u 0x07 (w % 64) none) ∧
      (s.SlotsFree I [w % 64] →
        (u.Unreadable I.crew.ctx (I.warp.operand64 a) 64 1 → SlotGives (.gpBind v a b) s I v u 0x10 (w % 64) none) ∧
        ∀ hd, u.Readable I.crew.ctx (I.warp.operand64 a) 64 1 hd →
          (gHeadBad hd = true → SlotGives (.gpBind v a b) s I v u 0x10 (w % 64) none) ∧
          (gHeadBad hd = false →
            let old : GSlot := (u.gslots.find (base + w % 64)).getD { owner := 0 }
            let g : GSlot := { old with
              owner := I.crew.ctx, gbase := I.warp.operand64 a, state := 0, depth := 0, gsel := w / 256 % 256,
              gen := ((u.ctx I.crew.ctx).gen.get 0 (w / 256 % 256)).toNat, logn := 0, steps := 0 }
            (old.Whole → g.Whole) ∧ SlotGives (.gpBind v a b) s I v { u with gslots := u.gslots.set (base + w % 64) g } 0 (w % 64) none))) ∧
    (∀ i, i = Instr.gpStep v a b ∨ i = .gpFork v a b ∨ i = .gpRoll v a b ∨ i = .gpMask v a b ∨ i = .gpSave v a b ∨ i = .gpLoad v a b →
      Runs i s I → s.SlotsFree I [] → 64 ≤ n ∨ (64 ≤ w ∧ (i = .gpFork v a b ∨ i = .gpRoll v a b)) → SlotGives i s I v u 0x10 0xFF none) ∧
    (∀ i, i = Instr.gpStep v a b ∨ (i = .gpRoll v a b ∧ w < 64) ∨ i = .gpMask v a b ∨ i = .gpSave v a b → Runs i s I → s.SlotsFree I [n] →
      I.HoldsNot u n → SlotGives i s I v u 0x06 n none) ∧
    (Runs (.gpFork v a b) s I → s.SlotsFree I [n, w] → I.HoldsNot u n → w < 64 → SlotGives (.gpFork v a b) s I v u 0x06 w none) ∧
    (∀ g, Runs (.gpFork v a b) s I → s.SlotsFree I [n, w] → I.Holds u n g → w < 64 →
      ((∀ x, u.gslots.find (base + w) = some x → x.owner = I.crew.ctx) →
        SlotGives (.gpFork v a b) s I v { u with gslots := u.gslots.set (base + w) g } 0 w none) ∧
      (∀ x, u.gslots.find (base + w) = some x → x.owner ≠ I.crew.ctx → SlotGives (.gpFork v a b) s I v u 0x06 w none)) ∧
    (∀ g, Runs (.gpRoll v a b) s I → s.SlotsFree I [n] → I.Holds u n g → w < 64 →
      (g.logn < w → SlotGives (.gpRoll v a b) s I v u 0x08 n none) ∧
      (w ≤ g.logn → g.Whole → ∃ g', g.Rolled g' w ((u.ctx g.owner).gen.get 0 g.gsel).toNat ∧ g'.Whole ∧
        SlotGives (.gpRoll v a b) s I v { u with fresh := u.fresh + w, gslots := u.gslots.set (base + n) g' } 0 n (some (g.logn - w)))) ∧
    (Runs (.gpLoad v a b) s I → s.SlotsFree I [n] → n < 64 →
      (∀ x, u.gslots.find (base + n) = some x → x.owner ≠ I.crew.ctx → SlotGives (.gpLoad v a b) s I v u 0x06 n none) ∧
      ((∀ x, u.gslots.find (base + n) = some x → x.owner = I.crew.ctx) →
        (u.Unreadable I.crew.ctx (I.warp.operand64 b) 256 64 → SlotGives (.gpLoad v a b) s I v u 0x11 n none) ∧
        ∀ bs, u.Readable I.crew.ctx (I.warp.operand64 b) 256 64 bs →
          (slotOfImage I.crew.ctx bs = none → SlotGives (.gpLoad v a b) s I v u 0x10 n none) ∧
          ∀ g, slotOfImage I.crew.ctx bs = some g → g.Whole ∧
            SlotGives (.gpLoad v a b) s I v { u with gslots := u.gslots.set (base + n) g } 0 n none))

/-- R287, R294, R297, R483: `GP.MASK` and `GP.SAVE` of a slot that the context holds check their output and queue on the slot; the reply
tells what acceptance found. Where VOCAB cannot be read the mask has no words, by the model's choice (log 56). -/
def Claims.GrammarOutputs : Prop :=
  ∀ (v a b : BitVec 7) (s : State) (I : Iss) (g : GSlot), s.SlotsFree I [] →
    let u := I.released s
    let n := (I.warp.operand a).toNat
    let out := I.warp.operand64 b
    let queued (w : GWork) := (u.updCluster I.cluster fun c => { c with
      grammarQ := c.grammarQ ++ [⟨n, I.crew.ctx, I.crew.slate, w, false⟩] }).cmdUp I.crew.slate
    I.Holds u n g →
    (∀ k, Runs (.gpMask v a b) s I →
        (u.Unreadable I.crew.ctx (g.gbase + 8) 4 1 ∧ k = 0 ∨ ∃ vb, u.Readable I.crew.ctx (g.gbase + 8) 4 1 vb ∧ k = (leNat vb + 31) / 32) →
      (u.wordOk I.crew.ctx out (4 * k + 4) 4 = true → SlotGives (.gpMask v a b) s I v (queued (.mask out (out + 4 * k))) 0 n (some 0)) ∧
      (u.wordOk I.crew.ctx out (4 * k + 4) 4 = false → SlotGives (.gpMask v a b) s I v u 0x11 n (some 0))) ∧
    (Runs (.gpSave v a b) s I →
      (u.wordOk I.crew.ctx out 256 64 = true → SlotGives (.gpSave v a b) s I v (queued (.save out)) 0 n none) ∧
      (u.wordOk I.crew.ctx out 256 64 = false → SlotGives (.gpSave v a b) s I v u 0x11 n none))

/-- R297: the bytes of a slot image and the fields of a slot are the same: an image gives a slot that gives it back, and a slot gives an image
that gives it back. -/
def Claims.SlotImages : Prop :=
  (∀ (o : Nat) (bs : List Byte) (g : GSlot), bs.length = 252 → leNat (bs.take 8) < 2 ^ 57 → slotOfImage o bs = some g →
    g.owner = o ∧ g.Whole ∧ slotImage g = bs) ∧
  ∀ g : GSlot, g.Whole → g.gbase < 2 ^ 57 → g.state < 2 ^ 16 → g.gsel < 2 ^ 8 → g.gen < 2 ^ 32 → g.steps < 2 ^ 32 →
    (∀ x, x ∈ g.stack → x < 2 ^ 8) → (∀ x, x ∈ g.log → x < 2 ^ 32) → slotOfImage g.owner (slotImage g) = some g

/-- R287, R299: `DT.BUILD` writes the parents, the rows of ancestors and then the completion word; depths that break the rule leave only
the completion word, BAD_TREE with the first such node. -/
def Claims.TreesBuilt : Prop :=
  ∀ (v a : BitVec 7) (s : State) (I : Iss) (bs ds : List Byte), Runs (.dtBuild v a) s I →
    let u := I.released s
    let ctx := I.crew.ctx
    let f (o n : Nat) : Nat := leNat ((bs.drop o).take n)
    let n := f 0 2
    let d := ds.map BitVec.toNat
    let rw' := (n + 31) / 32
    let word := f 24 8 + 4 * n * rw'
    (u.Unreadable ctx (I.warp.operand64 a) 32 32 → SlotGives (.dtBuild v a) s I v u 0x11 0xFF none) ∧
    (u.Readable ctx (I.warp.operand64 a) 32 32 bs →
      (n = 0 ∨ 256 < n ∨ f 2 6 ≠ 0 → SlotGives (.dtBuild v a) s I v u 0x09 0xFF none) ∧
      (0 < n → n ≤ 256 → f 2 6 = 0 → u.Unreadable ctx (f 8 8) n 1 → SlotGives (.dtBuild v a) s I v u 0x11 0xFF none) ∧
      (0 < n → n ≤ 256 → f 2 6 = 0 → u.Readable ctx (f 8 8) n 1 ds →
        (u.wordOk ctx (f 16 8) (2 * n) 4 = false ∨ u.wordOk ctx (f 24 8) (4 * n * rw' + 4) 4 = false →
          SlotGives (.dtBuild v a) s I v u 0x11 0xFF none) ∧
        (u.wordOk ctx (f 16 8) (2 * n) 4 = true → u.wordOk ctx (f 24 8) (4 * n * rw' + 4) 4 = true → u.migrating = [] →
          let done (y : State) (code : Nat) := (y.engStore ctx word (bytesLE 4 (2 ^ 31 + code))).noteWord ctx word scCluster
          (TreeOk d → ∃ ps rows free, Parents d ps ∧ Ancestors ps rows ∧
            SlotGives (.dtBuild v a) s I v
              (done ((u.engStore ctx (f 16 8) (ps.flatMap fun x => bytesLE 2 x)).engStore ctx (f 24 8)
                (rows.flatMap fun x => bytesLE (4 * rw') x)) (free % 2 ^ 24)).nextFree 0 0xFF none) ∧
          (∀ i, i < n → ¬TreeOk (d.take (i + 1)) → (i = 0 ∨ TreeOk (d.take i)) →
            SlotGives (.dtBuild v a) s I v (done u (2 ^ 24 * 0x09 + i)) 0 0xFF none))))

/-- R304, R306, R472: the commands of the prefix table. -/
def Claims.PrefixTable : Prop :=
  ∀ (v a b : BitVec 7) (s : State) (I : Iss),
    let u := I.released s
    let c := u.ctx I.crew.ctx
    let h := I.warp.operand64 a
    let n := (I.warp.operand a).toNat
    let p := (I.warp.operand b).toNat
    let held (k : Ctx) := u.updCtx I.crew.ctx fun _ => k
    ((∀ x, x ∈ c.ptab → x.2.hash ≠ h) → (∀ i, i = Instr.ptLook v a ∨ i = .ptPin v a → Runs i s I → SlotGives i s I v u 0x0A 0xFF none)) ∧
    (∀ k e, c.ptab.find? (fun x => x.2.hash == h) = some (k, e) → k < 256 →
      (Runs (.ptLook v a) s I → SlotGives (.ptLook v a) s I v
        (held { c with ptab := c.ptab.set k e, ptAge := k :: c.ptAge.filter (· != k) }) 0 k (some e.pins)) ∧
      (Runs (.ptPin v a) s I → e.pins < 0xFFFF → SlotGives (.ptPin v a) s I v
        (held { c with ptab := c.ptab.set k { e with pins := e.pins + 1 }, ptAge := k :: c.ptAge.filter (· != k) }) 0 k (some (e.pins + 1))) ∧
      (Runs (.ptPin v a) s I → 0xFFFF ≤ e.pins → SlotGives (.ptPin v a) s I v u 0x12 k (some e.pins)) ∧
      (Runs (.ptIns v a b) s I → (p < 64 ∨ p = 0xFFFFFFFF) → SlotGives (.ptIns v a b) s I v
        (held { c with ptab := c.ptab.set k e, ptAge := k :: c.ptAge.filter (· != k) }) 0x0E k (some e.pins))) ∧
    (Runs (.ptUnpin v a) s I →
      (64 ≤ n → SlotGives (.ptUnpin v a) s I v u 0x12 0xFF none) ∧
      (n < 64 → c.ptab.find n = none → SlotGives (.ptUnpin v a) s I v u 0x12 n none) ∧
      ∀ e, n < 64 → c.ptab.find n = some e →
        (e.pins = 0 → SlotGives (.ptUnpin v a) s I v u 0x12 n (some 0)) ∧
        (e.pins ≠ 0 → SlotGives (.ptUnpin v a) s I v (held { c with ptab := c.ptab.set n { e with pins := e.pins - 1 } }) 0 n (some (e.pins - 1)))) ∧
    (Runs (.ptEvict v a) s I →
      (64 ≤ n → SlotGives (.ptEvict v a) s I v u 0x0A 0xFF none) ∧
      (n < 64 → c.ptab.find n = none → SlotGives (.ptEvict v a) s I v u 0x0A n none) ∧
      ∀ e, n < 64 → c.ptab.find n = some e →
        (e.pins ≠ 0 → SlotGives (.ptEvict v a) s I v u 0x0B n (some e.pins)) ∧
        (e.pins = 0 → (∃ x, x ∈ c.ptab ∧ x.2.parent = some n) → SlotGives (.ptEvict v a) s I v u 0x0C n (some 0)) ∧
        (e.pins = 0 → (∀ x, x ∈ c.ptab → x.2.parent ≠ some n) → SlotGives (.ptEvict v a) s I v (held (c.ptDrop n)) 0 n (some 0))) ∧
    (Runs (.ptIns v a b) s I →
      (64 ≤ p → p ≠ 0xFFFFFFFF → SlotGives (.ptIns v a b) s I v u 0x0F 0xFF none) ∧
      ((∀ x, x ∈ c.ptab → x.2.hash ≠ h) →
        (p < 64 → c.ptab.find p = none → SlotGives (.ptIns v a b) s I v u 0x0F 0xFF none) ∧
        ((p = 0xFFFFFFFF ∨ (p < 64 ∧ c.ptab.find p ≠ none)) →
          let parent := if p = 0xFFFFFFFF then none else some p
          ((∃ k, k < 64 ∧ c.ptab.find k = none) → ∃ k, k < 64 ∧ c.ptab.find k = none ∧
            SlotGives (.ptIns v a b) s I v (held ((c.ptDrop k).ptUse k ⟨h, parent, 1⟩)) 0 k (some 1)) ∧
          ((∀ k, k < 64 → c.ptab.find k ≠ none) →
            (c.ptVictim = none → SlotGives (.ptIns v a b) s I v u 0x0D 0xFF none) ∧
            ∀ k, k < 256 → c.ptVictim = some k → SlotGives (.ptIns v a b) s I v (held ((c.ptDrop k).ptUse k ⟨h, parent, 1⟩)) 0 k (some 1)))))

/-- R287, R299, R304, R306, R472: trees and the prefix table. (Rests on choices of the model: logs 56, 57.) -/
def Obligations.TreesAndPrefixes : Prop := Claims.TreesBuilt ∧ Claims.PrefixTable

/-- R464, R473, R474: `XC.SCRB` starts a job on a live context other than the issuer's, on the lowest free job, and waits while there is
none; `KS.ZERO` empties a key slot: the key is gone, and no line of the slot stays in any L1 or L2 and no translation through it in a TLB. -/
def Claims.Scrubbing : Prop :=
  ∀ (v a b : BitVec 7) (s : State) (I : Iss),
    let u := I.released s
    let n := (I.warp.operand a).toNat
    (Runs (.xcScrb v a) s I →
      ((∀ j, j < 8 → (s.scrubs.get {} j).busy = true) →
        exec (.xcScrb v a) s = .next (({ I with warp := { I.warp with run := { I.warp.run with wait := .engine } } } : Iss).put s)) ∧
      ∀ j, j < 8 → (s.scrubs.get {} j).busy = false → (∀ k, k < j → (s.scrubs.get {} k).busy = true) →
        (1024 ≤ n → CommandGives (.xcScrb v a) s I v s 0x40) ∧
        (n < 1024 → u.ctxHeld n = true → CommandGives (.xcScrb v a) s I v s 0x49) ∧
        (n < 1024 → u.ctxHeld n = false → (n = I.crew.ctx ∨ ((u.ctx n).resident = false ∧ (u.ctx n).saved = false)) →
          CommandGives (.xcScrb v a) s I v s 0x47) ∧
        (n < 1024 → u.ctxHeld n = false → n ≠ I.crew.ctx → ((u.ctx n).resident = true ∨ (u.ctx n).saved = true) →
          ∃ t, CommandGives (.xcScrb v a) s I v t (256 * j) ∧ t = u.startJob j n (u.funcOf I.crew.ctx) false false
            ∧ (t.job j).busy = true ∧ (t.job j).ctx = n ∧ (t.ctx n).resident = false)) ∧
    (Runs (.ksZero v a b) s I →
      let va := I.warp.operand64 b
      (256 ≤ n → CommandGives (.ksZero v a b) s I v s 0x40) ∧
      (n = 0 → CommandGives (.ksZero v a b) s I v s 0x48) ∧
      (0 < n → n < 256 → b ≠ 0 → u.wordOk I.crew.ctx va 4 4 = false → CommandGives (.ksZero v a b) s I v s 0x41) ∧
      (0 < n → n < 256 → (b = 0 ∨ u.wordOk I.crew.ctx va 4 4 = true) → ∃ t, CommandGives (.ksZero v a b) s I v t (256 * n) ∧
        (u.keys.find n ≠ none → u.zeroing.contains n = false → t.keys.find n = none ∧ t.zeroing.contains n = true
          ∧ (∀ k l, l ∈ (t.core k).l1 → l.slot ≠ n) ∧ (∀ l, l ∈ t.mem.l2 → l.host = true ∨ l.slot ≠ n)
          ∧ ∀ k x, x ∈ (t.core k).tlb → x.host = true ∨ x.slot ≠ n)))

/-! ### Rows -/

/-- R232, R233, R235, R237, R424: `RACT` of a closed or expired bank that no timer, no spacing, no full tracker and no engine item holds up
opens the row as memory stores it, under its key, after the write-back of the row's dirty L2 lines; of a bank with an open row it raises ROW_CONFLICT. -/
def Claims.RowActivates : Prop :=
  ∀ (a : BitVec 7) (s : State) (I : Iss) (e : TlbEnt), Runs (.ract a) s I → I.RowAt s a e →
    let st := stackOf I.cluster
    let u := s.settleStack st
    let pa := e.addr (I.rowVa' a)
    let bank := bankOfPa pa
    let rows (k : Nat) := (u.cluster (2 * st + k)).row bank
    ((∃ k r, k < 2 ∧ rows k = some r ∧ r.st = .opened) → exec (.ract a) s = .next (u.takeTrap (I.rowTrap a cROWCONFLICT bank))) ∧
    ((∀ k r, k < 2 → rows k = some r → r.st = .expired) → (u.bank st bank).preEnd ≤ u.now → (u.bank st bank).refEnd ≤ u.now →
      (u.cluster I.cluster).busyRows u.now < 16 → u.mayActivate st = true →
      (∀ i, i < 16 → (u.mem.dirOf false (pa / 128 + i)).owners = []) →
      ∃ t, exec (.ract a) s = .next ((I.retire 4).put t)
        ∧ (∃ r, (t.cluster I.cluster).row bank = some r ∧ r.row = rowOfPa pa ∧ r.st = .opened ∧ r.tAct = u.now ∧ r.tPre = none
            ∧ r.data = ((List.range 128).map fun i => u.mem.storedBlock (pa + 16 * i)).flatten ∧ r.slot = e.slot
            ∧ (r.poisoned = true ↔ ∃ k, k ∈ u.mem.poison ∧ pa ≤ 32 * k ∧ 32 * k < pa + 2048))
        ∧ (∀ i, i < 16 → let line := pa / 2048 * 16 + i
            (t.mem.dirOf false line).remoteDirty = false ∧ ∀ l, l ∈ t.mem.l2 → l.host = false → l.line = line → l.dirty = false)
        ∧ (∀ host line, t.mem.dirOf host line = { u.mem.dirOf host line with remoteDirty := (t.mem.dirOf host line).remoteDirty })
        ∧ (∀ j, j ≠ bank → (t.cluster I.cluster).row j = (u.cluster I.cluster).row j)
        ∧ (∀ k, k ≠ I.cluster → t.cluster k = u.cluster k)
        ∧ (t.stack st).lastAct = some u.now ∧ (∀ k, k ≠ st → t.stack k = u.stack k)
        ∧ t = { u with mem := { u.mem with l2 := t.mem.l2, dir := t.mem.dir }, clusters := t.clusters, power := { u.power with hbms := t.power.hbms } })

/-- R232, R235, R423, R425: `RCON` and `RCON.WS` start a transfer of an open row's 2 KiB, decrypted as it leaves the port, 12 ns after its
activation and with a row port free, to the eighth of a tile that the address names or to the weight stage; a row that is closed,
expired, another, poisoned or without its key raises its trap. -/
def Claims.RowsRead : Prop :=
  ∀ (t a b : BitVec 7) (s : State) (I : Iss) (e : TlbEnt), I.RowAt s a e →
    let cl := I.cluster
    let u := (s.settleStack (stackOf cl)).settleStack (stackOf cl)
    let pa := e.addr (I.rowVa' a)
    let bank := bankOfPa pa
    let off := (I.warp.operand b).toNat
    let reads (i : Instr) (tile : Option Nat) (o : Nat) : Prop :=
      let traps (cause d : Nat) : Prop := exec i s = .next (u.takeTrap (I.rowTrap a cause d))
      ((u.cluster cl).row bank = none → traps cROWCLOSED bank) ∧
      ∀ r, (u.cluster cl).row bank = some r →
        (r.row ≠ rowOfPa pa → traps cROWCONFLICT bank) ∧
        (r.row = rowOfPa pa →
          (r.st = .closing → traps cROWCLOSED bank) ∧ (r.st = .expired → traps cROWEXPIRED bank) ∧
          (r.st = .opened → r.slot ≠ 0 → u.keys.find r.slot = none → traps cPROTECT 0) ∧
          (r.st = .opened → r.slot = 0 ∨ u.keys.find r.slot ≠ none →
            (r.poisoned = true → exec i s = .next ((I.reportRow u a).takeTrap (I.rowTrap a cROWPOISON bank))) ∧
            (r.poisoned = false → r.tAct + 12000 ≤ u.now → (u.cluster cl).xfers.length < 4 →
              exec i s = .next ((I.retire 4).put (u.updCluster cl fun c => { c with
                xfers := c.xfers ++ [⟨bank, u.now + 8000000 / (800 + 25 * (u.pw cl).step), tile, o,
                  openStored (u.keyOf r.slot) (pa / 2048 * 2048) r.data⟩] })))))
    (Runs (.rcon t a) s I → s.sharedIllegal cl t.toNat = false →
      (∀ q, q ∈ ((s.settleStack (stackOf cl)).mx cl).queue → q.names t.toNat = false) →
      (∀ w, w ∈ ((s.settleStack (stackOf cl)).mx cl).shared → w.tile ≠ t.toNat) →
      (∀ x, x ∈ ((s.settleStack (stackOf cl)).cluster cl).xfers → x.tile ≠ some t.toNat) →
      reads (.rcon t a) (some t.toNat) (2048 * (I.warp.operand64 a / 256 % 8))) ∧
    (Runs (.rconWs a b) s I → off % 256 = 0 → off + 2048 ≤ 0x600000 → reads (.rconWs a b) none off) ∧
    (Runs (.rconWs a b) s I → off % 256 ≠ 0 ∨ 0x600000 < off + 2048 →
      exec (.rconWs a b) s = .next ((s.settleStack (stackOf cl)).takeTrap { cause := cTYPED, detail := 1, taddr := off, lanes := 1 }))

/-- R235, R236, R426: `RCLS` starts the precharge of an open row, 28 ns after its activation at the earliest, with a refresh behind it that
waited for the row; it frees an expired entry; a row that is closed or another raises its trap. -/
def Claims.RowsClose : Prop :=
  ∀ (a : BitVec 7) (s : State) (I : Iss) (e : TlbEnt), Runs (.rcls a) s I → I.RowAt s a e →
    let st := stackOf I.cluster
    let cl := I.cluster
    let u := s.settleStack st
    let pa := e.addr (I.rowVa' a)
    let bank := bankOfPa pa
    ((u.cluster cl).row bank = none → exec (.rcls a) s = .next (u.takeTrap (I.rowTrap a cROWCLOSED bank))) ∧
    ∀ r, (u.cluster cl).row bank = some r →
      (r.row ≠ rowOfPa pa → exec (.rcls a) s = .next (u.takeTrap (I.rowTrap a cROWCONFLICT bank))) ∧
      (r.row = rowOfPa pa → r.st = .closing → exec (.rcls a) s = .next (u.takeTrap (I.rowTrap a cROWCLOSED bank))) ∧
      (r.row = rowOfPa pa → r.st = .expired → exec (.rcls a) s = .next ((I.retire 4).put (u.updCluster cl fun c => { c with
        rows := c.rows.filter fun x => x.bank != bank }))) ∧
      (r.row = rowOfPa pa → r.st = .opened → (∀ x, x ∈ (u.cluster cl).xfers → x.bank ≠ bank) →
        let at' := max u.now (r.tAct + 28000)
        let shut (x : RowEnt) : RowEnt := if x.bank = bank then { x with st := .closing, tPre := some at', data := [] } else x
        let busy (k : BankSt) : BankSt :=
          if k.refWaits then { k with
            preEnd := at' + 12000, refWaits := false, refEnd := at' + 12000 + 120000,
            refDue := max (k.refDue + 3900000) (at' + 12000 + 120000 + 28000 + 12000) }
          else { k with preEnd := at' + 12000 }
        exec (.rcls a) s = .next ((I.retire 4).put ((u.updCluster cl fun c => { c with rows := c.rows.map shut }).updBank st bank busy)))

/-- R427: `RSTAT` reports a bank's entry: its state, whether its row is the one asked for, whether it may be read yet, the nanoseconds since
its activation, and how many entries of the tracker are busy. -/
def Claims.RowsReported : Prop :=
  ∀ (d a : BitVec 7) (s : State) (I : Iss) (e : TlbEnt), Runs (.rstat d a) s I → I.RowAt s a e →
    let cl := I.cluster
    let u := s.settleStack (stackOf cl)
    let pa := e.addr (I.rowVa' a)
    ∃ w, I.warp.Written w I.ctl none d 1 (fun _ =>
        65536 * (u.cluster cl).busyRows u.now + match (u.cluster cl).row (bankOfPa pa) with
          | none => 0
          | some x => (match x.st with | .opened => 1 | .closing => 2 | .expired => 3) + (if x.row = rowOfPa pa then 4 else 0)
              + if x.st = .opened then (if x.tAct + 12000 ≤ u.now then 8 else 0) + 16 * min 4095 ((u.now - x.tAct) / 1000) else 0)
      ∧ exec (.rstat d a) s = .next (I.retiredWith u w 0 4)

/-! ### The matrix unit -/

/-- R431, R436-R438, R451, R453: `TSHAPE`, `OMAP`, `SCPL` and `SCINV` write a tile's control words and the scale bindings, or are ILLEGAL
where a field breaks its limits; `TCLR` zeroes a tile that no queued work uses; `SCQ` reports a scale id. -/
def Claims.MatrixSetup : Prop :=
  ∀ (t a b d : BitVec 7) (s : State) (I : Iss),
    let cl := I.cluster
    let m := s.mx cl
    let done (u : State) : Host.Outcome State Fault Refusal := .next ((I.retire 4).put u)
    let ctl := m.tctl.get {} t.toNat
    (Runs (.tshape t a) s I →
      let bad := 2 ^ 14 ≤ I.num a 0 ∨ 16384 < (I.num a 0 % 256 + 1) * 32 * (I.num a 0 / 256 % 64 + 1) ∨ fmtMalformed (I.num a 1) = true
      (bad → exec (.tshape t a) s = .next (s.takeTrap illegalT)) ∧
      (¬bad → (m.coop = none ∨ t.toNat < 12) →
        exec (.tshape t a) s = done (s.updMx cl fun m => { m with tctl := m.tctl.set t.toNat { ctl with shape := I.num a 0, fmt := I.num a 1 } }))) ∧
    (Runs (.omap t a) s I →
      let bad := 2 ^ 10 ≤ I.num a 0 ∨ I.num a 0 / 256 % 4 = 3 ∨ 2 ^ 24 ≤ I.num a 2
      (bad → exec (.omap t a) s = .next (s.takeTrap illegalT)) ∧
      (¬bad → exec (.omap t a) s = done (s.updMx cl fun m => { m with
        tctl := m.tctl.set t.toNat { ctl with map0 := I.num a 0, bbase := I.num a 1, bstr := I.num a 2, voff := I.num a 3 } }))) ∧
    (Runs (.tclr t) s I → s.sharedIllegal cl t.toNat = false → (s.settleStack (stackOf cl)).tileBusy cl t.toNat = false →
      exec (.tclr t) s = done ((s.settleStack (stackOf cl)).tileWrite cl t.toNat 0 (List.replicate 16384 0))) ∧
    (Runs (.tclr t) s I → 12 ≤ t.toNat → (∃ r, (m.coop.map fun g => cl % 16 - g.1) = some r ∧ r ≠ 0) →
      exec (.tclr t) s = .next (s.takeTrap illegalT)) ∧
    (Runs (.scpl a b) s I →
      (2 ^ 12 ≤ I.num b 0 → exec (.scpl a b) s = .next (s.takeTrap illegalT)) ∧
      (I.num b 0 < 2 ^ 12 → (∀ q, q ∈ m.queue → q.usesId (I.num b 0) = false) → exec (.scpl a b) s = done (s.updMx cl fun m => { m with
        scBase := m.scBase.set (I.num b 0) (I.warp.operand64 a), scMiss := m.scMiss.del (I.num b 0),
        scCache := m.scCache.filter fun l => l.id != I.num b 0 }))) ∧
    (Runs (.scinv a) s I → I.num a 0 < 2 ^ 13 → m.queue = [] →
      exec (.scinv a) s = done (s.updMx cl fun m => { m with
        scCache := if 2 ^ 12 ≤ I.num a 0 then [] else m.scCache.filter fun l => l.id != I.num a 0 })) ∧
    (Runs (.scq d a) s I → I.num a 0 < 2 ^ 12 → ∃ u, exec (.scq d a) s = .next u ∧ WritesReg I s u none d 1 (fun _ =>
      (if m.scBase.find (I.num a 0) = none then 0 else 1) + 256 * (m.scCache.filter fun l => l.id == I.num a 0).length
        + 65536 * m.scMiss.get 0 (I.num a 0)) 0)

/-- R439, R440: `TLD` fills and `TST` stores the rows of a tile from its progress index on, with row `r` at the address plus `r` strides. -/
def Claims.TilesMove : Prop :=
  ∀ (t a b : BitVec 7) (s : State) (I : Iss) (acc : Nat → TlbEnt × Option TlbEnt),
    let cl := I.cluster
    let core := I.crew.core
    let u := s.settleStack (stackOf cl)
    let c := (u.mx cl).ctl t.toNat
    let L := 32 * (c.shape / 256 % 64 + 1)
    let rs := (List.range (c.shape % 256 + 1)).filter fun r => decide (I.startItem ≤ r)
    u.Mirrors core → u.tileBusy cl t.toNat = false →
    (Runs (.tld t a b) s I → s.sharedIllegal cl t.toNat = false →
      (∀ r, r ∈ rs → I.ReachAt u { n := L, align := 32 } (I.rowPlace a b r) (acc r)) →
      ∃ v, u.MemoryOnly v core ∧ v.image core = u.image core ∧ exec (.tld t a b) s = .next ((I.retire 4).put
        (rs.foldl (fun x r => x.tileWrite cl t.toNat (r * L) (u.seenAt core (I.rowPlace a b r) L (acc r))) v))) ∧
    (Runs (.tst t a b) s I → s.allBindings = [] → (u.mx cl).tPoison = [] →
      (∀ r, r ∈ rs → I.ReachAt u { n := L, write := true, align := 32 } (I.rowPlace a b r) (acc r)) →
      ∃ v, u.MemoryOnly v core ∧ exec (.tst t a b) s = .next ((I.retire 4).put v)
        ∧ v.image core = rs.foldl (fun m r => m.put (placesAt (I.rowPlace a b r) L (acc r))
            ((u.mx cl).tiles.read (16384 * t.toNat + r * L) L)) (u.image core))

/-- R441: `TFEED` reads a record's lane mask and format words, raises FMT for the lanes whose word differs from the one it was given, and
otherwise writes the tile's format and a row for each lane of the mask. -/
def Claims.TileFeeds : Prop :=
  ∀ (t a b : BitVec 7) (s : State) (I : Iss) (x0 x1 : TlbEnt × Option TlbEnt) (acc : Nat → TlbEnt × Option TlbEnt), Runs (.tfeed t a b) s I →
    let cl := I.cluster
    let core := I.crew.core
    let u := s.settleStack (stackOf cl)
    let c := (u.mx cl).ctl t.toNat
    let L := 32 * (c.shape / 256 % 64 + 1)
    let at' := I.warp.operand64 b
    let lmask := leNat (u.seenAt core at' 4 x0)
    let words (i : Nat) := leNat (((u.seenAt core (at' + 128) 128 x1).drop (4 * i)).take 4)
    let feeding := (List.range 32).filter fun i => lmask.testBit i
    u.Mirrors core → u.tileBusy cl t.toNat = false → s.sharedIllegal cl t.toNat = false →
    I.ReachAt u { n := 4, align := 64 } at' x0 → I.ReachAt u { n := 128 } (at' + 128) x1 →
    (∀ dis : BitVec 32, dis ≠ 0 → (∀ i, i < 32 → (dis.getLsbD i = true ↔ i ∈ feeding ∧ words i ≠ I.num a 0)) →
      ∃ v, u.MemoryOnly v core ∧ v.image core = u.image core ∧ exec (.tfeed t a b) s = .next (v.takeTrap { cause := cFMT, lanes := dis })) ∧
    ((∀ i, i ∈ feeding → words i = I.num a 0 ∧ c.map0 % 256 + i ≤ c.shape % 256 ∧
        I.ReachAt u { n := L } (at' + 256 + i * L) (acc i)) → fmtMalformed (I.num a 0) = false →
      ∃ v, u.MemoryOnly v core ∧ v.image core = u.image core ∧ exec (.tfeed t a b) s = .next ((I.retire 4).put
        (feeding.foldl (fun x i => x.tileWrite cl t.toNat ((c.map0 % 256 + i) * L) (u.seenAt core (at' + 256 + i * L) L (acc i)))
          ((v.updMx cl fun m => { m with tctl := m.tctl.set t.toNat { m.ctl t.toNat with fmt := I.num a 0 } }).shareTile cl t.toNat
            (.fmt (I.num a 0))))))

/-- R431, R436-R441, R451, R453: the tiles of the matrix unit, their setup and their rows. (Rests on choices of the model: log 46.) -/
def Obligations.Tiles : Prop := Claims.MatrixSetup ∧ Claims.TilesMove ∧ Claims.TileFeeds

/-- R433, R442, R447: a multiply, a drain or `MZERO` that breaks no rule enters the queue of the matrix unit with the tiles' shapes and the
rounding modes of that moment; while the queue holds eight entries the thread waits; a multiply of tiles without their roles, of
unequal lengths or of a pair of formats that it does not take is ILLEGAL. -/
def Claims.MatrixQueues : Prop :=
  ∀ (i : Instr) (op : MOp) (k ti tj a b : BitVec 7) (s : State) (I : Iss),
    let m := s.mx I.cluster
    let queued (q : MItem) : Host.Outcome State Fault Refusal := .next ((I.retire 4).put (s.updMx I.cluster fun m => { m with queue := m.queue ++ [q] }))
    let ca := m.tctl.get {} ti.toNat
    let cb := m.tctl.get {} tj.toNat
    let ea := fmtElem ca.fmt
    let eb := fmtElem cb.fmt
    let wide := (ea ∈ [0, 1, 2, 3, 7]) ∧ (eb ∈ [0, 1, 2, 3, 7])
    let narrow := (ea ∈ [4, 5, 6, 8, 9]) ∨ (eb ∈ [4, 5, 6, 8, 9])
    let fits := ca.fmt.testBit 24 = true ∧ cb.fmt.testBit 25 = true ∧ ca.rows ≤ 64 ∧ cb.rows ≤ 64 ∧
      elemsOf ea ca.rowLen = elemsOf eb cb.rowLen ∧ (op = .mma → wide) ∧ (op = .mmaq → narrow) ∧ (op = .mmas → wide ∨ narrow)
    ((i = .mma k ti tj ∨ i = .mmas k ti tj ∨ i = .mmaq k ti tj ∨ i = .mzero k ∨ i = .mdrn k a b) → Runs i s I → 8 ≤ m.queue.length →
      exec i s = .next (({ I with warp := { I.warp with run := { I.warp.run with wait := .matrix } } } : Iss).put s)) ∧
    ((i = .mma k ti tj ∧ op = .mma ∨ i = .mmas k ti tj ∧ op = .mmas ∨ i = .mmaq k ti tj ∧ op = .mmaq) → Runs i s I → m.queue.length < 8 →
      (¬fits → exec i s = .next (s.takeTrap illegalT)) ∧
      (fits → viewBad ca = false → viewBad cb = false →
        let q : MItem := ⟨op, k.toNat, I.crew.slate, ti.toNat, tj.toNat, ca, cb, I.crew.nmode, 0, [], 0, false, [], []⟩
        I.ScalesReach s q → exec i s = queued q)) ∧
    (Runs (.mzero k) s I → m.queue.length < 8 → exec (.mzero k) s = queued { op := .mzero, acc := k.toNat, slate := I.crew.slate }) ∧
    (Runs (.mdrn k a b) s I → m.queue.length < 8 →
      let q : MItem := ⟨.mdrn, k.toNat, I.crew.slate, 0, 0, {}, {}, I.crew.nmode, I.num a 0, (List.range 9).map fun j => I.num b j, 0, false, [], []⟩
      q.dr 0 < 2 ^ 15 → drainFmtBad (q.dr 1) 3 = false → (q.dRes = true → drainFmtBad (q.dr 2) 2 = false) →
      (q.dDrop = true → q.dr 5 ≤ 2 ^ 24) → drainRegionBad q.off q.dRows (drainBytes (fmtElem (q.dr 1)) q.dCols) = false →
      (q.dRes = true → drainRegionBad (q.dr 3) q.dRows (drainBytes (fmtElem (q.dr 2)) q.dCols) = false) →
      (q.dEf = true → drainRegionBad (q.dr 4) q.dRows (4 * q.dCols) = false) →
      I.ScalesReach s q → exec (.mdrn k a b) s = queued q)

/-- R269, R446, R454: `MLOAD` loads the 64 rows of an accumulator tile, 512 bytes each, seven bytes of every eight an entry; `CBLD` loads a
codebook. -/
def Claims.MatrixLoads : Prop :=
  ∀ (k a : BitVec 7) (s : State) (I : Iss) (acc : Nat → TlbEnt × Option TlbEnt),
    let cl := I.cluster
    let core := I.crew.core
    let m := s.mx cl
    let va (r : Nat) := (I.warp.operand64 a + 512 * r) % 2 ^ 64
    s.Mirrors core →
    (Runs (.mload k a) s I → I.startItem < 64 → (∀ q, q ∈ m.queue → q.acc ≠ k.toNat) →
      (∀ r, r < 64 → I.startItem ≤ r → I.ReachAt s { n := 512, align := 64 } (va r) (acc r)) →
      ∃ v m', s.MemoryOnly v core ∧ v.image core = s.image core
        ∧ exec (.mload k a) s = .next ((I.retire 4).put (v.updMx cl fun _ => m'))
        ∧ m' = { m with acc := m'.acc, accPoison := m'.accPoison }
        ∧ (∀ r j, r < 64 → j < 64 → I.startItem ≤ r → m'.entry (4096 * k.toNat + 64 * r + j) =
            leNat (((s.seenAt core (va r) 512 (acc r)).drop (8 * j)).take 7))
        ∧ ∀ n, (∀ r j, r < 64 → j < 64 → I.startItem ≤ r → n ≠ 4096 * k.toNat + 64 * r + j) → m'.entry n = m.entry n) ∧
    (Runs (.cbld k a) s I → (∀ q, q ∈ m.queue → q.usesBook k.toNat = false) →
      I.ReachAt s { n := 1024, align := 64 } (I.warp.operand64 a) (acc 0) →
      ∃ v, s.MemoryOnly v core ∧ v.image core = s.image core ∧ exec (.cbld k a) s = .next ((I.retire 4).put
        (v.updMx cl fun m => { m with cbooks := m.cbooks.write (1024 * k.toNat) (s.seenAt core (I.warp.operand64 a) 1024 (acc 0)) })))

/-- R450, R455, R456: `MWAIT` goes on when its class of work is complete and otherwise parks the thread; `MFENCE` does so for all classes,
with a full fence when it goes on; a poisoned drain that no wait has reported raises POISON at a wait that covers drains. -/
def Claims.MatrixWaits : Prop :=
  ∀ (i : Instr) (cls : Nat) (s : State) (I : Iss),
    (∃ l : BitVec 7, i = .mwait l ∧ l.toNat = cls ∧ cls < 4) ∨ (i = .mfence ∧ cls = 4) → Runs i s I → I.ctl = true → I.crew.core = 320 + I.cluster →
    let cl := I.cluster
    let u := s.settleStack (stackOf cl)
    let idle := (cls = 0 ∨ 3 ≤ cls → (u.cluster cl).xfers = [] ∧ (u.mx cl).shared = []) ∧
      (cls = 1 ∨ 3 ≤ cls → ∀ q, q ∈ (u.mx cl).queue → q.op = .mdrn) ∧ (cls = 2 ∨ 3 ≤ cls → ∀ q, q ∈ (u.mx cl).queue → q.op ≠ .mdrn)
    (2 ≤ cls → (u.mx cl).drainPoison ≠ 0 → i ≠ .mfence →
      exec i s = .next ((u.updMx cl fun m => { m with drainPoison := m.drainPoison - 1 }).takeTrap { cause := cPOISON, lanes := 1 })) ∧
    (cls < 2 ∨ (u.mx cl).drainPoison = 0 → I.warp.div = [] → u.NoneWaits (fun w => ∃ k, w = .mwait k) →
      (idle → ∃ t, exec i s = .next t ∧ I.StandsAt t .none ∧ (i ≠ .mfence → t = { u with crews := t.crews }) ∧
        (i = .mfence → u.Mirrors I.crew.core → t.image I.crew.core = u.image I.crew.core ∧ (t.core I.crew.core).l1 = [])) ∧
      (¬idle → ∃ t, exec i s = .next t ∧ I.StandsAt t (.mwait cls) ∧ t = { u with crews := t.crews }))

/-- R458: `MCOOP` by a member of its group: a JOIN waits until every member has joined with the same descriptor, and then the group stands
at each of them; a SYNC or LEAVE after the member's transfers are complete waits for the others likewise, and a LEAVE ends the group;
a descriptor that breaks its rule is ILLEGAL. -/
def Claims.CooperationGroups : Prop :=
  ∀ (a : BitVec 7) (s : State) (I : Iss), Runs (.mcoop a) s I → I.ctl = true → I.crew.core = 320 + I.cluster → I.warp.div = [] →
    let v := I.num a 0
    let cl := I.cluster
    let first := v / 4 % 16
    let size := v / 64 % 16
    let member (k : Nat) : Prop := ∃ i, i ≤ size ∧ k = 16 * (cl / 16) + first + i
    let fits := v % 4 ≠ 3 ∧ v < 2 ^ 10 ∧ first ≤ cl % 16 ∧ cl % 16 ≤ first + size ∧ first + size ≤ 15
    let arrived := ∀ k, member k → k ≠ cl → (s.mx k).coopAt = some v
    (¬fits → exec (.mcoop a) s = .next (s.takeTrap illegalT)) ∧
    (fits → v % 4 = 0 →
      ((s.mx cl).coop ≠ none → exec (.mcoop a) s = .next (s.takeTrap illegalT)) ∧
      ((s.mx cl).coop = none → (∀ k, member k → k ≠ cl → (∀ d, (s.mx k).coopAt = some d → d % 4 ≠ 0 ∨ d = v) ∧
          ∀ g, (s.mx k).coop = some g → g = (first, size)) →
        ((∃ k o, member k ∧ (s.cluster k).owner = some o ∧ o ≠ I.crew.ctx) →
          exec (.mcoop a) s = .next (s.takeTrap { cause := cPROTECT, lanes := 1 })) ∧
        ((∀ k o, member k → (s.cluster k).owner = some o → o = I.crew.ctx) →
          (arrived → ∃ t, exec (.mcoop a) s = .next t ∧ I.StandsAt t .none
            ∧ ∀ k, member k → (t.mx k).coop = some (first, size) ∧ (t.mx k).coopAt = none) ∧
          (¬arrived → ∃ t, exec (.mcoop a) s = .next t ∧ I.StandsAt t .coop ∧ (t.mx cl).coopAt = some v
            ∧ ∀ k, k ≠ cl → t.mx k = s.mx k)))) ∧
    (fits → v % 4 ≠ 0 →
      let u := s.settleStack (stackOf cl)
      ((s.mx cl).coop ≠ some (first, size) → exec (.mcoop a) s = .next (s.takeTrap illegalT)) ∧
      ((s.mx cl).coop = some (first, size) → (u.cluster cl).xfers = [] → (u.mx cl).shared = [] → (s.core I.crew.core).wbuf = [] →
        ((∀ k, member k → k ≠ cl → (u.mx k).coopAt = some v) → ∃ t, exec (.mcoop a) s = .next t ∧ I.StandsAt t .none
          ∧ ∀ k, member k → (t.mx k).coopAt = none ∧ (v % 4 = 2 → (t.mx k).coop = none) ∧ (v % 4 = 1 → (t.mx k).coop = (u.mx k).coop)) ∧
        ((∃ k, member k ∧ k ≠ cl ∧ (u.mx k).coopAt ≠ some v) → ∃ t, exec (.mcoop a) s = .next t ∧ I.StandsAt t .coop
          ∧ (t.mx cl).coopAt = some v)))

/-- R269, R433, R442, R446, R447, R450, R454-R456, R458: what enters the matrix queue, the loads, the waits and the groups. (Rests on choices of the
model: logs 13, 43, 45.) -/
def Obligations.MatrixQueue : Prop :=
  Claims.MatrixQueues ∧ Claims.MatrixLoads ∧ Claims.MatrixWaits ∧ Claims.CooperationGroups

/-! ### Power, clocks and heat -/

/-- R23, R24, R26-R30: the steps of the clocks, the budget and its two shares, the slider and the thermal caps. The compute side above its share
lowers the cap of one cluster, of the lowest class, then of the highest step, then of the lowest number, and raises caps in the reverse order
below it; a cluster without a context comes last. The memory side moves its one factor. -/
def Claims.PowerSteps : Prop :=
  ∀ s : State,
    let cl := s.inp.unit
    let p := s.power
    let k := s.stack cl
    let put (q : PowerSt) : Host.Outcome State Fault Refusal := .next { s with power := q }
    let cls (c : Nat) := match s.clusterClass c with | some n => n + 1 | none => 0
    let st (c : Nat) := (s.pw c).step
    let before (c x : Nat) := cls x < cls c ∨ (cls x = cls c ∧ (st x < st c ∨ (st x = st c ∧ c ≤ x)))
    let budget := p.plim - s.inp.unit
    let mem := budget * max 8 (min 40 p.mshr) / 64
    let cmp := budget - mem
    exec .clockStepChange s = .next (s.updPw cl fun q => { q with step := min q.grant (min q.cap (s.stack (cl / 2)).cap) }) ∧
    (s.inp.sub = 0 →
      (cmp < s.inp.val → (∀ c, c < 32 → (s.pw c).cap = 0) → exec .budgetCapAdjust s = put { p with cmpcap := true }) ∧
      (cmp < s.inp.val → (∀ c, c < 32 → st c ≤ 100) → ∀ c, c < 32 → 0 < (s.pw c).cap →
        (∀ x, x < 32 → 0 < (s.pw x).cap → before c x) →
        exec .budgetCapAdjust s = .next (({ s with power := { p with cmpcap := true } } : State).updPw c fun q => { q with cap := q.cap - 1 })) ∧
      (s.inp.val < cmp → (∀ c, c < 32 → 100 ≤ (s.pw c).cap) → exec .budgetCapAdjust s = .next s) ∧
      (s.inp.val < cmp → (∀ c, c < 32 → st c ≤ 100) → ∀ c, c < 32 → (s.pw c).cap < 100 →
        (∀ x, x < 32 → (s.pw x).cap < 100 → before x c) →
        exec .budgetCapAdjust s = .next (s.updPw c fun q => { q with cap := q.cap + 1 })) ∧
      (s.inp.val = cmp → exec .budgetCapAdjust s = .next s)) ∧
    (s.inp.sub ≠ 0 →
      (mem < s.inp.val → exec .budgetCapAdjust s = put { p with memcap := true, memFactor := p.memFactor + 1 }) ∧
      (s.inp.val < mem → exec .budgetCapAdjust s = put { p with memFactor := p.memFactor - 1 }) ∧
      (s.inp.val = mem → exec .budgetCapAdjust s = .next s)) ∧
    (let stalls : Prop := p.memcap = true ∧ 3 * s.inp.aux ≤ 8 * s.inp.val
     let waits : Prop := p.cmpcap = true ∧ 8 * s.inp.val < s.inp.aux
     let slid (m : Nat) : Host.Outcome State Fault Refusal := .next { s with
       now := max s.now (5000 * (p.sliderAt + 16384)),
       power := { p with mshr := max 8 (min 40 m), memcap := false, cmpcap := false, sliderAt := p.sliderAt + 16384 } };
      (p.slfix = true → exec .sliderPeriod s = slid p.mfix) ∧
      (p.slfix = false → stalls → exec .sliderPeriod s = slid (p.mshr + 1)) ∧
      (p.slfix = false → ¬stalls → waits → exec .sliderPeriod s = slid (p.mshr - 1)) ∧
      (p.slfix = false → ¬stalls → ¬waits → exec .sliderPeriod s = slid p.mshr)) ∧
    exec .pwrctlWrite s = put { p with
      plim := max 1000 (min 3200 (s.inp.val % 4096)), slfix := s.inp.val.testBit 18, mfix := s.inp.val / 2 ^ 19 % 64 } ∧
    exec .thermalBandChange s = .next (s.updStack cl fun q =>
      let b := min 3 s.inp.val
      { q with band := b, cap := if b = 3 then 0 else q.cap, bandTick := if b = q.band then q.bandTick else s.now / 5000 }) ∧
    exec .thermalCapTick s = .next (s.updStack cl fun q => { q with
      cap := if k.band = 0 then min 100 (q.cap + 1) else if k.band = 1 then q.cap else if k.band = 2 then q.cap - 4 else 0 })

/-- R31, R32, R34, R35, R144: a thermal trip stops every crew, empties the matrix queues and is reported; it ends when every stack is in band 0, after ten
milliseconds, with every cluster up and every grammar slot unbound; a cluster is fenced after a sag, its crews stopped and its cores taken; the active
halves switch after ten milliseconds. (Rests on choices of the model: logs 66, 81, 82.) -/
def Obligations.TripsAndFences : Prop :=
  ∀ s : State, s.crews.Rising →
    let cl := s.inp.unit
    let stopped (t : State) (p : Crew → Prop) := ∀ k c, t.crew k = some c → p c → c.kind ≠ .cue → c.ending ≠ none
    (s.power.tripped = true → exec .thermalTrip s = .next s) ∧
    (s.power.tripped = false → ∃ t u : State, exec .thermalTrip s = .next t ∧ t.power.tripped = true ∧ t.power.tripTick = s.now / 5000
      ∧ stopped t (fun _ => True) ∧ (∀ k, k < 32 → (t.mx k).queue = []) ∧ t = u.post 0 { recThermalTrip with unit := 4096 + cl % 4096 }) ∧
    (s.power.tripped = false ∨ (∃ k, k < 16 ∧ (s.stack k).band ≠ 0) → exec .thermalClear s = .next s) ∧
    (s.power.tripped = true → (∀ k, k < 16 → (s.stack k).band = 0) → ∃ t, exec .thermalClear s = .next t ∧ t.power.tripped = false
      ∧ t.power.w3 = false ∧ t.power.selfRefresh = false ∧ t.power.linkIdle = false ∧ t.gslots = [] ∧ (∀ k, k < 32 → (t.pw k).w = 0 ∧ (t.mx k) = {} ∧ (t.cluster k).mbx = [] ∧ (t.cluster k).arv = [])
      ∧ ∀ k, k < 16 → 5000 * ((s.stack k).bandTick + 2000000) ≤ t.now) ∧
    ((s.pw cl).fenced = true ∨ s.inp.val ≤ 35 → exec .clusterFenced s = .next s) ∧
    ((s.pw cl).fenced = false → 35 < s.inp.val → ∃ t u : State, exec .clusterFenced s = .next t ∧ (t.pw cl).fenced = true
      ∧ stopped t (fun c => clusterOf c.core = cl) ∧ (t.mx cl).queue = [] ∧ (t.cluster cl).owner = none
      ∧ (∀ k j, j ∈ (t.ctx k).cores → j / 10 ≠ cl) ∧ t = u.post 0 { recClusterFenced with unit := cl % 4096, d0 := s.inp.val }) ∧
    (let n := min 2 s.inp.sub;
     let at' := max s.now ((s.pw cl).since.get 0 n + 10000000000)
     let busy := n < 2 ∧ ∃ q, q ∈ (s.mx cl).queue ∧ q.onArray n = true;
      (s.inp.val < 4 ∨ busy → exec .halfSwitch s = .next s) ∧
      (4 ≤ s.inp.val → ¬busy →
        exec .halfSwitch s = .next (({ s with now := at' } : State).updPw cl fun p => { p with
          since := p.since.set n at', half0 := p.half0 != (n == 0), half1 := p.half1 != (n == 1), cbank := p.cbank != (n == 2) })))

/-- R37-R41: the power states: W1 after 2 µs without an issue and W2 after 50 µs without a crew, the deepest that the host tolerates, for a cluster
without work while no nine others of its die stand in W2; W3 when every cluster may and every queue is empty; the break-even hold, the in-rush FIFO
and the host's latency tolerance, which wakes what stands deeper than it allows. -/
def Claims.PowerStates : Prop :=
  ∀ s : State,
    let cl := s.inp.unit
    let allows (x : Option Nat) (ns : Nat) := ∀ t, x = some t → ns ≤ t
    let tol := s.power.tolerance
    let w1 := max s.now ((s.pw cl).lastIssue + 2000000)
    let w2 (k : Nat) := (s.pw k).lastCrew + 50000000
    let deep (now : Nat) := s.power.w3 = false ∧ allows tol 24000 ∧ s.w2Ready cl = true ∧ w2 cl ≤ now ∧
      ((List.range 32).filter fun k => k / 16 == cl / 16 && (s.pw k).w == 2).length < 9
    let down (t : State) (now : Nat) := now ≤ t.now ∧ (t.pw cl).w = 2 ∧ (t.pw cl).hold = true ∧ (t.pw cl).latched = false
      ∧ (t.pw cl).downAt = now ∧ (∀ k, k ≠ cl → t.pw k = s.pw k)
      ∧ (t.mx cl) = {} ∧ (t.cluster cl).mbx = [] ∧ (t.cluster cl).arv = [] ∧ (t.cluster cl).rows = []
    (let ok := (s.pw cl).w = 0 ∧ allows tol 100;
      (¬ok → exec .w1Entry s = .next s) ∧
      (ok → ¬deep w1 → exec .w1Entry s = .next (({ s with now := w1 } : State).updPw cl fun p => { p with w := 1 })) ∧
      (ok → deep w1 → ∃ t, exec .w1Entry s = .next t ∧ down t w1)) ∧
    (let ok := (s.pw cl).w < 2 ∧ deep (max s.now (w2 cl));
      (¬ok → exec .w2Entry s = .next s) ∧
      (ok → ∃ t, exec .w2Entry s = .next t ∧ down t (max s.now (w2 cl)))) ∧
    ((s.pw cl).hold = false → exec .breakEvenHoldEnd s = .next s) ∧
    ((s.pw cl).hold = true →
      let u := ({ s with now := max s.now ((s.pw cl).downAt + 1500000) } : State).updPw cl fun p => { p with hold := false, latched := false }
      let fifo := u.power.inrush.get [] (cl / 16)
      ((s.pw cl).latched = false ∨ cl ∈ fifo → exec .breakEvenHoldEnd s = .next u) ∧
      ((s.pw cl).latched = true → cl ∉ fifo → exec .breakEvenHoldEnd s = .next { u with power := { u.power with
        inrush := u.power.inrush.set (cl / 16) (fifo ++ [cl]),
        inrushAt := if fifo = [] then u.power.inrushAt.set (cl / 16) u.now else u.power.inrushAt } })) ∧
    (∀ k rest, s.power.inrush.get [] cl = k :: rest →
      let at' := max s.now (s.power.inrushAt.get 0 cl + 2500000)
      let p := { s.power with inrush := s.power.inrush.set cl rest, inrushAt := s.power.inrushAt.set cl at' }
      let u := ({ s with now := at', power := p } : State).updPw k fun p => { p with w := 0 }
      let left := u.power.clusters.any fun x => x.2.w == 2
      exec .clusterPowerUpDone s = .next { u with power := { u.power with w3 := u.power.w3 && left } }) ∧
    (s.power.inrush.get [] cl = [] → exec .clusterPowerUpDone s = .next s) ∧
    (let ok := (∀ k, k < 32 → (s.pw k).w = 2 ∨ s.w2Ready k = true) ∧ allows tol 180000 ∧ s.power.w3 = false ∧
        (∀ q, q ∈ s.queues → q.2.depth = 0 ∧ q.2.incoming = [] ∧ q.2.takes = [] ∧ q.2.ready = []) ∧
        ∀ c, c ∈ s.clusters → c.2.copyQ = [] ∧ c.2.dollyQ = [] ∧ c.2.grammarQ = [];
      (¬ok → exec .w3Entry s = .next s) ∧
      (ok → ∃ t, exec .w3Entry s = .next t ∧ t.power.w3 = true ∧ t.power.selfRefresh = true ∧ t.power.linkIdle = true
        ∧ ∀ k, k < 32 → (t.pw k).w = 2 ∧ ((s.pw k).w ≠ 2 → w2 k ≤ t.now))) ∧
    (let x := if s.inp.flag then none else some (min s.inp.val s.inp.aux)
     let wakes := s.power.selfRefresh = true ∧ ¬allows x 180000;
      ∃ t, exec .latencyToleranceReport s = .next t ∧ t.power.tolerance = x ∧
        ((∀ k, k < 32 → ((s.pw k).w = 1 → allows x 100) ∧ (2 ≤ (s.pw k).w → allows x 24000)) → ¬wakes →
          t = { s with power := { s.power with tolerance := x } }) ∧
        (wakes → t.power.selfRefresh = false ∧ t.power.linkIdle = false) ∧
        ∀ k, k < 32 → ((s.pw k).w = 1 → ¬allows x 100 → (t.pw k).w = 0) ∧
          ((s.pw k).w = 2 → wakes ∨ ¬allows x 24000 → t.wakeAsked k = true))

/-- R23, R24, R26-R30, R37-R41: clocks, caps and power states. (Rests on choices of the model: logs 48, 75, 81, 82.) -/
def Obligations.Power : Prop := Claims.PowerSteps ∧ Claims.PowerStates

/-! ### Links, lanes and merge trees -/

/-- R42, R45-R48: flits and frames keep a link or a port up or bring it up; silence takes it down, failures of its lanes fence it, each with a
record; heartbeats and `FABCFG`. A frame, a heartbeat and silence concern every lane of a port that is not fenced. -/
def Claims.LinkSteps : Prop :=
  ∀ s : State,
    let k := s.inp.unit
    let v := s.inp.val
    let real (n : Nat) := n < 36 ∨ (64 ≤ n ∧ n < 80)
    let told (t : State) (n : Nat) := t.post 0 { recLinkState with
      unit := if 64 ≤ n then 4096 * 3 + (n - 64) % 4096 else 4096 * 2 + n % 4096, d1 := (t.link n).status }
    let came (n most lanes peer : Nat) (l : Link) : Link := if l.up then { l with lastRx := s.now } else { l with
      up := true, lanes := max 1 (min (most - (s.link n).failed) lanes), peer := peer % 256, lastRx := s.now }
    let heard (n most lanes peer : Nat) (o : Host.Outcome State Fault Refusal) :=
      ((s.link n).fenced = true → o = .next s) ∧
      ((s.link n).fenced = false → (s.link n).up = true → o = .next (s.updLink n (came n most lanes peer))) ∧
      ((s.link n).fenced = false → (s.link n).up = false → o = .next (told (s.updLink n (came n most lanes peer)) n))
    let size := if s.fabric.ports = 1 then 2 else if s.fabric.ports = 2 then 4 else 1
    let port (n j : Nat) := if n < 64 then j = n else 64 ≤ j ∧ (j - 64) / size = (n - 64) / size ∧ (s.link j).fenced = false
    let alone (n : Nat) := n < 64 ∨ size = 1
    (k < 36 → s.inp.flag = false → heard k 2 v s.inp.aux (exec .gangFlitReceive s)) ∧
    (k < 36 → s.inp.flag = true → exec .gangFlitReceive s = .next (s.updLink k fun l => { l with retry := min 0xFFFF (l.retry + 1) })) ∧
    (k < 16 → v = s.fabric.etype → size = 1 → heard (64 + k) 1 1 s.inp.aux (exec .ethFrameReceive s)) ∧
    (k < 16 → v = s.fabric.etype → ∃ t, exec .ethFrameReceive s = .next t ∧ ∀ j,
      (port (64 + k) j → t.link j = came j 1 1 s.inp.aux (s.link j)) ∧ (¬port (64 + k) j → t.link j = s.link j)) ∧
    (k < 16 → v ≠ s.fabric.etype → exec .ethFrameReceive s = .next s) ∧
    (real k → (s.link k).fenced = false →
      let at' := max s.now ((s.link k).lastTx + 100000000)
      ∃ t, exec .heartbeatSend s = .next t ∧ t = { s with now := at', fabric := { s.fabric with links := t.fabric.links } } ∧ ∀ j,
        (port k j → t.link j = { s.link j with lastTx := at' }) ∧ (¬port k j → t.link j = s.link j)) ∧
    (real k → (s.link k).up = true →
      let at' := max s.now ((s.link k).lastRx + 300000000)
      ((alone k → (s.link k).fenced = false → exec .linkDown s = .next (told (({ s with now := at' } : State).updLink k fun l => { l with up := false }) k)) ∧
      ∃ t, exec .linkDown s = .next t ∧ t.now = at' ∧ ∀ j,
        (port k j → t.link j = { s.link j with up := false }) ∧ (¬port k j → t.link j = s.link j))) ∧
    (real k → (s.link k).up = false → exec .linkDown s = .next s) ∧
    (real k → (s.link k).fenced = true → exec .laneFailure s = .next s) ∧
    (real k → (s.link k).fenced = false →
      let most := if k < 64 then 2 else 1
      let n := (s.link k).failed + 1
      exec .laneFailure s = .next (told (s.updLink k fun l => { l with
        failed := n, lanes := min l.lanes (most - n), up := l.up && decide (n < most), fenced := decide (most ≤ n) }) k)) ∧
    exec .fabcfgWrite s = .next { s with fabric := { s.fabric with
      etype := v % 65536, pos := min 71 (v / 2 ^ 18 % 128),
      ports := if ∀ i, i < 16 → (s.link (64 + i)).up = false then v / 2 ^ 16 % 4 else s.fabric.ports } }

/-- R55-R58, R60, R111: the merge tree of a group: writes of its entries, a child's message, a value from the parent for the members here,
the end of a period, which sends the smallest value up or from the root down and ages the children; and the loss of a package. -/
def Claims.MergeSteps : Prop :=
  ∀ (s : State) (i : Nat) (e : MergeEnt),
    let n := s.inp.unit
    let msg := (s.inp.val % 2 ^ 32, decide (s.inp.aux % 2 = 1))
    let down (u : State) (v : Nat × Bool) : State :=
      let u := u.updMerge i fun e => { e with down := some v }
      { u with ctxs := u.ctxs.mapV fun _ c => if c.resident && c.loop.fgrp == e.fgrpIn then { c with merged := some (BitVec.ofNat 32 v.1, v.2), mergedAge := 0 } else c }
    exec .mrgtagWrite s = .next (s.updMerge s.fabric.mrgsel fun e => { e with fgrp := s.inp.val % 2 ^ 32 }) ∧
    exec .mrgparWrite s = .next (s.updMerge s.fabric.mrgsel fun e => { e with par := s.inp.val % 2 ^ 17 }) ∧
    (s.mergeOf n = none → exec .mergeMessageReceive s = .next s) ∧
    (s.mergeOf n = some i → s.mergeEnt i = e →
      (s.inp.flag = true → exec .mergeMessageReceive s = .next (down s msg)) ∧
      (s.inp.flag = false →
        let u := s.updMerge i fun x => { x with children := x.children.set s.inp.sub ⟨msg.1, msg.2, 0, true⟩ }
        ((∀ c, e.children.find s.inp.sub = some c → c.fresh = true) → exec .mergeMessageReceive s = .next u) ∧
        (∀ c, e.children.find s.inp.sub = some c → c.fresh = false →
          exec .mergeMessageReceive s = .next (u.post 0 { recMergeStale with d0 := s.inp.sub, d1 := 0 })))) ∧
    (s.fabric.merge = [(i, e)] → (∀ x, x ∈ e.children → x.2.fresh = true → x.2.age + 1 < 8) →
      let kids := e.children.mapV fun _ c => { c with age := c.age + 1, fresh := decide (c.age + 1 < 8) }
      let mine := e.own.filter fun x => (s.ctx x.1).resident && (s.ctx x.1).loop.fgrp == e.fgrpIn
      let low := (kids.filter fun c => c.2.fresh).foldl (fun a c => mergeMin a (c.2.value, c.2.clip))
        (mine.foldl (fun a x => mergeMin a x.2) none)
      let live := e.parIn.testBit 16 = true ∧ e.fgrpIn ≠ 0
      let next (x : MergeEnt) : MergeEnt := { x with
        own := [], fgrpIn := e.fgrp, parIn := e.par, children := if e.fgrpIn = e.fgrp then x.children else [] }
      let due := s.fabric.mergeAt + 65536
      let u : State := { s with now := max s.now (5000 * due), fabric := { s.fabric with mergeAt := due } }
      let kept (t : State) := t = { u with fabric := { u.fabric with merge := t.fabric.merge }, ctxs := t.ctxs }
      (¬live → exec .mergePeriodEnd s = .next (u.updMerge i next)) ∧
      (live → low = none → ∃ t, exec .mergePeriodEnd s = .next t ∧ kept t ∧ t.ctxs = s.ctxs
        ∧ t.mergeEnt i = next { e with children := kids }) ∧
      (∀ v, live → low = some v → e.parIn.testBit 15 = false → ∃ t, exec .mergePeriodEnd s = .next t ∧ kept t ∧ t.ctxs = s.ctxs
        ∧ t.mergeEnt i = next { e with children := kids, up := some v }) ∧
      (∀ v, live → low = some v → e.parIn.testBit 15 = true → ∃ t, exec .mergePeriodEnd s = .next t ∧ kept t
        ∧ t.mergeEnt i = next { e with children := kids, down := some v } ∧ t.ctxs = (down s v).ctxs)) ∧
    (n ∈ s.fabric.lost → exec .packageLost s = .next s) ∧
    (n ∉ s.fabric.lost → ∃ t, exec .packageLost s = .next t ∧ n ∈ t.fabric.lost ∧
      ((∀ c, c ∈ s.copies → c.2.op ≠ .coll) → 
        let trees := s.fabric.merge.filter fun x => x.2.valid && ((x.2.children.find n).isSome || (!x.2.root && x.2.parIn % 2 ^ 15 == n))
        t = ({ s with fabric := { s.fabric with lost := insertNat s.fabric.lost n } } : State).post 0
        { recPackageLost with d0 := n, d1 := trees.length }))

/-- R42, R45-R48, R55-R58, R60, R111: links, and the merge tree. (Rests on choices of the model: logs 81, 83, 84, 105.) -/
def Obligations.Fabric : Prop := Claims.LinkSteps ∧ Claims.MergeSteps

/-! ### The host interface -/

/-- R71-R74: `CMDDB`: a block is queued behind at most 63 others, or dropped; a block that is not in form, or whose operation R73 does not name, completes
with BAD_OP and nothing else; a completion writes STATUS into the block, in host memory or from 2^64 on in package memory, and, when FLAGS ask for it,
raises vector 1. (Rests on choices of the model: logs 85, 86.) -/
def Obligations.CommandStream : Prop :=
  (∀ s : State, exec .cmddbWrite s = .next (s.updFunc s.inp.func fun x =>
    if x.waiting.length < 64 then { x with waiting := x.waiting ++ [s.inp.val % 2 ^ 64 + if s.inp.flag then 2 ^ 64 else 0] }
    else { x with drop := true })) ∧
  (∀ (s : State) (op : Nat) (i : Instr) (c : Cmd) (rest : List Nat), commandEvent op = some i → s.Heads op c rest → ¬s.InForm c →
    (op = 0x10 → s.suspendable c.arg = true) → exec i s = .next ((s.begun c rest).finishCmd s.inp.func 1)) ∧
  (∀ (s : State) (op : Nat) (c : Cmd) (rest : List Nat), commandEvent op = none → s.Heads op c rest →
    exec .commandComplete s = .next ((s.begun c rest).finishCmd s.inp.func 1)) ∧
  ∀ (u : State) (f st : Nat) (c : Cmd), (u.func f).running = some c →
    let t := u.finishCmd f st
    (t.func f).running = none ∧
    (c.block + 4 < 2 ^ 64 → t.mem = { u.mem with hostMem := u.mem.hostMem.set (c.block + 4) (BitVec.ofNat 8 st) }) ∧
    (2 ^ 64 ≤ c.block + 4 → c.block + 5 ≤ 2 ^ 64 + dramSize → u.mem.keyTag.Rising → u.mem.dram.wf = true →
      t.homeRead false 0 (c.block + 4 - 2 ^ 64) 1 = [BitVec.ofNat 8 st]) ∧
    t.vectors = if c.flags % 2 = 1 then u.vectors.set (32 * f + 1) (u.vectors.get 0 (32 * f + 1) + 1) else u.vectors

/-- R70, R73, R74, R81: the life of a context: `CREATE`, `DESTROY` and `TEARDOWN`, each with the statuses it completes with. (Rests on choices of the
model: log 88.) -/
def Obligations.ContextCommands : Prop :=
  ∀ (s : State) (c : Cmd) (rest : List Nat),
    let f := s.inp.func
    let b := s.begun c rest
    let x := s.ctx c.ctx
    let ends (u : State) (st : Nat) : Host.Outcome State Fault Refusal := .next (u.finishCmd f st)
    let taken := s.ctxHeld c.ctx = true
    (s.Heads 1 c rest → s.InForm c →
      let k := c.arg
      let scrubbed := k ≠ 0 ∧ ∃ j, j ∈ s.scrubs ∧ j.2.busy = true ∧ j.2.kslot = k
      let usable := k = 0 ∨ (s.slotFunc.get 0 k = f ∧ s.keys.find k ≠ none ∧ s.slotHeld.find k = none)
      (256 ≤ k ∨ 1024 ≤ c.ctx → exec .create s = ends b 1) ∧
      (k < 256 → c.ctx < 1024 → s.funcOf c.ctx ≠ f → exec .create s = ends b 2) ∧
      (k < 256 → c.ctx < 1024 → s.funcOf c.ctx = f →
        (x.resident = true ∨ x.saved = true ∨ taken ∨ scrubbed → exec .create s = ends b 4) ∧
        (x.resident = false → x.saved = false → ¬taken → ¬scrubbed →
          (¬usable → exec .create s = ends b 5) ∧
          (usable → b.floorsFit f (b.defaultLoop f) = false → exec .create s = ends b 7) ∧
          (usable → b.floorsFit f (b.defaultLoop f) = true → ∃ u, exec .create s = ends u 0 ∧
            (u.ctx c.ctx).resident = true ∧ (u.ctx c.ctx).kslot = k ∧ (u.ctx c.ctx).func = f ∧ (u.ctx c.ctx).root = x.rootReg ∧
            (k ≠ 0 → u.slotHeld.find k = some c.ctx) ∧ u.mem = s.mem)))) ∧
    (s.Heads 5 c rest → s.InForm c →
      (c.arg ≠ 0 ∨ 1024 ≤ c.ctx → exec .destroy s = ends b 1) ∧
      (c.arg = 0 → c.ctx < 1024 → s.funcOf c.ctx ≠ f → exec .destroy s = ends b 2) ∧
      (c.arg = 0 → c.ctx < 1024 → s.funcOf c.ctx = f →
        (taken → exec .destroy s = ends b 4) ∧
        (¬taken → x.resident = false → x.saved = false → exec .destroy s = ends b 3) ∧
        (¬taken → x.live = true → x.kslot ≠ 0 → exec .destroy s = ends b 1) ∧
        (¬taken → x.live = true → x.kslot = 0 → ∃ u, exec .destroy s = ends u 0 ∧ (u.ctx c.ctx).live = false ∧ (u.ctx c.ctx).cores = [] ∧
          (u.ctx c.ctx).func = f ∧ (∀ q, q ∈ u.queues → q.2.ctx ≠ some c.ctx) ∧ ∀ k, k ∈ u.clusters → k.2.owner ≠ some c.ctx))) ∧
    (s.Heads 6 c rest → s.InForm c → c.arg = 0 → c.ctx < 1024 → s.funcOf c.ctx = f →
      (taken → exec .teardown s = ends b 4) ∧
      (¬taken → x.live = false → exec .teardown s = ends b 3) ∧
      (¬taken → x.live = true → (∀ j, j < 8 → (s.job j).busy = true) →
        exec .teardown s = .next { b with scrubQueue := s.scrubQueue ++ [(c.ctx, f, true)] }) ∧
      (¬taken → x.live = true → ∀ j, j < 8 → (s.job j).busy = false → (∀ k, k < j → (s.job k).busy = true) →
        ∃ u, exec .teardown s = .next u ∧ (u.job j).busy = true ∧ (u.job j).ctx = c.ctx ∧ (u.job j).command = true ∧
          (u.ctx c.ctx).resident = false ∧ (u.ctx c.ctx).cores = [] ∧ (u.func f).running = some c))

/-- R73, R156: `DRAIN` stops placement and restoration and completes when no crew of the context runs; at its timeout every crew that still runs is pre-
empted; `UNDRAIN` ends it. (Rests on choices of the model: log 89.) -/
def Obligations.DrainCommands : Prop :=
  ∀ (s : State) (c : Cmd) (rest : List Nat),
    let f := s.inp.func
    let b := s.begun c rest
    (s.Heads 7 c rest → s.InForm c → c.arg < 2 ^ 32 → c.ctx < 1024 → s.funcOf c.ctx = f →
      ((s.ctx c.ctx).resident = false → exec .drain s = .next (b.finishCmd f 3)) ∧
      ((s.ctx c.ctx).resident = true → exec .drain s = .next ((b.updCtx c.ctx fun x => { x with
        drained := true, drainEnd := s.tick + 200 * c.arg }).updFunc f fun x => { x with running := some { c with stage := 1, size := 0 } }))) ∧
    (s.Heads 8 c rest → s.InForm c → c.arg = 0 → c.ctx < 1024 → s.funcOf c.ctx = f →
      exec .undrain s = .next ((b.updCtx c.ctx fun x => { x with drained := false }).finishCmd f 0)) ∧
    ((s.func f).running = some c → c.op = 7 → c.stage = 1 →
      ((∀ k, k ∈ s.crews → k.2.ctx = c.ctx → k.2.kind = .cue) → exec .commandComplete s = .next (s.finishCmd f 0)) ∧
      (∀ k, k ∈ s.crews → k.2.ctx = c.ctx → k.2.kind ≠ .cue → exec .commandComplete s = .next s)) ∧
    ((s.func (s.funcOf s.inp.unit)).running = some c → c.op = 7 → c.stage = 1 → c.ctx = s.inp.unit → s.crews.Rising →
      ∃ t, exec .drainTimeout s = .next t ∧ (s.ctx c.ctx).drainEnd ≤ t.tick ∧
        ∀ k, k ∈ t.crews → k.2.ctx = c.ctx → k.2.kind ≠ .cue → k.2.ending = none → k.2.takeCarry = none → k.2.spill2 = true)

/-- R69, R70, R73, R75, R77, R78: saving, restoring and switching contexts, and suspending and resuming a virtual function. A save waits until the context
has stopped; then its record is VALID with GEN incremented and it is not resident. A restored record is RESIDENT. A record of another function is not
written or read. A switch whose restore half fails reports a code of R75 with bit 7 set. The lengths of records are the device's own (the model leaves
them open). (Rests on choices of the model: logs 86, 87, 88, 89, 90, 91.) -/
def Obligations.RecordCommands : Prop :=
  ∀ (s : State) (c : Cmd) (rest : List Nat),
    let f := s.inp.func
    let b := s.begun c rest
    let ends (u : State) (st : Nat) : Host.Outcome State Fault Refusal := .next (u.finishCmd f st)
    let len := s.needLen
    let room (n : Nat) := c.addr % 4096 = 0 ∧ c.addr + n ≤ dramSize
    let field (u : State) (o n : Nat) := leNat (u.homeRead false 0 (c.addr + o) n)
    let stops (u : State) (k : Nat) := ∀ x, x ∈ (u.ctx k).cores → (u.ctx k).leaving.find x ≠ none
    let saved (u v : State) := (v.ctx c.ctx).resident = false ∧ (v.ctx c.ctx).saved = true ∧
      (s.mem.keyTag.Rising → s.mem.dram.wf = true → field v 0 1 = 1 ∧ field v 4 4 = (field u 4 4 + 1) % 2 ^ 32) ∧
      (s.mem.keyTag.Rising → s.mem.dram.wf = true → (s.ctx c.ctx).kslot = 0 → s.nextRecord < 2 ^ 64 →
        ∃ r, v.records.find (field v 256 8) = some r ∧ r.ctx = c.ctx)
    let told (st : Nat) := 128 + if st = 2 ∨ st = 3 ∨ st = 5 then st else 7
    (∀ op ev, (op = 2 ∧ ev = Instr.save ∧ c.arg = 0) ∨
        (op = 4 ∧ ev = Instr.switch ∧ c.arg / 1024 % 4 = 0 ∧ c.arg / 4096 * 4096 + 4096 ≤ dramSize) → s.Heads op c rest → s.InForm c →
      c.ctx < 1024 → s.funcOf c.ctx = f → room len →
      let foreign := s.foreignRec c.addr (· == f) = true
      ((s.ctx c.ctx).resident = false → exec ev s = ends b 3) ∧
      ((s.ctx c.ctx).resident = true → foreign → exec ev s = ends b 2) ∧
      ((s.ctx c.ctx).resident = true → ¬foreign → c.size < len →
        exec ev s = ends (b.nextFree.blockPut (c.block + 24) (bytesLE 8 len)) 7) ∧
      ((s.ctx c.ctx).resident = true → ¬foreign → len ≤ c.size → ∃ u, exec ev s = .next u ∧
        (u.func f).running = some { c with stage := 1, size := len } ∧ ((s.ctx c.ctx).leaving.Rising → stops u c.ctx))) ∧
    (s.Heads 3 c rest → s.InForm c → c.arg = 0 → c.ctx < 1024 → s.funcOf c.ctx = f → room 4096 →
      (field s 0 1 ≠ 1 → exec .restore s = ends b 3) ∧
      (field s 0 1 = 1 → field s 18 2 ≠ f → exec .restore s = ends b 2) ∧
      (field s 0 1 = 1 → field s 18 2 = f → field s 1 1 % 2 = 1 →
        s.keyBad f (field s 16 2) = true ∨ (keyCheck (s.keys.get 0 (field s 16 2))).toNat ≠ field s 20 8 → exec .restore s = ends b 5) ∧
      (field s 0 1 = 1 → field s 18 2 = f → ∀ u, b.restoreAt f c.ctx c.addr = .ok u →
        exec .restore s = ends u 0 ∧ (u.ctx c.ctx).resident = true ∧ (u.ctx c.ctx).saved = false ∧
        (u.ctx c.ctx).root = (s.ctx c.ctx).rootReg ∧ (s.mem.keyTag.Rising → s.mem.dram.wf = true → field u 0 1 = 3))) ∧
    ((s.func f).running = some c → c.stage = 1 → room c.size → 4096 ≤ c.size →
      (c.op = 2 ∨ c.op = 4 → (s.ctx c.ctx).resident = true → s.stopped c.ctx = false → exec .commandComplete s = .next s) ∧
      (c.op = 2 → (s.ctx c.ctx).resident = true → s.stopped c.ctx = true → ∃ u, exec .commandComplete s = ends u 0 ∧ saved s u) ∧
      (c.op = 4 → (s.ctx c.ctx).resident = true → s.stopped c.ctx = true → ∃ u, saved s u ∧
        (∀ st, u.restoreAt f (c.arg % 1024) (c.arg / 4096 * 4096) = .error st → exec .commandComplete s = ends u (told st)) ∧
        (∀ v, u.restoreAt f (c.arg % 1024) (c.arg / 4096 * 4096) = .ok v → exec .commandComplete s = ends v 0 ∧
          (v.ctx (c.arg % 1024)).resident = true)) ∧
      (c.op = 0x10 → (∀ k, k ∈ s.residents c.arg → s.stopped k = true) → ∃ u, exec .commandComplete s = ends u 0 ∧
        (∀ k, k ∈ s.residents c.arg → (u.ctx k).resident = false) ∧ (s.mem.keyTag.Rising → s.mem.dram.wf = true → field u 0 1 = 1))) ∧
    (s.Heads 0x10 c rest → s.InForm c → 1 ≤ c.arg → c.arg ≤ 64 →
      (s.suspendable c.arg = false → exec .vfsuspend s = .next s) ∧
      (s.suspendable c.arg = true → room len → (s.func c.arg).suspended = true → exec .vfsuspend s = ends b 3) ∧
      (s.suspendable c.arg = true → room len → (s.func c.arg).suspended = false → s.foreignRec c.addr (fun g => g == c.arg || g == 0) = true →
        exec .vfsuspend s = ends b 2) ∧
      (s.suspendable c.arg = true → room len → (s.func c.arg).suspended = false → s.foreignRec c.addr (fun g => g == c.arg || g == 0) = false →
        len ≤ c.size → ∃ u, exec .vfsuspend s = .next u ∧
        (u.func c.arg).suspended = true ∧ (u.func 0).running = some { c with stage := 1, size := len })) ∧
    (s.Heads 0x11 c rest → s.InForm c → 1 ≤ c.arg → c.arg ≤ 64 → room 4096 →
      ((s.func c.arg).suspended = false ∨ field s 0 1 ≠ 1 → exec .vfresume s = ends b 3) ∧
      ((s.func c.arg).suspended = true → field s 0 1 = 1 → field s 18 2 ≠ c.arg → exec .vfresume s = ends b 2) ∧
      ((s.func c.arg).suspended = true → (s.func c.arg).running = none → field s 0 1 = 1 → field s 18 2 = c.arg →
        (∃ v, b.resumeAll c.arg 1024 (s.records.filter fun r => r.1 % 2 ^ 64 == field s 256 8 && decide (2 ^ 64 ≤ r.1)) = .ok v) → ∃ u, exec .vfresume s = ends u 0 ∧
          (u.func c.arg).suspended = false ∧ (s.mem.keyTag.Rising → s.mem.dram.wf = true → field u 0 1 = 3)))

/-- R65, R76, R104: `ASSIGN` refuses a record with the first of its four checks that fails; a record that passes them moves what it lists to its function,
and what it does not list back to the PF. (Rests on choices of the model: logs 79, 86, 110.) -/
def Obligations.Assigns : Prop :=
  ∀ (s : State) (c : Cmd) (rest : List Nat), s.Heads 0x12 c rest → s.InForm c → c.arg ≤ 64 → c.addr % 64 = 0 → c.addr + 1024 ≤ dramSize →
    let f := c.arg
    let b := s.begun c rest
    let r : Assignment := ⟨f, s.homeRead false 0 c.addr 1024⟩
    let ends (u : State) (st : Nat) : Host.Outcome State Fault Refusal := .next (u.finishCmd 0 st)
    (r.malformed b = true → exec .assign s = ends b 1) ∧
    (r.malformed b = false → r.foreign b = true → exec .assign s = ends b 2) ∧
    (r.malformed b = false → r.foreign b = false → r.held b = true → exec .assign s = ends b 4) ∧
    (r.malformed b = false → r.foreign b = false → r.held b = false → r.noRoom b = true → exec .assign s = ends b 7) ∧
    (r.malformed b = false → r.foreign b = false → r.held b = false → r.noRoom b = false → ∃ u, exec .assign s = ends u 0 ∧
      let goes (listed : Bool) (now new : Nat) := (f ≠ 0 → listed = true → new = f) ∧ (f ≠ 0 → listed = false → now = f → new = 0) ∧
        (f = 0 ∨ (listed = false ∧ now ≠ f) → new = now)
      (∀ k, k < 320 → goes (r.core k) (s.coreOwner k) (u.coreOwner k)) ∧ (∀ n, n < 1024 → goes (r.ctx n) (s.funcOf n) (u.funcOf n)) ∧
      (∀ k, k < 256 → goes (r.slot k) (s.slotOwner k) (u.slotOwner k)) ∧ (∀ q, q < 4096 → goes (r.queue q) (s.queueOwner q) (u.queueOwner q)) ∧
      (∀ q, q < 4096 → u.queueOwner q = f → (u.queue q).cap = r.qcap) ∧ (u.func f).ceil = r.num 2 1 % 4 ∧
      (f ≠ 0 → (u.func f).quanta = r.quanta ∧ (u.func f).ways = r.ways ∧ (u.func f).share = r.share) ∧
      (f = 0 → ∀ n, n < 1024 → (u.ctx n).priv = r.priv n))

/-- R64-R66, R71, R85, R86, R213: writes to the registers of the host interface. A valid `DLSIZE` enables the ring at the `DLBASE` then in
force and flushes the backlog; `PTROOT` of a foreign context takes no write; each bit of `DROP`, `DLLOST`, REJ and RETRY is cleared by writing a one to it. -/
def Claims.HostRegisters : Prop :=
  ∀ s : State,
    let f := s.inp.func
    let v := s.inp.val
    let o := s.inp.unit
    let x := s.func f
    let put (g : Func → Func) : Host.Outcome State Fault Refusal := .next (s.updFunc f g)
    let win (k : Nat) := s.inp.flag = false ∧ ((f ≠ 0 ∧ o = k) ∨ (f = 0 ∧ o = 0x1000000 + k))
    let mgmt (k : Nat) := s.inp.flag = false ∧ f = 0 ∧ o = k
    let writes (u : State) := exec .registerWrite s = .next u
    ((∀ k, 6 ≤ k → k ≤ 16 → v % 2 ^ 32 ≠ 2 ^ k) → exec .dlsizeWrite s = put fun x => { x with dlsize := v % 2 ^ 32 }) ∧
    (∀ k, 6 ≤ k → k ≤ 16 → v % 2 ^ 32 = 2 ^ k → ∃ t, exec .dlsizeWrite s = .next t ∧
      (t.func f).dlsize = 2 ^ k ∧ (t.func f).ringBase = x.dlbase ∧ (t.func f).dltail = 0 ∧ (t.func f).lap = true ∧ (t.func f).backlog = [] ∧
      (t.func f).seq = x.seq ∧ (t.func f).dlhead = min x.backlog.length (2 ^ k - 1)) ∧
    (s.inp.sub < 1024 → s.funcOf s.inp.sub = f →
      exec .ptrootWrite s = .next (s.updCtx s.inp.sub fun c => { c with rootReg := v / 4096 % 2 ^ 28 * 4096 })) ∧
    (1024 ≤ s.inp.sub ∨ s.funcOf s.inp.sub ≠ f → exec .ptrootWrite s = .next s) ∧
    (win 0x8 → exec .registerWrite s = put fun x => { x with drop := x.drop && v % 2 == 0 }) ∧
    (win 0x100 → exec .registerWrite s = put fun x => { x with dlbase := v / 4096 % 2 ^ 52 * 4096 }) ∧
    (win 0x10C → exec .registerWrite s = put fun x => { x with dltail := v % 2 ^ 32 }) ∧
    (win 0x114 → ∃ t, exec .registerWrite s = .next t ∧ t = { s with funcs := t.funcs } ∧ ∀ i,
      (t.func f).dllost.testBit i = (x.dllost.testBit i && !(decide (i < 4) && v.testBit i))) ∧
    (∀ q d, q < 4096 → win (0x40008 + 64 * q) → s.queueNo f q = some d →
      ∃ t, writes t ∧ t = { s with queues := t.queues } ∧ (∀ e, e ≠ d → t.queue e = s.queue e) ∧
      (t.queue d) = { s.queue d with rej := (t.queue d).rej } ∧
      ∀ i, (t.queue d).rej.testBit i = ((s.queue d).rej.testBit i && !(decide (i < 8) && v.testBit (16 + i)))) ∧
    (mgmt 0x2000 → writes { s with kssel := v % 256 }) ∧
    (∀ i, i < 16 → mgmt (0x2040 + 4 * i) → ∃ t, writes t ∧ t = { s with ksdata := t.ksdata } ∧ ∀ j, j < 16 →
      t.ksdata / 2 ^ (32 * j) % 2 ^ 32 = if j = i then v % 2 ^ 32 else s.ksdata / 2 ^ (32 * j) % 2 ^ 32) ∧
    (mgmt 0x1400 → writes { s with fabric := { s.fabric with mrgsel := v % 256 } }) ∧
    (mgmt 0x140C → writes { s with fabric := { s.fabric with pkgid := v % 2 ^ 15 } }) ∧
    (∀ l, l < 36 → mgmt (0x1100 + 4 * l) → ∃ t, writes t ∧
      t = { s with fabric := { s.fabric with links := t.fabric.links } } ∧ (∀ e, e ≠ l → t.link e = s.link e) ∧
      (t.link l) = { s.link l with retry := (t.link l).retry } ∧
      ∀ i, (t.link l).retry.testBit i = ((s.link l).retry.testBit i && !(decide (i < 16) && v.testBit (16 + i)))) ∧
    (s.inp.flag = true → let on := decide (v % 2 = 1)
      writes (if s.inp.sub = 0 then { s with ats := on } else if s.inp.sub = 1 then { s with pri := on } else { s with cxl := on }))

/-- R70, R80, R81, R477: key slots through the management window: a load of a held or zeroing slot is ignored; zeroing discards every
cached line of the slot, dirty or not, and invalidates the translations through it; the slot then reads EMPTY, is held no more, and a scrub job that waited for it goes on. -/
def Claims.KeySlots : Prop :=
  ∀ s : State,
    let k := s.kssel
    let n := s.inp.unit
    (k = 0 ∨ s.slotHeld.find k ≠ none ∨ k ∈ s.zeroing → exec .keyLoad s = .next s) ∧
    (k ≠ 0 → s.slotHeld.find k = none → k ∉ s.zeroing → exec .keyLoad s = .next { s with keys := s.keys.set k s.ksdata, ksdata := 0 }) ∧
    (k = 0 ∨ s.keys.find k = none ∨ k ∈ s.zeroing → exec .keyZero s = .next s) ∧
    (k ≠ 0 → s.keys.find k ≠ none → k ∉ s.zeroing → s.keys.Rising → ∃ t, exec .keyZero s = .next t ∧ t.keys = s.keys.del k ∧
      t.keys.find k = none ∧ k ∈ t.zeroing ∧ (∀ c, c ∈ t.cores → (∀ l, l ∈ c.2.l1 → l.slot ≠ k) ∧ (∀ l, l ∈ c.2.icache → l.slot ≠ k) ∧
        ∀ e, e ∈ c.2.tlb → e.host = true ∨ e.slot ≠ k) ∧
      (∀ c, c ∈ t.clusters → ∀ e, e ∈ c.2.tlb2 → e.host = true ∨ e.slot ≠ k) ∧
      (∀ l, l ∈ t.mem.l2 → l.host = true ∨ l.slot ≠ k) ∧
      ((∀ l, l ∈ s.mem.l2 → l.host = true ∨ l.slot ≠ k ∨ l.old = []) → t.mem.dram = s.mem.dram)) ∧
    (n ∉ s.zeroing → exec .keyZeroDone s = .next s) ∧
    (n ∈ s.zeroing → s.keys.find n = none → s.slotHeld.Rising → ∃ t, exec .keyZeroDone s = .next t ∧ n ∉ t.zeroing ∧ t.slotHeld.find n = none ∧
      ∀ j, j < 8 → (s.job j).busy = true → (s.job j).phase = 1 → (s.job j).kslot = n → (t.job j).busy = true ∧ 2 ≤ (t.job j).phase)

/-- R64-R66, R70, R71, R80, R81, R85, R86, R213, R477: the registers of the host interface, and the key slots. (Rests on choices of the model: logs 85,
93, 94, 95, 111.) -/
def Obligations.HostInterface : Prop := Claims.HostRegisters ∧ Claims.KeySlots

/-- R81-R83, R478-R480: scrub jobs: a waiting teardown takes the lowest-numbered free job; each commit leaves one unit less, and a page's
unit zero in plaintext; the job ends in phase 5 with the context gone and the STATUS of its TEARDOWN written. -/
def Claims.ScrubJobs : Prop :=
  ∀ s : State,
    let j := s.inp.unit
    let x := s.job j
    let more := x.busy = true ∧ 2 ≤ x.phase ∧ x.units < x.phaseUnits x.phase
    let spent := x.busy = true ∧ x.phase = 4 ∧ x.phaseUnits 4 ≤ x.units
    (s.scrubQueue = [] ∨ (∀ k, k < 8 → (s.job k).busy = true) → exec .scrubJobStart s = .next s) ∧
    (∀ ctx starter command rest k, s.scrubQueue = (ctx, starter, command) :: rest → k < 8 → (s.job k).busy = false →
      (∀ i, i < k → (s.job i).busy = true) → (s.ctx ctx).live = true → s.ctxHeld ctx = false →
      ∃ t, exec .scrubJobStart s = .next t ∧ t.scrubQueue = rest ∧ (t.job k).busy = true ∧ (t.job k).ctx = ctx ∧
        (t.job k).starter = starter ∧ (t.job k).command = command ∧ (t.ctx ctx).resident = false) ∧
    (¬more → exec .scrubUnitCommit s = .next s) ∧
    (more → ∃ t, exec .scrubUnitCommit s = .next t ∧ (t.job j).remain = x.remain - 1 ∧ (t.job j).busy = true ∧
      (x.units + 1 < x.phaseUnits x.phase → (t.job j).phase = x.phase ∧ (t.job j).units = x.units + 1) ∧
      (x.units + 1 = x.phaseUnits x.phase → x.phase < 4 → x.phase < (t.job j).phase ∧ (t.job j).phase ≤ 4 ∧ (t.job j).units = 0) ∧
      (∀ pa, x.phase = 4 → unitAt x.pages x.units = some pa → x.units + 1 < x.phaseUnits 4 → pa % 4096 = 0 →
        (∀ i, i < 4096 → t.mem.dram.get (pa + i) = 0) ∧ ∀ k, pa ≤ 32 * k → 32 * k < pa + 4096 → t.mem.keyTag.find k = none ∧ k ∉ t.mem.poison)) ∧
    (¬spent → exec .scrubDone s = .next s) ∧
    (spent → ∃ t, exec .scrubDone s = .next t ∧ t.job j = { ctx := x.ctx, phase := 5, rst := x.rst, total := x.total, starter := x.starter } ∧
      (t.ctx x.ctx).live = false ∧ (x.command = true → (t.func (s.funcOf x.ctx)).running = none))

/-- R81-R83, R464, R473, R474, R478-R480: zeroing, from its command to its end. (Rests on choices of the model: logs 92, 93.) -/
def Obligations.Scrubs : Prop := Claims.Scrubbing ∧ Claims.ScrubJobs

/-- R84, R86, R145: resets. An FLR, a hot and a warm reset end the contexts of the functions that they reset, but for those that a scrub job holds, reset
their windows, and mark the busy jobs with RST; power-on leaves the reset state, with cracked clusters fenced. (Rests on choices of the model: logs
96, 97, 98.) -/
def Obligations.Resets : Prop :=
  ∀ s : State,
    let f := s.inp.unit
    let fresh (t : State) (g : Nat) := (∀ c, (t.ctx c).resident = true → (t.ctx c).func = g → t.ctxHeld c = true) ∧
      (t.func g).waiting = [] ∧ (t.func g).dlsize = 0 ∧ (t.func g).dllost = 0 ∧ (t.func g).drop = false ∧ (t.func g).suspended = false ∧
      (t.func g).quanta = (s.func g).quanta ∧ (t.func g).ways = (s.func g).ways ∧ (t.func g).share = (s.func g).share
    let marked (t : State) (p : Nat → Prop) := ∀ j, j < 8 → (s.job j).busy = true → p (s.funcOf (s.job j).ctx) →
      (t.job j).busy = true ∧ (t.job j).rst = true ∧ (t.job j).ctx = (s.job j).ctx
    (f = 0 ∨ 64 < f → exec .flrVf s = .next s) ∧
    (1 ≤ f → f ≤ 64 → ∃ t, exec .flrVf s = .next t ∧ fresh t f ∧ (t.func f).seq = 0 ∧ (t.func f).backlog = [] ∧ marked t (· = f)) ∧
    (∃ t, exec .flrPf s = .next t ∧ fresh t 0 ∧ (t.func 0).seq = 0 ∧ (t.func 0).backlog = [] ∧ marked t fun _ => True) ∧
    (∃ t, exec .hotReset s = .next t ∧ exec .warmReset s = .next t ∧ (∀ g, g < 65 → fresh t g ∧ (t.func g).seq = 0 ∧ (t.func g).backlog = []) ∧
      marked t (fun _ => True) ∧ t.fabric = { links := t.fabric.links } ∧
      (s.fabric.links.Rising → ∀ l, t.link l = { fenced := (s.link l).fenced, failed := if (s.link l).fenced then (s.link l).failed else 0 }) ∧
      t.mem.l2 = [] ∧ (∀ h line, (t.mem.dirOf h line).remote = false ∧ (t.mem.dirOf h line).remoteDirty = false) ∧ t.power.plim = 3200 ∧ t.ats = false ∧ t.pri = false ∧ t.cxl = false ∧
      t.kssel = 0 ∧ t.coreFunc = s.coreFunc ∧ (s.power.clusters.Rising → ∀ k, k < 32 → (t.pw k).fenced = (s.pw k).fenced)) ∧
    (∃ t, exec .powerOn s = .next t ∧ t = { State.reset with
        agenda := s.agenda, fresh := s.fresh, mem := { hostMem := s.mem.hostMem }, power := t.power } ∧
      ∀ k, k < 32 → (t.pw k = { fenced := decide (k ∈ s.inp.list) }))

/-! ### Slates and dispatch -/

/-- R66-R68, R128: a write to `QSUB` is accepted when it is one aligned 64-bit write of a readable slate's address and the queue has room and
a live context; otherwise REJ counts it, and its first rejection is recorded. An accepted slate that is not FREE is discarded with a
record; a FREE one is kept, WAITING while its predecessors are not done. -/
def Claims.SlatesSubmitted : Prop :=
  ∀ (s : State) (d ctx : Nat),
    let v := s.inp.val
    let q := s.queue d
    let good := s.inp.flag = false ∧ v % 64 = 0 ∧ v < 2 ^ 57 ∧ q.depth < q.cap ∧ s.queueHeld d = false ∧
      ((s.ctx ctx).resident = true ∨ (s.ctx ctx).saved = true) ∧ s.engOk ctx false v 64 = true
    let counted := s.updQueue d fun q => { q with rej := min 255 (q.rej + 1) }
    (s.queueNo s.inp.func s.inp.sub = some d →
      (q.ctx = none ∨ (q.ctx = some ctx ∧ ¬good) →
        (0 < q.rej → exec .qsubWrite s = .next counted) ∧
        (q.rej = 0 → exec .qsubWrite s = .next (counted.post q.func { recSubmitReject with
          ctx := q.ctx.getD 0xFFFF, unit := 0x4000 + s.localNo d % 4096, a0 := v, d1 := 0, space := 1 }))) ∧
      (q.ctx = some ctx → good →
        let sig := (s.func s.inp.func).wrote
        exec .qsubWrite s = .next ((if sig = 0 then s else (s.logAppend sig).updFunc s.inp.func fun x => { x with wrote := 0 }).updQueue d
          fun q => { q with depth := q.depth + 1, incoming := q.incoming ++ [v] }))) ∧
    (s.inp.unit = d → ∀ va rest, q.incoming = va :: rest → q.ctx = some ctx → (s.ctx ctx).resident = true →
      let u := s.updQueue d fun q => { q with incoming := rest }
      ((∀ bs, u.devRead ctx va 64 = some bs → fieldAt bs 34 1 ≠ 0) →
        exec .slateAccept s = .next ((u.updQueue d fun q => { q with depth := q.depth - 1 }).submitReject d va 1)) ∧
      (∀ bs, u.devRead ctx va 64 = some bs → fieldAt bs 34 1 = 0 →
        let k := s.nextSlate
        let x := slateOf ctx d va bs
        let r := ({ u with slates := u.slates.set k x, nextSlate := k + 1 } : State).engStore ctx (va + 36) (bytesLE 2 (u.localNo d))
        let w := r.sword ctx va
        (w.pred ≠ 0 → exec .slateAccept s = .next (r.setSword ctx va { w with state := 1 })) ∧
        (w.pred = 0 → r.entryCheck x = none → (∃ h y t, q.ready = h :: t ∧ (r.setSword ctx va { w with state := 2 }).slate h = some y ∧ y.checked = true ∧ h ≠ k) →
          r.slate k = some x → (r.queue d).ready = q.ready → (∀ j, j ∈ q.ready → j < k) →
          exec .slateAccept s = .next (((r.setSword ctx va { w with state := 2 }).updSlate k fun y => { y with
            state := 2, readyAt := s.now, expiry := if x.deadline = 0 then none else some (s.tick + x.deadline) }).updQueue d fun q => { q with
              ready := q.ready ++ [k] }))))

/-- R128, R130, R139, R495: a slate whose crews, control threads, commands and matrix work are done retires and leaves its queue; one that has
not retired by its deadline is late, at the latest when it retires: it is counted in its queue and raised to the highest priority when it asks for that. -/
def Claims.SlatesEnd : Prop :=
  ∀ (s : State) (x : Slate),
    let k := s.inp.unit
    (s.slate k = none → exec .slateRetire s = .next s) ∧
    (s.slate k = some x →
      let done := x.checked = true ∧ x.ended = x.placed ∧ (x.placed = x.ncrews ∨ x.cancelled = true) ∧ x.cmds = 0 ∧
        (∀ m, m ∈ x.ctlStarted → m ∈ x.ctlEnded) ∧ s.matrixDone k = true
      (¬done → exec .slateRetire s = .next s) ∧
      (done → s.slates.Rising → ∃ t, exec .slateRetire s = .next t ∧ t.slate k = none ∧ k ∉ (t.queue x.queue).ready ∧
        (x.overdue s.tick = true → min 0xFFFF ((s.queue x.queue).miss + 1) ≤ (t.queue x.queue).miss)) ∧
      (x.expiry = none → exec .deadlineExpiry s = .next s) ∧
      (∀ tick, x.expiry = some tick → ∃ t y, exec .deadlineExpiry s = .next t ∧ tick < t.tick ∧ t.slate k = some y ∧ y.dlmiss = true ∧
        y.expiry = none ∧ y.prio = (if x.flags.testBit 2 = true then 47 else x.prio) ∧
        (t.queue x.queue).miss = min 0xFFFF ((s.queue x.queue).miss + 1)))

/-- R66-R68, R128, R130, R139, R495: slates, from submission to their end. (Rests on choices of the model: logs 54, 70, 106.) -/
def Obligations.Slates : Prop := Claims.SlatesSubmitted ∧ Claims.SlatesEnd

/-- R41, R119-R123, R137, R149, R157, R171, R312, R332: dispatch: a crew of the winning slate, a parked take or a parked control thread goes to a core
that holds it, once that core's cluster is awake; a sleeping cluster is woken first, and stays the one chosen. A new crew's threads have no trap frame
and stand at the kernel's entry. A take whose record in memory is no record of its crew fails its slate. A group goes to the cores found for it.
(Rests on choices of the model: logs 68, 71, 72, 73, 75.) -/
def Obligations.Dispatches : Prop :=
  ∀ (s : State) (ctx d k core : Nat) (a : Arbiter) (x : Slate) (y z : Take),
    let cl := core / 10
    let u := s.atTurn
    let up (c : Nat) := (u.pw c).w < 2
    let started (t : State) := t.arb s.inp.unit = a ∧ (t.queue d).ageFrom = u.tick ∧ (t.queue d).wonAt = none
    let winner := u.decide' s.inp.unit (!s.inp.flag)
    (winner = none → ∀ i, i = Instr.crewPlace ∨ i = .takeRestore ∨ i = .controlThreadRestore ∨ i = .groupPlace → exec i s = .next u) ∧
    (s.Wins ctx d a (.crew k) → u.slate k = some x → x.checked = true → u.genOk x = true → x.ctx = ctx →
      pickCore s.inp.val (u.fits k x x.placed) (u.among x.chosen (s.coresFor ctx)) = some core →
      (¬up cl → u.wakeAsked cl = true → exec .crewPlace s = .next u) ∧
      (¬up cl → u.wakeAsked cl = false → exec .crewPlace s = .next ((u.wakeCluster cl).updSlate k fun x => { x with chosen := [cl] })) ∧
      (up cl → ∃ t c, exec .crewPlace s = .next t ∧ started t ∧ t.crew u.nextCrew = some c ∧
        c.kind = .vector ∧ c.ctx = ctx ∧ c.slate = k ∧ c.crix = x.placed ∧ c.core = core ∧ c.n = x.crewSize ∧ c.frames = [] ∧
        c.warps.length = (x.crewSize + 31) / 32 ∧ ∀ w, w ∈ c.warps → w.2.run.pc = BitVec.ofNat 57 (x.kernel + x.codeOff) ∧ w.2.div = [])) ∧
    (s.Wins ctx d a (.take k) → u.takes.find k = some y → u.slate y.slate = some x → u.genOk x = true → u.takes.Rising →
      (u.takeLoaded y = none → ∃ t, exec .takeRestore s = .next t ∧ started t ∧ t.takes.find k = none ∧
        ∀ v, t.slate y.slate = some v → v.fail = 5) ∧
      (u.takeLoaded y = some z → pickCore s.inp.val (u.takeFits z x) (u.among y.chosen (s.coresFor ctx)) = some core →
        let v := u.wakeCluster cl
        (¬up cl → u.wakeAsked cl = true → exec .takeRestore s = .next u) ∧
        (¬up cl → u.wakeAsked cl = false → exec .takeRestore s = .next { v with takes := v.takes.set k { y with chosen := [cl] } }) ∧
        (up cl → ∃ t c, exec .takeRestore s = .next t ∧ started t ∧ t.takes.find k = none ∧
          t.crew u.nextCrew = some c ∧ c.core = core ∧ c.slate = z.crew.slate ∧ c.crix = z.crew.crix ∧ c.kind = z.crew.kind))) ∧
    (∀ m, u.firstItem d = some (.control k) → (u.queue d).ctx = some ctx → u.takes.find k = some y → u.slate y.slate = some x →
      u.ctlCluster y x = some m → dieOf m = s.inp.unit → u.takes.Rising →
      let v := u.wakeCluster m
      (¬up m → u.wakeAsked m = true → u.starts s.inp.unit d = false) ∧
      (winner = some (d, a) → ¬up m → u.wakeAsked m = false → exec .controlThreadRestore s = .next { v with takes := v.takes.set k { y with chosen := [m] } }) ∧
      (winner = some (d, a) → up m → ∃ t c, exec .controlThreadRestore s = .next t ∧ started t ∧ t.takes.find k = none ∧
        t.crew u.nextCrew = some c ∧ c.core = 320 + m ∧ c.kind = y.crew.kind ∧ (t.cluster m).owner = some x.ctx)) ∧
    (u.firstItem d = some (.group k) → (u.queue d).ctx = some ctx → u.slate k = some x → x.checked = true → u.genOk x = true → x.groupDom = 4 → x.ctx = ctx →
      let crews := (List.range (min (x.groupSize.getD 1) (x.ncrews - x.placed))).map (x.placed + ·)
      ∀ v used, u.placeAll k (u.among x.chosen (u.openCores ctx)) crews = some (v, used) →
      let cls := clustersOf used
      let off := u.asleep cls
      (off ≠ [] → off.all u.wakeAsked = true → u.starts s.inp.unit d = false) ∧
      (winner = some (d, a) → off ≠ [] → off.all u.wakeAsked = false → exec .groupPlace s =
        .next ((u.wakeAll off).updSlate k fun x => { x with chosen := cls })) ∧
      (winner = some (d, a) → off = [] → ∃ t, exec .groupPlace s = .next t ∧ started t ∧
        ∀ n, n ∈ crews → ∃ c, c ∈ t.crews ∧ c.2.kind = .vector ∧ c.2.slate = k ∧ c.2.crix = n ∧ c.2.core ∈ used)) ∧
    (let r := s.arb s.inp.unit
     let n := (s.tick - r.since) / 200 + 1;
      exec .quantumEnd s = .next (({ s with now := max s.now (5000 * (r.since + 200 * n)) } : State).setArb s.inp.unit { r with
        quantum := (r.quantum + n) % 64, since := r.since + 200 * n })) ∧
    (let q := s.inp.unit
     let from' := (s.queue q).ageFrom;
      (s.firstItem q = none → exec .ageTick s = .next s) ∧
      (s.firstItem q ≠ none →
        exec .ageTick s = .next { s with now := max s.now (5000 * (from' + 8192 * ((s.tick - from') / 8192 + 1))) })) ∧
    (∀ q i v, s.firstItem q = some i → s.itemSlate i = some v → s.effPrio q = min 47 (v.prio + (s.tick - (s.queue q).ageFrom) / 8192)) ∧
    ((s.queue s.inp.unit).wonAt = none → exec .backfillTimeout s = .next s) ∧
    (∀ w, (s.queue s.inp.unit).wonAt = some w → exec .backfillTimeout s = .next { s with now := max s.now (5000 * (w + 65536)) })

/-- R137, R138, R143, R156: a crew that spills leaves its core once no item is tied to its window, and a take record of it stands in the table: KIND 1 at
a take boundary, with its carry set, or KIND 2 when it was pre-empted; its bytes are its image in memory where its page takes writes. A core's release
timeout pre-empts the crews on it. (Rests on choices of the model: logs 74, 107, 108.) -/
def Obligations.TakesSpill : Prop :=
  ∀ (s : State) (c : Crew),
    let k := s.inp.unit
    let x := s.slates.get {} c.slate
    let record (y : Take) (bs : List Byte) := c.kind = .vector →
      y.image = if s.engOk c.ctx true (x.recordAt c.crix) bs.length then some bs else none
    (s.crew k = some c →
      ((c.takeCarry = none ∧ c.spill2 = false) ∨ (c.stop = none ∧ (c.ending ≠ none ∨ s.windowBusy k = true)) → exec .takeSpillDone s = .next s) ∧
      (c.ending = none → s.windowBusy k = false → s.crews.Rising → c.stop = none →
        (∀ n, c.takeCarry = some n → ∃ t y, exec .takeSpillDone s = .next t ∧ t.crew k = none ∧ t.takes.find s.nextTake = some y ∧
          y.kind = 1 ∧ y.carry = n ∧ y.slate = c.slate ∧ y.crew = c.carried n ∧
          record y (recordHead y.crew 1 n ++ saveArea y.crew false (y.crew.carrySet n) []) ∧ (t.queue x.queue).takes = (s.queue x.queue).takes ++ [s.nextTake]) ∧
        (c.takeCarry = none → c.spill2 = true → c.kind = .vector → x.groupOf c.crix = none → ∃ t y, exec .takeSpillDone s = .next t ∧
          t.crew k = none ∧ t.takes.find s.nextTake = some y ∧ y.kind = 2 ∧ y.slate = c.slate ∧ y.crew = c.preempted ∧
          record y (recordHead y.crew 2 0 ++ saveArea y.crew true (y.crew.carrySet 0)
            ((s.core c.core).spad.read c.spadBase (windowOf c.spadSize))) ∧
          (t.queue x.queue).takes = (s.queue x.queue).takes ++ [s.nextTake]))) ∧
    ((s.ctx k).leaving.find s.inp.sub = none → exec .coreReleaseTimeout s = .next s) ∧
    (∀ tick, (s.ctx k).leaving.find s.inp.sub = some tick → s.crews.Rising → ∃ t, exec .coreReleaseTimeout s = .next t ∧ tick + 131072 ≤ t.tick ∧
      ∀ e, e ∈ t.crews → e.2.ctx = k → e.2.core = s.inp.sub → e.2.kind ≠ .cue → e.2.ending = none → e.2.takeCarry = none → e.2.spill2 = true)

/-! ### The control loop and the allocator -/

/-- R91, R93-R96, R107: beats and targets on their way arrive in order, from the ending tick on for the next period; the end of a period measures, and in
mode 1 runs the control law with its freezes and limits, in mode 2 keeps u, and in modes 0 and 3 holds u, I and D at zero. A change of MODE from 0 to
1 within the period clears u and I; an epoch on the ending tick has not set CLIP yet. (Rests on choices of the model: logs 53, 77, 78.) -/
def Obligations.ControlLaw : Prop :=
  ∀ s : State,
    let n := s.inp.unit
    let c := s.ctx n
    let l := c.loop
    let late := c.resident = true ∧ c.due ≤ s.tick
    (∀ ch k at' rest, c.beatsOnWay = (ch, k, at') :: rest → ∃ t, exec .beatArrive s = .next t ∧ t = { s with ctxs := t.ctxs } ∧
      (t.ctx n).beatsOnWay = rest ∧ (t.ctx n).beats.get 0 ch = (c.beats.get 0 ch + k) % 2 ^ 32 ∧
      (late → (t.ctx n).loop = l ∧ (t.ctx n).beatCur = c.beatCur ∧
        (t.ctx n).beatNext.get 0 ch = min 0xFFFFFFFF (c.beatNext.get 0 ch + k)) ∧
      (¬late → (t.ctx n).loop.cnt0 = (if ch = 0 then min 0xFFFFFFFF (l.cnt0 + k) else l.cnt0) ∧ (t.ctx n).beatNext = c.beatNext ∧
        (t.ctx n).beatCur.get 0 ch = min 0xFFFFFFFF (c.beatCur.get 0 ch + k))) ∧
    (∀ v m at' rest, c.btgtOnWay = (v, m, at') :: rest → ∃ t, exec .btgtArrive s = .next t ∧ t = { s with ctxs := t.ctxs } ∧
      (t.ctx n).btgtOnWay = rest ∧
      (late → (t.ctx n).loop = l ∧ (t.ctx n).btgtNext = some (v, m)) ∧
      (¬late → (t.ctx n).btgtNext = c.btgtNext ∧
        (t.ctx n).loop = { l with t := v, mode := m % 4, rise := l.rise || decide ((l.mode = 0 ∨ l.mode = 3) ∧ m % 4 = 1) })) ∧
    (c.resident = false → exec .controlPeriodEnd s = .next s) ∧
    ((∀ b, b ∈ c.beatsOnWay → c.due < b.2.2 + 400) → (∀ b, b ∈ c.btgtOnWay → c.due < b.2.2 + 400) → c.overdueBeats c.due = c) ∧
    (c.resident = true →
      let d := c.overdueBeats c.due
      let l := d.loop
      ∃ t, exec .controlPeriodEnd s = .next t ∧ c.due ≤ t.tick ∧ (t.ctx n).due = c.due + 65536 ∧ (t.ctx n).beatRate = d.beatCur ∧
      (t.ctx n).beatCur = d.beatNext ∧ (t.ctx n).beatNext = [] ∧ (t.ctx n).btgtNext = none ∧
      let r := (t.ctx n).loop
      let pos (w : Nat) (x : BitVec w) : Int := max 0 x.toInt
      let fit (lo hi x : Int) : Int := max lo (min hi x)
      let raw : Int := min (l.cnt0 * 65536 / 2 ^ l.bshift) 0x7FFFFFFF
      let m := if l.fshift = 0 then raw else l.m.toInt + (raw - l.m.toInt) / 2 ^ l.fshift
      let i0 := if l.rise = true then 0 else l.i.toInt
      let clip := if d.clipAt = c.due ∧ d.joined = true then d.clipOld else l.clip
      r.m.toInt = m ∧ r.cnt0 = d.beatNext.get 0 0 ∧ r.periods = (l.periods + 1) % 65536 ∧
      (d.btgtNext = none → r.t = l.t ∧ r.mode = l.mode ∧ r.rise = false) ∧
      (∀ v k, d.btgtNext = some (v, k) → r.t = v ∧ r.mode = k % 4 ∧ (r.rise = true ↔ (l.mode = 0 ∨ l.mode = 3) ∧ k % 4 = 1)) ∧
      (l.mode = 0 ∨ l.mode = 3 → r.i = 0 ∧ r.u = 0 ∧ r.demand = 0) ∧
      (l.mode = 2 → r.i.toInt = i0 ∧ r.u = (if l.rise = true then 0 else l.u) ∧ r.demand = (r.u.toInt / 65536).toNat) ∧
      (l.mode = 1 →
        let merged := if l.fgrp ≠ 0 ∧ s.mergeOf l.fgrp ≠ none ∧ c.mergedAge + 1 ≤ 8 then c.merged else none
        let (meff, gcl) := match merged with
          | some (v, k) => if v.toInt < m then (v.toInt, k) else (m, clip)
          | none => (m, clip)
        let e0 := fit (-2 ^ 31) (2 ^ 31 - 1) (pos 32 l.t - meff)
        let e := if (e0.natAbs : Int) ≤ pos 32 l.db then 0 else e0
        let p := fit (-2 ^ 31) (2 ^ 31 - 1) (pos 16 l.kp * e / 4096)
        let umx : Int := min (pos 32 l.umax) (s.span n * 65536)
        let imx := min (pos 32 l.imax) umx
        let freezes := (l.hi = true ∧ 0 < e) ∨ (l.lo = true ∧ e < 0) ∨ ((clip = true ∨ gcl = true) ∧ 0 < e)
        let i := if freezes then i0 else fit (-imx) imx (i0 + pos 16 l.ki * e / 4096)
        let u := fit 0 umx (p + i)
        r.i.toInt = i ∧ r.u.toInt = u ∧ (r.hi = true ↔ umx ≤ p + i) ∧ (r.lo = true ↔ p + i ≤ 0) ∧ r.demand = (u / 65536).toNat))

/-- R102-R107: an allocator epoch begins on a multiple of 2^14 ticks, once the grants of the last one have taken effect, and grants every resident context
of its function, on each pooled rung, at least its floor and at most what it wants, within the pool; a demand posted on the epoch's own tick waits for
the next. The grants take effect later, unless the context is being saved or is gone. (Rests on choices of the model: logs 78, 79, 80.) -/
def Obligations.Grants : Prop :=
  ∀ s : State, s.ctxs.Rising →
    let f := s.inp.unit
    let k := max (s.func f).epoch ((s.tick + 16383) / 16384)
    let begun := ({ s with now := max s.now (5000 * (16384 * k)) } : State).updFunc f fun x => { x with pools := none, epoch := k + 1 }
    let u := (begun.residents f).foldl (fun s c => s.grantApply c) begun
    let demand (x : Ctx) := if x.demandAt = u.tick ∧ u.tick ≠ 0 then x.demandOld else x.loop.demand
    (∃ t, exec .allocatorEpoch s = .next t ∧ 16384 * k ≤ t.tick ∧ (t.func f).epoch = k + 1 ∧ ∃ g : Nat → List Nat,
      (∀ c, c ∈ u.residents f → (t.ctx c).pending = some (g c) ∧ (t.ctx c).joined = true ∧ (t.ctx c).used = demand (u.ctx c) ∧
        (t.ctx c).clipAt = u.tick ∧ (t.ctx c).clipOld = (u.ctx c).loop.clip ∧
        ∀ k, 1 ≤ k → k ≤ 3 → (u.rung c k).1 ≤ (g c).getD k 0 ∧ (g c).getD k 0 ≤ (u.want c (demand (u.ctx c))).getD k 0) ∧
      ∀ k, 1 ≤ k → k ≤ 3 → ((u.residents f).map fun c => (g c).getD k 0).sum ≤
        max (u.pool f k) ((u.residents f).map fun c => (u.rung c k).1).sum) ∧
    ((s.ctx f).pending = none → exec .grantApply s = .next s) ∧
    (∀ g, (s.ctx f).pending = some g →
      ((s.ctx f).resident = false ∨ s.beingSaved f = true → exec .grantApply s = .next (s.updCtx f fun c => { c with pending := none })) ∧
      ((s.ctx f).resident = true → s.beingSaved f = false → ∃ t, exec .grantApply s = .next t ∧
        (t.ctx f).granted = g ∧ (t.ctx f).pending = none ∧ (t.ctx f).asked = min 100 (4 * g.getD 4 0)))

/-! ### Work of the engines -/

/-- R119, R210, R223, R466-R469: a copy command is started by its engine's arbiter; each item starts after its generation check, is performed
once earlier owners of its lines are done, and is reported in order; the last one ends the command. A failed check ends the rest. An index that was
poisoned, or is beyond the bound, moves nothing. -/
def Claims.CopyItems : Prop :=
  ∀ (s : State) (c : CopyCmd),
    let k := s.inp.unit
    let n := c.stats.length
    (s.copies.find k = some c → c.op ≠ .coll →
      (c.done = true ∨ c.started = false ∨ c.running = true → exec .copyItemStart s = .next s) ∧
      (c.done = false → c.started = true → c.running = false →
        (s.copyGen c = false → ∃ t d, exec .copyItemStart s = .next t ∧ t.copies.find k = some d ∧ d.done = true ∧
          d.stats = c.stats ++ List.replicate (c.items - n) (c.stop.getD 3)) ∧
        (s.copyGen c = true → n < c.items → exec .copyItemStart s = .next { s with copies := s.copies.set k { c with running := true } })) ∧
      (c.running = false ∨ s.itemFree c n = false → exec .copyItemComplete s = .next s) ∧
      (c.running = true → s.itemFree c n = true → ∃ t d, exec .copyItemComplete s = .next t ∧ t.copies.find k = some d ∧
        d.stats.take (n + 1) = c.stats ++ [(s.perform c n).2.1] ∧ (n + 1 = c.items → c.done = false → d.done = true) ∧
        (n + 1 < c.items → c.stop = none → d.stats.length = n + 1 ∧ d.running = false))) ∧
    ((c.index n).2 = true → s.perform c n = (s, 0x05, [])) ∧
    ((c.index n).2 = false → c.beyond n = true → s.perform c n = (s, 0x12, [])) ∧
    (∀ a d len ls ld, c.op = .copy → c.idxs = [] → c.sspc = 0 → c.dspc = 0 → c.moves n 0 = [(a, d, len)] → s.engRange c.ctx false a len = .ok ls →
      s.partsPoison a ls = [] → s.engRange c.ctx true d len = .ok ld → s.migrating = [] →
      (s.perform c n).2.1 = 0 ∧ (s.perform c n).1.mem.dram = (s.partsWrite ld (s.partsRead ls)).mem.dram ∧
        (s.perform c n).1.mem.hostMem = (s.partsWrite ld (s.partsRead ls)).mem.hostMem)

/-- R119, R210, R223, R462-R470: the copy commands and their items. (Rests on choices of the model: logs 36, 55, 59, 60, 64, 67, 100.) -/
def Obligations.Copies : Prop := Claims.CopiesAccepted ∧ Claims.CopiesControlled ∧ Claims.CopyItems

/-- R31, R35, R119, R120: an engine starts a command of the context that its arbiter chooses, on a cluster that has power and is awake; a
sleeping cluster is woken first. -/
def Claims.EngineStarts : Prop :=
  ∀ (s : State) (ctx : Nat) (a : Arbiter),
    let cl := s.inp.unit
    let e := s.inp.sub
    let key := if e = 0 then 16 + cl else if e = 1 then 64 + cl else 128 + cl
    let can (ctx : Nat) : Bool := if e = 0 then (s.waitingCopy cl ctx).isSome
      else if e = 1 then (s.cluster cl).dollyQ.any fun c => c.ctx == ctx && !c.started
      else (s.cluster cl).grammarQ.any fun c => c.ctx == ctx && !c.started
    let off := s.power.tripped = true ∨ (s.pw cl).fenced = true
    let won := s.arbitrate (s.arb key) can can
    (off ∨ won = none → exec .engineCommandStart s = .next s) ∧
    (¬off → won = some (ctx, a) → 2 ≤ (s.pw cl).w → exec .engineCommandStart s = .next (s.wakeCluster cl)) ∧
    (¬off → won = some (ctx, a) → (s.pw cl).w < 2 → ∃ t, exec .engineCommandStart s = .next t ∧ t.arb key = a ∧
      (e = 0 → ∀ k, s.waitingCopy cl ctx = some k → ∃ d, t.copies.find k = some d ∧ d.started = true) ∧
      (e = 1 → ∀ i c, (s.cluster cl).dollyQ.findIdx? (fun c => c.ctx == ctx && !c.started) = some i → (s.cluster cl).dollyQ[i]? = some c →
        (t.cluster cl).dollyQ = (s.cluster cl).dollyQ.set i { c with started := true }) ∧
      (2 ≤ e → ∀ i c, (s.cluster cl).grammarQ.findIdx? (fun c => c.ctx == ctx && !c.started) = some i → (s.cluster cl).grammarQ[i]? = some c →
        (t.cluster cl).grammarQ = (s.cluster cl).grammarQ.set i { c with started := true }))

/-- R50-R54, R223: an item of a collective with a member of another package takes the status that the fabric gives, unless something at this
member stands against it, and a failed reduction abandons its items that were OK; an item whose peer's command has given its status takes the
status that follows for it; an item waits for those of earlier collectives and for the owners of its lines. A reduction commits once every item
is OK. -/
def Claims.CollectiveSteps : Prop :=
  ∀ (s : State) (c : CopyCmd),
    let k := s.inp.unit
    let p := s.inp.sub
    let v := s.inp.val
    let away (r : Nat) := (c.members.getD r (0, 0)).1 ≠ s.fabric.pkgid
    s.copies.find k = some c → c.op = .coll → c.done = false →
      (p ∈ c.peers → c.peer.find p = none → c.started = true →
        (s.collReady c p = false → exec .collectiveItemDone s = .next s) ∧
        (s.collReady c p = true → away p →
          (∀ st, s.collLocal c p = some st → st ≠ 0 → ∃ t d, exec .collectiveItemDone s = .next t ∧ t.copies.find k = some d ∧ d.peer.find p = some st) ∧
          (s.collLocal c p = none → (s.collBytes c p).2 ≠ [] →
            ∃ t d, exec .collectiveItemDone s = .next t ∧ t.copies.find k = some d ∧ d.peer.find p = some 5) ∧
          (s.collLocal c p = none → (s.collBytes c p).2 = [] → 1 ≤ v → v ≤ 10 →
            ∃ t d, exec .collectiveItemDone s = .next t ∧ t.copies.find k = some d ∧ d.peer.find p = some v) ∧
          (s.collLocal c p = none → (s.collBytes c p).2 = [] → v = 0 → ∃ t d, exec .collectiveItemDone s = .next t ∧ t.copies.find k = some d ∧
            (d.peer.find p = some 0 ∨ (c.reduces = true ∧ d.peer.find p = some 6)))) ∧
        (s.collReady c p = true → ¬away p → ∀ k2 c2 st, s.collPeer c p = some (k2, c2) → c2.peer.find c.rank = some st → st ≠ 0 →
          ∃ t d, exec .collectiveItemDone s = .next t ∧ t.copies.find k = some d ∧
            d.peer.find p = some (if st = 7 ∨ st = 8 then 9 else if st = 10 then 3 else st))) ∧
      (c.reduces = true → c.collDone = true → c.collOk = true → (∀ r, r < c.members.length → r ≠ c.rank → away r) →
        (s.collEndFree c = false → exec .collectiveCommit s = .next s) ∧
        (s.collEndFree c = true → s.inp.flag = true → ∃ t d, exec .collectiveCommit s = .next t ∧ t.copies.find k = some d ∧ d.done = true ∧ d.peer = c.peer) ∧
        (s.collEndFree c = true → s.inp.flag = false → 2 ≤ c.members.length → ∃ t d, exec .collectiveCommit s = .next t ∧
          t.copies.find k = some d ∧ d.done = true ∧ ∀ r, r ∈ d.peer → r.2 = 6))

/-- R50-R53, R119, R120: engines that start commands, and collectives. (Rests on choices of the model: logs 62, 63, 68, 101, 102, 103, 104.) -/
def Obligations.Engines : Prop := Claims.EngineStarts ∧ Claims.CollectiveSteps

/-- R31, R35, R287, R289, R297: a started slot command is performed once every earlier command of its context has been, while its cluster has power
and no line of the grammar is owned: its output is written, then its completion word, and it leaves the slots' queue. -/
def Claims.GrammarPerforms : Prop :=
  ∀ (s : State) (i : Nat) (c : GCmd) (g : GSlot),
    let cl := s.inp.unit
    let q := (s.cluster cl).grammarQ
    let runs (v : State) := ∃ t, exec .grammarSlotPerform s = .next t ∧ (t.cluster cl).grammarQ = q.eraseIdx i ∧ t.mem = v.mem
    q.findIdx? (fun c => c.slot == s.inp.sub) = some i → q[i]? = some c →
      (c.started = false ∨ s.power.tripped = true ∨ (s.pw cl).fenced = true ∨ (∃ d, d ∈ q.take i ∧ d.ctx = c.ctx) →
        exec .grammarSlotPerform s = .next s) ∧
      (c.started = true → s.power.tripped = false → (s.pw cl).fenced = false → (∀ d, d ∈ q.take i → d.ctx ≠ c.ctx) → s.migrating = [] →
        s.gslots.find (64 * cl + c.slot % 64) = some g →
        (∀ a word, c.work = .mask a word →
          (∀ bs l, s.gMask g ((word - a) / 4) = .ok bs l →
            runs (((s.l2Parts c.ctx cl l false).gStore cl c.ctx a bs).engWord c.ctx word 0 g.steps scCluster)) ∧
          (∀ st l, s.gMask g ((word - a) / 4) = .bad st l →
            runs ((s.l2Parts c.ctx cl l false).engWord c.ctx word st g.steps scCluster)) ∧
          (∀ h k o, s.gMask g ((word - a) / 4) = .held h k o → exec .grammarSlotPerform s = .next s)) ∧
        (∀ a, c.work = .save a → ∃ n, runs ((s.gStore cl c.ctx a (slotImage g)).engWord c.ctx (a + 252) 0 n scCluster)))

/-- R287, R289, R292-R297, R472, R483: the commands of the grammar slots. (Rests on choices of the model: logs 54, 55, 56.) -/
def Obligations.GrammarCommands : Prop :=
  Claims.GrammarSteps ∧ Claims.GrammarSlots ∧ Claims.GrammarOutputs ∧ Claims.SlotImages ∧ Claims.GrammarPerforms

/-- R31, R35, R198, R200, R204, R208, R471: nothing goes on while the supply of the cluster is off; a pass takes its number and starts at block 0, passes one block after another while its context holds a core on the
cluster, and ends when every block has been passed and every latched element written back; a wake command takes effect index by index. -/
def Claims.PassSteps : Prop :=
  ∀ (s : State) (b : Binding) (k : Nat),
    let cl := s.inp.unit
    let key := 4 * cl + s.inp.sub
    let off := s.power.tripped = true ∨ (s.pw (key / 4)).fenced = true
    (off → s.inp.sub < 4 → exec .passStart s = .next s ∧ exec .wakeApply s = .next s) ∧
    (s.passReady cl = none → exec .passStart s = .next s) ∧
    (∀ x rest, s.passReady cl = some k → s.bindings.find k = some b → b.queued = x :: rest → ∃ t y, exec .passStart s = .next t ∧
      t.bindings.find k = some y ∧ y = { b with pass := x.1, running := some x, queued := rest, cursor := 0, runs := 0, sig := 0 }) ∧
    (s.inp.sub < 4 → s.bindings.find key = some b →
      (s.cueCores key b = [] ∨ off → exec .blockPass s = .next s) ∧
      (s.cueCores key b ≠ [] → ¬off → b.running ≠ none → b.cursor < b.blocks → ∃ t y, exec .blockPass s = .next t ∧ t.bindings.find key = some y ∧
        y.cursor = b.cursor + 1 ∧ y.running = b.running ∧ y.latched = [] ∧ y.saved = []) ∧
      (b.passDone = false ∨ off → exec .passEnd s = .next s) ∧
      (b.passDone = true → ¬off → ∃ t y, exec .passEnd s = .next t ∧ t.bindings.find key = some y ∧ y.running = none ∧ y.cursor = b.blocks ∧
        y.queued = b.queued ∧ ∀ c, c ∈ t.crews → c.2.kind = .cue → s.crews.Rising → c.2.binding ≠ key)) ∧
    (s.wakeReady cl = none → exec .wakeApply s = .next s) ∧
    (∀ i c e rest, s.wakeReady cl = some i → (s.cluster cl).dollyQ[i]? = some c → c.work = .wake (e :: rest) →
      s.bindings.find (4 * cl + c.num % 4) = some b → c.num < 4 → ∃ t, exec .wakeApply s = .next t ∧ t.mem = (s.wakeElem b e).mem ∧
        (t.cluster cl).dollyQ = if rest = [] then (s.cluster cl).dollyQ.eraseIdx i else (s.cluster cl).dollyQ.set i { c with work := .wake rest })

/-- R198, R199, R202, R204, R208, R471, R475: cue mode and passes. (Rests on choices of the model: logs 51, 65.) -/
def Obligations.CueRuns : Prop := Claims.CueInstructions ∧ Claims.PassSteps

/-! ### Work of the matrix unit and of the rows -/

/-- R433, R434, R452, R455, R459: the oldest queued matrix instruction begins once no transfer or shared write into its tiles is under way; its missing
scale blocks are fetched; it executes, and leaves the queue; a shared write reaches its member. (Rests on choices of the model: logs 41, 42.) -/
def Obligations.MatrixSteps : Prop :=
  ∀ (s : State) (q : MItem) (rest : List MItem),
    let cl := s.inp.unit
    let m := s.mx cl
    let u := s.settleCluster cl
    ((u.mx cl).queue = [] → exec .matrixExecStart s = .next u) ∧
    ((u.mx cl).queue = q :: rest →
      (q.started = true ∨ u.mxReady cl q = false → exec .matrixExecStart s = .next u) ∧
      (q.started = false → u.mxReady cl q = true → ∃ t p, exec .matrixExecStart s = .next t ∧ (t.mx cl).queue = p :: rest ∧ p.started = true ∧
        p.op = q.op ∧ p.acc = q.acc ∧ p.blocks = q.blocks ∧ (t.mx cl).acc = (u.mx cl).acc ∧ (t.mx cl).tiles = (u.mx cl).tiles ∧
        ∀ b, b ∈ p.missing ↔ b ∈ q.blocks ∧ (u.mx cl).cached b.1 b.2 = none)) ∧
    (m.queue = [] → exec .matrixExecDone s = .next s ∧ exec .scaleFetchDone s = .next s) ∧
    (m.queue = q :: rest →
      (q.started = false ∨ q.missing ≠ [] → exec .matrixExecDone s = .next s) ∧
      (q.started = true → q.missing = [] → ∃ t, exec .matrixExecDone s = .next t ∧ t.mx cl = { (m.perform q).1 with queue := rest } ∧
        (q.op = .mzero → (t.mx cl).tiles = m.tiles ∧ ∀ e, e / 4096 = q.acc → (t.mx cl).entry e = 0)) ∧
      (q.missing = [] → exec .scaleFetchDone s = .next s) ∧
      (∀ id n more, q.missing = (id, n) :: more → ∃ t p, exec .scaleFetchDone s = .next t ∧ (t.mx cl).queue = p :: rest ∧
        (∀ b, b ∈ p.missing ↔ b ∈ q.missing ∧ ¬(b.1 = id ∧ b.2 / 64 = n / 64)) ∧
        (t.mx cl).scMiss.get 0 id = min 0xFFFF (m.scMiss.get 0 id + 1) ∧
        ∃ l older, (t.mx cl).scCache = l :: older ∧ l.id = id ∧ l.line = n / 64 ∧ older.length < 128)) ∧
    (m.shared = [] → exec .sharedTileWriteDone s = .next s) ∧
    (∀ w more, m.shared = w :: more → ∃ t, exec .sharedTileWriteDone s = .next t ∧ (t.mx cl).shared = more ∧
      (∀ off d, w.what = .bytes off d → (t.mx w.member).tiles = (s.mx w.member).tiles.write (16384 * w.tile + off) d) ∧
      (∀ sh f, w.what = .shape sh f → ((t.mx w.member).ctl w.tile).shape = sh ∧ ((t.mx w.member).ctl w.tile).fmt = f))

/-- R233-R236, R425, R427: the events of the open-row bus: a transfer's end, which leaves its bytes where it goes, twelve nanoseconds after an
activation, a precharge's end, the forced close of a row whose window has passed, and a refresh, which an open row defers. Each brings
time up to its own; time goes on beyond it only where a limit of the memory side spaces the write-backs of a thread that it wakes. -/
def Claims.BusEvents : Prop :=
  ∀ (s : State) (row : RowEnt),
    let cl := s.inp.unit
    let bank := s.inp.sub
    let st := cl / 2
    let comes (t : State) (n : Nat) : Prop := max s.now n ≤ t.now ∧ (s.power.memFactor = 0 → t.now = max s.now n)
    ((s.cluster cl).xfers = [] → exec .rowTransferEnd s = .next s) ∧
    (∀ x rest, (s.cluster cl).xfers = x :: rest → ∃ t, exec .rowTransferEnd s = .next t ∧ comes t x.tEnd ∧
      (t.cluster cl).xfers = (s.cluster cl).xfers.filter (fun y => decide (max s.now x.tEnd < y.tEnd)) ∧
      ((∀ y, y ∈ rest → max s.now x.tEnd < y.tEnd) →
        (x.tile = none → (t.mx cl).weight = (s.mx cl).weight.write x.off x.data) ∧
        ∀ k, x.tile = some k → (t.mx cl).tiles = (s.mx cl).tiles.write (16384 * k + x.off) x.data)) ∧
    ((s.cluster cl).row bank = none → exec .activateToFirstConsume s = .next s ∧ exec .rowForcedClose s = .next s) ∧
    ((s.cluster cl).row bank = some row →
      (∃ t, exec .activateToFirstConsume s = .next t ∧ comes t (row.tAct + 12000) ∧ t.clusters = s.clusters) ∧
      (row.st ≠ .opened → exec .rowForcedClose s = .next s) ∧
      (row.st = .opened → ∃ t r, exec .rowForcedClose s = .next t ∧ comes t (row.tAct + 2800000) ∧ (t.cluster cl).row bank = some r ∧
        r.st = .expired ∧ r.tPre ≠ none ∧ r.row = row.row)) ∧
    (∃ t, exec .prechargeEnd s = .next t ∧ comes t (s.bank st bank).preEnd ∧
      ∀ k r at', k < 2 → r ∈ (t.cluster (2 * st + k)).rows → r.st = .closing → r.tPre = some at' →
        max s.now (s.bank st bank).preEnd < at' + 12000) ∧
    (let u := (s.until (s.bank cl bank).refDue).settleStack cl
      let opened (k : Nat) : Prop := ∃ r, (u.cluster k).row bank = some r ∧ r.st = .opened
      (s.power.selfRefresh = true → exec .bankRefresh s = .next s) ∧
      (s.power.selfRefresh = false →
        (opened (2 * cl) ∨ opened (2 * cl + 1) → exec .bankRefresh s = .next (u.updBank cl bank fun b => { b with refWaits := true })) ∧
        (¬opened (2 * cl) → ¬opened (2 * cl + 1) → exec .bankRefresh s = .next (u.updBank cl bank fun b =>
          let at' := max u.now b.preEnd
          { b with refWaits := false, refEnd := at' + 120000, refDue := max (b.refDue + 3900000) (at' + 120000 + 28000 + 12000) }))))

/-- R232, R233, R235-R237, R423-R427: the open rows and their bus. (Rests on choices of the model: log 40.) -/
def Obligations.RowsAndBus : Prop :=
  Claims.RowActivates ∧ Claims.RowsRead ∧ Claims.RowsClose ∧ Claims.RowsReported ∧ Claims.BusEvents

/-! ### Steps of cores and of the memory system -/

/-- R158, R161, R164, R178: quadrant cycles pass, after each of which the bins of the quadrant that are full, 64 cycles old, or alone in it have issued as
new warps, as far as it has places for 64 of them and their crews do not stand in a trap; a warp that has issued 64 instructions while it is divergent
gives way to its next side. (Rests on choices of the model: log 16.) -/
def Obligations.CoreEvents : Prop :=
  ∀ (s : State) (c : Crew) (w : Warp),
    let k := s.inp.unit
    (s.crews.Rising → (∀ x, x ∈ s.crews → x.2.bins.Rising) → let q := s.inp.sub % 4
      ∃ t, exec .binIssue s = .next t ∧ (t.core k).cycle.get 0 q = (s.core k).cycle.get 0 q + s.inp.val ∧
        (0 < s.inp.val → ∀ x, x ∈ t.crews → x.2.core = k → x.2.frozen = false → ∀ b, b ∈ x.2.bins → b.1 / 16 = q →
          x.2.binReady q ((t.core k).cycle.get 0 q) b.2 = true → 64 ≤ x.2.warpsIn q + t.otherWarps x.1 k q)) ∧
    (s.crew k = none → exec .divergenceYield s = .next s) ∧
    (s.crew k = some c → c.warps.find s.inp.sub = none → ∃ t, exec .divergenceYield s = .next t ∧ ∀ n, t.crew n = s.crew n) ∧
    (s.crew k = some c → c.warps.find s.inp.sub = some w →
      (64 ≤ w.issued → w.div ≠ [] → exec .divergenceYield s =
        .next (s.setCrew k { c with warps := c.warps.set s.inp.sub (w.yieldSide c) })) ∧
      (w.issued < 64 ∨ w.div = [] → ∃ t, exec .divergenceYield s = .next t ∧ ∀ n, t.crew n = s.crew n))

/-- R62, R214, R217: one of the 64 walks that a die's walkers have taken up completes, and takes every identical walk on its die with it: its translation
goes to the TLBs, or the accesses that wait for the page report PAGE. A refused translation of a host page waits for a page request under PRI. (Rests
on choices of the model: logs 29, 31, 32.) -/
def Obligations.PageWalks : Prop :=
  ∀ (s : State) (k : Walk),
    let same (w : Walk) : Bool := w.ctx == k.ctx && w.page == k.page && dieOf (clusterOf w.core) == dieOf (clusterOf k.core)
    let waits (t : State) (wt : Wait) := ∃ c, c ∈ t.crews ∧ c.2.core = k.core ∧ c.2.ctx = k.ctx ∧ ∃ w, w ∈ c.2.warps ∧ w.2.run.wait = wt
    (s.mem.walks[s.inp.sub]? = none → exec .pageWalkDone s = .next s) ∧
    (s.mem.walks[s.inp.sub]? = some k → (k.ctx, k.page) ∉ s.walksRun (dieOf (clusterOf k.core)) → exec .pageWalkDone s = .next s) ∧
    (s.mem.walks[s.inp.sub]? = some k → (k.ctx, k.page) ∈ s.walksRun (dieOf (clusterOf k.core)) → 65536 * k.page < 2 ^ 57 →
      ∃ t, exec .pageWalkDone s = .next t ∧ t.mem.walks = s.mem.walks.filter (fun w => !same w) ∧ t.mem.dram = s.mem.dram ∧
      (s.mem.walkCache.get [] (dieOf (clusterOf k.core)) = [] →
        (s.walk k.ctx (65536 * k.page) = .pageFault → ¬waits t (.walk k.page) ∧
          ∀ c w, c ∈ s.crews → c.2.core = k.core → c.2.ctx = k.ctx → w ∈ c.2.warps → w.2.run.wait = .walk k.page →
            ∃ c' v, (c.1, c') ∈ t.crews ∧ (w.1, v) ∈ c'.warps ∧ ∃ b, b ∈ v.badPages ∧ b.page = k.page ∧ b.cause = 0x08) ∧
        (∀ e, s.walk k.ctx (65536 * k.page) = .leaf e → e.host = false ∨ s.ats = false ∨ s.inp.flag = false → s.mem.walks = [k] →
          t.tlbHit k.core k.ctx (65536 * k.page) = some e ∧ ¬waits t (.walk k.page)) ∧
        (∀ e, s.walk k.ctx (65536 * k.page) = .leaf e → e.host = true → s.ats = true → s.inp.flag = true → s.pri = true → s.mem.walks = [k] →
          t.priWaits = s.priWaits ++ [(k.ctx, k.page, k.core)] ∧ ¬waits t (.walk k.page)))) ∧
    (∀ die, (s.walksRun die).length ≤ 64) ∧
    (s.priWaits[s.inp.sub]? = none → exec .priResponse s = .next s) ∧
    (s.priWaits[s.inp.sub]? = some (k.ctx, k.page, k.core) → ∃ t, exec .priResponse s = .next t ∧ t.priWaits = s.priWaits.eraseIdx s.inp.sub ∧
      ¬waits t (.pri k.page))

/-- R68, R225, R239-R242, R248: scratchpad banks serve their oldest request; a write buffer's oldest store is performed at home once no engine
item owns its line; the host's accesses go through a context's tables to the home slices; the patrol scrub marks what it cannot correct, and an
error of another structure is reported, or poisons what it holds. -/
def Claims.MemoryEvents : Prop :=
  ∀ s : State,
    let k := s.inp.unit
    let c := s.core k
    let bs := s.inp.list.map (BitVec.ofNat 8 ·)
    (c.bankQ.find? (fun x => x.1 == s.inp.sub) = none → exec .scratchpadAccessDone s = .next s) ∧
    (∀ x, c.bankQ.find? (fun x => x.1 == s.inp.sub) = some x → ∃ t, exec .scratchpadAccessDone s = .next t ∧ (t.core k).bankQ = c.bankQ.erase x ∧
      (∀ d w, s.crew x.2.1 = some d → d.warps.find x.2.2 = some w → ∃ d' w', t.crew x.2.1 = some d' ∧ d'.warps.find x.2.2 = some w' ∧
        w'.spadOut = w.spadOut - 1 ∧ (w.spadOut ≤ 1 → w'.spadBusy = false)) ∧
      ∀ d, d ∈ t.crews → d.2.core = k → ∀ w, w ∈ d.2.warps → w.2.run.wait ≠ .bank x.1) ∧
    (c.wbuf.find? (fun w => w.bankGroup == s.inp.sub) = none → exec .writeBufferDrain s = .next s) ∧
    (∀ w, c.wbuf.find? (fun w => w.bankGroup == s.inp.sub) = some w →
      ((s.mem.dirOf w.ent.host (w.pa / 128)).owners ≠ [] → exec .writeBufferDrain s = .next s) ∧
      ((s.mem.dirOf w.ent.host (w.pa / 128)).owners = [] → exec .writeBufferDrain s =
        .next (let u := s.setCore k { c with wbuf := c.wbuf.erase w, accum := if w.ent.ord = 0 then c.accum ||| sigRange w.pa w.bytes.length else c.accum }
          u.homeWrite (some k) true w.ent.host w.ent.slot w.pa w.bytes))) ∧
    (s.inp.val = 1 → exec .hostPortAccess s = .next (s.updMem fun m => { m with hostMem := m.hostMem.write s.inp.sub bs })) ∧
    (s.inp.val ≠ 1 →
      (∀ e, s.engRange k true s.inp.sub bs.length = .error e → exec .hostPortAccess s = .next s) ∧
      (∀ l, s.engRange k true s.inp.sub bs.length = .ok l → s.partsOwned l = none → s.migrating = [] → exec .hostPortAccess s =
        .next ((s.partsWrite l bs).updFunc s.inp.func fun x => { x with wrote := x.wrote ||| partsSig (l.filter fun p => !p.1.host) }))) ∧
    (s.inp.sub = 3 → 2 ≤ s.inp.val → s.inp.val ≤ 11 →
      (s.inp.flag = false → exec .patrolScrub s = .next (s.post 0 { recSoftError with
        unit := (if s.inp.list.getD 1 0 = 1 ∨ s.inp.val = 3 ∨ s.inp.val = 4 then 6 else 0) * 4096 + k % 4096,
        d0 := s.inp.val + 2 ^ 8 * (s.inp.aux % 256) + 2 ^ 16 * (s.inp.list.headD 0 % 2 ^ 32) })) ∧
      (s.inp.flag = true → s.inp.val = 5 → exec .patrolScrub s = .next (s.updCore (if s.inp.aux < 10 then 10 * k + s.inp.aux else 320 + k)
        fun x => { x with spadPoison := insertNat x.spadPoison (s.inp.list.headD 0) }))) ∧
    (s.inp.sub ≠ 3 → dramSize ≤ 32 * k → exec .patrolScrub s = .next s) ∧
    (32 * k < dramSize →
      (s.inp.sub = 0 → k ∉ s.mem.poison → exec .patrolScrub s = .next s) ∧
      (s.inp.sub = 1 → ∃ t, exec .patrolScrub s = .next t ∧ t.mem.dram = s.mem.dram ∧ t.mem.poison = s.mem.poison) ∧
      (s.inp.sub = 2 → ∃ t, exec .patrolScrub s = .next t ∧ k ∈ t.mem.poison ∧ k ∈ t.mem.reported ∧ t.mem.dram = s.mem.dram))

/-- R33: the migration of a page, at most a GiB a second on a die, to a place with room: it is marked and its writes stall; when the copy is done, the bytes stand at the new place, writes go on, and
the record is posted. -/
def Claims.Migrations : Prop :=
  (∀ (s : State) (e : TlbEnt), s.walk s.inp.unit s.inp.sub = .leaf e →
    (s.mayMigrate e s.inp.val = false ∨ (∃ m, m ∈ s.migrations ∧ m.old = e.pa) → exec .pageMigrationStart s = .next s) ∧
    (s.mayMigrate e s.inp.val = true → (∀ m, m ∈ s.migrations → m.old ≠ e.pa) → ∃ t, exec .pageMigrationStart s = .next t ∧
      let die := stackOfPa e.pa / 8
      let at' := max s.now (5000 * s.power.moveNext.get 0 die)
      t = { s with
        now := at', power := { s.power with moveNext := s.power.moveNext.set die (at' / 5000 + (2 ^ e.lg * 200000000 + 2 ^ 30 - 1) / 2 ^ 30) },
        migrations := s.migrations ++ [⟨s.inp.unit, e.base, e.lg, e.pa, s.inp.val⟩], migrating := t.migrating } ∧
      ∀ k, k ∈ t.migrating ↔ k ∈ s.migrating ∨ (e.pa / 65536 ≤ k ∧ k < e.pa / 65536 + 2 ^ e.lg / 65536))) ∧
  (∀ (s : State) (m : Migration), s.migrations[s.inp.sub]? = some m → ∃ t, exec .pageMigrated s = .next t ∧
    t.migrations = s.migrations.eraseIdx s.inp.sub ∧
    t.migrating = s.migrating.filter (fun k => decide (65536 * k < m.old) || decide (m.old + 2 ^ m.lg ≤ 65536 * k))) ∧
  ∀ (m : Cells) (old new n : Nat), m.wf = true → (new + n ≤ old ∨ old + n ≤ new) →
    (m.move old new n).wf = true ∧ (∀ i, i < n → (m.move old new n).get (new + i) = m.get (old + i)) ∧
    ∀ a, a < new ∨ new + n ≤ a → (m.move old new n).get a = m.get a

/-- R33, R68, R225, R239-R242, R248: the memory's own events, and migration. (Rests on choices of the model: logs 33, 34, 35, 81, 109.) -/
def Obligations.MemoryWork : Prop := Claims.MemoryEvents ∧ Claims.Migrations

/-! ### Rules stated word for word -/

/-- R353: `ELECT` writes bit 1 in the lowest-numbered lane of `m0` and bit 0 in every other lane of `m0`; other lanes keep their bits. On a control core,
in cue mode and with d = 0 it raises ILLEGAL. -/
def Obligations.Elects : Prop :=
  ∀ (k : BitVec 4) (s : State) (I : Iss),
    encode (.elect k) = [0x20000012#32 ||| (k.setWidth 32 <<< 19)] ∧
    (Runs (.elect k) s I → ∃ t, exec (.elect k) s = .next t ∧ WritesMask I s t none k.toNat
      (fun l => I.warp.m0.getLsbD l && decide (∀ j, j < l → I.warp.m0.getLsbD j = false)) 0) ∧
    (s.issuer = some I → (I.crew.kind ≠ .vector ∨ k = 0) → exec (.elect k) s = .next (s.takeTrap { cause := 0x01 }))

/-- R363: the shifts of each element by the natural value of the matching element of b: `SHL` multiplies by 2^s modulo 2^w, `SHR` fills with zeros, `SAR`
with copies of the top bit, and `ROL` rotates left by s mod w; with s at w or more `SHL` and `SHR` give 0 and `SAR` all copies of the top bit. -/
def Obligations.Shifts : Prop :=
  ∀ (p : Option Pfx) (d a b : BitVec 7) (t : BitVec 3) (s : State) (I : Iss),
    let w := intW t.toNat
    let n := intTot t.toNat / 32
    let gives (i : Instr) (f : BitVec w → Nat → BitVec w) : Prop := Runs i s I → ∃ u val, exec i s = .next u ∧ WritesReg I s u p d n val 0 ∧
      ∀ l j, j < intTot t.toNat / w → elemOf w (val l) j = f (elemOf w (I.warp.laneNat a l n) j) (elemOf w (I.warp.laneNat b l n) j).toNat
    let copies (x : BitVec w) : BitVec w := if x.msb = true then BitVec.allOnes w else 0
    gives (.shl p d a b t) (fun x k => BitVec.ofNat w (x.toNat * 2 ^ k)) ∧
    gives (.shr p d a b t) (fun x k => BitVec.ofNat w (x.toNat / 2 ^ k)) ∧
    gives (.sar p d a b t) (fun x k => BitVec.ofInt w (x.toInt / 2 ^ k)) ∧
    gives (.rol p d a b t) (fun x k => BitVec.ofNat w (x.toNat * 2 ^ (k % w) + x.toNat / 2 ^ (w - k % w))) ∧
    ∀ (x : BitVec w) (k : Nat), w ≤ k → BitVec.ofNat w (x.toNat * 2 ^ k) = 0 ∧ BitVec.ofNat w (x.toNat / 2 ^ k) = 0 ∧
      BitVec.ofInt w (x.toInt / 2 ^ k) = copies x

/-- R377: `FABS` clears the sign bit, `FNEG` inverts it and `FCPYS` writes a's bits with b's sign bit; they keep NaN payloads, set no flag and read no
rounding mode; their FP16 and BF16 forms act on bits [15:0] and write zeros above. -/
def Obligations.SignOperations : Prop :=
  ∀ (p : Option Pfx) (d a b : BitVec 7) (t : BitVec 3) (s : State) (I : Iss),
    let m : Nat := if t = 0 then 2 ^ 31 else 2 ^ 15
    let x (l : Nat) := (I.warp.lane a l).toNat % (2 * m)
    let y (l : Nat) := (I.warp.lane b l).toNat % (2 * m)
    let gives (i : Instr) (f : Nat → Nat) : Prop := Runs i s I → ∃ u, exec i s = .next u ∧ WritesReg I s u p d 1 f 0
    gives (.fabs p d a t) (fun l => x l % m) ∧
    gives (.fneg p d a t) (fun l => (x l + m) % (2 * m)) ∧
    gives (.fcpys p d a b t) (fun l => x l % m + m * (y l / m))

/-! ### Decoding, fetching and the step -/

/-- R308, R309, R317-R327: the words of a well-formed instruction decode to it, with every operand at every value that the encoding admits, whatever
follows them. (Rests on choices of the model: log 99.) -/
def Obligations.DecodeEncode : Prop :=
  ∀ (i : Instr) (rest : List Byte), i.wf = true → decodeBytes (encodeBytes i ++ rest) = .ok (i, i.size)

/-- R309, R317-R327: no bit of a word is dropped: what decodes to an instruction begins with the words of that instruction. (Rests on choices of the
model: log 99.) -/
def Obligations.EncodeDecode : Prop :=
  ∀ (bs : List Byte) (i : Instr) (n : Nat), decodeBytes bs = .ok (i, n) → n = i.size ∧ bs.take n = encodeBytes i

/-- R317, R366, R402, R430, R471, R496: words that the manual writes out decode to the instructions that they stand for. -/
def Obligations.DecodesWords : Prop :=
  let is (w : Nat) (i : Instr) : Prop := decodeBytes (bytesLE 4 w) = .ok (i, 4)
  let pair (p w : Nat) (i : Instr) : Prop := decodeBytes (bytesLE 4 p ++ bytesLE 4 w) = .ok (i, 8)
  is 0x24200020 (.crd 4 32) ∧ is 0x58280003 (.movi none 5 3) ∧ is 0x304040B2 (.imul none 8 4 5 2) ∧ is 0x54386010 (.iaddi none 7 6 16) ∧
  is 0x4850C0EA (.lea none 10 12 7 2) ∧ is 0x2000402B (.btgt 4 1) ∧ is 0x2000A00A (.beat 10 0) ∧ is 0x1867FFFC (.loop 12 (-4)) ∧
  is 0xC4000062 (.fenceFull 3) ∧ is 0xC4000023 (.bar 0 1) ∧ is 0xCC01E000 (.ract 30) ∧ is 0xE8028000 (.tlbi 40 0) ∧
  is 0xD0194000 (.tshape 3 20) ∧ is 0xD8100000 (.mzero 2) ∧ is 0xE0009001 (.scinv 9) ∧ is 0xF1250B00 (.xcCopy 9 20 22) ∧
  is 0xF0A204B1 (.gpStep 5 8 9) ∧ pair 0xEC800000 0x30407082 (.iadd (some (pfxOf 0xEC800000#32)) 8 7 4 2)

/-- R159, R315, R328: the focus's turn runs the instruction that its warp fetches, at the state in which it was fetched, and ends the cycle;
a fetch that traps takes its trap; an event of the agenda is executed with its input. Of turns that share a time, the prefix-table command
that R307 puts first goes first. -/
def Claims.StepRuns : Prop :=
  ∀ (s t u : State) (core q : Nat) (I : Iss) (f : Focus) (dt : Nat) (rest : List Item),
    let turns (v : State) : Prop := v.pick core q = (t, true) → t.issuer = some I →
      (∀ i, I.fetch t = .instr u i →
        (∀ w, exec i u = .next w → step s = .next (I.finish i q w)) ∧ (∀ r, exec i u = .fault r → step s = .fault r) ∧
        ∀ r, exec i u = .refused r → step s = .refused r) ∧
      (∀ x, I.fetch t = .trap u x → step s = .next ((u.takeTrap x).cycleEnd I.core q)) ∧
      (I.fetch t = .held u → step s = .next (u.cycleEnd I.core q))
    (s.agenda = [] → s.focus.place = some (core, q) → turns s) ∧
    (s.agenda = ⟨dt, .issue f⟩ :: rest →
      let v : State := { s with agenda := rest, now := s.now + dt }
      (∀ g r, v.ptFirst ⟨dt, .issue f⟩ rest = (⟨dt, .issue g⟩, r) → g.place = some (core, q) → turns { v with agenda := r }) ∧
      ((∀ y, rest.head? = some y → y.dt ≠ 0) → v.ptFirst ⟨dt, .issue f⟩ rest = (⟨dt, .issue f⟩, rest))) ∧
    ∀ i inp, s.agenda = ⟨dt, .event i inp⟩ :: rest → encode i = [] → step s = exec i { s with agenda := rest, now := s.now + dt, inp := inp }

/-- R177, R216, R220, R258, R315, R328: a fetch reads the word at the PC's place, from the core's instruction cache or from the line at home; a
prefix takes the next word with it; bytes that no row of the opcode map names raise ILLEGAL. -/
def Claims.Fetches : Prop :=
  ∀ (s : State) (I : Iss) (va : Nat) (e : TlbEnt),
    let pa := e.addr va
    (∀ b, b ∈ I.warp.badPages → b.page ≠ va / 65536) → s.tlbHit I.core I.crew.ctx va = some e → s.permits e { n := 4, exec := true } = none →
    pa % 4 = 0 → (e.host = false ∨ s.cxl = true) →
    (∀ l, (s.core I.core).icache.find? (fun l => l.line == pa / 128 && l.host == e.host && l.slot == e.slot) = some l →
      ∃ u, I.fetchWord s va = .word u (l.data.extractLsb' (8 * (pa % 128)) 32)) ∧
    ((∀ l, l ∈ (s.core I.core).icache → ¬(l.line = pa / 128 ∧ l.host = e.host ∧ l.slot = e.slot)) →
      (s.mem.dirOf e.host (pa / 128)).owners = [] → (e.host = false → pa / 32 ∉ s.mem.poison) →
      ∃ u, I.fetchWord s va = .word u (BitVec.ofNat 32 (leNat (s.homeRead e.host e.slot pa 4)))) ∧
    (va = I.warp.run.pc.toNat → ∀ u w, I.fetchWord s va = .word u w →
      (∀ i, decodeBytes (bytesLE 4 w.toNat) = .ok (i, 4) → I.fetch s = .instr u i) ∧
      (w.toNat / 2 ^ 26 = 0x3B → w.toNat % 256 = 0 → ∀ v w2, I.fetchWord u (I.warp.run.pc + 4).toNat = .word v w2 →
        (∀ i, decodeBytes (bytesLE 4 w.toNat ++ bytesLE 4 w2.toNat) = .ok (i, 8) → I.fetch s = .instr v i) ∧
        (∀ x, decodeBytes (bytesLE 4 w.toNat ++ bytesLE 4 w2.toNat) = .error x → I.fetch s = .trap v { cause := 0x01 })) ∧
      (¬(w.toNat / 2 ^ 26 = 0x3B ∧ w.toNat % 256 = 0) → ∀ x, decodeBytes (bytesLE 4 w.toNat) = .error x →
        I.fetch s = .trap u { cause := 0x01 }))

/-- R159, R177, R216, R220, R258, R315, R328: a step runs what its fetch decodes. (Rests on choices of the model: logs 1, 2, 24, 25.) -/
def Obligations.StepRunsDecoded : Prop := Claims.StepRuns ∧ Claims.Fetches

/-- R170, R176, R201, R239, R310, R326, R328: an instruction that is ILLEGAL where it is issued, and one that would read a poisoned register, takes its
trap before any effect: a privileged one outside a privileged context, one of a control core elsewhere, one that a control core, a trap handler or cue
mode refuses, and one whose fields or registers the encoding does not allow. (Rests on choices of the model: logs 22, 23.) -/
def Obligations.StopsBeforeEffect : Prop :=
  ∀ (i : Instr) (s : State) (I : Iss), encode i ≠ [] → s.issuer = some I →
    (illegal i s I = true → exec i s = .next (s.takeTrap { cause := 0x01 })) ∧
    (illegal i s I = false → poisonedLanes i I ≠ 0 → exec i s = .next (s.takeTrap { cause := 0x0D, lanes := poisonedLanes i I })) ∧
    (i.legal = false → illegal i s I = true) ∧
    ((∃ o, o ∈ i.reads ++ i.writes ∧ o.1 ≠ 0 ∧ I.crew.nregs ≤ physReg I.warp.run.wbase o.1 + o.2 - 1) → illegal i s I = true) ∧
    (privilegedOnly i = true → (s.ctx I.crew.ctx).priv = false → illegal i s I = true) ∧
    (controlOnly i = true → I.crew.kind ≠ .control → illegal i s I = true) ∧ (vectorOnly i = true → I.crew.kind = .control → illegal i s I = true) ∧
    (handlerIllegal i = true → I.crew.frames ≠ [] → illegal i s I = true) ∧
    (cueOnly i = true → I.crew.kind ≠ .cue → illegal i s I = true) ∧ (cueForbidden i = true → I.crew.kind = .cue → illegal i s I = true)

/-! ### The whole machine -/

/-- R11, R218: every step keeps the memories in canonical form, so that equal memories are equal data (the form is the model's). (Rests on choices of the
model: log 9.) -/
def Obligations.MemoryStaysCanonical : Prop :=
  ∀ s t : State, s.mem.Canonical → step s = .next t → t.mem.Canonical

/-- R29, R47, R76, R80, R83, R84: the machine after reset: no crew, no resident context, no key, no busy scrub job, every resource with the PF, the power
limit at 3200, and memory that reads as zero in canonical form (its content is the model's choice, but for DRAM, which R84 zeroes). (Rests on choices
of the model: logs 9, 10, 11.) -/
def Obligations.ResetState : Prop :=
  let s := State.reset
  s.mem.Canonical ∧ s.mem.dram = [] ∧ s.crews = [] ∧ s.keys = [] ∧ s.slotHeld = [] ∧ s.now = 0 ∧ s.power.plim = 3200 ∧ s.power.mshr = 16 ∧
  s.fabric.etype = 0x88B5 ∧ (∀ c, (s.ctx c).resident = false ∧ (s.ctx c).root = 0 ∧ s.funcOf c = 0) ∧ (∀ j, (s.job j).busy = false) ∧
  (∀ q, (s.queue q).func = 0 ∧ (s.queue q).cap = 64 ∧ (s.queue q).depth = 0) ∧ (∀ k, s.coreOwner k = 0) ∧
  (∀ f, (s.func f).dlsize = 0 ∧ (s.func f).dlhead = 0 ∧ (s.func f).dllost = 0 ∧ (s.func f).seq = 0 ∧ (s.func f).waiting = []) ∧
  ∀ cl, (s.pw cl).fenced = false ∧ (s.cluster cl).owner = none ∧ (s.cluster cl).mbx = []
end

