-- ==== Sys2Proof/Laws/Table.lean ====
section
/-! SUPPORT. Laws of tables and memories: reading after writing, and the canonical form that every write keeps. -/

namespace Sys2Proof.Machine

/-! ### Tables -/

@[simp] theorem Tbl.get_nil {α : Type} (d : α) (n : Nat) : Tbl.get d [] n = d := rfl
@[simp] theorem Tbl.find_nil {α : Type} (n : Nat) : Tbl.find (α := α) [] n = none := rfl

@[simp] theorem Tbl.get_set_self {α : Type} (d : α) (t : Tbl α) (n : Nat) (v : α) : (Tbl.set t n v).get d n = v := by
  induction t with
  | nil => simp [Tbl.set, Tbl.get]
  | cons x t ih =>
    obtain ⟨k, u⟩ := x
    simp only [Tbl.set]
    split
    · simp [Tbl.get]
    · split
      · simp [Tbl.get]
      · simp [Tbl.get, *]

theorem Tbl.get_set_ne {α : Type} (d : α) (t : Tbl α) {n m : Nat} (v : α) (h : m ≠ n) :
    (Tbl.set t n v).get d m = t.get d m := by
  induction t with
  | nil => simp [Tbl.set, Tbl.get, Ne.symm h]
  | cons x t ih =>
    obtain ⟨k, u⟩ := x
    simp only [Tbl.set]
    split
    · simp [Tbl.get, *, Ne.symm h]
    · split
      · simp only [Tbl.get, Ne.symm h, if_false]
        split <;> split <;> (try split) <;> first | rfl | omega
      · simp [Tbl.get, ih]

@[simp] theorem Tbl.find_set_self {α : Type} (t : Tbl α) (n : Nat) (v : α) : (Tbl.set t n v).find n = some v := by
  induction t with
  | nil => simp [Tbl.set, Tbl.find]
  | cons x t ih =>
    obtain ⟨k, u⟩ := x
    simp only [Tbl.set]
    split
    · simp [Tbl.find]
    · split
      · simp [Tbl.find]
      · simp [Tbl.find, *]

theorem Tbl.find_set_ne {α : Type} (t : Tbl α) {n m : Nat} (v : α) (h : m ≠ n) :
    (Tbl.set t n v).find m = t.find m := by
  induction t with
  | nil => simp [Tbl.set, Tbl.find, Ne.symm h]
  | cons x t ih =>
    obtain ⟨k, u⟩ := x
    simp only [Tbl.set]
    split
    · simp [Tbl.find, *, Ne.symm h]
    · split
      · simp only [Tbl.find, Ne.symm h, if_false]
        split <;> split <;> (try split) <;> first | rfl | omega
      · simp [Tbl.find, ih]

/-! ### Memories -/

@[simp] theorem Cells.get_nil (n : Nat) : Cells.get [] n = 0 := rfl

/-- Nothing is listed below the first key of a memory. -/
theorem Cells.get_below {k : Nat} {v : Byte} {t : Cells} {n : Nat} (hn : n < k) : Cells.get ((k, v) :: t) n = 0 := by
  simp only [Cells.get]
  split
  · omega
  · rfl

theorem Cells.get_set_self (m : Cells) (lo : Option Nat) (h : Cells.wfFrom lo m = true) (n : Nat) (v : Byte) :
    (m.set n v).get n = v := by
  induction m generalizing lo with
  | nil => simp only [Cells.set]; split <;> simp_all [Cells.get]
  | cons x t ih =>
    obtain ⟨k, u⟩ := x
    have ht : Cells.wfFrom (some k) t = true := by
      simp only [Cells.wfFrom, Bool.and_eq_true] at h; exact h.2
    simp only [Cells.set]
    split
    · split
      · subst k
        cases t with
        | nil => simp_all
        | cons y t =>
          obtain ⟨j, w⟩ := y
          have : n < j := by
            simp only [Cells.wfFrom, Bool.and_eq_true, decide_eq_true_eq] at ht; exact ht.1.1
          rw [Cells.get_below this]; simp_all
      · simp [Cells.get]
    · split
      · split
        · simp only [Cells.get]; simp_all
        · simp [Cells.get]
      · simp only [Cells.get]
        rename_i hk hlt
        simp [hk, hlt, ih _ ht]

theorem Cells.get_set_ne (m : Cells) (lo : Option Nat) (h : Cells.wfFrom lo m = true) {n a : Nat} (v : Byte) (ha : a ≠ n) :
    (m.set n v).get a = m.get a := by
  induction m generalizing lo with
  | nil => simp only [Cells.set]; split <;> simp [Cells.get, Ne.symm ha]
  | cons x t ih =>
    obtain ⟨k, u⟩ := x
    have ht : Cells.wfFrom (some k) t = true := by
      simp only [Cells.wfFrom, Bool.and_eq_true] at h; exact h.2
    simp only [Cells.set]
    split
    · rename_i hk
      subst hk
      split
      · simp only [Cells.get, Ne.symm ha, if_false]
        split
        · cases t with
          | nil => rfl
          | cons y t =>
            obtain ⟨j, w⟩ := y
            have : k < j := by
              simp only [Cells.wfFrom, Bool.and_eq_true, decide_eq_true_eq] at ht; exact ht.1.1
            exact Cells.get_below (by omega)
        · rfl
      · simp [Cells.get, Ne.symm ha]
    · split
      · split
        · rfl
        · simp only [Cells.get, Ne.symm ha, if_false]
          split <;> split <;> (try split) <;> first | rfl | omega
      · simp [Cells.get, ih _ ht]

/-- Writing a byte keeps the canonical form above any bound that the address exceeds. -/
theorem Cells.wfFrom_set (m : Cells) (lo : Option Nat) (h : Cells.wfFrom lo m = true) (n : Nat) (v : Byte)
    (hn : match lo with | none => True | some l => l < n) : Cells.wfFrom lo (m.set n v) = true := by
  induction m generalizing lo with
  | nil =>
    simp only [Cells.set]
    split
    · rfl
    · cases lo <;> simp_all [Cells.wfFrom]
  | cons x t ih =>
    obtain ⟨k, u⟩ := x
    have hd := h
    simp only [Cells.wfFrom, Bool.and_eq_true] at hd
    obtain ⟨⟨hlo, hu⟩, ht⟩ := hd
    simp only [Cells.set]
    split
    · rename_i hk
      subst hk
      split
      · cases t with
        | nil => rfl
        | cons y t =>
          obtain ⟨j, w⟩ := y
          simp only [Cells.wfFrom, Bool.and_eq_true, decide_eq_true_eq] at ht ⊢
          refine ⟨⟨?_, ht.1.2⟩, ht.2⟩
          cases lo with
          | none => rfl
          | some l => simp at hn ⊢; omega
      · simp_all [Cells.wfFrom]
    · split
      · split
        · exact h
        · simp only [Cells.wfFrom, Bool.and_eq_true, decide_eq_true_eq]
          refine ⟨⟨?_, by simp_all⟩, ⟨by omega, hu⟩, ht⟩
          cases lo <;> simp_all
      · simp only [Cells.wfFrom, Bool.and_eq_true]
        exact ⟨⟨hlo, hu⟩, ih _ ht (by simp; omega)⟩

theorem Cells.wf_set {m : Cells} (h : m.wf = true) (n : Nat) (v : Byte) : (m.set n v).wf = true :=
  Cells.wfFrom_set m none h n v trivial

theorem Cells.wf_write {m : Cells} (h : m.wf = true) (a : Nat) (bs : List Byte) : (m.write a bs).wf = true := by
  induction bs generalizing m a with
  | nil => exact h
  | cons b bs ih => exact ih (Cells.wf_set h a b) (a + 1)

/-- Removing cells keeps the canonical form. -/
theorem Cells.wfFrom_filter (m : Cells) (p : Host.Cell → Bool) (lo : Option Nat) (h : Cells.wfFrom lo m = true) :
    Cells.wfFrom lo (m.filter p) = true := by
  induction m generalizing lo with
  | nil => rfl
  | cons x t ih =>
    obtain ⟨k, u⟩ := x
    simp only [Cells.wfFrom, Bool.and_eq_true] at h
    obtain ⟨⟨hlo, hu⟩, ht⟩ := h
    simp only [List.filter]
    split
    · simp only [Cells.wfFrom, Bool.and_eq_true]
      exact ⟨⟨hlo, hu⟩, ih _ ht⟩
    · refine ih lo ?_
      cases t with
      | nil => rfl
      | cons y t =>
        obtain ⟨j, w⟩ := y
        simp only [Cells.wfFrom, Bool.and_eq_true, decide_eq_true_eq] at ht ⊢
        refine ⟨⟨?_, ht.1.2⟩, ht.2⟩
        cases lo <;> simp_all; omega

theorem Cells.wf_zero {m : Cells} (h : m.wf = true) (a n : Nat) : (m.zero a n).wf = true :=
  Cells.wfFrom_filter m _ none h

/-- A byte outside the written range is as before. -/
theorem Cells.get_write_outside {m : Cells} (h : m.wf = true) (a : Nat) (bs : List Byte) (x : Nat)
    (hx : x < a ∨ a + bs.length ≤ x) : (m.write a bs).get x = m.get x := by
  induction bs generalizing m a with
  | nil => rfl
  | cons b bs ih =>
    simp only [List.length_cons] at hx
    rw [Cells.write, ih (Cells.wf_set h a b) (a + 1) (by omega), Cells.get_set_ne m none h b (by omega)]

/-- A byte inside the written range is the byte written. -/
theorem Cells.get_write_inside {m : Cells} (h : m.wf = true) (a : Nat) (bs : List Byte) (i : Nat) (hi : i < bs.length) :
    (m.write a bs).get (a + i) = bs[i] := by
  induction bs generalizing m a i with
  | nil => simp at hi
  | cons b bs ih =>
    cases i with
    | zero =>
      rw [Nat.add_zero, Cells.write, Cells.get_write_outside (Cells.wf_set h a b) (a + 1) bs a (by omega)]
      exact Cells.get_set_self m none h a b
    | succ i =>
      rw [Cells.write]
      have := ih (Cells.wf_set h a b) (a + 1) i (by simpa using hi)
      rw [show a + (i + 1) = a + 1 + i by omega, this]
      simp

@[simp] theorem Cells.read_length (m : Cells) (a n : Nat) : (m.read a n).length = n := by
  induction n generalizing a with
  | zero => rfl
  | succ n ih => simp [Cells.read, ih]

end Sys2Proof.Machine
end

