-- ==== Sys2Proof/Laws/State.lean ====
section
/-! SUPPORT. One lemma per field per update of the state, true by unfolding, and what each update's own field then reads as. -/

namespace Sys2Proof.Machine

/-! ### `setCrew` -/

@[simp] theorem State.setCrew_agenda (s : State) (k : Nat) (x : Crew) : (s.setCrew k x).agenda = s.agenda := rfl
@[simp] theorem State.setCrew_focus (s : State) (k : Nat) (x : Crew) : (s.setCrew k x).focus = s.focus := rfl
@[simp] theorem State.setCrew_cur (s : State) (k : Nat) (x : Crew) : (s.setCrew k x).cur = s.cur := rfl
@[simp] theorem State.setCrew_inp (s : State) (k : Nat) (x : Crew) : (s.setCrew k x).inp = s.inp := rfl
@[simp] theorem State.setCrew_fresh (s : State) (k : Nat) (x : Crew) : (s.setCrew k x).fresh = s.fresh := rfl
@[simp] theorem State.setCrew_now (s : State) (k : Nat) (x : Crew) : (s.setCrew k x).now = s.now := rfl
@[simp] theorem State.setCrew_nextCrew (s : State) (k : Nat) (x : Crew) : (s.setCrew k x).nextCrew = s.nextCrew := rfl
@[simp] theorem State.setCrew_cores (s : State) (k : Nat) (x : Crew) : (s.setCrew k x).cores = s.cores := rfl
@[simp] theorem State.setCrew_clusters (s : State) (k : Nat) (x : Crew) : (s.setCrew k x).clusters = s.clusters := rfl
@[simp] theorem State.setCrew_mem (s : State) (k : Nat) (x : Crew) : (s.setCrew k x).mem = s.mem := rfl
@[simp] theorem State.setCrew_power (s : State) (k : Nat) (x : Crew) : (s.setCrew k x).power = s.power := rfl
@[simp] theorem State.setCrew_ctxs (s : State) (k : Nat) (x : Crew) : (s.setCrew k x).ctxs = s.ctxs := rfl
@[simp] theorem State.setCrew_slates (s : State) (k : Nat) (x : Crew) : (s.setCrew k x).slates = s.slates := rfl
@[simp] theorem State.setCrew_nextSlate (s : State) (k : Nat) (x : Crew) : (s.setCrew k x).nextSlate = s.nextSlate := rfl
@[simp] theorem State.setCrew_takes (s : State) (k : Nat) (x : Crew) : (s.setCrew k x).takes = s.takes := rfl
@[simp] theorem State.setCrew_nextTake (s : State) (k : Nat) (x : Crew) : (s.setCrew k x).nextTake = s.nextTake := rfl
@[simp] theorem State.setCrew_queues (s : State) (k : Nat) (x : Crew) : (s.setCrew k x).queues = s.queues := rfl
@[simp] theorem State.setCrew_funcs (s : State) (k : Nat) (x : Crew) : (s.setCrew k x).funcs = s.funcs := rfl
@[simp] theorem State.setCrew_coreFunc (s : State) (k : Nat) (x : Crew) : (s.setCrew k x).coreFunc = s.coreFunc := rfl
@[simp] theorem State.setCrew_slotFunc (s : State) (k : Nat) (x : Crew) : (s.setCrew k x).slotFunc = s.slotFunc := rfl
@[simp] theorem State.setCrew_slotHeld (s : State) (k : Nat) (x : Crew) : (s.setCrew k x).slotHeld = s.slotHeld := rfl
@[simp] theorem State.setCrew_zeroing (s : State) (k : Nat) (x : Crew) : (s.setCrew k x).zeroing = s.zeroing := rfl
@[simp] theorem State.setCrew_keyWords (s : State) (k : Nat) (x : Crew) : (s.setCrew k x).keyWords = s.keyWords := rfl
@[simp] theorem State.setCrew_kssel (s : State) (k : Nat) (x : Crew) : (s.setCrew k x).kssel = s.kssel := rfl
@[simp] theorem State.setCrew_ksdata (s : State) (k : Nat) (x : Crew) : (s.setCrew k x).ksdata = s.ksdata := rfl
@[simp] theorem State.setCrew_scrubs (s : State) (k : Nat) (x : Crew) : (s.setCrew k x).scrubs = s.scrubs := rfl
@[simp] theorem State.setCrew_scrubQueue (s : State) (k : Nat) (x : Crew) : (s.setCrew k x).scrubQueue = s.scrubQueue := rfl
@[simp] theorem State.setCrew_arbiters (s : State) (k : Nat) (x : Crew) : (s.setCrew k x).arbiters = s.arbiters := rfl
@[simp] theorem State.setCrew_vectors (s : State) (k : Nat) (x : Crew) : (s.setCrew k x).vectors = s.vectors := rfl
@[simp] theorem State.setCrew_migrations (s : State) (k : Nat) (x : Crew) : (s.setCrew k x).migrations = s.migrations := rfl
@[simp] theorem State.setCrew_bindings (s : State) (k : Nat) (x : Crew) : (s.setCrew k x).bindings = s.bindings := rfl
@[simp] theorem State.setCrew_copies (s : State) (k : Nat) (x : Crew) : (s.setCrew k x).copies = s.copies := rfl
@[simp] theorem State.setCrew_copySeq (s : State) (k : Nat) (x : Crew) : (s.setCrew k x).copySeq = s.copySeq := rfl
@[simp] theorem State.setCrew_gslots (s : State) (k : Nat) (x : Crew) : (s.setCrew k x).gslots = s.gslots := rfl
@[simp] theorem State.setCrew_fabric (s : State) (k : Nat) (x : Crew) : (s.setCrew k x).fabric = s.fabric := rfl
@[simp] theorem State.setCrew_records (s : State) (k : Nat) (x : Crew) : (s.setCrew k x).records = s.records := rfl
@[simp] theorem State.setCrew_ats (s : State) (k : Nat) (x : Crew) : (s.setCrew k x).ats = s.ats := rfl
@[simp] theorem State.setCrew_pri (s : State) (k : Nat) (x : Crew) : (s.setCrew k x).pri = s.pri := rfl
@[simp] theorem State.setCrew_priWaits (s : State) (k : Nat) (x : Crew) : (s.setCrew k x).priWaits = s.priWaits := rfl
@[simp] theorem State.setCrew_migrating (s : State) (k : Nat) (x : Crew) : (s.setCrew k x).migrating = s.migrating := rfl
@[simp] theorem State.setCrew_cxl (s : State) (k : Nat) (x : Crew) : (s.setCrew k x).cxl = s.cxl := rfl
@[simp] theorem State.setCrew_keys (s : State) (k : Nat) (x : Crew) : (s.setCrew k x).keys = s.keys := rfl

/-! ### `setCore` -/

@[simp] theorem State.setCore_agenda (s : State) (k : Nat) (x : CoreSt) : (s.setCore k x).agenda = s.agenda := rfl
@[simp] theorem State.setCore_focus (s : State) (k : Nat) (x : CoreSt) : (s.setCore k x).focus = s.focus := rfl
@[simp] theorem State.setCore_cur (s : State) (k : Nat) (x : CoreSt) : (s.setCore k x).cur = s.cur := rfl
@[simp] theorem State.setCore_inp (s : State) (k : Nat) (x : CoreSt) : (s.setCore k x).inp = s.inp := rfl
@[simp] theorem State.setCore_fresh (s : State) (k : Nat) (x : CoreSt) : (s.setCore k x).fresh = s.fresh := rfl
@[simp] theorem State.setCore_now (s : State) (k : Nat) (x : CoreSt) : (s.setCore k x).now = s.now := rfl
@[simp] theorem State.setCore_crews (s : State) (k : Nat) (x : CoreSt) : (s.setCore k x).crews = s.crews := rfl
@[simp] theorem State.setCore_nextCrew (s : State) (k : Nat) (x : CoreSt) : (s.setCore k x).nextCrew = s.nextCrew := rfl
@[simp] theorem State.setCore_clusters (s : State) (k : Nat) (x : CoreSt) : (s.setCore k x).clusters = s.clusters := rfl
@[simp] theorem State.setCore_mem (s : State) (k : Nat) (x : CoreSt) : (s.setCore k x).mem = s.mem := rfl
@[simp] theorem State.setCore_power (s : State) (k : Nat) (x : CoreSt) : (s.setCore k x).power = s.power := rfl
@[simp] theorem State.setCore_ctxs (s : State) (k : Nat) (x : CoreSt) : (s.setCore k x).ctxs = s.ctxs := rfl
@[simp] theorem State.setCore_slates (s : State) (k : Nat) (x : CoreSt) : (s.setCore k x).slates = s.slates := rfl
@[simp] theorem State.setCore_nextSlate (s : State) (k : Nat) (x : CoreSt) : (s.setCore k x).nextSlate = s.nextSlate := rfl
@[simp] theorem State.setCore_takes (s : State) (k : Nat) (x : CoreSt) : (s.setCore k x).takes = s.takes := rfl
@[simp] theorem State.setCore_nextTake (s : State) (k : Nat) (x : CoreSt) : (s.setCore k x).nextTake = s.nextTake := rfl
@[simp] theorem State.setCore_queues (s : State) (k : Nat) (x : CoreSt) : (s.setCore k x).queues = s.queues := rfl
@[simp] theorem State.setCore_funcs (s : State) (k : Nat) (x : CoreSt) : (s.setCore k x).funcs = s.funcs := rfl
@[simp] theorem State.setCore_coreFunc (s : State) (k : Nat) (x : CoreSt) : (s.setCore k x).coreFunc = s.coreFunc := rfl
@[simp] theorem State.setCore_slotFunc (s : State) (k : Nat) (x : CoreSt) : (s.setCore k x).slotFunc = s.slotFunc := rfl
@[simp] theorem State.setCore_slotHeld (s : State) (k : Nat) (x : CoreSt) : (s.setCore k x).slotHeld = s.slotHeld := rfl
@[simp] theorem State.setCore_zeroing (s : State) (k : Nat) (x : CoreSt) : (s.setCore k x).zeroing = s.zeroing := rfl
@[simp] theorem State.setCore_keyWords (s : State) (k : Nat) (x : CoreSt) : (s.setCore k x).keyWords = s.keyWords := rfl
@[simp] theorem State.setCore_kssel (s : State) (k : Nat) (x : CoreSt) : (s.setCore k x).kssel = s.kssel := rfl
@[simp] theorem State.setCore_ksdata (s : State) (k : Nat) (x : CoreSt) : (s.setCore k x).ksdata = s.ksdata := rfl
@[simp] theorem State.setCore_scrubs (s : State) (k : Nat) (x : CoreSt) : (s.setCore k x).scrubs = s.scrubs := rfl
@[simp] theorem State.setCore_scrubQueue (s : State) (k : Nat) (x : CoreSt) : (s.setCore k x).scrubQueue = s.scrubQueue := rfl
@[simp] theorem State.setCore_arbiters (s : State) (k : Nat) (x : CoreSt) : (s.setCore k x).arbiters = s.arbiters := rfl
@[simp] theorem State.setCore_vectors (s : State) (k : Nat) (x : CoreSt) : (s.setCore k x).vectors = s.vectors := rfl
@[simp] theorem State.setCore_migrations (s : State) (k : Nat) (x : CoreSt) : (s.setCore k x).migrations = s.migrations := rfl
@[simp] theorem State.setCore_bindings (s : State) (k : Nat) (x : CoreSt) : (s.setCore k x).bindings = s.bindings := rfl
@[simp] theorem State.setCore_copies (s : State) (k : Nat) (x : CoreSt) : (s.setCore k x).copies = s.copies := rfl
@[simp] theorem State.setCore_copySeq (s : State) (k : Nat) (x : CoreSt) : (s.setCore k x).copySeq = s.copySeq := rfl
@[simp] theorem State.setCore_gslots (s : State) (k : Nat) (x : CoreSt) : (s.setCore k x).gslots = s.gslots := rfl
@[simp] theorem State.setCore_fabric (s : State) (k : Nat) (x : CoreSt) : (s.setCore k x).fabric = s.fabric := rfl
@[simp] theorem State.setCore_records (s : State) (k : Nat) (x : CoreSt) : (s.setCore k x).records = s.records := rfl
@[simp] theorem State.setCore_ats (s : State) (k : Nat) (x : CoreSt) : (s.setCore k x).ats = s.ats := rfl
@[simp] theorem State.setCore_pri (s : State) (k : Nat) (x : CoreSt) : (s.setCore k x).pri = s.pri := rfl
@[simp] theorem State.setCore_priWaits (s : State) (k : Nat) (x : CoreSt) : (s.setCore k x).priWaits = s.priWaits := rfl
@[simp] theorem State.setCore_migrating (s : State) (k : Nat) (x : CoreSt) : (s.setCore k x).migrating = s.migrating := rfl
@[simp] theorem State.setCore_cxl (s : State) (k : Nat) (x : CoreSt) : (s.setCore k x).cxl = s.cxl := rfl
@[simp] theorem State.setCore_keys (s : State) (k : Nat) (x : CoreSt) : (s.setCore k x).keys = s.keys := rfl

/-! ### `updCore` -/

@[simp] theorem State.updCore_agenda (s : State) (k : Nat) (f : CoreSt → CoreSt) : (s.updCore k f).agenda = s.agenda := rfl
@[simp] theorem State.updCore_focus (s : State) (k : Nat) (f : CoreSt → CoreSt) : (s.updCore k f).focus = s.focus := rfl
@[simp] theorem State.updCore_cur (s : State) (k : Nat) (f : CoreSt → CoreSt) : (s.updCore k f).cur = s.cur := rfl
@[simp] theorem State.updCore_inp (s : State) (k : Nat) (f : CoreSt → CoreSt) : (s.updCore k f).inp = s.inp := rfl
@[simp] theorem State.updCore_fresh (s : State) (k : Nat) (f : CoreSt → CoreSt) : (s.updCore k f).fresh = s.fresh := rfl
@[simp] theorem State.updCore_now (s : State) (k : Nat) (f : CoreSt → CoreSt) : (s.updCore k f).now = s.now := rfl
@[simp] theorem State.updCore_crews (s : State) (k : Nat) (f : CoreSt → CoreSt) : (s.updCore k f).crews = s.crews := rfl
@[simp] theorem State.updCore_nextCrew (s : State) (k : Nat) (f : CoreSt → CoreSt) : (s.updCore k f).nextCrew = s.nextCrew := rfl
@[simp] theorem State.updCore_clusters (s : State) (k : Nat) (f : CoreSt → CoreSt) : (s.updCore k f).clusters = s.clusters := rfl
@[simp] theorem State.updCore_mem (s : State) (k : Nat) (f : CoreSt → CoreSt) : (s.updCore k f).mem = s.mem := rfl
@[simp] theorem State.updCore_power (s : State) (k : Nat) (f : CoreSt → CoreSt) : (s.updCore k f).power = s.power := rfl
@[simp] theorem State.updCore_ctxs (s : State) (k : Nat) (f : CoreSt → CoreSt) : (s.updCore k f).ctxs = s.ctxs := rfl
@[simp] theorem State.updCore_slates (s : State) (k : Nat) (f : CoreSt → CoreSt) : (s.updCore k f).slates = s.slates := rfl
@[simp] theorem State.updCore_nextSlate (s : State) (k : Nat) (f : CoreSt → CoreSt) : (s.updCore k f).nextSlate = s.nextSlate := rfl
@[simp] theorem State.updCore_takes (s : State) (k : Nat) (f : CoreSt → CoreSt) : (s.updCore k f).takes = s.takes := rfl
@[simp] theorem State.updCore_nextTake (s : State) (k : Nat) (f : CoreSt → CoreSt) : (s.updCore k f).nextTake = s.nextTake := rfl
@[simp] theorem State.updCore_queues (s : State) (k : Nat) (f : CoreSt → CoreSt) : (s.updCore k f).queues = s.queues := rfl
@[simp] theorem State.updCore_funcs (s : State) (k : Nat) (f : CoreSt → CoreSt) : (s.updCore k f).funcs = s.funcs := rfl
@[simp] theorem State.updCore_coreFunc (s : State) (k : Nat) (f : CoreSt → CoreSt) : (s.updCore k f).coreFunc = s.coreFunc := rfl
@[simp] theorem State.updCore_slotFunc (s : State) (k : Nat) (f : CoreSt → CoreSt) : (s.updCore k f).slotFunc = s.slotFunc := rfl
@[simp] theorem State.updCore_slotHeld (s : State) (k : Nat) (f : CoreSt → CoreSt) : (s.updCore k f).slotHeld = s.slotHeld := rfl
@[simp] theorem State.updCore_zeroing (s : State) (k : Nat) (f : CoreSt → CoreSt) : (s.updCore k f).zeroing = s.zeroing := rfl
@[simp] theorem State.updCore_keyWords (s : State) (k : Nat) (f : CoreSt → CoreSt) : (s.updCore k f).keyWords = s.keyWords := rfl
@[simp] theorem State.updCore_kssel (s : State) (k : Nat) (f : CoreSt → CoreSt) : (s.updCore k f).kssel = s.kssel := rfl
@[simp] theorem State.updCore_ksdata (s : State) (k : Nat) (f : CoreSt → CoreSt) : (s.updCore k f).ksdata = s.ksdata := rfl
@[simp] theorem State.updCore_scrubs (s : State) (k : Nat) (f : CoreSt → CoreSt) : (s.updCore k f).scrubs = s.scrubs := rfl
@[simp] theorem State.updCore_scrubQueue (s : State) (k : Nat) (f : CoreSt → CoreSt) : (s.updCore k f).scrubQueue = s.scrubQueue := rfl
@[simp] theorem State.updCore_arbiters (s : State) (k : Nat) (f : CoreSt → CoreSt) : (s.updCore k f).arbiters = s.arbiters := rfl
@[simp] theorem State.updCore_vectors (s : State) (k : Nat) (f : CoreSt → CoreSt) : (s.updCore k f).vectors = s.vectors := rfl
@[simp] theorem State.updCore_migrations (s : State) (k : Nat) (f : CoreSt → CoreSt) : (s.updCore k f).migrations = s.migrations := rfl
@[simp] theorem State.updCore_bindings (s : State) (k : Nat) (f : CoreSt → CoreSt) : (s.updCore k f).bindings = s.bindings := rfl
@[simp] theorem State.updCore_copies (s : State) (k : Nat) (f : CoreSt → CoreSt) : (s.updCore k f).copies = s.copies := rfl
@[simp] theorem State.updCore_copySeq (s : State) (k : Nat) (f : CoreSt → CoreSt) : (s.updCore k f).copySeq = s.copySeq := rfl
@[simp] theorem State.updCore_gslots (s : State) (k : Nat) (f : CoreSt → CoreSt) : (s.updCore k f).gslots = s.gslots := rfl
@[simp] theorem State.updCore_fabric (s : State) (k : Nat) (f : CoreSt → CoreSt) : (s.updCore k f).fabric = s.fabric := rfl
@[simp] theorem State.updCore_records (s : State) (k : Nat) (f : CoreSt → CoreSt) : (s.updCore k f).records = s.records := rfl
@[simp] theorem State.updCore_ats (s : State) (k : Nat) (f : CoreSt → CoreSt) : (s.updCore k f).ats = s.ats := rfl
@[simp] theorem State.updCore_pri (s : State) (k : Nat) (f : CoreSt → CoreSt) : (s.updCore k f).pri = s.pri := rfl
@[simp] theorem State.updCore_priWaits (s : State) (k : Nat) (f : CoreSt → CoreSt) : (s.updCore k f).priWaits = s.priWaits := rfl
@[simp] theorem State.updCore_migrating (s : State) (k : Nat) (f : CoreSt → CoreSt) : (s.updCore k f).migrating = s.migrating := rfl
@[simp] theorem State.updCore_cxl (s : State) (k : Nat) (f : CoreSt → CoreSt) : (s.updCore k f).cxl = s.cxl := rfl
@[simp] theorem State.updCore_keys (s : State) (k : Nat) (f : CoreSt → CoreSt) : (s.updCore k f).keys = s.keys := rfl

/-! ### `setCluster` -/

@[simp] theorem State.setCluster_agenda (s : State) (k : Nat) (x : ClusterSt) : (s.setCluster k x).agenda = s.agenda := rfl
@[simp] theorem State.setCluster_focus (s : State) (k : Nat) (x : ClusterSt) : (s.setCluster k x).focus = s.focus := rfl
@[simp] theorem State.setCluster_cur (s : State) (k : Nat) (x : ClusterSt) : (s.setCluster k x).cur = s.cur := rfl
@[simp] theorem State.setCluster_inp (s : State) (k : Nat) (x : ClusterSt) : (s.setCluster k x).inp = s.inp := rfl
@[simp] theorem State.setCluster_fresh (s : State) (k : Nat) (x : ClusterSt) : (s.setCluster k x).fresh = s.fresh := rfl
@[simp] theorem State.setCluster_now (s : State) (k : Nat) (x : ClusterSt) : (s.setCluster k x).now = s.now := rfl
@[simp] theorem State.setCluster_crews (s : State) (k : Nat) (x : ClusterSt) : (s.setCluster k x).crews = s.crews := rfl
@[simp] theorem State.setCluster_nextCrew (s : State) (k : Nat) (x : ClusterSt) : (s.setCluster k x).nextCrew = s.nextCrew := rfl
@[simp] theorem State.setCluster_cores (s : State) (k : Nat) (x : ClusterSt) : (s.setCluster k x).cores = s.cores := rfl
@[simp] theorem State.setCluster_mem (s : State) (k : Nat) (x : ClusterSt) : (s.setCluster k x).mem = s.mem := rfl
@[simp] theorem State.setCluster_power (s : State) (k : Nat) (x : ClusterSt) : (s.setCluster k x).power = s.power := rfl
@[simp] theorem State.setCluster_ctxs (s : State) (k : Nat) (x : ClusterSt) : (s.setCluster k x).ctxs = s.ctxs := rfl
@[simp] theorem State.setCluster_slates (s : State) (k : Nat) (x : ClusterSt) : (s.setCluster k x).slates = s.slates := rfl
@[simp] theorem State.setCluster_nextSlate (s : State) (k : Nat) (x : ClusterSt) : (s.setCluster k x).nextSlate = s.nextSlate := rfl
@[simp] theorem State.setCluster_takes (s : State) (k : Nat) (x : ClusterSt) : (s.setCluster k x).takes = s.takes := rfl
@[simp] theorem State.setCluster_nextTake (s : State) (k : Nat) (x : ClusterSt) : (s.setCluster k x).nextTake = s.nextTake := rfl
@[simp] theorem State.setCluster_queues (s : State) (k : Nat) (x : ClusterSt) : (s.setCluster k x).queues = s.queues := rfl
@[simp] theorem State.setCluster_funcs (s : State) (k : Nat) (x : ClusterSt) : (s.setCluster k x).funcs = s.funcs := rfl
@[simp] theorem State.setCluster_coreFunc (s : State) (k : Nat) (x : ClusterSt) : (s.setCluster k x).coreFunc = s.coreFunc := rfl
@[simp] theorem State.setCluster_slotFunc (s : State) (k : Nat) (x : ClusterSt) : (s.setCluster k x).slotFunc = s.slotFunc := rfl
@[simp] theorem State.setCluster_slotHeld (s : State) (k : Nat) (x : ClusterSt) : (s.setCluster k x).slotHeld = s.slotHeld := rfl
@[simp] theorem State.setCluster_zeroing (s : State) (k : Nat) (x : ClusterSt) : (s.setCluster k x).zeroing = s.zeroing := rfl
@[simp] theorem State.setCluster_keyWords (s : State) (k : Nat) (x : ClusterSt) : (s.setCluster k x).keyWords = s.keyWords := rfl
@[simp] theorem State.setCluster_kssel (s : State) (k : Nat) (x : ClusterSt) : (s.setCluster k x).kssel = s.kssel := rfl
@[simp] theorem State.setCluster_ksdata (s : State) (k : Nat) (x : ClusterSt) : (s.setCluster k x).ksdata = s.ksdata := rfl
@[simp] theorem State.setCluster_scrubs (s : State) (k : Nat) (x : ClusterSt) : (s.setCluster k x).scrubs = s.scrubs := rfl
@[simp] theorem State.setCluster_scrubQueue (s : State) (k : Nat) (x : ClusterSt) : (s.setCluster k x).scrubQueue = s.scrubQueue := rfl
@[simp] theorem State.setCluster_arbiters (s : State) (k : Nat) (x : ClusterSt) : (s.setCluster k x).arbiters = s.arbiters := rfl
@[simp] theorem State.setCluster_vectors (s : State) (k : Nat) (x : ClusterSt) : (s.setCluster k x).vectors = s.vectors := rfl
@[simp] theorem State.setCluster_migrations (s : State) (k : Nat) (x : ClusterSt) : (s.setCluster k x).migrations = s.migrations := rfl
@[simp] theorem State.setCluster_bindings (s : State) (k : Nat) (x : ClusterSt) : (s.setCluster k x).bindings = s.bindings := rfl
@[simp] theorem State.setCluster_copies (s : State) (k : Nat) (x : ClusterSt) : (s.setCluster k x).copies = s.copies := rfl
@[simp] theorem State.setCluster_copySeq (s : State) (k : Nat) (x : ClusterSt) : (s.setCluster k x).copySeq = s.copySeq := rfl
@[simp] theorem State.setCluster_gslots (s : State) (k : Nat) (x : ClusterSt) : (s.setCluster k x).gslots = s.gslots := rfl
@[simp] theorem State.setCluster_fabric (s : State) (k : Nat) (x : ClusterSt) : (s.setCluster k x).fabric = s.fabric := rfl
@[simp] theorem State.setCluster_records (s : State) (k : Nat) (x : ClusterSt) : (s.setCluster k x).records = s.records := rfl
@[simp] theorem State.setCluster_ats (s : State) (k : Nat) (x : ClusterSt) : (s.setCluster k x).ats = s.ats := rfl
@[simp] theorem State.setCluster_pri (s : State) (k : Nat) (x : ClusterSt) : (s.setCluster k x).pri = s.pri := rfl
@[simp] theorem State.setCluster_priWaits (s : State) (k : Nat) (x : ClusterSt) : (s.setCluster k x).priWaits = s.priWaits := rfl
@[simp] theorem State.setCluster_migrating (s : State) (k : Nat) (x : ClusterSt) : (s.setCluster k x).migrating = s.migrating := rfl
@[simp] theorem State.setCluster_cxl (s : State) (k : Nat) (x : ClusterSt) : (s.setCluster k x).cxl = s.cxl := rfl
@[simp] theorem State.setCluster_keys (s : State) (k : Nat) (x : ClusterSt) : (s.setCluster k x).keys = s.keys := rfl

/-! ### `updCluster` -/

@[simp] theorem State.updCluster_agenda (s : State) (k : Nat) (f : ClusterSt → ClusterSt) : (s.updCluster k f).agenda = s.agenda := rfl
@[simp] theorem State.updCluster_focus (s : State) (k : Nat) (f : ClusterSt → ClusterSt) : (s.updCluster k f).focus = s.focus := rfl
@[simp] theorem State.updCluster_cur (s : State) (k : Nat) (f : ClusterSt → ClusterSt) : (s.updCluster k f).cur = s.cur := rfl
@[simp] theorem State.updCluster_inp (s : State) (k : Nat) (f : ClusterSt → ClusterSt) : (s.updCluster k f).inp = s.inp := rfl
@[simp] theorem State.updCluster_fresh (s : State) (k : Nat) (f : ClusterSt → ClusterSt) : (s.updCluster k f).fresh = s.fresh := rfl
@[simp] theorem State.updCluster_now (s : State) (k : Nat) (f : ClusterSt → ClusterSt) : (s.updCluster k f).now = s.now := rfl
@[simp] theorem State.updCluster_crews (s : State) (k : Nat) (f : ClusterSt → ClusterSt) : (s.updCluster k f).crews = s.crews := rfl
@[simp] theorem State.updCluster_nextCrew (s : State) (k : Nat) (f : ClusterSt → ClusterSt) : (s.updCluster k f).nextCrew = s.nextCrew := rfl
@[simp] theorem State.updCluster_cores (s : State) (k : Nat) (f : ClusterSt → ClusterSt) : (s.updCluster k f).cores = s.cores := rfl
@[simp] theorem State.updCluster_mem (s : State) (k : Nat) (f : ClusterSt → ClusterSt) : (s.updCluster k f).mem = s.mem := rfl
@[simp] theorem State.updCluster_power (s : State) (k : Nat) (f : ClusterSt → ClusterSt) : (s.updCluster k f).power = s.power := rfl
@[simp] theorem State.updCluster_ctxs (s : State) (k : Nat) (f : ClusterSt → ClusterSt) : (s.updCluster k f).ctxs = s.ctxs := rfl
@[simp] theorem State.updCluster_slates (s : State) (k : Nat) (f : ClusterSt → ClusterSt) : (s.updCluster k f).slates = s.slates := rfl
@[simp] theorem State.updCluster_nextSlate (s : State) (k : Nat) (f : ClusterSt → ClusterSt) : (s.updCluster k f).nextSlate = s.nextSlate := rfl
@[simp] theorem State.updCluster_takes (s : State) (k : Nat) (f : ClusterSt → ClusterSt) : (s.updCluster k f).takes = s.takes := rfl
@[simp] theorem State.updCluster_nextTake (s : State) (k : Nat) (f : ClusterSt → ClusterSt) : (s.updCluster k f).nextTake = s.nextTake := rfl
@[simp] theorem State.updCluster_queues (s : State) (k : Nat) (f : ClusterSt → ClusterSt) : (s.updCluster k f).queues = s.queues := rfl
@[simp] theorem State.updCluster_funcs (s : State) (k : Nat) (f : ClusterSt → ClusterSt) : (s.updCluster k f).funcs = s.funcs := rfl
@[simp] theorem State.updCluster_coreFunc (s : State) (k : Nat) (f : ClusterSt → ClusterSt) : (s.updCluster k f).coreFunc = s.coreFunc := rfl
@[simp] theorem State.updCluster_slotFunc (s : State) (k : Nat) (f : ClusterSt → ClusterSt) : (s.updCluster k f).slotFunc = s.slotFunc := rfl
@[simp] theorem State.updCluster_slotHeld (s : State) (k : Nat) (f : ClusterSt → ClusterSt) : (s.updCluster k f).slotHeld = s.slotHeld := rfl
@[simp] theorem State.updCluster_zeroing (s : State) (k : Nat) (f : ClusterSt → ClusterSt) : (s.updCluster k f).zeroing = s.zeroing := rfl
@[simp] theorem State.updCluster_keyWords (s : State) (k : Nat) (f : ClusterSt → ClusterSt) : (s.updCluster k f).keyWords = s.keyWords := rfl
@[simp] theorem State.updCluster_kssel (s : State) (k : Nat) (f : ClusterSt → ClusterSt) : (s.updCluster k f).kssel = s.kssel := rfl
@[simp] theorem State.updCluster_ksdata (s : State) (k : Nat) (f : ClusterSt → ClusterSt) : (s.updCluster k f).ksdata = s.ksdata := rfl
@[simp] theorem State.updCluster_scrubs (s : State) (k : Nat) (f : ClusterSt → ClusterSt) : (s.updCluster k f).scrubs = s.scrubs := rfl
@[simp] theorem State.updCluster_scrubQueue (s : State) (k : Nat) (f : ClusterSt → ClusterSt) : (s.updCluster k f).scrubQueue = s.scrubQueue := rfl
@[simp] theorem State.updCluster_arbiters (s : State) (k : Nat) (f : ClusterSt → ClusterSt) : (s.updCluster k f).arbiters = s.arbiters := rfl
@[simp] theorem State.updCluster_vectors (s : State) (k : Nat) (f : ClusterSt → ClusterSt) : (s.updCluster k f).vectors = s.vectors := rfl
@[simp] theorem State.updCluster_migrations (s : State) (k : Nat) (f : ClusterSt → ClusterSt) : (s.updCluster k f).migrations = s.migrations := rfl
@[simp] theorem State.updCluster_bindings (s : State) (k : Nat) (f : ClusterSt → ClusterSt) : (s.updCluster k f).bindings = s.bindings := rfl
@[simp] theorem State.updCluster_copies (s : State) (k : Nat) (f : ClusterSt → ClusterSt) : (s.updCluster k f).copies = s.copies := rfl
@[simp] theorem State.updCluster_copySeq (s : State) (k : Nat) (f : ClusterSt → ClusterSt) : (s.updCluster k f).copySeq = s.copySeq := rfl
@[simp] theorem State.updCluster_gslots (s : State) (k : Nat) (f : ClusterSt → ClusterSt) : (s.updCluster k f).gslots = s.gslots := rfl
@[simp] theorem State.updCluster_fabric (s : State) (k : Nat) (f : ClusterSt → ClusterSt) : (s.updCluster k f).fabric = s.fabric := rfl
@[simp] theorem State.updCluster_records (s : State) (k : Nat) (f : ClusterSt → ClusterSt) : (s.updCluster k f).records = s.records := rfl
@[simp] theorem State.updCluster_ats (s : State) (k : Nat) (f : ClusterSt → ClusterSt) : (s.updCluster k f).ats = s.ats := rfl
@[simp] theorem State.updCluster_pri (s : State) (k : Nat) (f : ClusterSt → ClusterSt) : (s.updCluster k f).pri = s.pri := rfl
@[simp] theorem State.updCluster_priWaits (s : State) (k : Nat) (f : ClusterSt → ClusterSt) : (s.updCluster k f).priWaits = s.priWaits := rfl
@[simp] theorem State.updCluster_migrating (s : State) (k : Nat) (f : ClusterSt → ClusterSt) : (s.updCluster k f).migrating = s.migrating := rfl
@[simp] theorem State.updCluster_cxl (s : State) (k : Nat) (f : ClusterSt → ClusterSt) : (s.updCluster k f).cxl = s.cxl := rfl
@[simp] theorem State.updCluster_keys (s : State) (k : Nat) (f : ClusterSt → ClusterSt) : (s.updCluster k f).keys = s.keys := rfl

/-! ### `updCtx` -/

@[simp] theorem State.updCtx_agenda (s : State) (k : Nat) (f : Ctx → Ctx) : (s.updCtx k f).agenda = s.agenda := rfl
@[simp] theorem State.updCtx_focus (s : State) (k : Nat) (f : Ctx → Ctx) : (s.updCtx k f).focus = s.focus := rfl
@[simp] theorem State.updCtx_cur (s : State) (k : Nat) (f : Ctx → Ctx) : (s.updCtx k f).cur = s.cur := rfl
@[simp] theorem State.updCtx_inp (s : State) (k : Nat) (f : Ctx → Ctx) : (s.updCtx k f).inp = s.inp := rfl
@[simp] theorem State.updCtx_fresh (s : State) (k : Nat) (f : Ctx → Ctx) : (s.updCtx k f).fresh = s.fresh := rfl
@[simp] theorem State.updCtx_now (s : State) (k : Nat) (f : Ctx → Ctx) : (s.updCtx k f).now = s.now := rfl
@[simp] theorem State.updCtx_crews (s : State) (k : Nat) (f : Ctx → Ctx) : (s.updCtx k f).crews = s.crews := rfl
@[simp] theorem State.updCtx_nextCrew (s : State) (k : Nat) (f : Ctx → Ctx) : (s.updCtx k f).nextCrew = s.nextCrew := rfl
@[simp] theorem State.updCtx_cores (s : State) (k : Nat) (f : Ctx → Ctx) : (s.updCtx k f).cores = s.cores := rfl
@[simp] theorem State.updCtx_clusters (s : State) (k : Nat) (f : Ctx → Ctx) : (s.updCtx k f).clusters = s.clusters := rfl
@[simp] theorem State.updCtx_mem (s : State) (k : Nat) (f : Ctx → Ctx) : (s.updCtx k f).mem = s.mem := rfl
@[simp] theorem State.updCtx_power (s : State) (k : Nat) (f : Ctx → Ctx) : (s.updCtx k f).power = s.power := rfl
@[simp] theorem State.updCtx_slates (s : State) (k : Nat) (f : Ctx → Ctx) : (s.updCtx k f).slates = s.slates := rfl
@[simp] theorem State.updCtx_nextSlate (s : State) (k : Nat) (f : Ctx → Ctx) : (s.updCtx k f).nextSlate = s.nextSlate := rfl
@[simp] theorem State.updCtx_takes (s : State) (k : Nat) (f : Ctx → Ctx) : (s.updCtx k f).takes = s.takes := rfl
@[simp] theorem State.updCtx_nextTake (s : State) (k : Nat) (f : Ctx → Ctx) : (s.updCtx k f).nextTake = s.nextTake := rfl
@[simp] theorem State.updCtx_queues (s : State) (k : Nat) (f : Ctx → Ctx) : (s.updCtx k f).queues = s.queues := rfl
@[simp] theorem State.updCtx_funcs (s : State) (k : Nat) (f : Ctx → Ctx) : (s.updCtx k f).funcs = s.funcs := rfl
@[simp] theorem State.updCtx_coreFunc (s : State) (k : Nat) (f : Ctx → Ctx) : (s.updCtx k f).coreFunc = s.coreFunc := rfl
@[simp] theorem State.updCtx_slotFunc (s : State) (k : Nat) (f : Ctx → Ctx) : (s.updCtx k f).slotFunc = s.slotFunc := rfl
@[simp] theorem State.updCtx_slotHeld (s : State) (k : Nat) (f : Ctx → Ctx) : (s.updCtx k f).slotHeld = s.slotHeld := rfl
@[simp] theorem State.updCtx_zeroing (s : State) (k : Nat) (f : Ctx → Ctx) : (s.updCtx k f).zeroing = s.zeroing := rfl
@[simp] theorem State.updCtx_keyWords (s : State) (k : Nat) (f : Ctx → Ctx) : (s.updCtx k f).keyWords = s.keyWords := rfl
@[simp] theorem State.updCtx_kssel (s : State) (k : Nat) (f : Ctx → Ctx) : (s.updCtx k f).kssel = s.kssel := rfl
@[simp] theorem State.updCtx_ksdata (s : State) (k : Nat) (f : Ctx → Ctx) : (s.updCtx k f).ksdata = s.ksdata := rfl
@[simp] theorem State.updCtx_scrubs (s : State) (k : Nat) (f : Ctx → Ctx) : (s.updCtx k f).scrubs = s.scrubs := rfl
@[simp] theorem State.updCtx_scrubQueue (s : State) (k : Nat) (f : Ctx → Ctx) : (s.updCtx k f).scrubQueue = s.scrubQueue := rfl
@[simp] theorem State.updCtx_arbiters (s : State) (k : Nat) (f : Ctx → Ctx) : (s.updCtx k f).arbiters = s.arbiters := rfl
@[simp] theorem State.updCtx_vectors (s : State) (k : Nat) (f : Ctx → Ctx) : (s.updCtx k f).vectors = s.vectors := rfl
@[simp] theorem State.updCtx_migrations (s : State) (k : Nat) (f : Ctx → Ctx) : (s.updCtx k f).migrations = s.migrations := rfl
@[simp] theorem State.updCtx_bindings (s : State) (k : Nat) (f : Ctx → Ctx) : (s.updCtx k f).bindings = s.bindings := rfl
@[simp] theorem State.updCtx_copies (s : State) (k : Nat) (f : Ctx → Ctx) : (s.updCtx k f).copies = s.copies := rfl
@[simp] theorem State.updCtx_copySeq (s : State) (k : Nat) (f : Ctx → Ctx) : (s.updCtx k f).copySeq = s.copySeq := rfl
@[simp] theorem State.updCtx_gslots (s : State) (k : Nat) (f : Ctx → Ctx) : (s.updCtx k f).gslots = s.gslots := rfl
@[simp] theorem State.updCtx_fabric (s : State) (k : Nat) (f : Ctx → Ctx) : (s.updCtx k f).fabric = s.fabric := rfl
@[simp] theorem State.updCtx_records (s : State) (k : Nat) (f : Ctx → Ctx) : (s.updCtx k f).records = s.records := rfl
@[simp] theorem State.updCtx_ats (s : State) (k : Nat) (f : Ctx → Ctx) : (s.updCtx k f).ats = s.ats := rfl
@[simp] theorem State.updCtx_pri (s : State) (k : Nat) (f : Ctx → Ctx) : (s.updCtx k f).pri = s.pri := rfl
@[simp] theorem State.updCtx_priWaits (s : State) (k : Nat) (f : Ctx → Ctx) : (s.updCtx k f).priWaits = s.priWaits := rfl
@[simp] theorem State.updCtx_migrating (s : State) (k : Nat) (f : Ctx → Ctx) : (s.updCtx k f).migrating = s.migrating := rfl
@[simp] theorem State.updCtx_cxl (s : State) (k : Nat) (f : Ctx → Ctx) : (s.updCtx k f).cxl = s.cxl := rfl
@[simp] theorem State.updCtx_keys (s : State) (k : Nat) (f : Ctx → Ctx) : (s.updCtx k f).keys = s.keys := rfl

/-! ### `updMem` -/

@[simp] theorem State.updMem_agenda (s : State) (f : MemSt → MemSt) : (s.updMem f).agenda = s.agenda := rfl
@[simp] theorem State.updMem_focus (s : State) (f : MemSt → MemSt) : (s.updMem f).focus = s.focus := rfl
@[simp] theorem State.updMem_cur (s : State) (f : MemSt → MemSt) : (s.updMem f).cur = s.cur := rfl
@[simp] theorem State.updMem_inp (s : State) (f : MemSt → MemSt) : (s.updMem f).inp = s.inp := rfl
@[simp] theorem State.updMem_fresh (s : State) (f : MemSt → MemSt) : (s.updMem f).fresh = s.fresh := rfl
@[simp] theorem State.updMem_now (s : State) (f : MemSt → MemSt) : (s.updMem f).now = s.now := rfl
@[simp] theorem State.updMem_crews (s : State) (f : MemSt → MemSt) : (s.updMem f).crews = s.crews := rfl
@[simp] theorem State.updMem_nextCrew (s : State) (f : MemSt → MemSt) : (s.updMem f).nextCrew = s.nextCrew := rfl
@[simp] theorem State.updMem_cores (s : State) (f : MemSt → MemSt) : (s.updMem f).cores = s.cores := rfl
@[simp] theorem State.updMem_clusters (s : State) (f : MemSt → MemSt) : (s.updMem f).clusters = s.clusters := rfl
@[simp] theorem State.updMem_power (s : State) (f : MemSt → MemSt) : (s.updMem f).power = s.power := rfl
@[simp] theorem State.updMem_ctxs (s : State) (f : MemSt → MemSt) : (s.updMem f).ctxs = s.ctxs := rfl
@[simp] theorem State.updMem_slates (s : State) (f : MemSt → MemSt) : (s.updMem f).slates = s.slates := rfl
@[simp] theorem State.updMem_nextSlate (s : State) (f : MemSt → MemSt) : (s.updMem f).nextSlate = s.nextSlate := rfl
@[simp] theorem State.updMem_takes (s : State) (f : MemSt → MemSt) : (s.updMem f).takes = s.takes := rfl
@[simp] theorem State.updMem_nextTake (s : State) (f : MemSt → MemSt) : (s.updMem f).nextTake = s.nextTake := rfl
@[simp] theorem State.updMem_queues (s : State) (f : MemSt → MemSt) : (s.updMem f).queues = s.queues := rfl
@[simp] theorem State.updMem_funcs (s : State) (f : MemSt → MemSt) : (s.updMem f).funcs = s.funcs := rfl
@[simp] theorem State.updMem_coreFunc (s : State) (f : MemSt → MemSt) : (s.updMem f).coreFunc = s.coreFunc := rfl
@[simp] theorem State.updMem_slotFunc (s : State) (f : MemSt → MemSt) : (s.updMem f).slotFunc = s.slotFunc := rfl
@[simp] theorem State.updMem_slotHeld (s : State) (f : MemSt → MemSt) : (s.updMem f).slotHeld = s.slotHeld := rfl
@[simp] theorem State.updMem_zeroing (s : State) (f : MemSt → MemSt) : (s.updMem f).zeroing = s.zeroing := rfl
@[simp] theorem State.updMem_keyWords (s : State) (f : MemSt → MemSt) : (s.updMem f).keyWords = s.keyWords := rfl
@[simp] theorem State.updMem_kssel (s : State) (f : MemSt → MemSt) : (s.updMem f).kssel = s.kssel := rfl
@[simp] theorem State.updMem_ksdata (s : State) (f : MemSt → MemSt) : (s.updMem f).ksdata = s.ksdata := rfl
@[simp] theorem State.updMem_scrubs (s : State) (f : MemSt → MemSt) : (s.updMem f).scrubs = s.scrubs := rfl
@[simp] theorem State.updMem_scrubQueue (s : State) (f : MemSt → MemSt) : (s.updMem f).scrubQueue = s.scrubQueue := rfl
@[simp] theorem State.updMem_arbiters (s : State) (f : MemSt → MemSt) : (s.updMem f).arbiters = s.arbiters := rfl
@[simp] theorem State.updMem_vectors (s : State) (f : MemSt → MemSt) : (s.updMem f).vectors = s.vectors := rfl
@[simp] theorem State.updMem_migrations (s : State) (f : MemSt → MemSt) : (s.updMem f).migrations = s.migrations := rfl
@[simp] theorem State.updMem_bindings (s : State) (f : MemSt → MemSt) : (s.updMem f).bindings = s.bindings := rfl
@[simp] theorem State.updMem_copies (s : State) (f : MemSt → MemSt) : (s.updMem f).copies = s.copies := rfl
@[simp] theorem State.updMem_copySeq (s : State) (f : MemSt → MemSt) : (s.updMem f).copySeq = s.copySeq := rfl
@[simp] theorem State.updMem_gslots (s : State) (f : MemSt → MemSt) : (s.updMem f).gslots = s.gslots := rfl
@[simp] theorem State.updMem_fabric (s : State) (f : MemSt → MemSt) : (s.updMem f).fabric = s.fabric := rfl
@[simp] theorem State.updMem_records (s : State) (f : MemSt → MemSt) : (s.updMem f).records = s.records := rfl
@[simp] theorem State.updMem_ats (s : State) (f : MemSt → MemSt) : (s.updMem f).ats = s.ats := rfl
@[simp] theorem State.updMem_pri (s : State) (f : MemSt → MemSt) : (s.updMem f).pri = s.pri := rfl
@[simp] theorem State.updMem_priWaits (s : State) (f : MemSt → MemSt) : (s.updMem f).priWaits = s.priWaits := rfl
@[simp] theorem State.updMem_migrating (s : State) (f : MemSt → MemSt) : (s.updMem f).migrating = s.migrating := rfl
@[simp] theorem State.updMem_cxl (s : State) (f : MemSt → MemSt) : (s.updMem f).cxl = s.cxl := rfl
@[simp] theorem State.updMem_keys (s : State) (f : MemSt → MemSt) : (s.updMem f).keys = s.keys := rfl

/-! ### `nextFree` -/

@[simp] theorem State.nextFree_agenda (s : State) : (s.nextFree).agenda = s.agenda := rfl
@[simp] theorem State.nextFree_focus (s : State) : (s.nextFree).focus = s.focus := rfl
@[simp] theorem State.nextFree_cur (s : State) : (s.nextFree).cur = s.cur := rfl
@[simp] theorem State.nextFree_inp (s : State) : (s.nextFree).inp = s.inp := rfl
@[simp] theorem State.nextFree_now (s : State) : (s.nextFree).now = s.now := rfl
@[simp] theorem State.nextFree_crews (s : State) : (s.nextFree).crews = s.crews := rfl
@[simp] theorem State.nextFree_nextCrew (s : State) : (s.nextFree).nextCrew = s.nextCrew := rfl
@[simp] theorem State.nextFree_cores (s : State) : (s.nextFree).cores = s.cores := rfl
@[simp] theorem State.nextFree_clusters (s : State) : (s.nextFree).clusters = s.clusters := rfl
@[simp] theorem State.nextFree_mem (s : State) : (s.nextFree).mem = s.mem := rfl
@[simp] theorem State.nextFree_power (s : State) : (s.nextFree).power = s.power := rfl
@[simp] theorem State.nextFree_ctxs (s : State) : (s.nextFree).ctxs = s.ctxs := rfl
@[simp] theorem State.nextFree_slates (s : State) : (s.nextFree).slates = s.slates := rfl
@[simp] theorem State.nextFree_nextSlate (s : State) : (s.nextFree).nextSlate = s.nextSlate := rfl
@[simp] theorem State.nextFree_takes (s : State) : (s.nextFree).takes = s.takes := rfl
@[simp] theorem State.nextFree_nextTake (s : State) : (s.nextFree).nextTake = s.nextTake := rfl
@[simp] theorem State.nextFree_queues (s : State) : (s.nextFree).queues = s.queues := rfl
@[simp] theorem State.nextFree_funcs (s : State) : (s.nextFree).funcs = s.funcs := rfl
@[simp] theorem State.nextFree_coreFunc (s : State) : (s.nextFree).coreFunc = s.coreFunc := rfl
@[simp] theorem State.nextFree_slotFunc (s : State) : (s.nextFree).slotFunc = s.slotFunc := rfl
@[simp] theorem State.nextFree_slotHeld (s : State) : (s.nextFree).slotHeld = s.slotHeld := rfl
@[simp] theorem State.nextFree_zeroing (s : State) : (s.nextFree).zeroing = s.zeroing := rfl
@[simp] theorem State.nextFree_keyWords (s : State) : (s.nextFree).keyWords = s.keyWords := rfl
@[simp] theorem State.nextFree_kssel (s : State) : (s.nextFree).kssel = s.kssel := rfl
@[simp] theorem State.nextFree_ksdata (s : State) : (s.nextFree).ksdata = s.ksdata := rfl
@[simp] theorem State.nextFree_scrubs (s : State) : (s.nextFree).scrubs = s.scrubs := rfl
@[simp] theorem State.nextFree_scrubQueue (s : State) : (s.nextFree).scrubQueue = s.scrubQueue := rfl
@[simp] theorem State.nextFree_arbiters (s : State) : (s.nextFree).arbiters = s.arbiters := rfl
@[simp] theorem State.nextFree_vectors (s : State) : (s.nextFree).vectors = s.vectors := rfl
@[simp] theorem State.nextFree_migrations (s : State) : (s.nextFree).migrations = s.migrations := rfl
@[simp] theorem State.nextFree_bindings (s : State) : (s.nextFree).bindings = s.bindings := rfl
@[simp] theorem State.nextFree_copies (s : State) : (s.nextFree).copies = s.copies := rfl
@[simp] theorem State.nextFree_copySeq (s : State) : (s.nextFree).copySeq = s.copySeq := rfl
@[simp] theorem State.nextFree_gslots (s : State) : (s.nextFree).gslots = s.gslots := rfl
@[simp] theorem State.nextFree_fabric (s : State) : (s.nextFree).fabric = s.fabric := rfl
@[simp] theorem State.nextFree_records (s : State) : (s.nextFree).records = s.records := rfl
@[simp] theorem State.nextFree_ats (s : State) : (s.nextFree).ats = s.ats := rfl
@[simp] theorem State.nextFree_pri (s : State) : (s.nextFree).pri = s.pri := rfl
@[simp] theorem State.nextFree_priWaits (s : State) : (s.nextFree).priWaits = s.priWaits := rfl
@[simp] theorem State.nextFree_migrating (s : State) : (s.nextFree).migrating = s.migrating := rfl
@[simp] theorem State.nextFree_cxl (s : State) : (s.nextFree).cxl = s.cxl := rfl
@[simp] theorem State.nextFree_keys (s : State) : (s.nextFree).keys = s.keys := rfl

/-! ### The field that an update writes -/

@[simp] theorem State.crew_setCrew_self (s : State) (k : Nat) (x : Crew) : (s.setCrew k x).crew k = some x := by
  simp [State.crew, State.setCrew]
theorem State.crew_setCrew_ne (s : State) {k j : Nat} (x : Crew) (h : j ≠ k) : (s.setCrew k x).crew j = s.crew j := by
  simp [State.crew, State.setCrew, Tbl.find_set_ne _ _ h]
@[simp] theorem State.core_updCore_self (s : State) (k : Nat) (f : CoreSt → CoreSt) : (s.updCore k f).core k = f (s.core k) := by
  simp [State.core, State.updCore, State.setCore]
theorem State.core_updCore_ne (s : State) {k j : Nat} (f : CoreSt → CoreSt) (h : j ≠ k) : (s.updCore k f).core j = s.core j := by
  simp [State.core, State.updCore, State.setCore, Tbl.get_set_ne _ _ _ h]
@[simp] theorem State.cluster_updCluster_self (s : State) (k : Nat) (f : ClusterSt → ClusterSt) :
    (s.updCluster k f).cluster k = f (s.cluster k) := by
  simp [State.cluster, State.updCluster, State.setCluster]
theorem State.cluster_updCluster_ne (s : State) {k j : Nat} (f : ClusterSt → ClusterSt) (h : j ≠ k) :
    (s.updCluster k f).cluster j = s.cluster j := by
  simp [State.cluster, State.updCluster, State.setCluster, Tbl.get_set_ne _ _ _ h]
@[simp] theorem State.ctx_updCtx_self (s : State) (k : Nat) (f : Ctx → Ctx) : (s.updCtx k f).ctx k = f (s.ctx k) := by
  simp [State.ctx, State.updCtx]
theorem State.ctx_updCtx_ne (s : State) {k j : Nat} (f : Ctx → Ctx) (h : j ≠ k) : (s.updCtx k f).ctx j = s.ctx j := by
  simp [State.ctx, State.updCtx, Tbl.get_set_ne _ _ _ h]
@[simp] theorem State.mem_updMem (s : State) (f : MemSt → MemSt) : (s.updMem f).mem = f s.mem := rfl
@[simp] theorem State.fresh_nextFree (s : State) : s.nextFree.fresh = s.fresh + 1 := rfl

/-! ### The issuer -/

/-- The issuer that a state names is that crew and that warp of it. -/
theorem State.issuer_eq_some {s : State} {I : Iss} (h : s.issuer = some I) :
    s.cur = some (I.cid, I.wid) ∧ s.crew I.cid = some I.crew ∧ I.crew.warps.find I.wid = some I.warp := by
  unfold State.issuer at h
  split at h
  · cases h
  · split at h
    · cases h
    · split at h
      · cases h
      · injection h with h
        subst h
        exact ⟨by assumption, by assumption, by assumption⟩

/-- After the issuer is put back it is the issuer, with its crew and warp as they were put. -/
theorem Iss.issuer_put {s : State} (I : Iss) (h : s.cur = some (I.cid, I.wid)) :
    (I.put s).issuer = some { I with crew := { I.crew with warps := I.crew.warps.set I.wid I.warp } } := by
  simp [State.issuer, Iss.put, h]

@[simp] theorem Iss.put_crew_self (I : Iss) (s : State) :
    (I.put s).crew I.cid = some { I.crew with warps := I.crew.warps.set I.wid I.warp } := by
  simp [Iss.put]

end Sys2Proof.Machine
end

