-- ==== Sys2Proof/Laws/Registers.lean ====
section
/-! SUPPORT. What writing a register, several registers or a mask does, once for every instruction that writes one. -/

namespace Sys2Proof.Machine

/-! ### Lanes -/

theorem mem_laneList {m : BitVec 32} {l : Nat} : l ∈ laneList m ↔ l < 32 ∧ m.getLsbD l = true := by
  simp [laneList]

/-- The lowest lane of a mask that holds one is a lane of it. -/
theorem lowest_mem {m : BitVec 32} {l : Nat} (hl : l < 32) (h : m.getLsbD l = true) :
    lowest m < 32 ∧ m.getLsbD (lowest m) = true := by
  have hm : l ∈ laneList m := mem_laneList.2 ⟨hl, h⟩
  have : lowest m ∈ laneList m := by
    unfold lowest
    cases hx : laneList m with
    | nil => simp [hx] at hm
    | cons a t => simp
  exact mem_laneList.1 this

/-- A thread's lane that a full write covers. -/
theorem lane_of_full {th e : BitVec 32} (h : th &&& ~~~e = 0) {l : Nat} (hl : l < 32) (ht : th.getLsbD l = true) :
    e.getLsbD l = true := by
  have := congrArg (fun x => BitVec.getLsbD x l) h
  simp [ht, hl] at this
  exact this

/-! ### Register numbers -/

theorem regPlus_toNat {d : BitVec 7} {k : Nat} (hd : d ≠ 0) (h : d.toNat + k ≤ 127) : (regPlus d k).toNat = d.toNat + k := by
  simp only [regPlus, if_neg hd, BitVec.toNat_add, BitVec.toNat_ofNat]
  omega

theorem regPlus_ne_zero {d : BitVec 7} {k : Nat} (hd : d ≠ 0) (h : d.toNat + k ≤ 127) : regPlus d k ≠ 0 := by
  intro hz
  have h0 := regPlus_toNat hd h
  rw [hz] at h0
  have : d.toNat ≠ 0 := fun h => hd (BitVec.eq_of_toNat_eq (by simpa using h))
  simp at h0
  omega

theorem physReg_regPlus {wb : BitVec 5} {d : BitVec 7} {k : Nat} (hd : d ≠ 0) (h : d.toNat + k ≤ 127) :
    physReg wb (regPlus d k) = physReg wb d + k := by
  simp [physReg, regPlus_toNat hd h, Nat.add_assoc]

@[simp] theorem regPlus_zero_left (k : Nat) : regPlus 0 k = 0 := by simp [regPlus]

/-! ### One register -/

/-- A tag that says of the lanes of a mask what a function gives there. -/
def Tag.Fits (t : Tag) (w : Warp) (e : BitVec 32) (f : Nat → Word) : Prop :=
  match t with
  | .uni => ∀ l m, l < 32 → m < 32 → e.getLsbD l = true → e.getLsbD m = true → f l = f m
  | .aff b st => ∀ l, l < 32 → e.getLsbD l = true → f l = b + st * BitVec.ofNat 32 (w.index l)
  | .gen => True

/-- Everything that writing one register does. -/
theorem Warp.setReg_spec (w : Warp) (ctl : Bool) (n : BitVec 7) (e : BitVec 32) (zero : Bool) (t : Tag) (f : Nat → Word)
    (ht : t.Fits w e f) :
    (w.setReg ctl n e zero t f).sameButRegs w
    ∧ (n ≠ 0 → ∀ l, l < 32 → e.getLsbD l = true → (ctl = true → l = 0) → (w.setReg ctl n e zero t f).lane n l = f l)
    ∧ (ctl = false → ∀ l, l < 32 → e.getLsbD l = false → w.threads.getLsbD l = true →
        (w.setReg ctl n e zero t f).lane n l = if zero && w.m0.getLsbD l then 0 else w.lane n l)
    ∧ (ctl = true → e.getLsbD 0 = false → (w.setReg ctl n e zero t f).regs = w.regs)
    ∧ (∀ r, (n ≠ 0 → r ≠ physReg w.run.wbase n) → (w.setReg ctl n e zero t f).regs.get (.uniform 0) r = w.regs.get (.uniform 0) r) := by
  by_cases hn : n = 0
  · subst hn
    exact ⟨⟨_, _, rfl⟩, by simp, by simp [Warp.lane, Warp.reg, VReg.at], fun _ _ => rfl, fun _ _ => rfl⟩
  have lane_set (v : VReg) (q : Tbl (BitVec 32)) (l : Nat) :
      ({ w with regs := w.regs.set (physReg w.run.wbase n) v, poison := q } : Warp).lane n l = v.at (w.index l) l := by
    simp only [Warp.lane, Warp.reg, if_neg hn, Tbl.get_set_self, Warp.index]
  have at_general (g : Nat → Word) (i l : Nat) (hl : l < 32) : (VReg.general ((List.range 32).map g)).at i l = g l := by
    simp [VReg.at, hl]
  cases ctl with
  | true =>
    by_cases he : e.getLsbD 0 = true
    · have hw : w.setReg true n e zero t f =
          { w with regs := w.regs.set (physReg w.run.wbase n) (.uniform (f 0)), poison := w.poison.del (physReg w.run.wbase n) } := by
        simp only [Warp.setReg, if_neg hn, he, if_true]
      rw [hw]
      refine ⟨⟨_, _, rfl⟩, fun _ l _ _ h0 => ?_, by simp, fun _ h => (by rw [he] at h; cases h), fun r hr => Tbl.get_set_ne _ _ _ (hr hn)⟩
      have h0 : l = 0 := h0 rfl
      subst h0
      rw [lane_set]
      rfl
    · have hw : w.setReg true n e zero t f = w := by simp only [Warp.setReg, if_neg hn, he, if_true, Bool.false_eq_true, if_false]
      rw [hw]
      refine ⟨⟨_, _, rfl⟩, fun _ l _ hl h0 => ?_, by simp, fun _ _ => rfl, fun r _ => rfl⟩
      have h0 : l = 0 := h0 rfl
      subst h0
      exact absurd hl he
  | false =>
    have hw : ∃ v q, w.setReg false n e zero t f =
          { w with regs := w.regs.set (physReg w.run.wbase n) v, poison := q }
        ∧ (∀ l, l < 32 → e.getLsbD l = true → v.at (w.index l) l = f l)
        ∧ (∀ l, l < 32 → e.getLsbD l = false → w.threads.getLsbD l = true →
            v.at (w.index l) l = if zero && w.m0.getLsbD l then 0 else w.lane n l) := by
      simp only [Warp.setReg, if_neg hn, Bool.false_eq_true, if_false]
      refine ⟨_, _, rfl, ?_, ?_⟩
      · intro l hl hel
        split
        · cases t with
          | uni => exact ht _ _ (lowest_mem hl hel).1 hl (lowest_mem hl hel).2 hel
          | aff b st => exact (ht l hl hel).symm
          | gen => rw [at_general _ _ _ hl, if_pos hel]
        · rw [at_general _ _ _ hl, if_pos hel]
      · intro l hl hel hth
        have hfull : ¬ (w.threads &&& ~~~e = 0) := fun h => by
          rw [lane_of_full h hl hth] at hel; cases hel
        rw [if_neg hfull, at_general _ _ _ hl, if_neg (by rw [hel]; simp)]
        rfl
    obtain ⟨v, q, hw, hin, hout⟩ := hw
    rw [hw]
    refine ⟨⟨_, _, rfl⟩, fun _ l hl hel _ => ?_, fun _ l hl hel hth => ?_, by simp, fun r hr => Tbl.get_set_ne _ _ _ (hr hn)⟩
    · rw [lane_set]; exact hin l hl hel
    · rw [lane_set]; exact hout l hl hel hth

/-! ### Several registers -/

theorem Warp.sameButRegs_trans {u v w : Warp} (h : w.sameButRegs v) (h' : v.sameButRegs u) : w.sameButRegs u := by
  obtain ⟨_, _, rfl⟩ := h
  obtain ⟨_, _, rfl⟩ := h'
  exact ⟨_, _, rfl⟩

theorem Warp.lane_congr {v w : Warp} (h : w.sameButRegs v) (n : BitVec 7) (l : Nat)
    (hr : n ≠ 0 → w.regs.get (.uniform 0) (physReg v.run.wbase n) = v.regs.get (.uniform 0) (physReg v.run.wbase n)) :
    w.lane n l = v.lane n l := by
  obtain ⟨_, _, rfl⟩ := h
  by_cases hn : n = 0
  · simp [Warp.lane, Warp.reg, hn, VReg.at]
  · simp only [Warp.lane, Warp.reg, if_neg hn, Warp.index, hr hn]

/-- Everything that writing several registers in a row does. -/
theorem Warp.setRegs_spec (w : Warp) (ctl : Bool) (d : BitVec 7) (p : Option Pfx) (tags : Nat → Tag) (f : Nat → Nat) (cnt : Nat)
    (hend : d ≠ 0 → d.toNat + cnt ≤ 128)
    (ht : ∀ k, k < cnt → (tags k).Fits w (w.eff p) fun l => BitVec.ofNat 32 (f l >>> (32 * k))) :
    w.Written (w.setRegs ctl d (w.eff p) (zeroing p) tags f cnt) ctl p d cnt f := by
  induction cnt with
  | zero =>
    refine ⟨⟨_, _, rfl⟩, ?_, by simp, fun _ _ => rfl, fun _ _ => rfl⟩
    intro _ l _ _ _
    simp [Warp.laneNat, Nat.mod_one]
  | succ cnt ih =>
    have ih := ih (fun h => by have := hend h; omega) (fun k hk => ht k (by omega))
    generalize hv : w.setRegs ctl d (w.eff p) (zeroing p) tags f cnt = v at ih
    have hsame := ih.same
    have hthreads : v.threads = w.threads := by obtain ⟨_, _, h⟩ := hsame; rw [h]; rfl
    have hm0 : v.m0 = w.m0 := by obtain ⟨_, _, h⟩ := hsame; rw [h]; rfl
    have hwb : v.run.wbase = w.run.wbase := by obtain ⟨_, _, h⟩ := hsame; rw [h]
    have hfit : (tags cnt).Fits v (w.eff p) fun l => BitVec.ofNat 32 (f l >>> (32 * cnt)) := by
      have := ht cnt (by omega)
      cases htag : tags cnt with
      | uni => rw [htag] at this; exact this
      | gen => trivial
      | aff b st =>
        rw [htag] at this
        intro l hl he
        rw [this l hl he]
        obtain ⟨_, _, h⟩ := hsame
        rw [h]
        rfl
    have sp := Warp.setReg_spec v ctl (regPlus d cnt) (w.eff p) (zeroing p) (tags cnt)
      (fun l => BitVec.ofNat 32 (f l >>> (32 * cnt))) hfit
    simp only [Warp.setRegs, hv]
    generalize hu : v.setReg ctl (regPlus d cnt) (w.eff p) (zeroing p) (tags cnt)
      (fun l => BitVec.ofNat 32 (f l >>> (32 * cnt))) = u at sp
    obtain ⟨usame, uval, uout, usup, uoth⟩ := sp
    have keep : d ≠ 0 → ∀ k, k < cnt → ∀ l, u.lane (regPlus d k) l = v.lane (regPlus d k) l := by
      intro hd k hk l
      have := hend hd
      refine Warp.lane_congr usame _ _ fun _ => uoth _ fun _ => ?_
      rw [physReg_regPlus hd (by omega), physReg_regPlus hd (by omega)]
      omega
    refine ⟨Warp.sameButRegs_trans usame hsame, ?_, ?_, ?_, ?_⟩
    · intro hd l hl he hc
      have hdd := hend hd
      have hlow : u.laneNat d l cnt = v.laneNat d l cnt := by
        have : ∀ j, j ≤ cnt → u.laneNat d l j = v.laneNat d l j := by
          intro j
          induction j with
          | zero => simp [Warp.laneNat]
          | succ j ihj => intro hj; simp only [Warp.laneNat]; rw [ihj (by omega), keep hd j (by omega) l]
        exact this cnt (Nat.le_refl _)
      simp only [Warp.laneNat]
      rw [hlow, ih.value hd l hl he hc, uval (regPlus_ne_zero hd (by omega)) l hl he hc]
      simp only [BitVec.toNat_ofNat, Nat.shiftRight_eq_div_pow]
      rw [show 32 * (cnt + 1) = 32 * cnt + 32 by omega, Nat.pow_add, Nat.mod_mul]
    · intro hc l hl he hth k hk
      by_cases hk' : k = cnt
      · subst hk'
        have := uout hc l hl he (by rw [hthreads]; exact hth)
        rw [this, hm0]
        split
        · rfl
        · by_cases hd : d = 0
          · rw [hd, regPlus_zero_left]; rfl
          · have hdd := hend hd
            refine Warp.lane_congr hsame _ _ fun _ => ih.others _ fun j hj _ => ?_
            rw [physReg_regPlus hd (by omega)]
            omega
      · by_cases hd : d = 0
        · rw [hd, regPlus_zero_left]
          show (0 : Word) = if _ then 0 else 0
          simp
        · rw [keep hd k (by omega) l]
          exact ih.outside hc l hl he hth k (by omega)
    · intro hc he
      rw [usup hc he, ih.suppressed hc he]
    · intro r hr
      rw [uoth r, ih.others r fun k hk hd => hr k (by omega) hd]
      intro hne
      have hd : d ≠ 0 := fun h => hne (by rw [h]; exact regPlus_zero_left cnt)
      have hdd := hend hd
      rw [physReg_regPlus hd (by omega), hwb]
      exact hr cnt (by omega) hd

/-! ### Results of instructions -/

/-- A tag that fits every register of a result. -/
def Tag.FitsAll (t : Tag) (w : Warp) (e : BitVec 32) (f : Nat → Nat) : Prop :=
  match t with
  | .uni => ∀ l m, l < 32 → m < 32 → e.getLsbD l = true → e.getLsbD m = true → f l = f m
  | .aff b st => ∀ l, l < 32 → e.getLsbD l = true → BitVec.ofNat 32 (f l) = b + st * BitVec.ofNat 32 (w.index l)
  | .gen => True

theorem hiTag_fits (w : Warp) (e : BitVec 32) (f : Nat → Nat) (k : Nat) :
    (hiTag e f k).Fits w e fun l => BitVec.ofNat 32 (f l >>> (32 * k)) := by
  unfold hiTag
  simp only
  split
  · rename_i h
    intro l m hl hm hel hem
    have key : ∀ j, j < 32 → e.getLsbD j = true →
        bits (f j) (32 * k) 32 = ((laneList e).map fun l => bits (f l) (32 * k) 32).headD 0 := by
      intro j hj hej
      have := List.all_eq_true.1 h (bits (f j) (32 * k) 32)
        (List.mem_map.2 ⟨j, mem_laneList.2 ⟨hj, hej⟩, rfl⟩)
      simpa using this
    have := (key l hl hel).trans (key m hm hem).symm
    apply BitVec.eq_of_toNat_eq
    simpa [bits] using this
  · trivial

theorem tagsOf_fits {t : Tag} {w : Warp} {e : BitVec 32} {cnt : Nat} {f : Nat → Nat} (h : t.FitsAll w e f) (k : Nat) :
    (tagsOf t cnt e f k).Fits w e fun l => BitVec.ofNat 32 (f l >>> (32 * k)) := by
  unfold tagsOf
  split
  · subst k
    cases t with
    | uni => intro l m hl hm hel hem; simp [h l m hl hm hel hem]
    | aff b st => intro l hl hel; simpa using h l hl hel
    | gen => trivial
  · split
    · exact hiTag_fits w e f k
    · cases t with
      | uni => intro l m hl hm hel hem; simp [h l m hl hm hel hem]
      | aff b st => trivial
      | gen => trivial

/-- A register result, written by the operation that every lane-wise instruction shares. -/
theorem Iss.writeD_spec (I : Iss) (s : State) (p : Option Pfx) (d : BitVec 7) (cnt : Nat) (t : Tag) (f : Nat → Nat) (fl : Flags)
    (hend : d ≠ 0 → d.toNat + cnt ≤ 128) (ht : t.FitsAll I.warp (I.warp.eff p) f) :
    WritesReg I s (I.writeD s p d cnt t f fl) p d cnt f fl :=
  ⟨_, Warp.setRegs_spec I.warp I.ctl d p _ f cnt hend fun k _ => tagsOf_fits ht k, rfl⟩

/-- A mask result. -/
theorem Iss.writeM_spec (I : Iss) (s : State) (p : Option Pfx) (k : BitVec 4) (vals : BitVec 32) (fl : Flags) :
    WritesMask I s (I.writeM s p k vals fl) p k.toNat vals.getLsbD fl := by
  refine ⟨_, rfl, ?_, ?_, ?_, ?_⟩
  · simp only [Warp.setMask]; split <;> rfl
  · intro j hj
    simp only [Warp.setMask]
    split
    · rfl
    · next hk =>
      have hk : k.toNat ≠ 0 := fun h0 => hk (by simp [h0])
      exact Tbl.get_set_ne _ _ _ (by omega)
  · intro hc he
    have : (k.toNat = 0 || (I.ctl && !(I.warp.eff p).getLsbD 0)) = true := by simp only [hc, he]; simp
    simp only [Warp.setMask, if_pos this]
  · intro hk hc l hl
    have hs : ¬(k.toNat = 0 || (I.ctl && !(I.warp.eff p).getLsbD 0)) = true := by
      cases hct : I.ctl
      · simpa using hk
      · simpa [hc hct] using hk
    simp only [Warp.setMask, if_neg hs, Tbl.get_set_self]
    rw [BitVec.getLsbD_or, BitVec.getLsbD_and, BitVec.getLsbD_and, BitVec.getLsbD_not]
    generalize I.warp.eff p = e
    cases zeroing p <;> cases he : e.getLsbD l <;>
      simp only [BitVec.getLsbD_and, BitVec.getLsbD_not, he, hl, Bool.false_eq_true, if_true, if_false] <;> simp

theorem laneBit_getLsbD : ∀ n, n < 32 → ∀ l, l < 32 → (laneBit n).getLsbD l = decide (l = n) := by decide

/-- A bit of a mask made from a test. -/
@[simp] theorem maskOf_getLsbD (f : Nat → Bool) {l : Nat} (hl : l < 32) : (maskOf f).getLsbD l = f l := by
  have key : ∀ n, n ≤ 32 → ((List.range n).foldl (fun a i => if f i then a ||| laneBit i else a) (0 : BitVec 32)).getLsbD l
      = (decide (l < n) && f l) := by
    intro n
    induction n with
    | zero => intro _; simp
    | succ n ih =>
      intro hn
      have ih := ih (by omega)
      have hb := laneBit_getLsbD n (by omega) l hl
      rw [List.range_succ, List.foldl_append, List.foldl_cons, List.foldl_nil]
      generalize (List.range n).foldl (fun a i => if f i then a ||| laneBit i else a) (0 : BitVec 32) = m at ih
      by_cases hln : l = n
      · subst hln
        cases hf : f l
        · simp only [hf] at ih
          simpa using ih
        · rw [if_pos rfl, BitVec.getLsbD_or, hb]
          simp
      · have : decide (l < n + 1) = decide (l < n) := decide_eq_decide.2 (by omega)
        rw [this, ← ih]
        split
        · rw [BitVec.getLsbD_or, hb]
          simp [hln]
        · rfl
  have := key 32 (Nat.le_refl _)
  simp only [hl, decide_true, Bool.true_and] at this
  exact this

end Sys2Proof.Machine
end

