-- ==== Sys2Proof/Laws/Exec.lean ====
section
/-! SUPPORT. What executing an instruction on an issuer comes to, once for every meaning of an instruction word, and the tags
of results of uniform sources. -/

namespace Sys2Proof.Machine

/-- A meaning whose own effect is a next state answers it. -/
theorem runInstr_ok {i : Instr} {s : State} {I : Iss} {f : Iss → Eff} {t : State} (h : Runs i s I) (hf : f I = .ok t) :
    runInstr i s f = .next t := by
  simp [runInstr, h.issuer, h.legal, h.clean, hf]

/-- A meaning that raises a trap takes it. -/
theorem runInstr_trap {i : Instr} {s t : State} {I : Iss} {f : Iss → Eff} {x : TrapInfo} (h : Runs i s I)
    (hf : f I = .error (t, x)) : runInstr i s f = .next (t.takeTrap x) := by
  simp [runInstr, h.issuer, h.legal, h.clean, hf]

/-- An instruction that runs names no multi-register destination that passes `v127` (R310). -/
theorem Runs.end_of_writes {i : Instr} {s : State} {I : Iss} (h : Runs i s I) {d : BitVec 7} {n : Nat}
    (hw : (d, n) ∈ i.writes) (hd : d ≠ 0) : d.toNat + n ≤ 128 := by
  have hl := h.legal
  simp only [illegal, Bool.or_eq_false_iff, Bool.not_eq_false', Instr.legal, Bool.and_eq_true, Bool.not_eq_true'] at hl
  have hall := hl.1.1.1.1.1.1.1.2
  rw [List.any_eq_false] at hall
  have := hall (d, n) (List.mem_append_right _ hw)
  simp only [passesEnd, bne_iff_ne, ne_eq, hd, not_false_eq_true, Bool.and_eq_true, decide_eq_true_eq, true_and] at this
  omega

/-! ### Uniform sources -/

theorem Warp.lane_uniform {w : Warp} {n : BitVec 7} (h : (w.reg n).isUni = true) (l m : Nat) : w.lane n l = w.lane n m := by
  unfold Warp.lane
  cases hr : w.reg n <;> simp_all [VReg.isUni, VReg.at]

theorem Warp.laneNat_uniform {w : Warp} {n : BitVec 7} {cnt : Nat} (h : (w.regsOf n cnt).all VReg.isUni = true) (l m : Nat) :
    w.laneNat n l cnt = w.laneNat n m cnt := by
  simp only [Warp.regsOf, List.all_map, List.all_eq_true, List.mem_range, Function.comp] at h
  induction cnt with
  | zero => rfl
  | succ cnt ih =>
    simp only [Warp.laneNat]
    rw [ih fun k hk => h k (by omega), Warp.lane_uniform (h cnt (by omega)) l m]

/-- A tag by the general rows fits a value that depends on its sources alone. -/
theorem uniOrGen_fits {vs : List VReg} {w : Warp} {e : BitVec 32} {f : Nat → Nat}
    (h : vs.all VReg.isUni = true → ∀ l m, f l = f m) : (uniOrGen vs).FitsAll w e f := by
  unfold uniOrGen
  split
  · rename_i ha
    exact fun l m _ _ _ _ => h ha l m
  · trivial

theorem tag1_fits {I : Iss} {a : BitVec 7} {cnt : Nat} {e : BitVec 32} {f : Nat → Nat} (g : Nat → Nat)
    (h : ∀ l, f l = g (I.warp.laneNat a l cnt)) : (I.tag1 a cnt).FitsAll I.warp e f :=
  uniOrGen_fits fun ha l m => by rw [h, h, Warp.laneNat_uniform ha l m]

theorem tag2_fits {I : Iss} {a b : BitVec 7} {cnt : Nat} {e : BitVec 32} {f : Nat → Nat} (g : Nat → Nat → Nat)
    (h : ∀ l, f l = g (I.warp.laneNat a l cnt) (I.warp.laneNat b l cnt)) : (I.tag2 a b cnt).FitsAll I.warp e f :=
  uniOrGen_fits fun ha l m => by
    simp only [List.all_append, Bool.and_eq_true] at ha
    rw [h, h, Warp.laneNat_uniform ha.1 l m, Warp.laneNat_uniform ha.2 l m]

/-! ### Elements -/

theorem packElems_div (w : Nat) (xs : List Nat) (j : Nat) (hj : j < xs.length) :
    packElems w xs / 2 ^ (w * j) % 2 ^ w = xs[j] % 2 ^ w := by
  induction xs generalizing j with
  | nil => simp at hj
  | cons x xs ih =>
    cases j with
    | zero => simp [packElems, Nat.add_mul_mod_self_left]
    | succ j =>
      have := ih j (by simpa using hj)
      simp only [packElems, List.getElem_cons_succ]
      rw [← this, Nat.mul_succ, Nat.add_comm (w * j), Nat.pow_add, ← Nat.div_div_eq_div_mul,
        Nat.add_mul_div_left _ _ (Nat.two_pow_pos w), Nat.div_eq_of_lt (Nat.mod_lt _ (Nat.two_pow_pos w)), Nat.zero_add]

/-- An element of a value put together from elements. -/
theorem elemOf_packElems (w : Nat) (xs : List Nat) (j : Nat) (hj : j < xs.length) :
    elemOf w (packElems w xs) j = BitVec.ofNat w xs[j] := by
  apply BitVec.eq_of_toNat_eq
  simpa [elemOf, Nat.shiftRight_eq_div_pow] using packElems_div w xs j hj

/-- An element of an element-wise result. -/
theorem elemOf_elemwise (w tot : Nat) (f : Nat → Nat → Nat) (x y j : Nat) (hj : j < tot / w) :
    elemOf w (elemwise w tot f x y) j = BitVec.ofNat w (f (elemOf w x j).toNat (elemOf w y j).toNat) := by
  unfold elemwise
  rw [elemOf_packElems w _ j (by simp [elems, hj])]
  simp [elems, elemOf, bits]

end Sys2Proof.Machine
end

