-- ==== Sys2Proof/Laws/Dispatch.lean ====
section
/-! SUPPORT. What `exec` is of each constructor: its meaning. -/

namespace Sys2Proof.Machine

@[simp] theorem exec_eq_cwrQcfg (a : BitVec 7) (s : State) :
    exec (.cwrQcfg a) s = execCwrQcfg a s := rfl
@[simp] theorem exec_eq_cwrTkill (a : BitVec 7) (s : State) :
    exec (.cwrTkill a) s = execCwrTkill a s := rfl
@[simp] theorem exec_eq_cwrArv (a : BitVec 7) (n : BitVec 5) (s : State) :
    exec (.cwrArv a n) s = execCwrArv a n s := rfl
@[simp] theorem exec_eq_bra (o : BitVec 20) (s : State) :
    exec (.bra o) s = execBra o s := rfl
@[simp] theorem exec_eq_call (o : BitVec 20) (s : State) :
    exec (.call o) s = execCall o s := rfl
@[simp] theorem exec_eq_trap (c : BitVec 16) (s : State) :
    exec (.trap c) s = execTrap c s := rfl
@[simp] theorem exec_eq_brx (m : BitVec 4) (o : BitVec 20) (s : State) :
    exec (.brx m o) s = execBrx m o s := rfl
@[simp] theorem exec_eq_brxAny (m : BitVec 4) (o : BitVec 20) (s : State) :
    exec (.brxAny m o) s = execBrxAny m o s := rfl
@[simp] theorem exec_eq_brxAll (m : BitVec 4) (o : BitVec 20) (s : State) :
    exec (.brxAll m o) s = execBrxAll m o s := rfl
@[simp] theorem exec_eq_brn (m : BitVec 4) (o : BitVec 20) (s : State) :
    exec (.brn m o) s = execBrn m o s := rfl
@[simp] theorem exec_eq_brnAny (m : BitVec 4) (o : BitVec 20) (s : State) :
    exec (.brnAny m o) s = execBrnAny m o s := rfl
@[simp] theorem exec_eq_brnAll (m : BitVec 4) (o : BitVec 20) (s : State) :
    exec (.brnAll m o) s = execBrnAll m o s := rfl
@[simp] theorem exec_eq_brd (m : BitVec 4) (o : BitVec 20) (s : State) :
    exec (.brd m o) s = execBrd m o s := rfl
@[simp] theorem exec_eq_brl (d : BitVec 7) (o : BitVec 19) (s : State) :
    exec (.brl d o) s = execBrl d o s := rfl
@[simp] theorem exec_eq_loop (d : BitVec 7) (o : BitVec 19) (s : State) :
    exec (.loop d o) s = execLoop d o s := rfl
@[simp] theorem exec_eq_arrw (d a b : BitVec 7) (n : BitVec 5) (s : State) :
    exec (.arrw d a b n) s = execArrw d a b n s := rfl
@[simp] theorem exec_eq_jmpi (a : BitVec 7) (s : State) :
    exec (.jmpi a) s = execJmpi a s := rfl
@[simp] theorem exec_eq_calli (a : BitVec 7) (s : State) :
    exec (.calli a) s = execCalli a s := rfl
@[simp] theorem exec_eq_reform (k a : BitVec 7) (s : State) :
    exec (.reform k a) s = execReform k a s := rfl
@[simp] theorem exec_eq_beat (a c : BitVec 7) (s : State) :
    exec (.beat a c) s = execBeat a c s := rfl
@[simp] theorem exec_eq_btgt (a m : BitVec 7) (s : State) :
    exec (.btgt a m) s = execBtgt a m s := rfl
@[simp] theorem exec_eq_spawn (d a b : BitVec 7) (s : State) :
    exec (.spawn d a b) s = execSpawn d a b s := rfl
@[simp] theorem exec_eq_cancel (a : BitVec 7) (s : State) :
    exec (.cancel a) s = execCancel a s := rfl
@[simp] theorem exec_eq_winb (b : BitVec 7) (s : State) :
    exec (.winb b) s = execWinb b s := rfl
@[simp] theorem exec_eq_winq (d : BitVec 7) (s : State) :
    exec (.winq d) s = execWinq d s := rfl
@[simp] theorem exec_eq_tagq (d a : BitVec 7) (s : State) :
    exec (.tagq d a) s = execTagq d a s := rfl
@[simp] theorem exec_eq_tagg (d : BitVec 7) (s : State) :
    exec (.tagg d) s = execTagg d s := rfl
@[simp] theorem exec_eq_elect (k : BitVec 4) (s : State) :
    exec (.elect k) s = execElect k s := rfl
@[simp] theorem exec_eq_rwr (a n : BitVec 7) (s : State) :
    exec (.rwr a n) s = execRwr a n s := rfl
@[simp] theorem exec_eq_cwait (a b : BitVec 7) (s : State) :
    exec (.cwait a b) s = execCwait a b s := rfl
@[simp] theorem exec_eq_cwake (a : BitVec 7) (s : State) :
    exec (.cwake a) s = execCwake a s := rfl
@[simp] theorem exec_eq_cloc (d sc : BitVec 7) (s : State) :
    exec (.cloc d sc) s = execCloc d sc s := rfl
@[simp] theorem exec_eq_crd (d : BitVec 7) (n : BitVec 12) (s : State) :
    exec (.crd d n) s = execCrd d n s := rfl
@[simp] theorem exec_eq_cwr (a : BitVec 7) (n : BitVec 12) (s : State) :
    exec (.cwr a n) s = execCwr a n s := rfl
@[simp] theorem exec_eq_iadd (p : Option Pfx) (d a b : BitVec 7) (t : BitVec 3) (s : State) :
    exec (.iadd p d a b t) s = execIadd p d a b t s := rfl
@[simp] theorem exec_eq_isub (p : Option Pfx) (d a b : BitVec 7) (t : BitVec 3) (s : State) :
    exec (.isub p d a b t) s = execIsub p d a b t s := rfl
@[simp] theorem exec_eq_imul (p : Option Pfx) (d a b : BitVec 7) (t : BitVec 3) (s : State) :
    exec (.imul p d a b t) s = execImul p d a b t s := rfl
@[simp] theorem exec_eq_imulh (p : Option Pfx) (d a b : BitVec 7) (t : BitVec 2) (s : State) :
    exec (.imulh p d a b t) s = execImulh p d a b t s := rfl
@[simp] theorem exec_eq_imulhn (p : Option Pfx) (d a b : BitVec 7) (t : BitVec 2) (s : State) :
    exec (.imulhn p d a b t) s = execImulhn p d a b t s := rfl
@[simp] theorem exec_eq_imad (p : Option Pfx) (d a b : BitVec 7) (t : BitVec 3) (s : State) :
    exec (.imad p d a b t) s = execImad p d a b t s := rfl
@[simp] theorem exec_eq_idiv (p : Option Pfx) (d a b : BitVec 7) (t : BitVec 2) (s : State) :
    exec (.idiv p d a b t) s = execIdiv p d a b t s := rfl
@[simp] theorem exec_eq_idivn (p : Option Pfx) (d a b : BitVec 7) (t : BitVec 2) (s : State) :
    exec (.idivn p d a b t) s = execIdivn p d a b t s := rfl
@[simp] theorem exec_eq_irem (p : Option Pfx) (d a b : BitVec 7) (t : BitVec 2) (s : State) :
    exec (.irem p d a b t) s = execIrem p d a b t s := rfl
@[simp] theorem exec_eq_iremn (p : Option Pfx) (d a b : BitVec 7) (t : BitVec 2) (s : State) :
    exec (.iremn p d a b t) s = execIremn p d a b t s := rfl
@[simp] theorem exec_eq_iabs (p : Option Pfx) (d a : BitVec 7) (t : BitVec 2) (s : State) :
    exec (.iabs p d a t) s = execIabs p d a t s := rfl
@[simp] theorem exec_eq_imin (p : Option Pfx) (d a b : BitVec 7) (t : BitVec 2) (s : State) :
    exec (.imin p d a b t) s = execImin p d a b t s := rfl
@[simp] theorem exec_eq_iminn (p : Option Pfx) (d a b : BitVec 7) (t : BitVec 2) (s : State) :
    exec (.iminn p d a b t) s = execIminn p d a b t s := rfl
@[simp] theorem exec_eq_imax (p : Option Pfx) (d a b : BitVec 7) (t : BitVec 2) (s : State) :
    exec (.imax p d a b t) s = execImax p d a b t s := rfl
@[simp] theorem exec_eq_imaxn (p : Option Pfx) (d a b : BitVec 7) (t : BitVec 2) (s : State) :
    exec (.imaxn p d a b t) s = execImaxn p d a b t s := rfl
@[simp] theorem exec_eq_bfx (p : Option Pfx) (d a b : BitVec 7) (t : BitVec 1) (s : State) :
    exec (.bfx p d a b t) s = execBfx p d a b t s := rfl
@[simp] theorem exec_eq_bfxs (p : Option Pfx) (d a b : BitVec 7) (t : BitVec 1) (s : State) :
    exec (.bfxs p d a b t) s = execBfxs p d a b t s := rfl
@[simp] theorem exec_eq_bfi (p : Option Pfx) (d a b : BitVec 7) (t : BitVec 3) (s : State) :
    exec (.bfi p d a b t) s = execBfi p d a b t s := rfl
@[simp] theorem exec_eq_shl (p : Option Pfx) (d a b : BitVec 7) (t : BitVec 3) (s : State) :
    exec (.shl p d a b t) s = execShl p d a b t s := rfl
@[simp] theorem exec_eq_shr (p : Option Pfx) (d a b : BitVec 7) (t : BitVec 3) (s : State) :
    exec (.shr p d a b t) s = execShr p d a b t s := rfl
@[simp] theorem exec_eq_sar (p : Option Pfx) (d a b : BitVec 7) (t : BitVec 3) (s : State) :
    exec (.sar p d a b t) s = execSar p d a b t s := rfl
@[simp] theorem exec_eq_rol (p : Option Pfx) (d a b : BitVec 7) (t : BitVec 3) (s : State) :
    exec (.rol p d a b t) s = execRol p d a b t s := rfl
@[simp] theorem exec_eq_and (p : Option Pfx) (d a b : BitVec 7) (t : BitVec 3) (s : State) :
    exec (.and p d a b t) s = execAnd p d a b t s := rfl
@[simp] theorem exec_eq_or (p : Option Pfx) (d a b : BitVec 7) (t : BitVec 3) (s : State) :
    exec (.or p d a b t) s = execOr p d a b t s := rfl
@[simp] theorem exec_eq_xor (p : Option Pfx) (d a b : BitVec 7) (t : BitVec 3) (s : State) :
    exec (.xor p d a b t) s = execXor p d a b t s := rfl
@[simp] theorem exec_eq_andn (p : Option Pfx) (d a b : BitVec 7) (t : BitVec 3) (s : State) :
    exec (.andn p d a b t) s = execAndn p d a b t s := rfl
@[simp] theorem exec_eq_mov (p : Option Pfx) (d a : BitVec 7) (t : BitVec 3) (s : State) :
    exec (.mov p d a t) s = execMov p d a t s := rfl
@[simp] theorem exec_eq_popc (p : Option Pfx) (d a : BitVec 7) (t : BitVec 3) (s : State) :
    exec (.popc p d a t) s = execPopc p d a t s := rfl
@[simp] theorem exec_eq_clz (p : Option Pfx) (d a : BitVec 7) (t : BitVec 3) (s : State) :
    exec (.clz p d a t) s = execClz p d a t s := rfl
@[simp] theorem exec_eq_ctz (p : Option Pfx) (d a : BitVec 7) (t : BitVec 3) (s : State) :
    exec (.ctz p d a t) s = execCtz p d a t s := rfl
@[simp] theorem exec_eq_brev (p : Option Pfx) (d a : BitVec 7) (t : BitVec 3) (s : State) :
    exec (.brev p d a t) s = execBrev p d a t s := rfl
@[simp] theorem exec_eq_lea (p : Option Pfx) (d a b : BitVec 7) (sc : BitVec 3) (s : State) :
    exec (.lea p d a b sc) s = execLea p d a b sc s := rfl
@[simp] theorem exec_eq_icmp (p : Option Pfx) (k : BitVec 4) (a b : BitVec 7) (c : BitVec 2) (t : BitVec 3) (s : State) :
    exec (.icmp p k a b c t) s = execIcmp p k a b c t s := rfl
@[simp] theorem exec_eq_sel (p : Option Pfx) (d a b : BitVec 7) (w : BitVec 1) (k : BitVec 4) (s : State) :
    exec (.sel p d a b w k) s = execSel p d a b w k s := rfl
@[simp] theorem exec_eq_iaddi (p : Option Pfx) (d a : BitVec 7) (im : BitVec 12) (s : State) :
    exec (.iaddi p d a im) s = execIaddi p d a im s := rfl
@[simp] theorem exec_eq_movi (p : Option Pfx) (d : BitVec 7) (im : BitVec 19) (s : State) :
    exec (.movi p d im) s = execMovi p d im s := rfl
@[simp] theorem exec_eq_movh (p : Option Pfx) (d : BitVec 7) (im : BitVec 19) (s : State) :
    exec (.movh p d im) s = execMovh p d im s := rfl
@[simp] theorem exec_eq_fadd (p : Option Pfx) (d a b : BitVec 7) (t : BitVec 3) (s : State) :
    exec (.fadd p d a b t) s = execFadd p d a b t s := rfl
@[simp] theorem exec_eq_fsub (p : Option Pfx) (d a b : BitVec 7) (t : BitVec 3) (s : State) :
    exec (.fsub p d a b t) s = execFsub p d a b t s := rfl
@[simp] theorem exec_eq_fmul (p : Option Pfx) (d a b : BitVec 7) (t : BitVec 3) (s : State) :
    exec (.fmul p d a b t) s = execFmul p d a b t s := rfl
@[simp] theorem exec_eq_ffma (p : Option Pfx) (d a b : BitVec 7) (t : BitVec 3) (s : State) :
    exec (.ffma p d a b t) s = execFfma p d a b t s := rfl
@[simp] theorem exec_eq_fmin (p : Option Pfx) (d a b : BitVec 7) (t : BitVec 3) (s : State) :
    exec (.fmin p d a b t) s = execFmin p d a b t s := rfl
@[simp] theorem exec_eq_fmax (p : Option Pfx) (d a b : BitVec 7) (t : BitVec 3) (s : State) :
    exec (.fmax p d a b t) s = execFmax p d a b t s := rfl
@[simp] theorem exec_eq_fdiv (p : Option Pfx) (d a b : BitVec 7) (t : BitVec 3) (s : State) :
    exec (.fdiv p d a b t) s = execFdiv p d a b t s := rfl
@[simp] theorem exec_eq_fcpys (p : Option Pfx) (d a b : BitVec 7) (t : BitVec 3) (s : State) :
    exec (.fcpys p d a b t) s = execFcpys p d a b t s := rfl
@[simp] theorem exec_eq_fabs (p : Option Pfx) (d a : BitVec 7) (t : BitVec 3) (s : State) :
    exec (.fabs p d a t) s = execFabs p d a t s := rfl
@[simp] theorem exec_eq_fneg (p : Option Pfx) (d a : BitVec 7) (t : BitVec 3) (s : State) :
    exec (.fneg p d a t) s = execFneg p d a t s := rfl
@[simp] theorem exec_eq_frnd (p : Option Pfx) (d a : BitVec 7) (t : BitVec 3) (s : State) :
    exec (.frnd p d a t) s = execFrnd p d a t s := rfl
@[simp] theorem exec_eq_ffrac (p : Option Pfx) (d a : BitVec 7) (t : BitVec 3) (s : State) :
    exec (.ffrac p d a t) s = execFfrac p d a t s := rfl
@[simp] theorem exec_eq_fsqrt (p : Option Pfx) (d a : BitVec 7) (t : BitVec 3) (s : State) :
    exec (.fsqrt p d a t) s = execFsqrt p d a t s := rfl
@[simp] theorem exec_eq_frcp (p : Option Pfx) (d a : BitVec 7) (t : BitVec 3) (s : State) :
    exec (.frcp p d a t) s = execFrcp p d a t s := rfl
@[simp] theorem exec_eq_frsq (p : Option Pfx) (d a : BitVec 7) (t : BitVec 3) (s : State) :
    exec (.frsq p d a t) s = execFrsq p d a t s := rfl
@[simp] theorem exec_eq_fclass (p : Option Pfx) (d a : BitVec 7) (t : BitVec 3) (s : State) :
    exec (.fclass p d a t) s = execFclass p d a t s := rfl
@[simp] theorem exec_eq_fexp2 (p : Option Pfx) (d a : BitVec 7) (t : BitVec 3) (s : State) :
    exec (.fexp2 p d a t) s = execFexp2 p d a t s := rfl
@[simp] theorem exec_eq_flog2 (p : Option Pfx) (d a : BitVec 7) (t : BitVec 3) (s : State) :
    exec (.flog2 p d a t) s = execFlog2 p d a t s := rfl
@[simp] theorem exec_eq_fsin (p : Option Pfx) (d a : BitVec 7) (t : BitVec 3) (s : State) :
    exec (.fsin p d a t) s = execFsin p d a t s := rfl
@[simp] theorem exec_eq_fcos (p : Option Pfx) (d a : BitVec 7) (t : BitVec 3) (s : State) :
    exec (.fcos p d a t) s = execFcos p d a t s := rfl
@[simp] theorem exec_eq_ftanh (p : Option Pfx) (d a : BitVec 7) (t : BitVec 3) (s : State) :
    exec (.ftanh p d a t) s = execFtanh p d a t s := rfl
@[simp] theorem exec_eq_ferf (p : Option Pfx) (d a : BitVec 7) (t : BitVec 3) (s : State) :
    exec (.ferf p d a t) s = execFerf p d a t s := rfl
@[simp] theorem exec_eq_fsigm (p : Option Pfx) (d a : BitVec 7) (t : BitVec 3) (s : State) :
    exec (.fsigm p d a t) s = execFsigm p d a t s := rfl
@[simp] theorem exec_eq_fcmp (p : Option Pfx) (k : BitVec 4) (a b : BitVec 7) (c : BitVec 2) (t : BitVec 3) (s : State) :
    exec (.fcmp p k a b c t) s = execFcmp p k a b c t s := rfl
@[simp] theorem exec_eq_hadd2 (p : Option Pfx) (d a b : BitVec 7) (t : BitVec 3) (s : State) :
    exec (.hadd2 p d a b t) s = execHadd2 p d a b t s := rfl
@[simp] theorem exec_eq_hmul2 (p : Option Pfx) (d a b : BitVec 7) (t : BitVec 3) (s : State) :
    exec (.hmul2 p d a b t) s = execHmul2 p d a b t s := rfl
@[simp] theorem exec_eq_hfma2 (p : Option Pfx) (d a b : BitVec 7) (t : BitVec 3) (s : State) :
    exec (.hfma2 p d a b t) s = execHfma2 p d a b t s := rfl
@[simp] theorem exec_eq_hmin2 (p : Option Pfx) (d a b : BitVec 7) (t : BitVec 3) (s : State) :
    exec (.hmin2 p d a b t) s = execHmin2 p d a b t s := rfl
@[simp] theorem exec_eq_hmax2 (p : Option Pfx) (d a b : BitVec 7) (t : BitVec 3) (s : State) :
    exec (.hmax2 p d a b t) s = execHmax2 p d a b t s := rfl
@[simp] theorem exec_eq_rng (p : Option Pfx) (d a b : BitVec 7) (t : BitVec 3) (s : State) :
    exec (.rng p d a b t) s = execRng p d a b t s := rfl
@[simp] theorem exec_eq_cvtpk (p : Option Pfx) (d a b : BitVec 7) (t : BitVec 3) (s : State) :
    exec (.cvtpk p d a b t) s = execCvtpk p d a b t s := rfl
@[simp] theorem exec_eq_cvtun (p : Option Pfx) (d a : BitVec 7) (t : BitVec 3) (s : State) :
    exec (.cvtun p d a t) s = execCvtun p d a t s := rfl
@[simp] theorem exec_eq_cvtif (p : Option Pfx) (d a : BitVec 7) (f : BitVec 2) (im : BitVec 3) (s : State) :
    exec (.cvtif p d a f im) s = execCvtif p d a f im s := rfl
@[simp] theorem exec_eq_cvtfi (p : Option Pfx) (d a : BitVec 7) (f : BitVec 2) (im : BitVec 3) (s : State) :
    exec (.cvtfi p d a f im) s = execCvtfi p d a f im s := rfl
@[simp] theorem exec_eq_cvtw (p : Option Pfx) (d a : BitVec 7) (x sc e : BitVec 3) (s : State) :
    exec (.cvtw p d a x sc e) s = execCvtw p d a x sc e s := rfl
@[simp] theorem exec_eq_cvtn (p : Option Pfx) (d a : BitVec 7) (x sc e : BitVec 3) (s : State) :
    exec (.cvtn p d a x sc e) s = execCvtn p d a x sc e s := rfl
@[simp] theorem exec_eq_cvtne (p : Option Pfx) (d a : BitVec 7) (x sc e : BitVec 3) (s : State) :
    exec (.cvtne p d a x sc e) s = execCvtne p d a x sc e s := rfl
@[simp] theorem exec_eq_mand (p : Option Pfx) (k j im : BitVec 4) (s : State) :
    exec (.mand p k j im) s = execMand p k j im s := rfl
@[simp] theorem exec_eq_mor (p : Option Pfx) (k j im : BitVec 4) (s : State) :
    exec (.mor p k j im) s = execMor p k j im s := rfl
@[simp] theorem exec_eq_mxor (p : Option Pfx) (k j im : BitVec 4) (s : State) :
    exec (.mxor p k j im) s = execMxor p k j im s := rfl
@[simp] theorem exec_eq_mandn (p : Option Pfx) (k j im : BitVec 4) (s : State) :
    exec (.mandn p k j im) s = execMandn p k j im s := rfl
@[simp] theorem exec_eq_mnot (p : Option Pfx) (k j : BitVec 4) (s : State) :
    exec (.mnot p k j) s = execMnot p k j s := rfl
@[simp] theorem exec_eq_mmov (p : Option Pfx) (k j : BitVec 4) (s : State) :
    exec (.mmov p k j) s = execMmov p k j s := rfl
@[simp] theorem exec_eq_mset (p : Option Pfx) (k : BitVec 4) (a : BitVec 7) (s : State) :
    exec (.mset p k a) s = execMset p k a s := rfl
@[simp] theorem exec_eq_mget (p : Option Pfx) (d : BitVec 7) (j : BitVec 4) (s : State) :
    exec (.mget p d j) s = execMget p d j s := rfl
@[simp] theorem exec_eq_mpop (p : Option Pfx) (d : BitVec 7) (j : BitVec 4) (s : State) :
    exec (.mpop p d j) s = execMpop p d j s := rfl
@[simp] theorem exec_eq_mffs (p : Option Pfx) (d : BitVec 7) (j : BitVec 4) (s : State) :
    exec (.mffs p d j) s = execMffs p d j s := rfl
@[simp] theorem exec_eq_shfl (p : Option Pfx) (d a b : BitVec 7) (m : BitVec 2) (w : BitVec 1) (s : State) :
    exec (.shfl p d a b m w) s = execShfl p d a b m w s := rfl
@[simp] theorem exec_eq_voteAny (p : Option Pfx) (d : BitVec 7) (j : BitVec 4) (s : State) :
    exec (.voteAny p d j) s = execVoteAny p d j s := rfl
@[simp] theorem exec_eq_voteAll (p : Option Pfx) (d : BitVec 7) (j : BitVec 4) (s : State) :
    exec (.voteAll p d j) s = execVoteAll p d j s := rfl
@[simp] theorem exec_eq_voteUni (p : Option Pfx) (d a : BitVec 7) (s : State) :
    exec (.voteUni p d a) s = execVoteUni p d a s := rfl
@[simp] theorem exec_eq_wred (p : Option Pfx) (d a : BitVec 7) (o : BitVec 2) (t : BitVec 3) (s : State) :
    exec (.wred p d a o t) s = execWred p d a o t s := rfl
@[simp] theorem exec_eq_wscan (p : Option Pfx) (d a : BitVec 7) (o : BitVec 2) (t : BitVec 3) (s : State) :
    exec (.wscan p d a o t) s = execWscan p d a o t s := rfl
@[simp] theorem exec_eq_ld (p : Option Pfx) (d a : BitVec 7) (sc : BitVec 3) (k : BitVec 2) (w : BitVec 3) (s : State) :
    exec (.ld p d a sc k w) s = execLd p d a sc k w s := rfl
@[simp] theorem exec_eq_st (p : Option Pfx) (d a : BitVec 7) (sc : BitVec 3) (k : BitVec 2) (w : BitVec 3) (s : State) :
    exec (.st p d a sc k w) s = execSt p d a sc k w s := rfl
@[simp] theorem exec_eq_ldl (p : Option Pfx) (d a : BitVec 7) (q : BitVec 1) (w : BitVec 3) (s : State) :
    exec (.ldl p d a q w) s = execLdl p d a q w s := rfl
@[simp] theorem exec_eq_stl (p : Option Pfx) (d a : BitVec 7) (q : BitVec 1) (w : BitVec 3) (s : State) :
    exec (.stl p d a q w) s = execStl p d a q w s := rfl
@[simp] theorem exec_eq_ldc (p : Option Pfx) (d a : BitVec 7) (w : BitVec 3) (s : State) :
    exec (.ldc p d a w) s = execLdc p d a w s := rfl
@[simp] theorem exec_eq_ldx (p : Option Pfx) (d a : BitVec 7) (w : BitVec 3) (s : State) :
    exec (.ldx p d a w) s = execLdx p d a w s := rfl
@[simp] theorem exec_eq_stx (p : Option Pfx) (d a : BitVec 7) (w : BitVec 3) (s : State) :
    exec (.stx p d a w) s = execStx p d a w s := rfl
@[simp] theorem exec_eq_atom (p : Option Pfx) (d a : BitVec 7) (k : BitVec 2) (sc o : BitVec 3) (t : BitVec 2) (s : State) :
    exec (.atom p d a k sc o t) s = execAtom p d a k sc o t s := rfl
@[simp] theorem exec_eq_atomCas (p : Option Pfx) (d a : BitVec 7) (k : BitVec 2) (sc : BitVec 3) (t : BitVec 2) (s : State) :
    exec (.atomCas p d a k sc t) s = execAtomCas p d a k sc t s := rfl
@[simp] theorem exec_eq_atoml (p : Option Pfx) (d a : BitVec 7) (k : BitVec 2) (o : BitVec 3) (t : BitVec 2) (s : State) :
    exec (.atoml p d a k o t) s = execAtoml p d a k o t s := rfl
@[simp] theorem exec_eq_atomlCas (p : Option Pfx) (d a : BitVec 7) (k t : BitVec 2) (s : State) :
    exec (.atomlCas p d a k t) s = execAtomlCas p d a k t s := rfl
@[simp] theorem exec_eq_redm (p : Option Pfx) (d a : BitVec 7) (k : BitVec 2) (sc o : BitVec 3) (t : BitVec 2) (s : State) :
    exec (.redm p d a k sc o t) s = execRedm p d a k sc o t s := rfl
@[simp] theorem exec_eq_fenceAcq (sc : BitVec 7) (s : State) :
    exec (.fenceAcq sc) s = execFenceAcq sc s := rfl
@[simp] theorem exec_eq_fenceRel (sc : BitVec 7) (s : State) :
    exec (.fenceRel sc) s = execFenceRel sc s := rfl
@[simp] theorem exec_eq_fenceFull (sc : BitVec 7) (s : State) :
    exec (.fenceFull sc) s = execFenceFull sc s := rfl
@[simp] theorem exec_eq_bar (a n : BitVec 7) (s : State) :
    exec (.bar a n) s = execBar a n s := rfl
@[simp] theorem exec_eq_barTake (k : BitVec 3) (n : BitVec 7) (s : State) :
    exec (.barTake k n) s = execBarTake k n s := rfl
@[simp] theorem exec_eq_bara (a n : BitVec 7) (s : State) :
    exec (.bara a n) s = execBara a n s := rfl
@[simp] theorem exec_eq_barw (n : BitVec 7) (s : State) :
    exec (.barw n) s = execBarw n s := rfl
@[simp] theorem exec_eq_barq (d n : BitVec 7) (s : State) :
    exec (.barq d n) s = execBarq d n s := rfl
@[simp] theorem exec_eq_pres (d a : BitVec 7) (s : State) :
    exec (.pres d a) s = execPres d a s := rfl
@[simp] theorem exec_eq_pclr (a : BitVec 7) (s : State) :
    exec (.pclr a) s = execPclr a s := rfl
@[simp] theorem exec_eq_pset (a : BitVec 7) (s : State) :
    exec (.pset a) s = execPset a s := rfl
@[simp] theorem exec_eq_pref (a l : BitVec 7) (s : State) :
    exec (.pref a l) s = execPref a l s := rfl
@[simp] theorem exec_eq_cinv (a b : BitVec 7) (s : State) :
    exec (.cinv a b) s = execCinv a b s := rfl
@[simp] theorem exec_eq_cwb (a b : BitVec 7) (s : State) :
    exec (.cwb a b) s = execCwb a b s := rfl
@[simp] theorem exec_eq_cfls (a b : BitVec 7) (s : State) :
    exec (.cfls a b) s = execCfls a b s := rfl
@[simp] theorem exec_eq_bci (a b : BitVec 7) (s : State) :
    exec (.bci a b) s = execBci a b s := rfl
@[simp] theorem exec_eq_bca (a b : BitVec 7) (s : State) :
    exec (.bca a b) s = execBca a b s := rfl
@[simp] theorem exec_eq_bcw (a b : BitVec 7) (s : State) :
    exec (.bcw a b) s = execBcw a b s := rfl
@[simp] theorem exec_eq_ract (a : BitVec 7) (s : State) :
    exec (.ract a) s = execRact a s := rfl
@[simp] theorem exec_eq_rcon (t a : BitVec 7) (s : State) :
    exec (.rcon t a) s = execRcon t a s := rfl
@[simp] theorem exec_eq_rconWs (a b : BitVec 7) (s : State) :
    exec (.rconWs a b) s = execRconWs a b s := rfl
@[simp] theorem exec_eq_rcls (a : BitVec 7) (s : State) :
    exec (.rcls a) s = execRcls a s := rfl
@[simp] theorem exec_eq_rstat (d a : BitVec 7) (s : State) :
    exec (.rstat d a) s = execRstat d a s := rfl
@[simp] theorem exec_eq_tshape (t a : BitVec 7) (s : State) :
    exec (.tshape t a) s = execTshape t a s := rfl
@[simp] theorem exec_eq_tclr (t : BitVec 7) (s : State) :
    exec (.tclr t) s = execTclr t s := rfl
@[simp] theorem exec_eq_omap (t a : BitVec 7) (s : State) :
    exec (.omap t a) s = execOmap t a s := rfl
@[simp] theorem exec_eq_tld (t a b : BitVec 7) (s : State) :
    exec (.tld t a b) s = execTld t a b s := rfl
@[simp] theorem exec_eq_tst (t a b : BitVec 7) (s : State) :
    exec (.tst t a b) s = execTst t a b s := rfl
@[simp] theorem exec_eq_tfeed (t a b : BitVec 7) (s : State) :
    exec (.tfeed t a b) s = execTfeed t a b s := rfl
@[simp] theorem exec_eq_mma (c im j : BitVec 7) (s : State) :
    exec (.mma c im j) s = execMma c im j s := rfl
@[simp] theorem exec_eq_mmas (c im j : BitVec 7) (s : State) :
    exec (.mmas c im j) s = execMmas c im j s := rfl
@[simp] theorem exec_eq_mmaq (c im j : BitVec 7) (s : State) :
    exec (.mmaq c im j) s = execMmaq c im j s := rfl
@[simp] theorem exec_eq_mzero (c : BitVec 7) (s : State) :
    exec (.mzero c) s = execMzero c s := rfl
@[simp] theorem exec_eq_mload (c a : BitVec 7) (s : State) :
    exec (.mload c a) s = execMload c a s := rfl
@[simp] theorem exec_eq_mdrn (c a b : BitVec 7) (s : State) :
    exec (.mdrn c a b) s = execMdrn c a b s := rfl
@[simp] theorem exec_eq_mcoop (a : BitVec 7) (s : State) :
    exec (.mcoop a) s = execMcoop a s := rfl
@[simp] theorem exec_eq_mwait (l : BitVec 7) (s : State) :
    exec (.mwait l) s = execMwait l s := rfl
@[simp] theorem exec_eq_scpl (a b : BitVec 7) (s : State) :
    exec (.scpl a b) s = execScpl a b s := rfl
@[simp] theorem exec_eq_scinv (a : BitVec 7) (s : State) :
    exec (.scinv a) s = execScinv a s := rfl
@[simp] theorem exec_eq_scq (d a : BitVec 7) (s : State) :
    exec (.scq d a) s = execScq d a s := rfl
@[simp] theorem exec_eq_cbld (c a : BitVec 7) (s : State) :
    exec (.cbld c a) s = execCbld c a s := rfl
@[simp] theorem exec_eq_tlbi (a r : BitVec 7) (s : State) :
    exec (.tlbi a r) s = execTlbi a r s := rfl
@[simp] theorem exec_eq_xcCopy (v a b : BitVec 7) (s : State) :
    exec (.xcCopy v a b) s = execXcCopy v a b s := rfl
@[simp] theorem exec_eq_xcTcopy (v a b : BitVec 7) (s : State) :
    exec (.xcTcopy v a b) s = execXcTcopy v a b s := rfl
@[simp] theorem exec_eq_xcGath (v a b : BitVec 7) (s : State) :
    exec (.xcGath v a b) s = execXcGath v a b s := rfl
@[simp] theorem exec_eq_xcScat (v a b : BitVec 7) (s : State) :
    exec (.xcScat v a b) s = execXcScat v a b s := rfl
@[simp] theorem exec_eq_xcFill (v a b : BitVec 7) (s : State) :
    exec (.xcFill v a b) s = execXcFill v a b s := rfl
@[simp] theorem exec_eq_xcStat (v a : BitVec 7) (s : State) :
    exec (.xcStat v a) s = execXcStat v a s := rfl
@[simp] theorem exec_eq_xcCanc (v a : BitVec 7) (s : State) :
    exec (.xcCanc v a) s = execXcCanc v a s := rfl
@[simp] theorem exec_eq_swBind (v a b : BitVec 7) (s : State) :
    exec (.swBind v a b) s = execSwBind v a b s := rfl
@[simp] theorem exec_eq_swUnbind (v b : BitVec 7) (s : State) :
    exec (.swUnbind v b) s = execSwUnbind v b s := rfl
@[simp] theorem exec_eq_swPass (v a b : BitVec 7) (s : State) :
    exec (.swPass v a b) s = execSwPass v a b s := rfl
@[simp] theorem exec_eq_swWake (v a b : BitVec 7) (s : State) :
    exec (.swWake v a b) s = execSwWake v a b s := rfl
@[simp] theorem exec_eq_swStat (v a b : BitVec 7) (s : State) :
    exec (.swStat v a b) s = execSwStat v a b s := rfl
@[simp] theorem exec_eq_gpBind (v a b : BitVec 7) (s : State) :
    exec (.gpBind v a b) s = execGpBind v a b s := rfl
@[simp] theorem exec_eq_gpStep (v a b : BitVec 7) (s : State) :
    exec (.gpStep v a b) s = execGpStep v a b s := rfl
@[simp] theorem exec_eq_gpMask (v a b : BitVec 7) (s : State) :
    exec (.gpMask v a b) s = execGpMask v a b s := rfl
@[simp] theorem exec_eq_gpFork (v a b : BitVec 7) (s : State) :
    exec (.gpFork v a b) s = execGpFork v a b s := rfl
@[simp] theorem exec_eq_gpRoll (v a b : BitVec 7) (s : State) :
    exec (.gpRoll v a b) s = execGpRoll v a b s := rfl
@[simp] theorem exec_eq_gpSave (v a b : BitVec 7) (s : State) :
    exec (.gpSave v a b) s = execGpSave v a b s := rfl
@[simp] theorem exec_eq_gpLoad (v a b : BitVec 7) (s : State) :
    exec (.gpLoad v a b) s = execGpLoad v a b s := rfl
@[simp] theorem exec_eq_dtBuild (v a : BitVec 7) (s : State) :
    exec (.dtBuild v a) s = execDtBuild v a s := rfl
@[simp] theorem exec_eq_ptLook (v a : BitVec 7) (s : State) :
    exec (.ptLook v a) s = execPtLook v a s := rfl
@[simp] theorem exec_eq_ptPin (v a : BitVec 7) (s : State) :
    exec (.ptPin v a) s = execPtPin v a s := rfl
@[simp] theorem exec_eq_ptUnpin (v a : BitVec 7) (s : State) :
    exec (.ptUnpin v a) s = execPtUnpin v a s := rfl
@[simp] theorem exec_eq_ptIns (v a b : BitVec 7) (s : State) :
    exec (.ptIns v a b) s = execPtIns v a b s := rfl
@[simp] theorem exec_eq_ptEvict (v a : BitVec 7) (s : State) :
    exec (.ptEvict v a) s = execPtEvict v a s := rfl
@[simp] theorem exec_eq_xcScrb (v a : BitVec 7) (s : State) :
    exec (.xcScrb v a) s = execXcScrb v a s := rfl
@[simp] theorem exec_eq_ksZero (v a b : BitVec 7) (s : State) :
    exec (.ksZero v a b) s = execKsZero v a b s := rfl
@[simp] theorem exec_eq_clockStepChange (s : State) :
    exec (.clockStepChange) s = execClockStepChange s := rfl
@[simp] theorem exec_eq_budgetCapAdjust (s : State) :
    exec (.budgetCapAdjust) s = execBudgetCapAdjust s := rfl
@[simp] theorem exec_eq_sliderPeriod (s : State) :
    exec (.sliderPeriod) s = execSliderPeriod s := rfl
@[simp] theorem exec_eq_pwrctlWrite (s : State) :
    exec (.pwrctlWrite) s = execPwrctlWrite s := rfl
@[simp] theorem exec_eq_thermalBandChange (s : State) :
    exec (.thermalBandChange) s = execThermalBandChange s := rfl
@[simp] theorem exec_eq_thermalCapTick (s : State) :
    exec (.thermalCapTick) s = execThermalCapTick s := rfl
@[simp] theorem exec_eq_thermalTrip (s : State) :
    exec (.thermalTrip) s = execThermalTrip s := rfl
@[simp] theorem exec_eq_thermalClear (s : State) :
    exec (.thermalClear) s = execThermalClear s := rfl
@[simp] theorem exec_eq_pageMigrationStart (s : State) :
    exec (.pageMigrationStart) s = execPageMigrationStart s := rfl
@[simp] theorem exec_eq_pageMigrated (s : State) :
    exec (.pageMigrated) s = execPageMigrated s := rfl
@[simp] theorem exec_eq_halfSwitch (s : State) :
    exec (.halfSwitch) s = execHalfSwitch s := rfl
@[simp] theorem exec_eq_clusterFenced (s : State) :
    exec (.clusterFenced) s = execClusterFenced s := rfl
@[simp] theorem exec_eq_w1Entry (s : State) :
    exec (.w1Entry) s = execW1Entry s := rfl
@[simp] theorem exec_eq_w2Entry (s : State) :
    exec (.w2Entry) s = execW2Entry s := rfl
@[simp] theorem exec_eq_breakEvenHoldEnd (s : State) :
    exec (.breakEvenHoldEnd) s = execBreakEvenHoldEnd s := rfl
@[simp] theorem exec_eq_clusterPowerUpDone (s : State) :
    exec (.clusterPowerUpDone) s = execClusterPowerUpDone s := rfl
@[simp] theorem exec_eq_w3Entry (s : State) :
    exec (.w3Entry) s = execW3Entry s := rfl
@[simp] theorem exec_eq_latencyToleranceReport (s : State) :
    exec (.latencyToleranceReport) s = execLatencyToleranceReport s := rfl
@[simp] theorem exec_eq_gangFlitReceive (s : State) :
    exec (.gangFlitReceive) s = execGangFlitReceive s := rfl
@[simp] theorem exec_eq_ethFrameReceive (s : State) :
    exec (.ethFrameReceive) s = execEthFrameReceive s := rfl
@[simp] theorem exec_eq_heartbeatSend (s : State) :
    exec (.heartbeatSend) s = execHeartbeatSend s := rfl
@[simp] theorem exec_eq_linkDown (s : State) :
    exec (.linkDown) s = execLinkDown s := rfl
@[simp] theorem exec_eq_laneFailure (s : State) :
    exec (.laneFailure) s = execLaneFailure s := rfl
@[simp] theorem exec_eq_fabcfgWrite (s : State) :
    exec (.fabcfgWrite) s = execFabcfgWrite s := rfl
@[simp] theorem exec_eq_collectiveItemDone (s : State) :
    exec (.collectiveItemDone) s = execCollectiveItemDone s := rfl
@[simp] theorem exec_eq_collectiveCommit (s : State) :
    exec (.collectiveCommit) s = execCollectiveCommit s := rfl
@[simp] theorem exec_eq_mergePeriodEnd (s : State) :
    exec (.mergePeriodEnd) s = execMergePeriodEnd s := rfl
@[simp] theorem exec_eq_mergeMessageReceive (s : State) :
    exec (.mergeMessageReceive) s = execMergeMessageReceive s := rfl
@[simp] theorem exec_eq_mrgtagWrite (s : State) :
    exec (.mrgtagWrite) s = execMrgtagWrite s := rfl
@[simp] theorem exec_eq_mrgparWrite (s : State) :
    exec (.mrgparWrite) s = execMrgparWrite s := rfl
@[simp] theorem exec_eq_packageLost (s : State) :
    exec (.packageLost) s = execPackageLost s := rfl
@[simp] theorem exec_eq_qsubWrite (s : State) :
    exec (.qsubWrite) s = execQsubWrite s := rfl
@[simp] theorem exec_eq_slateAccept (s : State) :
    exec (.slateAccept) s = execSlateAccept s := rfl
@[simp] theorem exec_eq_cmddbWrite (s : State) :
    exec (.cmddbWrite) s = execCmddbWrite s := rfl
@[simp] theorem exec_eq_create (s : State) :
    exec (.create) s = execCreate s := rfl
@[simp] theorem exec_eq_save (s : State) :
    exec (.save) s = execSave s := rfl
@[simp] theorem exec_eq_restore (s : State) :
    exec (.restore) s = execRestore s := rfl
@[simp] theorem exec_eq_switch (s : State) :
    exec (.switch) s = execSwitch s := rfl
@[simp] theorem exec_eq_destroy (s : State) :
    exec (.destroy) s = execDestroy s := rfl
@[simp] theorem exec_eq_teardown (s : State) :
    exec (.teardown) s = execTeardown s := rfl
@[simp] theorem exec_eq_drain (s : State) :
    exec (.drain) s = execDrain s := rfl
@[simp] theorem exec_eq_drainTimeout (s : State) :
    exec (.drainTimeout) s = execDrainTimeout s := rfl
@[simp] theorem exec_eq_undrain (s : State) :
    exec (.undrain) s = execUndrain s := rfl
@[simp] theorem exec_eq_vfsuspend (s : State) :
    exec (.vfsuspend) s = execVfsuspend s := rfl
@[simp] theorem exec_eq_vfresume (s : State) :
    exec (.vfresume) s = execVfresume s := rfl
@[simp] theorem exec_eq_assign (s : State) :
    exec (.assign) s = execAssign s := rfl
@[simp] theorem exec_eq_commandComplete (s : State) :
    exec (.commandComplete) s = execCommandComplete s := rfl
@[simp] theorem exec_eq_dlsizeWrite (s : State) :
    exec (.dlsizeWrite) s = execDlsizeWrite s := rfl
@[simp] theorem exec_eq_ptrootWrite (s : State) :
    exec (.ptrootWrite) s = execPtrootWrite s := rfl
@[simp] theorem exec_eq_keyLoad (s : State) :
    exec (.keyLoad) s = execKeyLoad s := rfl
@[simp] theorem exec_eq_keyZero (s : State) :
    exec (.keyZero) s = execKeyZero s := rfl
@[simp] theorem exec_eq_keyZeroDone (s : State) :
    exec (.keyZeroDone) s = execKeyZeroDone s := rfl
@[simp] theorem exec_eq_registerWrite (s : State) :
    exec (.registerWrite) s = execRegisterWrite s := rfl
@[simp] theorem exec_eq_scrubJobStart (s : State) :
    exec (.scrubJobStart) s = execScrubJobStart s := rfl
@[simp] theorem exec_eq_scrubUnitCommit (s : State) :
    exec (.scrubUnitCommit) s = execScrubUnitCommit s := rfl
@[simp] theorem exec_eq_scrubDone (s : State) :
    exec (.scrubDone) s = execScrubDone s := rfl
@[simp] theorem exec_eq_flrVf (s : State) :
    exec (.flrVf) s = execFlrVf s := rfl
@[simp] theorem exec_eq_flrPf (s : State) :
    exec (.flrPf) s = execFlrPf s := rfl
@[simp] theorem exec_eq_hotReset (s : State) :
    exec (.hotReset) s = execHotReset s := rfl
@[simp] theorem exec_eq_warmReset (s : State) :
    exec (.warmReset) s = execWarmReset s := rfl
@[simp] theorem exec_eq_powerOn (s : State) :
    exec (.powerOn) s = execPowerOn s := rfl
@[simp] theorem exec_eq_priResponse (s : State) :
    exec (.priResponse) s = execPriResponse s := rfl
@[simp] theorem exec_eq_beatArrive (s : State) :
    exec (.beatArrive) s = execBeatArrive s := rfl
@[simp] theorem exec_eq_btgtArrive (s : State) :
    exec (.btgtArrive) s = execBtgtArrive s := rfl
@[simp] theorem exec_eq_controlPeriodEnd (s : State) :
    exec (.controlPeriodEnd) s = execControlPeriodEnd s := rfl
@[simp] theorem exec_eq_allocatorEpoch (s : State) :
    exec (.allocatorEpoch) s = execAllocatorEpoch s := rfl
@[simp] theorem exec_eq_grantApply (s : State) :
    exec (.grantApply) s = execGrantApply s := rfl
@[simp] theorem exec_eq_coreReleaseTimeout (s : State) :
    exec (.coreReleaseTimeout) s = execCoreReleaseTimeout s := rfl
@[simp] theorem exec_eq_quantumEnd (s : State) :
    exec (.quantumEnd) s = execQuantumEnd s := rfl
@[simp] theorem exec_eq_ageTick (s : State) :
    exec (.ageTick) s = execAgeTick s := rfl
@[simp] theorem exec_eq_backfillTimeout (s : State) :
    exec (.backfillTimeout) s = execBackfillTimeout s := rfl
@[simp] theorem exec_eq_crewPlace (s : State) :
    exec (.crewPlace) s = execCrewPlace s := rfl
@[simp] theorem exec_eq_groupPlace (s : State) :
    exec (.groupPlace) s = execGroupPlace s := rfl
@[simp] theorem exec_eq_takeSpillDone (s : State) :
    exec (.takeSpillDone) s = execTakeSpillDone s := rfl
@[simp] theorem exec_eq_takeRestore (s : State) :
    exec (.takeRestore) s = execTakeRestore s := rfl
@[simp] theorem exec_eq_controlThreadRestore (s : State) :
    exec (.controlThreadRestore) s = execControlThreadRestore s := rfl
@[simp] theorem exec_eq_engineCommandStart (s : State) :
    exec (.engineCommandStart) s = execEngineCommandStart s := rfl
@[simp] theorem exec_eq_slateRetire (s : State) :
    exec (.slateRetire) s = execSlateRetire s := rfl
@[simp] theorem exec_eq_deadlineExpiry (s : State) :
    exec (.deadlineExpiry) s = execDeadlineExpiry s := rfl
@[simp] theorem exec_eq_binIssue (s : State) :
    exec (.binIssue) s = execBinIssue s := rfl
@[simp] theorem exec_eq_divergenceYield (s : State) :
    exec (.divergenceYield) s = execDivergenceYield s := rfl
@[simp] theorem exec_eq_passStart (s : State) :
    exec (.passStart) s = execPassStart s := rfl
@[simp] theorem exec_eq_blockPass (s : State) :
    exec (.blockPass) s = execBlockPass s := rfl
@[simp] theorem exec_eq_passEnd (s : State) :
    exec (.passEnd) s = execPassEnd s := rfl
@[simp] theorem exec_eq_wakeApply (s : State) :
    exec (.wakeApply) s = execWakeApply s := rfl
@[simp] theorem exec_eq_pageWalkDone (s : State) :
    exec (.pageWalkDone) s = execPageWalkDone s := rfl
@[simp] theorem exec_eq_scratchpadAccessDone (s : State) :
    exec (.scratchpadAccessDone) s = execScratchpadAccessDone s := rfl
@[simp] theorem exec_eq_rowTransferEnd (s : State) :
    exec (.rowTransferEnd) s = execRowTransferEnd s := rfl
@[simp] theorem exec_eq_prechargeEnd (s : State) :
    exec (.prechargeEnd) s = execPrechargeEnd s := rfl
@[simp] theorem exec_eq_rowForcedClose (s : State) :
    exec (.rowForcedClose) s = execRowForcedClose s := rfl
@[simp] theorem exec_eq_bankRefresh (s : State) :
    exec (.bankRefresh) s = execBankRefresh s := rfl
@[simp] theorem exec_eq_patrolScrub (s : State) :
    exec (.patrolScrub) s = execPatrolScrub s := rfl
@[simp] theorem exec_eq_copyItemStart (s : State) :
    exec (.copyItemStart) s = execCopyItemStart s := rfl
@[simp] theorem exec_eq_copyItemComplete (s : State) :
    exec (.copyItemComplete) s = execCopyItemComplete s := rfl
@[simp] theorem exec_eq_grammarSlotPerform (s : State) :
    exec (.grammarSlotPerform) s = execGrammarSlotPerform s := rfl
@[simp] theorem exec_eq_matrixExecStart (s : State) :
    exec (.matrixExecStart) s = execMatrixExecStart s := rfl
@[simp] theorem exec_eq_matrixExecDone (s : State) :
    exec (.matrixExecDone) s = execMatrixExecDone s := rfl
@[simp] theorem exec_eq_scaleFetchDone (s : State) :
    exec (.scaleFetchDone) s = execScaleFetchDone s := rfl
@[simp] theorem exec_eq_nop (s : State) :
    exec (.nop) s = execNop s := rfl
@[simp] theorem exec_eq_ret (s : State) :
    exec (.ret) s = execRet s := rfl
@[simp] theorem exec_eq_rjoin (s : State) :
    exec (.rjoin) s = execRjoin s := rfl
@[simp] theorem exec_eq_exit (s : State) :
    exec (.exit) s = execExit s := rfl
@[simp] theorem exec_eq_yield (s : State) :
    exec (.yield) s = execYield s := rfl
@[simp] theorem exec_eq_tret (s : State) :
    exec (.tret) s = execTret s := rfl
@[simp] theorem exec_eq_ifence (s : State) :
    exec (.ifence) s = execIfence s := rfl
@[simp] theorem exec_eq_mfence (s : State) :
    exec (.mfence) s = execMfence s := rfl
@[simp] theorem exec_eq_activateToFirstConsume (s : State) :
    exec (.activateToFirstConsume) s = execActivateToFirstConsume s := rfl
@[simp] theorem exec_eq_writeBufferDrain (s : State) :
    exec (.writeBufferDrain) s = execWriteBufferDrain s := rfl
@[simp] theorem exec_eq_sharedTileWriteDone (s : State) :
    exec (.sharedTileWriteDone) s = execSharedTileWriteDone s := rfl
@[simp] theorem exec_eq_hostPortAccess (s : State) :
    exec (.hostPortAccess) s = execHostPortAccess s := rfl

end Sys2Proof.Machine
end

