-- ==== Sys2Proof/Laws/Memory.lean ====
section
/-! SUPPORT. Every operation that writes the memory of the package or of the host keeps its canonical form, and each says what
else it leaves alone. -/

namespace Sys2Proof.Machine

theorem MemSt.Canonical.rekey {m : MemSt} (h : m.Canonical) (key pa : Nat) : (m.rekey key pa).Canonical := by
  unfold MemSt.rekey
  split
  · exact h
  · refine ⟨?_, h.2⟩
    dsimp only
    exact Cells.wf_write h.1 _ _

theorem MemSt.Canonical.setHomeByte {m : MemSt} (h : m.Canonical) (key pa : Nat) (b : Byte) :
    (m.setHomeByte key pa b).Canonical :=
  ⟨Cells.wf_set (h.rekey key pa).1 pa b, (h.rekey key pa).2⟩

theorem MemSt.Canonical.homeWriteAux {m : MemSt} (h : m.Canonical) (key pa : Nat) (bs : List Byte) :
    (MemSt.homeWriteAux key m pa bs).Canonical := by
  induction bs generalizing m pa with
  | nil => exact h
  | cons b bs ih => exact ih (h.setHomeByte key pa b) (pa + 1)

/-- Bytes put at home keep the canonical form. -/
theorem State.canonical_homePut {s : State} (h : s.mem.Canonical) (host : Bool) (slot pa : Nat) (bs : List Byte) :
    (s.homePut host slot pa bs).mem.Canonical := by
  unfold State.homePut
  split
  · exact ⟨h.1, Cells.wf_write h.2 _ _⟩
  · simp only [State.updMem]
    split
    · exact h.homeWriteAux _ _ _
    · exact ⟨(h.homeWriteAux _ _ _).1, (h.homeWriteAux _ _ _).2⟩

theorem State.canonical_putNum {s : State} (h : s.mem.Canonical) (ctx va n x : Nat) : (s.putNum ctx va n x).mem.Canonical := by
  unfold State.putNum
  split
  · exact State.canonical_homePut h _ _ _ _
  · exact h

theorem State.canonical_wakeElem {s : State} (h : s.mem.Canonical) (b : Binding) (e : Nat) : (s.wakeElem b e).mem.Canonical :=
  State.canonical_putNum (State.canonical_putNum h _ _ _ _) _ _ _ _

/-- A sequence of steps that each keep the canonical form keeps it. -/
theorem State.canonical_foldl {α : Type} {f : State → α → State} (hf : ∀ s x, s.mem.Canonical → (f s x).mem.Canonical)
    (l : List α) {s : State} (h : s.mem.Canonical) : (l.foldl f s).mem.Canonical := by
  induction l generalizing s with
  | nil => exact h
  | cons x l ih => exact ih (hf s x h)

/-- A range of package memory that moves keeps the canonical form. -/
theorem Cells.wf_move {m : Cells} (h : m.wf = true) (old new n : Nat) : (m.move old new n).wf = true := by
  have key : ∀ (l : List Host.Cell) (c : Cells), c.wf = true →
      (l.foldl (fun c x => Cells.set c (x.1 - old + new) x.2) c).wf = true := by
    intro l
    induction l with
    | nil => exact fun _ h => h
    | cons x l ih => exact fun c hc => ih _ (Cells.wf_set hc _ _)
  exact key _ _ (Cells.wf_zero h _ _)

theorem MemSt.Canonical.zeroUnit {m : MemSt} (h : m.Canonical) (pa : Nat) : (m.zeroUnit pa).Canonical :=
  ⟨Cells.wf_zero h.1 _ _, h.2⟩

theorem MemSt.Canonical.raiseMark {m : MemSt} (h : m.Canonical) (host : Bool) (line n : Nat) : (m.raiseMark host line n).Canonical := by
  simp only [MemSt.raiseMark, MemSt.setDir]
  split
  · exact h
  · split <;> exact h

/-- Bytes of the device's own, and the words of a command block, keep the canonical form. -/
theorem State.canonical_devPut {s : State} (h : s.mem.Canonical) (slot pa : Nat) (bs : List Byte) : (s.devPut slot pa bs).mem.Canonical :=
  State.canonical_foldl (fun _ _ hs => hs.raiseMark _ _ _) _ (State.canonical_homePut h _ _ _ _)

theorem State.canonical_blockPut {s : State} (h : s.mem.Canonical) (a : Nat) (bs : List Byte) : (s.blockPut a bs).mem.Canonical := by
  unfold State.blockPut
  split
  · exact ⟨h.1, Cells.wf_write h.2 _ _⟩
  · exact State.canonical_devPut h _ _ _

theorem State.canonical_writeStatus {s : State} (h : s.mem.Canonical) (f : Nat) (c : Cmd) (status : Nat) :
    (s.writeStatus f c status).mem.Canonical := by
  unfold State.writeStatus State.raiseVector
  dsimp only
  split <;> exact State.canonical_blockPut h _ _

theorem State.canonical_ringPut {s : State} (h : s.mem.Canonical) (f : Nat) (r : Rec) : (s.ringPut f r).mem.Canonical := by
  unfold State.ringPut
  dsimp only
  split
  · exact h
  · simp only [State.raiseVector, State.updFunc, State.updMem, MemSt.Canonical]
    exact ⟨h.1, Cells.wf_write h.2 _ _⟩

theorem State.canonical_post {s : State} (h : s.mem.Canonical) (f : Nat) (r : Rec) : (s.post f r).mem.Canonical := by
  unfold State.post
  dsimp only
  split
  · refine State.canonical_ringPut ?_ _ _
    exact h
  · split <;> exact h

theorem State.canonical_noRoom {s : State} (h : s.mem.Canonical) (c : Cmd) (len : Nat) : (s.noRoom c len).1.mem.Canonical :=
  State.canonical_blockPut h _ _

theorem State.canonical_reset : State.reset.mem.Canonical := ⟨rfl, rfl⟩

end Sys2Proof.Machine
end

