-- ==== Sys2Proof/Tests/Slice0.lean ====
section
/-! SUPPORT. Tests. The words come from the manual (each test names its rule); `wf` refuses a term for each of its checks; and for
every statement a theorem `witness_…` shows that its hypotheses can be met: its conclusion is a case of the claim, and its
proof applies the claim to a state and operands written out here and proves every hypothesis. -/

namespace Sys2Proof.Tests

set_option Elab.async false

open Sys2Proof Sys2Proof.Machine

/-! ### Small states -/

/-- The state in which `i` is being executed by the crew that `State.loadWord` places: crew 0, warp 0. -/
def here (i : Instr) : State := { State.reset.loadWord (8 * i.size) (leNat (encodeBytes i)) with cur := some (0, 0) }

/-- The issuer of a state, total. -/
def iss (s : State) : Iss :=
  s.issuer.getD ⟨0, 0, { kind := .vector, ctx := 0, core := 0, n := 0 }, { run := ⟨0, 0, 0, .none⟩, lanes := [] }⟩

/-- An instruction runs its own effect in a state. -/
def runsIn (i : Instr) (s : State) : Bool :=
  s.issuer.isSome && !illegal i s (iss s) && poisonedLanes i (iss s) == 0

theorem runs {i : Instr} {s : State} (h : runsIn i s = true) : Runs i s (iss s) := by
  simp only [runsIn, Bool.and_eq_true, Bool.not_eq_true', beq_iff_eq] at h
  obtain ⟨⟨h1, h2⟩, h3⟩ := h
  refine ⟨?_, h2, h3⟩
  cases h4 : s.issuer with
  | none => rw [h4] at h1; cases h1
  | some I => simp [iss, h4]

theorem issuer_some {s : State} (h : s.issuer.isSome = true) : s.issuer = some (iss s) := by
  cases h4 : s.issuer with
  | none => rw [h4] at h; cases h
  | some I => simp [iss, h4]

/-- The crew and the warp of `here` changed. -/
def crew0 (f : Crew → Crew) (s : State) : State := s.updCrew 0 f
def warp0 (f : Warp → Warp) : State → State := crew0 fun c => { c with warps := c.warps.upd { run := ⟨0, 0, 0, .none⟩, lanes := [] } 0 f }
/-- Registers of the warp of `here`, ascending: a uniform word each. -/
def regs0 (r : List (Nat × Nat)) : State → State := warp0 fun w => { w with regs := r.map fun x => (x.1, .uniform (BitVec.ofNat 32 x.2)) }
/-- A side that waits for nothing. -/
def side (pc lanes : Nat) : Side := ⟨BitVec.ofNat 57 pc, BitVec.ofNat 32 lanes, 0, .none⟩

/-! ### Well-formedness: a term that each check refuses -/

/-- Encodings with a field value that R311-R328 do not allow, first half of the constructors that have one. -/
def badFields : List Instr :=
  [.reform 127 121, .beat 0 66, .btgt 127 4, .winb 68, .elect 0, .rwr 4 127, .cloc 50 14, .crd 91 2258, .cwr 5 28, .bfi none 127
   101 0 0, .and none 3 127 0 7, .or none 4 4 109 7, .xor none 4 4 19 7, .andn none 127 0 4 7, .mov none 127 19 7, .popc none 0 0
   7, .clz none 127 75 6, .ctz none 0 0 7, .brev none 4 105 7, .icmp none 15 0 4 0 0, .fadd none 0 4 4 4, .fsub none 127 24 0 7,
   .fmul none 34 0 127 7, .ffma none 71 0 0 4, .fmin none 0 0 0 7, .fmax none 127 0 40 4, .fdiv none 127 124 127 7, .fcpys none 4
   0 27 7, .fabs none 0 0 7, .fneg none 120 4 7, .frnd none 0 127 4, .ffrac none 4 0 4, .fsqrt none 4 0 7, .frcp none 0 0 4, .frsq
   none 4 127 4, .fclass none 4 69 4, .fexp2 none 127 32 4, .flog2 none 4 0 7, .fsin none 127 124 7, .fcos none 0 127 4, .ftanh
   none 4 0 7, .ferf none 63 0 4, .fsigm none 90 127 7, .fcmp none 15 0 108 0 7, .hadd2 none 50 16 4 4, .hmul2 none 127 42 4 4,
   .hfma2 none 4 79 0 7, .hmin2 none 72 31 4 4, .hmax2 none 4 21 0 0, .rng none 127 0 0 4, .cvtpk none 30 35 0 4, .cvtun none 0 87
   4]

/-- The other half. -/
def badFields2 : List Instr :=
  [.cvtif none 127 127 3 4, .cvtfi none 0 81 3 4, .cvtw none 127 127 7 4 0, .cvtn none 24 127 0 0 0, .cvtne none 0 0 4 4 3, .mand
   none 0 0 0, .mor none 0 0 6, .mxor none 0 0 13, .mandn none 0 15 15, .mnot none 0 15, .mmov none 0 0, .mset none 0 0, .wred
   none 9 0 3 7, .wscan none 79 95 0 7, .ld none 127 125 7 0 0, .st none 4 111 5 2 7, .ldl none 0 105 1 7, .stl none 4 0 0 7, .ldc
   none 0 0 7, .ldx none 127 76 7, .stx none 20 88 7, .atom none 127 0 2 7 7 0, .atomCas none 4 0 0 0 3, .atoml none 4 0 0 7 0,
   .atomlCas none 4 0 2 3, .redm none 4 127 3 4 7 0, .fenceAcq 127, .fenceRel 127, .fenceFull 127, .bar 127 127, .barTake 3 127,
   .bara 4 102, .barw 58, .barq 4 127, .pref 127 102, .rcon 127 0, .tshape 127 18, .tclr 127, .omap 127 127, .tld 71 127 127, .tst
   53 70 127, .tfeed 127 0 4, .mma 0 28 31, .mmas 127 4 127, .mmaq 52 127 127, .mzero 127, .mload 127 4, .mdrn 127 4 127, .mwait
   82, .cbld 127 0, .tlbi 127 64]

theorem test_wf_refuses_fields : ((badFields ++ badFields2).all fun i => !i.fieldsLegal && !i.wf) = true := by decide +kernel

/-- Multi-register operands that pass `v127` (R310). -/
def badEnds : List Instr :=
  [.brl 127 0, .jmpi 127, .calli 127, .spawn 127 127 4, .iadd none 127 0 120 7, .isub none 127 127 0 7, .imul none 127 92 4 3,
   .imulh none 0 4 127 3, .imulhn none 127 127 127 3, .imad none 79 127 7 7, .idiv none 16 127 4 3, .idivn none 127 127 0 3, .irem
   none 4 4 127 3, .iremn none 127 127 98 3, .iabs none 0 127 3, .imin none 4 0 127 3, .iminn none 127 0 4 3, .imax none 127 0 127
   3, .imaxn none 127 0 127 3, .bfx none 127 50 0 1, .bfxs none 127 98 4 1, .bfi none 127 0 127 7, .shl none 127 0 0 7, .shr none
   0 108 127 7, .sar none 127 4 127 7, .rol none 4 77 127 7, .and none 127 127 4 4, .or none 114 4 127 4, .xor none 4 127 0 4,
   .andn none 127 127 70 4, .mov none 127 127 4, .popc none 127 127 4, .clz none 4 127 4, .ctz none 127 1 4, .brev none 4 127 4,
   .lea none 100 127 0 4, .icmp none 1 127 22 0 7, .sel none 127 127 127 1 4, .rng none 106 0 127 0, .cvtif none 0 127 0 7, .cvtfi
   none 127 127 0 3, .shfl none 127 51 13 1 1, .ld none 0 127 0 0 4, .st none 4 127 7 1 1, .ldl (some (pfxOf 0xEC0000E0#32)) 127
   64 0 6, .stl none 127 69 0 3, .ldc none 86 127 0, .ldx none 127 127 4, .stx none 127 127 3, .atom none 68 127 0 0 5 3, .atomCas
   (some (pfxOf 0xEC0000E0#32)) 4 127 0 4 0, .atoml none 127 0 0 4 3, .atomlCas (some (pfxOf 0xEC0000E0#32)) 127 19 0 3, .redm
   none 0 127 0 7 0 0, .pref 127 0, .cinv 127 0, .cwb 127 29, .cfls 127 108, .ract 127, .rcon 4 127, .rconWs 127 0, .rcls 127,
   .rstat 0 127, .tshape 4 127, .omap 4 127, .tld 0 127 127, .tst 0 127 4, .tfeed 4 0 127, .mload 4 127, .mdrn 4 0 127, .scpl 127
   127, .cbld 0 127, .tlbi 127 0, .xcCopy 4 127 127, .xcTcopy 121 127 0, .xcGath 50 127 127, .xcScat 0 127 0, .xcFill 81 127 94,
   .swBind 127 127 83, .swPass 62 103 127, .swWake 65 62 127, .swStat 127 127 127, .gpBind 4 127 4, .gpMask 4 127 127, .gpSave 41
   127 127, .gpLoad 9 0 127, .dtBuild 4 127, .ptLook 127 127, .ptPin 127 127, .ptIns 4 127 0, .ksZero 115 100 127]

theorem test_wf_refuses_ends : (badEnds.all fun i => i.fieldsLegal && !i.wf) = true := by decide +kernel

/-- R309, R279: a rounding override where the instruction reads no mode, a reserved override, a fourth operand that nothing reads, and the
forms that need a prefix. -/
theorem test_wf_refuses_prefixes :
    ([Instr.iadd (some ⟨0, false, 1, 0, 0⟩) 4 8 12 2, .fadd (some ⟨0, false, 6, 0, 0⟩) 4 8 12 0, .fadd (some ⟨0, false, 0, 0, 4⟩) 4 8 12 0,
      .fadd (some ⟨0, false, 0, 9, 0⟩) 4 8 12 0, .cvtne none 10 4 2 0 0, .atomCas none 4 10 3 5 0, .atomlCas none 4 10 3 0].all
      fun i => !i.wf) = true := by decide +kernel

/-- A step without a word is no well-formed instruction, nor is a row under another row's constructor (R136, R186, R360, R471). -/
theorem test_wf_refuses_rows :
    ([Instr.powerOn, .cwr 4 7, .cwr 4 76, .cwr 4 0x60, .swBind 4 0 9, .swUnbind 4 0].all fun i => !i.wf) = true := by decide +kernel

/-! ### Decoding of words that the manual writes out, and of words put together from its encoding tables -/

/-- The word decodes to the instruction, and the instruction encodes to the word. -/
def isWord (w : Nat) (i : Instr) : Bool :=
  (match decodeBytes (bytesLE 4 w) with | .ok (j, n) => j == i && n == 4 | .error _ => false) && encodeBytes i == bytesLE 4 w && i.wf
/-- The same of a prefixed pair. -/
def isPair (p w : Nat) (i : Instr) : Bool :=
  (match decodeBytes (bytesLE 4 p ++ bytesLE 4 w) with | .ok (j, n) => j == i && n == 8 | .error _ => false)
    && encodeBytes i == bytesLE 4 p ++ bytesLE 4 w && i.wf

/-- The listing of R366, the example after R344 to R359 (`BTGT`, `BEAT`, `LOOP`), and `BRA`, `BRX` and `EXIT` by R317 and R319. -/
theorem test_decode_control :
    (isWord 0x24200020 (.crd 4 32) && isWord 0x2000402B (.btgt 4 1) && isWord 0x2000A00A (.beat 10 0) && isWord 0x1867FFFC (.loop 12
      (-4)) && isWord 0x04000002 (.bra 2) && isWord 0x084FFFFE (.brx 1 (-2)) && isWord 0x20000003 (.exit)) = true := by decide +kernel

/-- The listing of R366: `MOVI v5, 3`, `IMUL.S32 v6, v4, v5`, `IADDI v7, v6, 16`, `ICMP.LT.S32 m2, v4, v5`, `IADD.S32 v8, v7, v4 : m2` and
`LEA v10, v12, v7, 2`. -/
theorem test_decode_integer :
    (isWord 0x58280003 (.movi none 5 3) && isWord 0x303040B2 (.imul none 6 4 5 2) && isWord 0x54386010 (.iaddi none 7 6 16) && isWord
      0x4C1040B2 (.icmp none 2 4 5 2 2) && isWord 0x4850C0EA (.lea none 10 12 7 2) && isPair 0xEC800000 0x30407082 (.iadd (some ⟨2,
      false, 0, 0, 0⟩) 8 7 4 2)) = true := by decide +kernel

/-- `SHFL.XOR.B32 v20, v21, v22`, `CVTNE.BF16.F32 v10, v4, 0, v11` as the manual prints them; `FADD.F32 v4, v8, v12`, `MAND m2, m3, m4` and
`VOTE.ANY v4, m3` by R320 and R323. -/
theorem test_decode_vector :
    (isWord 0x98A152DA (.shfl none 20 21 22 3 0) && isPair 0xEC005800 0x8C504210 (.cvtne (some ⟨0, false, 0, 11, 0⟩) 10 4 2 0 0) &&
      isWord 0x60208180 (.fadd none 4 8 12 0) && isWord 0x90103080 (.mand none 2 3 4) && isWord 0x9C203000 (.voteAny none 4 3)) = true
      := by decide +kernel

/-- The words of R402 and of the examples of its chapter. -/
theorem test_decode_memory :
    (isWord 0xA8302004 (.ld none 6 2 0 0 4) && isWord 0xAC40C0B3 (.st none 8 12 5 2 3) && isWord 0xB0289003 (.ldl none 5 9 0 3) &&
      isWord 0xB028901A (.stl none 5 9 1 2) && isWord 0xB448C00C (.ldx none 9 12 4) && isWord 0xB820A0A1 (.atom none 4 10 0 5 0 1) &&
      isPair 0xEC003800 0xB820A3BC (.atomCas (some ⟨0, false, 0, 7, 0⟩) 4 10 3 5 0) && isWord 0xC020A2B8 (.redm none 4 10 2 5 6 0) &&
      isWord 0xC4000062 (.fenceFull 3) && isWord 0xC4000023 (.bar 0 1) && isWord 0xC4480043 (.barTake 1 2) && isWord 0xC4380046 (.barq 7
      2) && isWord 0xC80142A6 (.bcw 20 21) && isWord 0xCC01E000 (.ract 30) && isWord 0xCC19E001 (.rcon 3 30) && isWord 0xCC01E402
      (.rconWs 30 32) && isWord 0xE8028000 (.tlbi 40 0)) = true := by decide +kernel

/-- The words of R430 and of the examples of its chapter. -/
theorem test_decode_matrix :
    (isWord 0xD0194000 (.tshape 3 20) && isWord 0xD0100001 (.tclr 2) && isWord 0xD0098002 (.omap 1 24) && isWord 0xD000A183 (.tld 0 10
      12) && isWord 0xD020A184 (.tst 4 10 12) && isWord 0xD00850C5 (.tfeed 1 5 6) && isWord 0xD4100022 (.mmaq 2 0 1) && isWord
      0xD8100000 (.mzero 2) && isWord 0xD809E001 (.mload 1 30) && isWord 0xD8128602 (.mdrn 2 40 48) && isWord 0xDC007000 (.mcoop 7) &&
      isWord 0xDC000041 (.mwait 2) && isWord 0xDC000002 (.mfence) && isWord 0xE000A180 (.scpl 10 12) && isWord 0xE0009001 (.scinv 9) &&
      isWord 0xE0409002 (.scq 8 9) && isWord 0xE018E003 (.cbld 3 14)) = true := by decide +kernel

/-- The words of R462, R471, R472 and R474 and of their examples. -/
theorem test_decode_commands :
    (isWord 0xF1250B00 (.xcCopy 9 20 22) && isWord 0xF0E24005 (.xcStat 7 9) && isWord 0xF0828621 (.swPass 4 10 12) && isWord 0xF0A204B1
      (.gpStep 5 8 9) && isWord 0xF0478040 (.dtBuild 2 30) && isWord 0xF0C50049 (.ptPin 6 20) && isWord 0xF000C059 (.ksZero 0 3 0)) =
      true := by decide +kernel

/-- R309, R315, R328: bits [7:0] of a prefix are zero, a prefix precedes no control instruction and no prefix, and an encoding that no row names
is refused. -/
theorem test_decode_refuses :
    ([[0xEC800001, 0x30407082], [0xEC800000, 0x04000002], [0xEC800000, 0xEC800000], [0xEC800000], [0x00000000], [0xFFFFFFFF]].all fun ws =>
      match decodeBytes (ws.flatMap (bytesLE 4)) with | .ok _ => false | .error _ => true) = true := by decide +kernel

/-- The fixed names of the host: the decoder on the table's bits, and a step on the placed word (R366: `MOVI v5, 3`). -/
theorem test_table_word : decodeTableWord 32 0x58280003 = some (.movi none 5 3) := by decide +kernel
theorem test_fetch_word :
    (match step (State.reset.withFetchWord 32 0x58280003) with
      | .next t => (iss { t with cur := some (0, 0) }).warp.lane 5 7 == 3#32 && (iss { t with cur := some (0, 0) }).warp.run.pc == 0x10004#57
      | _ => false) = true := by decide +kernel

/-! ### Instructions that run: hypotheses on the state and the operands alone can be met for every constructor with a word -/

def samples_integer : List Instr :=
  [.iadd none 4 8 12 0, .isub none 4 8 12 0, .imul none 4 8 12 0, .imulh none 4 8 12 0, .imulhn none 4 8 12 0, .iabs none 4 8 0,
   .imin none 4 8 12 0, .iminn none 4 8 12 0, .imax none 4 8 12 0, .imaxn none 4 8 12 0, .shl none 4 8 12 0, .shr none 4 8 12 0,
   .sar none 4 8 12 0, .rol none 4 8 12 0, .and none 4 8 12 0, .or none 4 8 12 0, .xor none 4 8 12 0, .andn none 4 8 12 0, .mov
   none 4 8 0, .popc none 4 8 0, .clz none 4 8 0, .ctz none 4 8 0, .brev none 4 8 0, .imad none 4 8 12 0, .bfx none 4 8 12 0,
   .bfxs none 4 8 12 0, .bfi none 4 8 12 2, .lea none 4 8 12 0, .sel none 4 8 12 0 0, .iaddi none 4 8 0, .movi none 4 0, .movh
   none 4 0, .idiv none 4 8 12 0, .idivn none 4 8 12 0, .irem none 4 8 12 0, .iremn none 4 8 12 0]

theorem witness_runs_integer : (samples_integer.all fun i => i.wf && runsIn i (here i)) = true := by decide +kernel

def samples_float : List Instr :=
  [.fadd none 4 8 12 0, .fsub none 4 8 12 0, .fmul none 4 8 12 0, .ffma none 4 8 12 0, .fmin none 4 8 12 0, .fmax none 4 8 12 0,
   .fdiv none 4 8 12 0, .fcpys none 4 8 12 0, .fabs none 4 8 0, .fneg none 4 8 0, .frnd none 4 8 0, .ffrac none 4 8 0, .fsqrt none
   4 8 0, .frcp none 4 8 0, .frsq none 4 8 0, .fclass none 4 8 0, .fexp2 none 4 8 0, .flog2 none 4 8 0, .fsin none 4 8 0, .fcos
   none 4 8 0, .ftanh none 4 8 0, .ferf none 4 8 0, .fsigm none 4 8 0, .hadd2 none 4 8 12 2, .hmul2 none 4 8 12 2, .hfma2 (some
   (pfxOf 0xEC003800#32)) 4 8 12 1, .hmin2 none 4 8 12 2, .hmax2 none 4 8 12 2, .rng none 4 8 12 0, .cvtpk none 4 8 12 2, .cvtun
   none 4 8 2, .cvtif none 4 8 0 0, .cvtfi none 4 8 0 0, .cvtw none 4 8 0 5 0, .cvtn none 4 8 4 1 1, .cvtne (some (pfxOf
   0xEC003800#32)) 4 8 3 2 2]

theorem witness_runs_float : (samples_float.all fun i => i.wf && runsIn i (here i)) = true := by decide +kernel

def samples_cross_lane : List Instr :=
  [.mget none 4 0, .mpop none 4 0, .mffs none 4 0, .shfl none 4 8 12 0 0, .wred none 4 8 0 0, .wscan none 4 8 0 0, .winq 4, .tagq
   4 8, .voteAny none 4 0, .voteAll none 4 0, .voteUni none 4 8, .mand none 2 2 2, .mor none 2 2 2, .mxor none 2 2 2, .mandn none
   2 2 2, .mnot none 2 2, .mmov none 2 2, .mset none 2 4, .elect 1, .icmp none 2 4 8 2 2, .fcmp none 2 4 8 2 2]

theorem witness_runs_cross_lane : (samples_cross_lane.all fun i => i.wf && runsIn i (here i)) = true := by decide +kernel

def samples_control_flow : List Instr :=
  [.bra 0, .call 0, .trap 0, .brx 0 0, .brxAny 0 0, .brxAll 0 0, .brn 0 0, .brnAny 0 0, .brnAll 0 0, .brd 0 0, .brl 4 0, .loop 4
   0, .jmpi 4, .calli 4, .reform 4 8, .winb 4, .tagg 4, .nop, .ret, .rjoin, .exit, .yield, .tret]

theorem witness_runs_control_flow : (samples_control_flow.all fun i => i.wf && runsIn i (here i)) = true := by decide +kernel

def samples_memory : List Instr :=
  [.ld none 4 8 0 0 0, .st none 4 8 0 0 0, .ldl none 4 8 0 0, .stl none 4 8 0 0, .ldc none 4 8 0, .ldx none 4 8 0, .stx none 4 8
   0, .atom none 4 8 0 0 0 0, .atomCas (some (pfxOf 0xEC003800#32)) 4 8 1 1 1, .atoml none 4 8 0 0 0, .atomlCas (some (pfxOf
   0xEC003800#32)) 4 8 1 1, .redm none 4 8 0 0 0 0, .fenceAcq 4, .fenceRel 4, .fenceFull 4, .bar 4 8, .barTake 0 4, .bara 4 8,
   .barw 4, .barq 4 8, .pres 4 8, .pclr 4, .pset 4, .pref 4 1, .cinv 4 8, .cwb 4 8, .cfls 4 8, .bci 4 8, .bca 4 8, .bcw 4 8, .tlbi
   4 1, .ifence]

theorem witness_runs_memory : (samples_memory.all fun i => i.wf && runsIn i (here i)) = true := by decide +kernel

def samples_registers : List Instr :=
  [.cwrQcfg 4, .cwrTkill 4, .cwrArv 4 0, .crd 4 0, .cwr 4 0, .arrw 4 8 12 0, .beat 5 2, .btgt 77 1, .spawn 4 8 12, .cancel 4, .rwr
   89 1, .cwait 4 8, .cwake 4, .cloc 93 0]

theorem witness_runs_registers : (samples_registers.all fun i => i.wf && runsIn i (here i)) = true := by decide +kernel

def samples_rows_and_tiles : List Instr :=
  [.ract 4, .rcon 4 8, .rconWs 4 8, .rcls 4, .rstat 4 8, .tshape 4 8, .tclr 4, .omap 4 8, .tld 4 8 12, .tst 4 8 12, .tfeed 4 8 12,
   .mma 4 8 12, .mmas 4 8 12, .mmaq 4 8 12, .mzero 4, .mload 4 8, .mdrn 4 8 12, .mcoop 4, .mwait 2, .mfence, .scpl 4 8, .scinv 4,
   .scq 4 8, .cbld 4 8]

theorem witness_runs_rows_and_tiles : (samples_rows_and_tiles.all fun i => i.wf && runsIn i (here i)) = true := by decide +kernel

def samples_commands : List Instr :=
  [.xcCopy 4 8 12, .xcTcopy 4 8 12, .xcGath 4 8 12, .xcScat 4 8 12, .xcFill 4 8 12, .xcStat 4 8, .xcCanc 4 8, .swBind 4 8 12,
   .swUnbind 4 8, .swPass 4 8 12, .swWake 4 8 12, .swStat 4 8 12, .gpBind 4 8 12, .gpStep 4 8 12, .gpMask 4 8 12, .gpFork 4 8 12,
   .gpRoll 4 8 12, .gpSave 4 8 12, .gpLoad 4 8 12, .dtBuild 4 8, .ptLook 4 8, .ptPin 4 8, .ptUnpin 4 8, .ptIns 4 8 12, .ptEvict 4
   8, .xcScrb 4 8, .ksZero 4 8 12]

theorem witness_runs_commands : (samples_commands.all fun i => i.wf && runsIn i (here i)) = true := by decide +kernel

/-! ### Hypotheses that can be met: arithmetic, cross-lane instructions and control flow -/

theorem witness_IntegerElements (h : Claims.IntegerElements) :
    ∃ t, exec (.iadd none 4 8 12 3) (regs0 [(8, 5), (12, 0xFFFFFFFF)] (here (.iadd none 4 8 12 3))) = .next t :=
  let ⟨t, ht, _⟩ := h _ _ _ (iss (regs0 [(8, 5), (12, 0xFFFFFFFF)] (here (.iadd none 4 8 12 3)))) rfl (runs (by decide +kernel))
  ⟨t, ht⟩

theorem witness_RawElements (h : Claims.RawElements) : ∃ t, exec (.brev none 4 8 4) (here (.brev none 4 8 4)) = .next t :=
  let ⟨t, ht, _⟩ := h _ _ _ (iss (here (.brev none 4 8 4))) rfl (runs (by decide +kernel))
  ⟨t, ht⟩

theorem witness_IntegerValues (h : Claims.IntegerValues) : ∃ t, exec (.lea none 10 12 7 2) (here (.lea none 10 12 7 2)) = .next t :=
  let ⟨t, ht, _⟩ := h _ _ _ (iss (here (.lea none 10 12 7 2))) rfl (runs (by decide +kernel))
  ⟨t, ht⟩

/-- A division of the most negative value by minus one with both traps off. -/
def divState : State := crew0 (fun c => { c with ten := 0 }) (regs0 [(8, 0x80000000), (12, 0xFFFFFFFF)] (here (.idiv none 4 8 12 2)))

theorem witness_DivisionCompletes (h : Claims.DivisionCompletes) : ∃ t, exec (.idiv none 4 8 12 2) divState = .next t :=
  let ⟨t, _, _, ht, _⟩ := h (.idiv none 4 8 12 2) _ _ divState (iss divState) rfl (runs (by decide +kernel)) (by
    intro l hl _
    have h0 : (iss divState).crew.ten.getLsbD 0 = false := by decide +kernel
    have h1 : (iss divState).crew.ten.getLsbD 1 = false := by decide +kernel
    rw [h0, h1]
    exact ⟨fun h => Bool.noConfusion h.1, fun h => Bool.noConfusion h.1⟩)
  ⟨t, ht⟩

/-- The same with the overflow trap on. -/
def divTrap : State := crew0 (fun c => { c with ten := 2 }) (regs0 [(8, 0x80000000), (12, 0xFFFFFFFF)] (here (.idiv none 4 8 12 2)))

theorem witness_DivisionTraps (h : Claims.DivisionTraps) :
    exec (.idiv none 4 8 12 2) divTrap = .next (divTrap.takeTrap { cause := cINTOV, detail := 2, lanes := 0xFFFFFFFF }) :=
  h (.idiv none 4 8 12 2) _ _ divTrap (iss divTrap) rfl (runs (by decide +kernel)) 0 0xFFFFFFFF 0xFFFFFFFF
    (by simp only [ElemForm.DivZero]; decide +kernel) (by simp only [ElemForm.DivOverflow]; decide +kernel) (by decide +kernel) (by decide)

theorem witness_FloatResults (h : Claims.FloatResults) :
    ∃ t, exec (.fadd none 4 8 12 0) (regs0 [(8, 0x3F800000), (12, 0x7F800000)] (here (.fadd none 4 8 12 0))) = .next t :=
  let ⟨t, ht, _⟩ := h _ _ _ (iss (regs0 [(8, 0x3F800000), (12, 0x7F800000)] (here (.fadd none 4 8 12 0)))) rfl (runs (by decide +kernel))
  ⟨t, ht⟩

theorem witness_NarrowWithResidual (h : Claims.NarrowWithResidual) :
    ∃ t, exec (.cvtne (some ⟨0, false, 0, 11, 0⟩) 10 4 2 0 0) (here (.cvtne (some ⟨0, false, 0, 11, 0⟩) 10 4 2 0 0)) = .next t :=
  let ⟨t, _, _, ht, _⟩ := h ⟨0, false, 0, 11, 0⟩ 10 4 2 0 0 _ (iss (here (.cvtne (some ⟨0, false, 0, 11, 0⟩) 10 4 2 0 0)))
    (runs (by decide +kernel))
  ⟨t, ht⟩

theorem witness_WarpResults (h : Claims.WarpResults) : ∃ t, exec (.wscan none 4 8 0 3) (here (.wscan none 4 8 0 3)) = .next t :=
  let ⟨t, ht, _⟩ := h _ _ _ (iss (here (.wscan none 4 8 0 3))) rfl (runs (by decide +kernel))
  ⟨t, ht⟩

/-- A vote with every lane, and one with none. -/
theorem witness_Votes (h : Claims.Votes) :
    (∃ v : Nat, ∃ t, exec (.voteAll none 4 3) (here (.voteAll none 4 3)) = .next t ∧
      WritesReg (iss (here (.voteAll none 4 3))) (here (.voteAll none 4 3)) t none 4 1 (fun _ => v) 0) ∧
    exec (.voteAll (some ⟨3, false, 0, 0, 0⟩) 4 3) (here (.voteAll (some ⟨3, false, 0, 0, 0⟩) 4 3)) =
      .next ((iss (here (.voteAll (some ⟨3, false, 0, 0, 0⟩) 4 3))).retiredWith (here (.voteAll (some ⟨3, false, 0, 0, 0⟩) 4 3))
        (iss (here (.voteAll (some ⟨3, false, 0, 0, 0⟩) 4 3))).warp 0 8) := by
  constructor
  · obtain ⟨t, ht, h1, _⟩ := h (.voteAll none 4 3) _ _ _ _ (iss (here (.voteAll none 4 3))) rfl (runs (by decide +kernel))
    obtain ⟨v, hv, _⟩ := h1 (by decide +kernel)
    exact ⟨v, t, ht, hv⟩
  · obtain ⟨t, ht, _, h2⟩ := h (.voteAll (some ⟨3, false, 0, 0, 0⟩) 4 3) _ _ _ _ (iss (here (.voteAll (some ⟨3, false, 0, 0, 0⟩) 4 3))) rfl (runs (by decide +kernel))
    rw [ht, h2 (by decide +kernel)]; rfl

theorem witness_MaskResults (h : Claims.MaskResults) : ∃ t, exec (.icmp none 2 4 5 2 2) (here (.icmp none 2 4 5 2 2)) = .next t :=
  let ⟨t, ht, _⟩ := h _ _ _ (iss (here (.icmp none 2 4 5 2 2))) rfl (runs (by decide +kernel))
  ⟨t, ht⟩

/-- A warp whose lanes 0 to 15 hold 1 in `m1`. -/
def splitMask (i : Instr) : State := warp0 (fun w => { w with masks := [(1, 0xFFFF)] }) (here i)

theorem witness_BranchResolves (h : Claims.BranchResolves) : ∃ t, exec (.brx 1 2) (splitMask (.brx 1 2)) = .next t :=
  let ⟨_, _, ht⟩ := h (.brx 1 2) _ (splitMask (.brx 1 2)) (iss (splitMask (.brx 1 2))) rfl (runs (by decide +kernel)) (by decide +kernel)
    (by decide +kernel) (by decide +kernel)
  ⟨_, ht⟩

/-- The same with sixteen sides waiting. -/
def fullList (i : Instr) : State :=
  warp0 (fun w => { w with masks := [(1, 0xFFFF)], div := (List.range 16).map fun k => side (0x20000 + 4 * k) 0 }) (here i)

theorem witness_BranchOverflows (h : Claims.BranchOverflows) :
    exec (.brx 1 2) (fullList (.brx 1 2)) = .next ((fullList (.brx 1 2)).takeTrap { cause := cDIVERGE, lanes := 0xFFFFFFFF }) :=
  h (.brx 1 2) _ (fullList (.brx 1 2)) (iss (fullList (.brx 1 2))) rfl (runs (by decide +kernel)) (by decide +kernel) (by decide +kernel)
    (by decide +kernel)

/-- One side waits at another place. -/
def oneWaits (i : Instr) : State := warp0 (fun w => { w with masks := [(1, 0xFFFF)], div := [side 0x20000 0] }) (here i)

theorem witness_BackwardBranchYields (h : Claims.BackwardBranchYields) : ∃ t, exec (.bra (-4)) (oneWaits (.bra (-4))) = .next t :=
  let ⟨_, _, ht⟩ := h (.bra (-4)) _ (oneWaits (.bra (-4))) (iss (oneWaits (.bra (-4)))) (side 0x20000 0) [] rfl (runs (by decide +kernel))
    (by decide +kernel) (by decide +kernel) (by decide +kernel) (by decide +kernel) rfl (by decide +kernel)
  ⟨_, ht⟩

theorem witness_BackwardSplitYields (h : Claims.BackwardSplitYields) : ∃ t, exec (.brx 1 (-4)) (oneWaits (.brx 1 (-4))) = .next t :=
  let ⟨_, _, ht⟩ := h (.brx 1 (-4)) _ (oneWaits (.brx 1 (-4))) (iss (oneWaits (.brx 1 (-4)))) rfl (runs (by decide +kernel))
    (by decide +kernel) (by decide +kernel) (by decide +kernel) (by decide +kernel) (by decide +kernel) (by decide +kernel)
  ⟨_, ht⟩

theorem witness_BrdSplits (h : Claims.BrdSplits) : ∃ t, exec (.brd 1 2) (splitMask (.brd 1 2)) = .next t :=
  let ⟨t, _, _, ht, _⟩ := h 1 2 (splitMask (.brd 1 2)) (iss (splitMask (.brd 1 2))) (runs (by decide +kernel)) (by decide +kernel)
    (by decide +kernel) (by decide +kernel) (by decide +kernel) (by decide +kernel) (by decide +kernel)
  ⟨t, ht⟩

/-- Lanes below 16 jump to 0x20000, the others to 0x20010. -/
def twoTargets (i : Instr) : State :=
  warp0 (fun w => { w with regs := [(8, .general ((List.range 32).map fun l => if l < 16 then 0x20000 else 0x20010))] }) (here i)

theorem twoTargets_tgt : ∀ l, l < 32 → (iss (twoTargets (.jmpi 8))).warp.laneNat 8 l 2 = if l < 16 then 0x20000 else 0x20010 := by
  decide +kernel

theorem witness_JumpGroups (h : Claims.JumpGroups) : ∃ t, exec (.jmpi 8) (twoTargets (.jmpi 8)) = .next t :=
  let ⟨_, _, _, _, ht, _⟩ := h (.jmpi 8) 8 (twoTargets (.jmpi 8)) (iss (twoTargets (.jmpi 8))) rfl (runs (by decide +kernel))
    (by decide +kernel) (by decide +kernel) (by
      intro gs hn hm
      have h0 : (iss (twoTargets (.jmpi 8))).warp.div.length = 0 := by decide +kernel
      have hs : gs ⊆ [0x20000, 0x20010] := by
        intro x hx
        obtain ⟨l, hl, _, rfl⟩ := hm x hx
        simp only [twoTargets_tgt l hl]
        split <;> simp
      have := hn.subperm hs |>.length_le
      simp only [List.length_cons, List.length_nil] at this
      omega)
  ⟨_, ht⟩

theorem witness_JumpMisaligned (h : Claims.JumpMisaligned) :
    exec (.jmpi 8) (regs0 [(8, 0x20002)] (here (.jmpi 8))) =
      .next ((regs0 [(8, 0x20002)] (here (.jmpi 8))).takeTrap { cause := cILLEGAL, lanes := 0xFFFFFFFF }) :=
  h (.jmpi 8) 8 _ (iss (regs0 [(8, 0x20002)] (here (.jmpi 8)))) 0xFFFFFFFF rfl (runs (by decide +kernel)) (by decide +kernel) (by decide)

/-- `WINB` at the largest base that NREGS = 32 allows, and beyond it. -/
theorem witness_FlowSteps (h : Claims.FlowSteps) :
    (∃ t, exec .nop (here .nop) = .next t) ∧ (∃ t, exec .rjoin (here .rjoin) = .next t) ∧ (∃ t, exec .yield (here .yield) = .next t) ∧
    (∃ t, exec (.winb 1) (crew0 (fun c => { c with nregs := 32 }) (here (.winb 1))) = .next t) ∧
    exec (.winb 2) (crew0 (fun c => { c with nregs := 32 }) (here (.winb 2))) =
      .next ((crew0 (fun c => { c with nregs := 32 }) (here (.winb 2))).takeTrap illegalT) ∧
    ∃ t, exec (.tagg 4) (here (.tagg 4)) = .next t :=
  ⟨⟨_, (h _ (iss (here .nop))).1 (runs (by decide +kernel))⟩,
   ⟨_, (h _ (iss (here .rjoin))).2.1 (runs (by decide +kernel)) (by decide +kernel)⟩,
   ⟨_, (h _ (iss (here .yield))).2.2.1 (runs (by decide +kernel)) (by decide +kernel)⟩,
   ⟨_, (h _ (iss (crew0 (fun c => { c with nregs := 32 }) (here (.winb 1))))).2.2.2.1 1 (runs (by decide +kernel)) (by decide +kernel)
      (by decide +kernel)⟩,
   (h _ (iss (crew0 (fun c => { c with nregs := 32 }) (here (.winb 2))))).2.2.2.2.1 2 (runs (by decide +kernel)) (by decide +kernel),
   let ⟨_, ht, _⟩ := (h _ (iss (here (.tagg 4)))).2.2.2.2.2 4 (runs (by decide +kernel)); ⟨_, ht⟩⟩

theorem witness_YieldSwitches (h : Claims.YieldSwitches) : ∃ t, exec .yield (oneWaits .yield) = .next t :=
  ⟨_, h .yield (oneWaits .yield) (iss (oneWaits .yield)) (side 0x20000 0) [] (.inr rfl) (runs (by decide +kernel)) (by decide +kernel)
    (by decide +kernel) rfl (by decide +kernel)⟩

/-! ### Hypotheses that can be met: memory and the scratchpad -/

/-- Lane `l` names address 0x10100 + 4 l, in the page of the code; `v4` holds 7. -/
def memRegs : Tbl VReg := [(4, .uniform 7), (8, .general ((List.range 32).map fun l => BitVec.ofNat 32 (0x10100 + 4 * l)))]
def atMem (i : Instr) : State := warp0 (fun w => { w with regs := memRegs }) (here i)
/-- The same with progress index 3 pending. -/
def atMem3 (i : Instr) : State := warp0 (fun w => { w with pending := some (0x10000, 3) }) (atMem i)
/-- Every lane reaches the page of the code. -/
def acc0 : Nat → TlbEnt × Option TlbEnt := fun _ => (loadTlb 0, none)

theorem mirrors (s : State) (k : Nat) (h1 : (s.core k).wbuf = []) (h2 : (s.core k).l1 = []) (h3 : s.allBindings = []) : s.Mirrors k :=
  ⟨h1, by simp [h2], by simp [h2], by simp [h2], by simp [h3], by
    have h4 : s.bindings = [] := List.append_eq_nil_iff.mp h3 |>.1
    simp [h4]⟩

/-- A crew that is no cue crew writes no element's data as the run of that element. -/
theorem elsewhere {I : Iss} {s : State} {a : BitVec 7} {n : Nat} (h : I.crew.kind ≠ .cue) : I.Elsewhere s a n := fun c => absurd c h

/-- With no dirty, keyed, owned or poisoned memory the checks are all that an access needs. -/
theorem reaches {I : Iss} {s : State} {q : Need} {a : BitVec 7} {e : BitVec 32}
    (hc : ∀ l, l < 32 → e.getLsbD l = true →
      s.checkAccess I.crew.core I.crew.ctx (I.warp.laneNat a l 2) I.warp.badPages q = .ok (acc0 l).1 (acc0 l).2)
    (hm : s.mem.dir = [] ∧ s.mem.hostDir = [] ∧ s.mem.keyTag = [] ∧ s.mem.poison = [] ∧ (s.core I.crew.core).l1 = []) :
    I.Reaches s q a e acc0 := by
  obtain ⟨h1, h2, h3, h4, h5⟩ := hm
  refine ⟨hc, ?_, ?_, by simp [h4]⟩
  · intro l _ _ c _
    unfold MemSt.dirOf
    rw [h1, h2]
    cases c.1 <;> rfl
  · intro l _ _ i _
    exact ⟨fun _ k _ => by rw [h3]; rfl, by simp [h5]⟩

theorem witness_Loads (h : Claims.Loads) : ∃ t, exec (.ld none 4 8 0 0 4) (atMem (.ld none 4 8 0 0 4)) = .next t :=
  let ⟨t, ht, _⟩ := h none 4 8 0 0 4 (atMem (.ld none 4 8 0 0 4)) (iss (atMem (.ld none 4 8 0 0 4))) acc0 (runs (by decide +kernel))
    (mirrors _ _ (by decide +kernel) (by decide +kernel) (by decide +kernel))
    (reaches (by decide +kernel) (by decide +kernel))
  ⟨t, ht⟩

theorem witness_LoadsConstant (h : Claims.LoadsConstant) : ∃ t, exec (.ldc none 4 8 4) (atMem (.ldc none 4 8 4)) = .next t :=
  let ⟨t, ht, _⟩ := h none 4 8 4 (atMem (.ldc none 4 8 4)) (iss (atMem (.ldc none 4 8 4))) acc0 (runs (by decide +kernel))
    (mirrors _ _ (by decide +kernel) (by decide +kernel) (by decide +kernel)) (by decide +kernel)
    (reaches (by decide +kernel) (by decide +kernel))
  ⟨t, ht⟩

theorem witness_GathersLanes (h : Claims.GathersLanes) : ∃ t, exec (.ldx none 4 8 4) (atMem3 (.ldx none 4 8 4)) = .next t :=
  let ⟨t, _, _, ht, _⟩ := h none 4 8 4 (atMem3 (.ldx none 4 8 4)) (iss (atMem3 (.ldx none 4 8 4))) acc0 3 (runs (by decide +kernel))
    (mirrors _ _ (by decide +kernel) (by decide +kernel) (by decide +kernel)) (by decide +kernel)
    (reaches (by decide +kernel) (by decide +kernel))
  ⟨t, ht⟩

/-- A plain store, and an SR store of package scope, which waits in the write buffers. -/
theorem witness_Stores (h : Claims.Stores) :
    (∃ t, exec (.st none 4 8 0 0 2) (atMem (.st none 4 8 0 0 2)) = .next t) ∧
    ∃ t, exec (.st none 4 8 5 1 2) (atMem (.st none 4 8 5 1 2)) = .next t :=
  ⟨let ⟨t, _, _, ht, _⟩ := h none 4 8 0 0 2 (atMem (.st none 4 8 0 0 2)) (iss (atMem (.st none 4 8 0 0 2))) acc0 (runs (by decide +kernel))
    (mirrors _ _ (by decide +kernel) (by decide +kernel) (by decide +kernel)) (elsewhere (by decide +kernel))
    (reaches (by decide +kernel) (by decide +kernel)) (by intro l m _ _ hn; exact absurd rfl hn)
   ⟨t, ht⟩,
   let ⟨t, _, _, ht, _⟩ := h none 4 8 5 1 2 (atMem (.st none 4 8 5 1 2)) (iss (atMem (.st none 4 8 5 1 2))) acc0 (runs (by decide +kernel))
    (mirrors _ _ (by decide +kernel) (by decide +kernel) (by decide +kernel)) (elsewhere (by decide +kernel))
    (reaches (by decide +kernel) (by decide +kernel)) (by intro l m _ _ hn; exact absurd rfl hn)
   ⟨t, ht⟩⟩

/-- A tensor of 32 words at 0x10100, and a cue crew whose lane `l` runs its element `l`. -/
def words0 : Binding :=
  { ctx := 0, dbase := 0x10100, cbase := 0, sbase := 0, ubase := 0, nelem := 32, esize := 2, stw := false, ncore := 1, cue := 0, cparm := 0 }
def cueMem (i : Instr) : State :=
  { crew0 (fun c => { c with kind := .cue }) (atMem i) with bindings := [(0, words0)] }

/-- Its words stay hidden. -/
theorem witness_RunsStoreHidden (h : Claims.RunsStoreHidden) :
    ∃ t, exec (.st none 4 8 0 0 2) (cueMem (.st none 4 8 0 0 2)) = .next t :=
  let i : Instr := .st none 4 8 0 0 2
  let ⟨_, ht, _⟩ := h none 4 8 0 2 (cueMem i) (iss (cueMem i)) words0 acc0
    (runs (by decide +kernel)) (by decide +kernel) (by decide +kernel) (by decide +kernel)
    (reaches (by decide +kernel) (by decide +kernel)) (by decide +kernel) (by decide +kernel)
  ⟨_, ht⟩

theorem witness_ScattersLanes (h : Claims.ScattersLanes) : ∃ t, exec (.stx none 4 8 2) (atMem3 (.stx none 4 8 2)) = .next t :=
  let ⟨_, ht, _⟩ := h none 4 8 2 (atMem3 (.stx none 4 8 2)) (iss (atMem3 (.stx none 4 8 2))) acc0 3 (runs (by decide +kernel))
    (mirrors _ _ (by decide +kernel) (by decide +kernel) (by decide +kernel)) (by decide +kernel) (by decide +kernel)
    (reaches (by decide +kernel) (by decide +kernel))
  ⟨_, ht⟩

/-- An addition, and a compare-and-swap. -/
theorem witness_Atomics (h : Claims.Atomics) :
    (∃ t, exec (.atom none 4 8 0 5 0 1) (atMem (.atom none 4 8 0 5 0 1)) = .next t) ∧
    ∃ t, exec (.atomCas (some ⟨0, false, 0, 7, 0⟩) 4 8 3 5 0) (atMem (.atomCas (some ⟨0, false, 0, 7, 0⟩) 4 8 3 5 0)) = .next t :=
  ⟨let ⟨t, _, _, _, ht, _⟩ := h (.atom none 4 8 0 5 0 1) none 4 8 0 5 0 1 0 (atMem (.atom none 4 8 0 5 0 1))
      (iss (atMem (.atom none 4 8 0 5 0 1))) acc0 (.inl ⟨0, rfl, rfl, rfl⟩) (runs (by decide +kernel))
      (mirrors _ _ (by decide +kernel) (by decide +kernel) (by decide +kernel)) (elsewhere (by decide +kernel))
      (reaches (by decide +kernel) (by decide +kernel))
   ⟨t, ht⟩,
   let i : Instr := .atomCas (some ⟨0, false, 0, 7, 0⟩) 4 8 3 5 0
   let ⟨t, _, _, _, ht, _⟩ := h i (some ⟨0, false, 0, 7, 0⟩) 4 8 3 5 7 0 7 (atMem i) (iss (atMem i)) acc0
      (.inr ⟨_, rfl, rfl, rfl, rfl⟩) (runs (by decide +kernel))
      (mirrors _ _ (by decide +kernel) (by decide +kernel) (by decide +kernel)) (elsewhere (by decide +kernel))
      (reaches (by decide +kernel) (by decide +kernel))
   ⟨t, ht⟩⟩

theorem witness_Reductions (h : Claims.Reductions) :
    ∃ t, exec (.redm none 4 8 2 5 6 0) (atMem3 (.redm none 4 8 2 5 6 0)) = .next t :=
  let i : Instr := .redm none 4 8 2 5 6 0
  let ⟨_, _, ht, _⟩ := h none 4 8 2 5 6 0 (atMem3 i) (iss (atMem3 i)) acc0 3 (runs (by decide +kernel))
    (mirrors _ _ (by decide +kernel) (by decide +kernel) (by decide +kernel)) (by decide +kernel) (by decide +kernel)
    (reaches (by decide +kernel) (by decide +kernel))
  ⟨_, ht⟩

/-- An address of 58 bits in lane 0 and an unaligned atomic in the others: PAGE comes first. -/
def badMem (i : Instr) : State :=
  warp0 (fun w => { w with regs := [(8, .uniform 0x10102), (9, .general ((List.range 32).map fun l => if l = 0 then 0x2000000#32 else 0))] })
    (here i)

theorem witness_AccessTraps (h : Claims.AccessTraps) :
    exec (.atom none 4 8 0 0 0 1) (badMem (.atom none 4 8 0 0 0 1)) = .next ((badMem (.atom none 4 8 0 0 0 1)).takeTrap
      { cause := cPAGE, detail := 5, taddr := 0x10102, lanes := 1 }) := by
  let i : Instr := .atom none 4 8 0 0 0 1
  let q : Need := { n := 4, atomic := true, write := true, aligned := true, home := wideScope 0 }
  have hc : ∀ l, l < 32 → (badMem i).checkAccess 0 0 ((iss (badMem i)).warp.laneNat 8 l 2) [] q =
      if l = 0 then .bad cPAGE 0x200000000010102 else .bad cALIGN 0x10102 := by decide +kernel
  have hb : (iss (badMem i)).warp.badPages = [] := by decide +kernel
  have hk : (iss (badMem i)).crew.core = 0 := by decide +kernel
  have hx : (iss (badMem i)).crew.ctx = 0 := by decide +kernel
  refine h i q none 8 (badMem i) (iss (badMem i)) cPAGE 1 0 0x200000000010102 (.inr (.inr (.inl ⟨4, 0, 0, 0, 1, rfl, rfl⟩)))
    (runs (by decide +kernel)) ?_ ?_ ?_ (by decide) (by decide) ?_ (by decide)
  · intro l hl _ va
    dsimp only
    rw [hk, hx, hb, hc l hl]
    split <;> exact fun h => Chk.noConfusion h
  · intro l hl _ c v he
    dsimp only at he
    rw [hk, hx, hb, hc l hl] at he
    split at he <;> (injection he with h1 h2; subst h1; decide)
  · intro l hl
    have he : ∀ l, l < 32 → ((iss (badMem i)).warp.eff none).getLsbD l = true := by decide +kernel
    have h1 : ∀ l, l < 32 → (BitVec.getLsbD (1 : BitVec 32) l = true ↔ l = 0) := by decide
    dsimp only
    rw [h1 l hl, hk, hx, hb, hc l hl]
    constructor
    · rintro rfl; exact ⟨he 0 hl, _, rfl⟩
    · rintro ⟨_, v, hv⟩
      split at hv
      · assumption
      · exact absurd (Chk.bad.inj hv).1 (by decide)
  · dsimp only; rw [hk, hx, hb]; exact hc 0 (by decide)

/-- A page that a TLB holds without any permission, one with all, and one of a key slot that is not loaded. -/
def pageAs (f : TlbEnt → TlbEnt) : State := State.reset.updCore 0 fun k => { k with tlb := [f (loadTlb 0)] }

theorem witness_AccessCauses (h : Claims.AccessCauses) :
    State.reset.checkAccess 0 0 (2 ^ 57) [] { n := 1 } = .bad cPAGE (2 ^ 57) ∧
    (pageAs id).checkAccess 0 0 0x10FFD [] { n := 2, aligned := true } = .bad cALIGN 0x10FFD ∧
    (pageAs fun e => { e with w := false }).checkAccess 0 0 0x1FFFF [] { n := 1, write := true } = .bad cACCESS 0x1FFFF ∧
    (pageAs fun e => { e with r := false }).checkAccess 0 0 0x10000 [] { n := 1 } = .bad cACCESS 0x10000 ∧
    (pageAs fun e => { e with x := false }).checkAccess 0 0 0x10000 [] { n := 4, exec := true } = .bad cACCESS 0x10000 ∧
    (pageAs fun e => { e with slot := 1 }).checkAccess 0 0 0x10000 [] { n := 65536 } = .bad cPROTECT 0x10000 :=
  ⟨(h State.reset 0 0 (2 ^ 57) { n := 1 } []).1 (by decide),
   ((h (pageAs id) 0 0 0x10FFD { n := 2, aligned := true } []).2 (loadTlb 0) (by decide) (by decide +kernel) rfl (by decide) rfl (by decide)).1
     rfl (by decide) (by decide +kernel) (by decide +kernel) (by decide +kernel) (by decide +kernel),
   ((h (pageAs fun e => { e with w := false }) 0 0 0x1FFFF { n := 1, write := true } []).2 { loadTlb 0 with w := false } (by decide)
     (by decide +kernel) rfl (by decide) rfl (by decide)).2.1 (.inl rfl) rfl,
   ((h (pageAs fun e => { e with r := false }) 0 0 0x10000 { n := 1 } []).2 { loadTlb 0 with r := false } (by decide) (by decide +kernel) rfl
     (by decide) rfl (by decide)).2.2.1 (.inl rfl) rfl rfl,
   ((h (pageAs fun e => { e with x := false }) 0 0 0x10000 { n := 4, exec := true } []).2 { loadTlb 0 with x := false } (by decide)
     (by decide +kernel) rfl (by decide) rfl (by decide)).2.2.2.1 rfl rfl,
   ((h (pageAs fun e => { e with slot := 1 }) 0 0 0x10000 { n := 65536 } []).2 { loadTlb 0 with slot := 1 } (by decide) (by decide +kernel) rfl
     (by decide) rfl (by decide)).2.2.2.2 rfl rfl rfl rfl (by decide) (by decide +kernel)⟩

/-- Lane 3 leaves the page that is mapped for writing: it lies beyond 57 bits. -/
def stopMem (i : Instr) : State :=
  warp0 (fun w => { w with regs := [(8, .general ((List.range 32).map fun l => BitVec.ofNat 32 (0x10100 + 4 * l))),
    (9, .general ((List.range 32).map fun l => if l = 3 then 0x2000000#32 else 0))] }) (here i)

theorem witness_ScatterStops (h : Claims.ScatterStops) : ∃ t, exec (.stx none 4 8 2) (stopMem (.stx none 4 8 2)) = .next t :=
  let i : Instr := .stx none 4 8 2
  let ⟨_, ht, _⟩ := h none 4 8 2 (stopMem i) (iss (stopMem i)) acc0 0 3 cPAGE 0x20000000001010C (runs (by decide +kernel))
    (mirrors _ _ (by decide +kernel) (by decide +kernel) (by decide +kernel)) (by decide +kernel) (by decide +kernel) (by decide) (by decide)
    (by decide +kernel) (reaches (by decide +kernel) (by decide +kernel)) (by decide +kernel) (by decide)
    (by
      have hd : (stopMem i).mem.dir = [] ∧ (stopMem i).mem.hostDir = [] := by decide +kernel
      intro host line
      unfold MemSt.dirOf
      rw [hd.1, hd.2]
      cases host <;> rfl)
  ⟨_, ht⟩

/-- Lane `l` names offset 4 l; the last lane of the second the last word of a window of 4 KiB. -/
def atSpad (i : Instr) : State :=
  crew0 (fun c => { c with spadSize := 4096 }) (warp0 (fun w => { w with
    regs := [(4, .uniform 7), (8, .general ((List.range 32).map fun l => if l = 31 then 4092#32 else BitVec.ofNat 32 (4 * l)))] }) (here i))

theorem queues_free (s : State) (k n : Nat) (h : (s.core k).bankQ = []) (hn : 0 < n) :
    ∀ b, ((s.core k).bankQ.filter fun x => x.1 == b).length < n := by simp [h, hn]

theorem witness_ScratchpadLoads (h : Claims.ScratchpadLoads) : ∃ t, exec (.ldl none 4 8 0 4) (atSpad (.ldl none 4 8 0 4)) = .next t :=
  let i : Instr := .ldl none 4 8 0 4
  let ⟨t, _, _, _, ht, _⟩ := h none 4 8 0 4 (atSpad i) (iss (atSpad i)) (runs (by decide +kernel))
    ⟨by decide +kernel, by decide +kernel, by decide +kernel, queues_free _ _ _ (by decide +kernel) (by decide), by decide +kernel⟩
  ⟨t, ht⟩

theorem quiet (s : State) (k : Nat) (h0 : s.bindings = []) (h1 : (s.core k).wbuf = []) (c : Crew) (w : Warp) (sd : Side) (h2 : s.crews = [(0, c)])
    (h3 : c.warps = [(0, w)]) (h4 : w.run = sd) (h5 : w.div = []) (h6 : sd.wait = .none) : s.SpadQuiet k :=
  ⟨h1, by simp [h0], by
    intro x hx _ y hy sd' hs o
    rw [h2] at hx; obtain rfl := List.mem_singleton.mp hx
    rw [h3] at hy; obtain rfl := List.mem_singleton.mp hy
    rw [h4, h5] at hs; obtain rfl := List.mem_singleton.mp hs
    rw [h6]; exact fun h => Wait.noConfusion h⟩

theorem quietSpad (i : Instr) (h : (atSpad i).crews = [(0, (iss (atSpad i)).crew)] ∧ (iss (atSpad i)).crew.warps = [(0, (iss (atSpad i)).warp)]
    ∧ (iss (atSpad i)).warp.div = [] ∧ (iss (atSpad i)).warp.run.wait = .none ∧ ((atSpad i).core 0).wbuf = [] ∧ (atSpad i).bindings = []) : (atSpad i).SpadQuiet 0 :=
  quiet _ _ h.2.2.2.2.2 h.2.2.2.2.1 _ _ _ h.1 h.2.1 rfl h.2.2.1 h.2.2.2.1

theorem witness_ScratchpadStores (h : Claims.ScratchpadStores) : ∃ t, exec (.stl none 4 8 0 2) (atSpad (.stl none 4 8 0 2)) = .next t :=
  let i : Instr := .stl none 4 8 0 2
  let ⟨_, _, ht, _⟩ := h none 4 8 0 2 (atSpad i) (iss (atSpad i)) (runs (by decide +kernel))
    (by have := quietSpad i (by decide +kernel); rwa [show (iss (atSpad i)).crew.core = 0 by decide +kernel])
    ⟨by decide +kernel, by decide +kernel, by decide +kernel, queues_free _ _ _ (by decide +kernel) (by decide), by decide +kernel⟩
  ⟨_, ht⟩

theorem witness_ScratchpadAtomics (h : Claims.ScratchpadAtomics) : ∃ t, exec (.atoml none 4 8 0 0 1) (atSpad (.atoml none 4 8 0 0 1)) = .next t :=
  let i : Instr := .atoml none 4 8 0 0 1
  let ⟨_, _, _, ht, _⟩ := h i none 4 8 0 0 1 0 (atSpad i) (iss (atSpad i)) (.inl ⟨0, rfl, rfl, rfl⟩) (runs (by decide +kernel))
    (by have := quietSpad i (by decide +kernel); rwa [show (iss (atSpad i)).crew.core = 0 by decide +kernel])
    ⟨by decide +kernel, by decide +kernel, by decide +kernel, queues_free _ _ _ (by decide +kernel) (by decide), by decide +kernel⟩
  ⟨_, ht⟩

theorem witness_PresenceBits (h : Claims.PresenceBits) :
    (∃ t, exec (.pres 4 8) (atSpad (.pres 4 8)) = .next t) ∧ (∃ t, exec (.pclr 8) (atSpad (.pclr 8)) = .next t) ∧
    ∃ t, exec (.pset 8) (atSpad (.pset 8)) = .next t :=
  ⟨let ⟨t, ht, _⟩ := (h (atSpad (.pres 4 8)) (iss (atSpad (.pres 4 8))) 4 8 _ (fun _ => rfl) (by decide +kernel) (by decide +kernel)).1
      (runs (by decide +kernel)); ⟨t, ht⟩,
   let ⟨_, ht, _⟩ := (h (atSpad (.pclr 8)) (iss (atSpad (.pclr 8))) 4 8 _ (fun _ => rfl) (by decide +kernel) (by decide +kernel)).2.1
      (runs (by decide +kernel)); ⟨_, ht⟩,
   let ⟨t, ht, _⟩ := (h (atSpad (.pset 8)) (iss (atSpad (.pset 8))) 4 8 _ (fun _ => rfl) (by decide +kernel) (by decide +kernel)).2.2
      (runs (by decide +kernel)) (by decide +kernel) (by decide +kernel); ⟨t, ht⟩⟩

/-! ### Hypotheses that can be met: fences, barriers, caches, control registers and messages -/

theorem witness_Fences (h : Claims.Fences) :
    (∃ t, exec (.fenceAcq 2) (here (.fenceAcq 2)) = .next t) ∧ (∃ t, exec (.fenceRel 3) (here (.fenceRel 3)) = .next t) ∧
    ∃ t, exec (.fenceFull 7) (here (.fenceFull 7)) = .next t :=
  ⟨let ⟨_, _, ht, _⟩ := h (.fenceAcq 2) 2 (here (.fenceAcq 2)) (iss (here (.fenceAcq 2))) (.inl rfl) (runs (by decide +kernel))
    (mirrors _ _ (by decide +kernel) (by decide +kernel) (by decide +kernel)) (by decide +kernel); ⟨_, ht⟩,
   let ⟨_, _, ht, _⟩ := h (.fenceRel 3) 3 (here (.fenceRel 3)) (iss (here (.fenceRel 3))) (.inr (.inl rfl)) (runs (by decide +kernel))
    (mirrors _ _ (by decide +kernel) (by decide +kernel) (by decide +kernel)) (by decide +kernel); ⟨_, ht⟩,
   let ⟨_, _, ht, _⟩ := h (.fenceFull 7) 7 (here (.fenceFull 7)) (iss (here (.fenceFull 7))) (.inr (.inr rfl)) (runs (by decide +kernel))
    (mirrors _ _ (by decide +kernel) (by decide +kernel) (by decide +kernel)) (by decide +kernel); ⟨_, ht⟩⟩

theorem witness_InstructionFence (h : Claims.InstructionFence) : ∃ t, exec .ifence (here .ifence) = .next t :=
  ⟨_, h (here .ifence) (iss (here .ifence)) (runs (by decide +kernel)) (by decide +kernel) (by decide +kernel)⟩

/-- Lanes 0 to 15 run, the others wait at 0x20000. -/
def halfWarp (i : Instr) : State :=
  warp0 (fun w => { w with run := { w.run with lanes := 0xFFFF }, div := [side 0x20000 0xFFFF0000] }) (here i)
/-- The warp after the first half has arrived at barrier 1 and the second runs. -/
def halfArrived (i : Instr) : Warp :=
  let w := (iss (halfWarp i)).warp
  { w.movedTo (w.run.pc + 4) with
    run := side 0x20000 0xFFFF0000, div := [{ w.run with pc := w.run.pc + 4, wait := .bar 1 }], issued := 0 }

theorem half_counts : (⟨1, 0, false, 0, true⟩ : BarForm).Counts (iss (halfWarp (.bar 0 1))) :=
  ⟨⟨by decide, fun h => absurd rfl h⟩, by decide +kernel, .inl (by decide +kernel), fun h => Bool.noConfusion h⟩

theorem half_aside (i : Instr) (h : (iss (halfWarp i)).warp.div = [side 0x20000 0xFFFF0000] ∧
    (iss (halfWarp i)).warp.run.pc = 0x10000) :
    ((iss (halfWarp i)).warp.movedTo ((iss (halfWarp i)).warp.run.pc + 4)).stoodAside (halfArrived i)
      { (iss (halfWarp i)).warp.run with pc := (iss (halfWarp i)).warp.run.pc + 4, wait := .bar 1 } := by
  refine .inr ⟨side 0x20000 0xFFFF0000, [], h.1, rfl, ?_, rfl⟩
  intro y hy
  obtain rfl := List.mem_singleton.mp hy
  rw [h.2]; show (65536 + 4 : BitVec 57) ≠ BitVec.ofNat 57 0x20000; decide

theorem witness_BarrierArrives (h : Claims.BarrierArrives) : ∃ t, exec (.bar 0 1) (halfWarp (.bar 0 1)) = .next t := by
  obtain ⟨l, _, hl, ht⟩ := h (.bar 0 1) _ (halfWarp (.bar 0 1)) (iss (halfWarp (.bar 0 1))) (halfArrived (.bar 0 1)) rfl
    (runs (by decide +kernel)) half_counts (by decide +kernel) (by decide +kernel) (by decide +kernel) (half_aside _ (by decide +kernel))
  refine ⟨_, ht ?_⟩
  have hc : (⟨1, 0, false, 0, true⟩ : BarForm).count (iss (halfWarp (.bar 0 1))) = 0 := rfl
  have hn : ∀ x, x ∈ ((iss (halfWarp (.bar 0 1))).crew.bar 1).arrived ∨
      x ∈ (iss (halfWarp (.bar 0 1))).warp.indices (iss (halfWarp (.bar 0 1))).warp.m0 → x < 16 := by
    have ha : ((iss (halfWarp (.bar 0 1))).crew.bar 1).arrived = [] := by decide +kernel
    have hi : (iss (halfWarp (.bar 0 1))).warp.indices (iss (halfWarp (.bar 0 1))).warp.m0 = List.range 16 := by decide +kernel
    rw [ha, hi]; intro x hx; simpa using hx
  show if (⟨1, 0, false, 0, true⟩ : BarForm).count (iss (halfWarp (.bar 0 1))) = 0 then _ else _
  rw [if_pos hc]
  exact ⟨16, by decide +kernel, fun hm => absurd (hn 16 ((hl 16).mp hm)) (by decide)⟩

/-- The last arrival at a take of a crew whose slate checks no generation. -/
theorem witness_BarrierCompletes (h : Claims.BarrierCompletes) : ∃ t, exec (.barTake 0 2) (here (.barTake 0 2)) = .next t :=
  ⟨_, h (.barTake 0 2) _ (here (.barTake 0 2)) (iss (here (.barTake 0 2)))
    { (iss (here (.barTake 0 2))).warp.movedTo ((iss (here (.barTake 0 2))).warp.run.pc + 4) with
      run := { (iss (here (.barTake 0 2))).warp.run with pc := (iss (here (.barTake 0 2))).warp.run.pc + 4, wait := .bar 2 } }
    rfl (runs (by decide +kernel))
    ⟨⟨by decide, fun h => absurd rfl h⟩, by decide +kernel, .inl (by decide +kernel), by decide +kernel⟩ (by decide +kernel)
    (by decide +kernel) (by decide +kernel) (by decide +kernel) (by decide +kernel) (by decide +kernel) (.inl ⟨by decide +kernel, rfl⟩)
    (by rw [if_pos (by decide +kernel)]; decide +kernel)⟩

/-- An illegal count; a thread that has arrived; a phase with another count. -/
def barredBy (i : Instr) (l : List Nat) : State := regs0 [(8, 1025), (9, 1024)] (crew0 (fun c => { c with bars := [(1, ⟨l, 7, false, 0⟩)] }) (here i))

theorem witness_BarrierRefuses (h : Claims.BarrierRefuses) :
    exec (.bar 8 1) (barredBy (.bar 8 1) []) = .next ((barredBy (.bar 8 1) []).takeTrap illegalT) ∧
    (∃ t, exec (.bar 9 1) (barredBy (.bar 9 1) [31]) = .next t) ∧
    exec (.bar 9 1) (barredBy (.bar 9 1) [32]) = .next ((barredBy (.bar 9 1) [32]).takeTrap illegalT) :=
  ⟨(h (.bar 8 1) _ (barredBy (.bar 8 1) []) (iss (barredBy (.bar 8 1) [])) rfl (runs (by decide +kernel)) (fun h => Bool.noConfusion h)).1
     (.inl (by decide +kernel)),
   ⟨_, ((h (.bar 9 1) _ (barredBy (.bar 9 1) [31]) (iss (barredBy (.bar 9 1) [31])) rfl (runs (by decide +kernel))
      (fun h => Bool.noConfusion h)).2 (by decide +kernel) (fun _ => by decide +kernel)).1 ⟨31, by decide +kernel, by decide +kernel⟩ (by decide +kernel)⟩,
   ((h (.bar 9 1) _ (barredBy (.bar 9 1) [32]) (iss (barredBy (.bar 9 1) [32])) rfl (runs (by decide +kernel))
      (fun h => Bool.noConfusion h)).2 (by decide +kernel) (fun _ => by decide +kernel)).2 (by decide +kernel) (by decide +kernel)
      (.inl (by decide +kernel))⟩

/-- The warp of a state at its next word, waiting on barrier 1. -/
def waits1 (s : State) : Warp :=
  { (iss s).warp.movedTo ((iss s).warp.run.pc + 4) with run := { (iss s).warp.run with pc := (iss s).warp.run.pc + 4, wait := .bar 1 } }

theorem witness_BarrierWaits (h : Claims.BarrierWaits) :
    (∃ t, exec (.barw 1) (barredBy (.barw 1) [32]) = .next t) ∧ (∃ t, exec (.barw 1) (barredBy (.barw 1) [0]) = .next t) ∧
    ∃ t, exec (.barq 4 1) (here (.barq 4 1)) = .next t :=
  ⟨⟨_, (h 0 1 (barredBy (.barw 1) [32]) (iss (barredBy (.barw 1) [32])) (waits1 (here .nop))).1 (runs (by decide +kernel)) (by decide +kernel)⟩,
   ⟨_, (h 0 1 (barredBy (.barw 1) [0]) (iss (barredBy (.barw 1) [0])) (waits1 (barredBy (.barw 1) [0]))).2.1 (runs (by decide +kernel))
      (by decide +kernel) ⟨0, by decide +kernel, by decide +kernel⟩ (.inl ⟨by decide +kernel, rfl⟩)⟩,
   let ⟨t, ht, _⟩ := (h 4 1 (here (.barq 4 1)) (iss (here (.barq 4 1))) (waits1 (here .nop))).2.2 (runs (by decide +kernel)); ⟨t, ht⟩⟩

/-- The last word of the window; `v12` holds 1. -/
def byteWord (i : Instr) : State := crew0 (fun c => { c with spadSize := 4096 }) (regs0 [(8, 4088), (12, 1)] (here i))

theorem quietByte (i : Instr) (h : (byteWord i).crews = [(0, (iss (byteWord i)).crew)] ∧ (iss (byteWord i)).crew.warps = [(0, (iss (byteWord i)).warp)]
    ∧ (iss (byteWord i)).warp.div = [] ∧ (iss (byteWord i)).warp.run.wait = .none ∧ ((byteWord i).core 0).wbuf = [] ∧ (iss (byteWord i)).crew.core = 0 ∧
      (byteWord i).bindings = []) :
    (byteWord i).SpadQuiet (iss (byteWord i)).crew.core := by
  rw [h.2.2.2.2.2.1]; exact quiet _ _ h.2.2.2.2.2.2 h.2.2.2.2.1 _ _ _ h.1 h.2.1 rfl h.2.2.1 h.2.2.2.1

theorem witness_ByteCounts (h : Claims.ByteCounts) :
    (∃ t, exec (.bci 8 12) (byteWord (.bci 8 12)) = .next t) ∧ (∃ t, exec (.bca 8 12) (byteWord (.bca 8 12)) = .next t) ∧
    (∃ t, exec (.bcw 8 0) (byteWord (.bcw 8 0)) = .next t) ∧ ∃ t, exec (.bcw 8 12) (byteWord (.bcw 8 12)) = .next t :=
  ⟨let ⟨_, ht⟩ := (h (.bci 8 12) 8 12 (byteWord (.bci 8 12)) (iss (byteWord (.bci 8 12))) (.inl rfl) (runs (by decide +kernel))
      (quietByte _ (by decide +kernel)) (by decide +kernel) (by decide +kernel) (by decide +kernel) (by decide +kernel) (by decide +kernel)
      (by decide +kernel)).1 rfl; ⟨_, ht⟩,
   ⟨_, (h (.bca 8 12) 8 12 (byteWord (.bca 8 12)) (iss (byteWord (.bca 8 12))) (.inr (.inl rfl)) (runs (by decide +kernel))
      (quietByte _ (by decide +kernel)) (by decide +kernel) (by decide +kernel) (by decide +kernel) (by decide +kernel) (by decide +kernel)
      (by decide +kernel)).2.1 rfl⟩,
   ⟨_, ((h (.bcw 8 0) 8 0 (byteWord (.bcw 8 0)) (iss (byteWord (.bcw 8 0))) (.inr (.inr rfl)) (runs (by decide +kernel))
      (quietByte _ (by decide +kernel)) (by decide +kernel) (by decide +kernel) (by decide +kernel) (by decide +kernel) (by decide +kernel)
      (by decide +kernel)).2.2 rfl).1 (by decide +kernel) (by decide +kernel) (by decide +kernel) (by decide +kernel)⟩,
   ⟨_, ((h (.bcw 8 12) 8 12 (byteWord (.bcw 8 12)) (iss (byteWord (.bcw 8 12))) (.inr (.inr rfl)) (runs (by decide +kernel))
      (quietByte _ (by decide +kernel)) (by decide +kernel) (by decide +kernel) (by decide +kernel) (by decide +kernel) (by decide +kernel)
      (by decide +kernel)).2.2 rfl).2 (by decide +kernel)
      { (iss (byteWord (.bcw 8 12))).warp.movedTo ((iss (byteWord (.bcw 8 12))).warp.run.pc + 4) with
        run := { (iss (byteWord (.bcw 8 12))).warp.run with
          pc := (iss (byteWord (.bcw 8 12))).warp.run.pc + 4
          wait := .bytes ((iss (byteWord (.bcw 8 12))).warp.operand 8).toNat } } (.inl ⟨by decide +kernel, rfl⟩)⟩⟩

/-- `v8` names the page of the code. -/
def codeRange (i : Instr) : State := regs0 [(8, 0x10000), (12, 256)] (here i)

theorem witness_CacheMaintenance (h : Claims.CacheMaintenance) :
    (∃ t, exec (.pref 8 1) (codeRange (.pref 8 1)) = .next t) ∧ ∃ t, exec (.cfls 8 12) (codeRange (.cfls 8 12)) = .next t :=
  ⟨let ⟨_, ht, _⟩ := h (.pref 8 1) 8 1 (codeRange (.pref 8 1)) (iss (codeRange (.pref 8 1))) (.inl rfl) (runs (by decide +kernel))
      (mirrors _ _ (by decide +kernel) (by decide +kernel) (by decide +kernel)) (by
        have hd : (codeRange (.pref 8 1)).mem.dir = [] := by decide +kernel
        rw [hd]; intro x hx; cases hx) (fun _ e he => by
        have ht : (codeRange (.pref 8 1)).translate (iss (codeRange (.pref 8 1))).crew.core (iss (codeRange (.pref 8 1))).crew.ctx
            ((iss (codeRange (.pref 8 1))).warp.operand64 8) = some (loadTlb 0) := by decide +kernel
        have hk : (codeRange (.pref 8 1)).mem.keyTag = [] := by decide +kernel
        have hl : ((codeRange (.pref 8 1)).core (iss (codeRange (.pref 8 1))).crew.core).l1 = [] := by decide +kernel
        rw [ht] at he; injection he with he; subst he
        exact ⟨fun k _ => by rw [hk]; rfl, by intro x hx; rw [hl] at hx; cases hx⟩); ⟨_, ht⟩,
   let ⟨_, ht, _⟩ := h (.cfls 8 12) 8 12 (codeRange (.cfls 8 12)) (iss (codeRange (.cfls 8 12))) (.inr (.inr (.inr rfl))) (runs (by decide +kernel))
      (mirrors _ _ (by decide +kernel) (by decide +kernel) (by decide +kernel)) (by
        have hd : (codeRange (.cfls 8 12)).mem.dir = [] := by decide +kernel
        rw [hd]; intro x hx; cases hx) (fun h => Instr.noConfusion h); ⟨_, ht⟩⟩

/-- Lanes that name 0, and one that names another number. -/
def ctxLanes (i : Instr) (n : Nat) : State :=
  let reg (x : Nat) : VReg := .general ((List.range 32).map fun l => if l = 31 then BitVec.ofNat 32 x else 0)
  warp0 (fun w => { w with regs := [(40, reg n), (41, reg (n / 2 ^ 32))] }) (here i)

theorem witness_TranslationInvalidates (h : Claims.TranslationInvalidates) :
    let s (r : BitVec 7) (n : Nat) : State := ctxLanes (.tlbi 40 r) n
    exec (.tlbi 40 1) (s 1 1024) = .next ((s 1 1024).takeTrap { cause := cILLEGAL, lanes := 0x80000000 }) ∧
    exec (.tlbi 40 0) (s 0 (2 ^ 57)) = .next ((s 0 (2 ^ 57)).takeTrap { cause := cPAGE, lanes := 0x80000000, taddr := 2 ^ 57 }) ∧
    (∃ t, exec (.tlbi 40 1) (s 1 1023) = .next t) ∧ ∃ t, exec (.tlbi 40 0) (s 0 (2 ^ 57 - 1)) = .next t := by
  intro s
  have c (r : BitVec 7) (n : Nat) (h1 : runsIn (.tlbi 40 r) (s r n) = true) (h2 : _) (h3 : _) (h4 : _) :=
    h 40 r (s r n) (iss (s r n)) (runs h1) (mirrors _ _ h2 h3 h4)
  have ok (r : BitVec 7) (n lim : Nat) (hn : ∀ l, l < 32 → (iss (s r n)).warp.laneNat 40 l 2 < lim) (m : Nat) :
      (∃ l, l < 32 ∧ (iss (s r n)).warp.m0.getLsbD l = true ∧ (iss (s r n)).warp.laneNat 40 l 2 = m) → m < lim := by
    rintro ⟨l, hl, _, rfl⟩; exact hn l hl
  obtain ⟨t, ht, _⟩ := (c 1 1023 (by decide +kernel) (by decide +kernel) (by decide +kernel) (by decide +kernel)).2.2
    (ok 1 1023 1024 (by decide +kernel))
  obtain ⟨u, hu, _⟩ := (c 0 (2 ^ 57 - 1) (by decide +kernel) (by decide +kernel) (by decide +kernel) (by decide +kernel)).2.2
    (ok 0 (2 ^ 57 - 1) (2 ^ 57) (by decide +kernel))
  exact ⟨(c 1 1024 (by decide +kernel) (by decide +kernel) (by decide +kernel) (by decide +kernel)).1 0x80000000 rfl (by decide) (by decide +kernel),
    (c 0 (2 ^ 57) (by decide +kernel) (by decide +kernel) (by decide +kernel) (by decide +kernel)).2.1 0x80000000 (2 ^ 57) rfl (by decide)
      (by decide +kernel) ⟨31, by decide, by decide, by decide +kernel, by decide⟩, ⟨t, ht⟩, ⟨u, hu⟩⟩

/-- The control core of the cluster belongs to the issuing context. -/
def owned (i : Instr) (f : State → State := id) : State := f ((here i).updCluster 0 fun c => { c with owner := some 0 })

theorem witness_ControlReads (h : Claims.ControlReads) :
    (∃ t, exec (.crd 4 0x050) (owned (.crd 4 0x050)) = .next t) ∧ ∃ t, exec (.crd 4 0x020) (here (.crd 4 0x020)) = .next t :=
  ⟨let ⟨t, _, _, ht, _⟩ := h 4 0x050 (owned (.crd 4 0x050)) (iss (owned (.crd 4 0x050))) (runs (by decide +kernel))
      (mirrors _ _ (by decide +kernel) (by decide +kernel) (by decide +kernel)) (fun _ => by decide +kernel) (fun h => absurd h (by decide +kernel))
      (fun _ h2 => absurd h2 (by decide)); ⟨t, ht⟩,
   let ⟨t, _, _, ht, _⟩ := h 4 0x020 (here (.crd 4 0x020)) (iss (here (.crd 4 0x020))) (runs (by decide +kernel))
      (mirrors _ _ (by decide +kernel) (by decide +kernel) (by decide +kernel)) (fun h => absurd h (by decide)) (fun h => absurd h (by decide +kernel))
      (fun h1 => absurd h1 (by decide)); ⟨t, ht⟩⟩

theorem witness_ControlWrites (h : Claims.ControlWrites) : ∃ t, exec (.cwr 8 0x042) (regs0 [(8, 0xFFFFFFFF)] (here (.cwr 8 0x042))) = .next t :=
  ⟨_, (h 8 0x042 (regs0 [(8, 0xFFFFFFFF)] (here (.cwr 8 0x042))) (iss (regs0 [(8, 0xFFFFFFFF)] (here (.cwr 8 0x042)))) _ (runs (by decide +kernel))
    (by decide +kernel) rfl).1⟩

/-- Queue 0 belongs to the issuing context. -/
def queued (i : Instr) (r : List (Nat × Nat)) : State := (regs0 r (here i)).updQueue 0 fun q => { q with ctx := some 0 }

theorem noneWaits (s : State) (p : Wait → Prop) (c : Crew) (w : Warp) (h2 : s.crews = [(0, c)]) (h3 : c.warps = [(0, w)]) (h5 : w.div = [])
    (h6 : w.run.wait = .none) (hp : ¬p .none) : s.NoneWaits p := by
  intro x hx y hy sd hs
  rw [h2] at hx; obtain rfl := List.mem_singleton.mp hx
  rw [h3] at hy; obtain rfl := List.mem_singleton.mp hy
  rw [h5] at hs; obtain rfl := List.mem_singleton.mp hs
  rw [h6]; exact hp

theorem witness_ControlWritesElsewhere (h : Claims.ControlWritesElsewhere) :
    (∃ t, exec (.cwr 8 0x057) (owned (.cwr 8 0x057)) = .next t) ∧ (∃ t, exec (.cwrArv 8 31) (owned (.cwrArv 8 31)) = .next t) ∧
    (∃ t, exec (.cwr 8 0x005) (queued (.cwr 8 0x005) []) = .next t) ∧ (∃ t, exec (.cwr 8 0x006) (queued (.cwr 8 0x006) []) = .next t) ∧
    (∃ t, exec (.cwrQcfg 8) (here (.cwrQcfg 8)) = .next t) ∧ (∃ t, exec (.cwrQcfg 8) (queued (.cwrQcfg 8) []) = .next t) ∧
    (∃ t, exec (.cwrTkill 8) (here (.cwrTkill 8)) = .next t) ∧
    ∃ t, exec (.cwrTkill 8) (regs0 [(8, 1)] (here (.cwrTkill 8))) = .next t :=
  ⟨let ⟨_, ht⟩ := (h 8 (owned (.cwr 8 0x057)) (iss (owned (.cwr 8 0x057)))).1 0x057 (runs (by decide +kernel)) (by decide) (by decide) (by decide +kernel)
   ⟨_, ht⟩,
   let ⟨_, ht⟩ := (h 8 (owned (.cwrArv 8 31)) (iss (owned (.cwrArv 8 31)))).2.1 31 (runs (by decide +kernel)) (by decide +kernel)
     (noneWaits _ _ (iss (owned (.cwrArv 8 31))).crew (iss (owned (.cwrArv 8 31))).warp (by decide +kernel) (by decide +kernel) (by decide +kernel)
       (by decide +kernel) (by rintro ⟨t, d, h⟩; cases h))
   ⟨_, ht⟩,
   ⟨_, ((h 8 (queued (.cwr 8 0x005) []) (iss (queued (.cwr 8 0x005) []))).2.2.1 0x005 0 (runs (by decide +kernel)) (by decide +kernel)).1 rfl⟩,
   ⟨_, ((h 8 (queued (.cwr 8 0x006) []) (iss (queued (.cwr 8 0x006) []))).2.2.1 0x006 0 (runs (by decide +kernel)) (by decide +kernel)).2 rfl⟩,
   ⟨_, ((h 8 (here (.cwrQcfg 8)) (iss (here (.cwrQcfg 8)))).2.2.2.1 (runs (by decide +kernel))).1 (by decide +kernel)⟩,
   ⟨_, ((h 8 (queued (.cwrQcfg 8) []) (iss (queued (.cwrQcfg 8) []))).2.2.2.1 (runs (by decide +kernel))).2.1 0 (by decide +kernel) (by decide +kernel)⟩,
   ⟨_, ((h 8 (here (.cwrTkill 8)) (iss (here (.cwrTkill 8)))).2.2.2.2 (runs (by decide +kernel)) (by unfold Tbl.Rising; decide +kernel)).1
     (by decide +kernel)⟩,
   let ⟨t, ht, _⟩ := ((h 8 (regs0 [(8, 1)] (here (.cwrTkill 8))) (iss (regs0 [(8, 1)] (here (.cwrTkill 8))))).2.2.2.2 (runs (by decide +kernel))
     (by unfold Tbl.Rising; decide +kernel)).2 (by decide +kernel); ⟨t, ht⟩⟩

/-- 64 entries of a shot list in the page of the code. -/
def shotState : State := (queued (.cwrQcfg 8) [(8, 64)]).updQueue 0 fun q => { q with shotL := 0x10100 }

theorem witness_ShotList (h : Claims.ControlWritesElsewhere) : ∃ t, exec (.cwrQcfg 8) shotState = .next t :=
  let ⟨_, _, _, ht⟩ := ((h 8 shotState (iss shotState)).2.2.2.1 (runs (by decide +kernel))).2.2 0 (loadTlb 0) 64 (by decide +kernel) (by decide +kernel)
    (by decide) (by decide) (mirrors _ _ (by decide +kernel) (by decide +kernel) (by decide +kernel)) (by decide +kernel)
    (fun i _ => by
      have hk : shotState.mem.keyTag = [] := by decide +kernel
      have hl : (shotState.core (iss shotState).crew.core).l1 = [] := by decide +kernel
      exact ⟨fun _ k _ => by rw [hk]; rfl, by simp [hl]⟩)
  ⟨_, ht⟩

theorem witness_ControlCoreProtected (h : Claims.ControlCoreProtected) :
    exec (.rwr 4 7) (here (.rwr 4 7)) = .next ((here (.rwr 4 7)).takeTrap { cause := cPROTECT, detail := 1, lanes := 0xFFFFFFFF }) ∧
    exec (.arrw 4 8 0 31) (here (.arrw 4 8 0 31)) =
      .next ((here (.arrw 4 8 0 31)).takeTrap { cause := cPROTECT, detail := 5, lanes := 0xFFFFFFFF }) :=
  ⟨h (.rwr 4 7) 1 (here (.rwr 4 7)) (iss (here (.rwr 4 7))) (.inr (.inr (.inr (.inr ⟨_, _, rfl, rfl⟩)))) (runs (by decide +kernel)) (by decide +kernel),
   h (.arrw 4 8 0 31) 5 (here (.arrw 4 8 0 31)) (iss (here (.arrw 4 8 0 31))) (.inr (.inr (.inr (.inl ⟨_, _, _, _, rfl, rfl⟩))))
     (runs (by decide +kernel)) (by decide +kernel)⟩

/-- An `ARRW` without a wait, one that reaches its target, and one that does not. -/
theorem witness_RemoteWrites (h : Claims.RemoteWrites) :
    (∃ t, exec (.rwr 4 7) (owned (.rwr 4 7)) = .next t) ∧ (∃ t, exec (.arrw 4 8 0 31) (owned (.arrw 4 8 0 31)) = .next t) ∧
    (∃ t, exec (.arrw 4 8 12 31) (owned (.arrw 4 8 12 31) (regs0 [(8, 5), (12, 5)])) = .next t) ∧
    ∃ t, exec (.arrw 4 8 12 31) (owned (.arrw 4 8 12 31) (regs0 [(8, 4), (12, 5)])) = .next t := by
  have nw (s : State) (c : Crew) (w : Warp) (h1 : s.crews = [(0, c)]) (h2 : c.warps = [(0, w)]) (h3 : w.div = []) (h4 : w.run.wait = .none) :
      s.NoneWaits fun w => ∃ t e, w = .arrw (31 : BitVec 5).toNat t e := noneWaits s _ c w h1 h2 h3 h4 (by rintro ⟨t, d, h⟩; cases h)
  refine ⟨?_, ?_, ?_, ?_⟩
  · obtain ⟨_, _, _, ht⟩ := (h (owned (.rwr 4 7)) (iss (owned (.rwr 4 7))) (mirrors _ _ (by decide +kernel) (by decide +kernel) (by decide +kernel))
      (by decide +kernel)).1 4 7 (runs (by decide +kernel))
    exact ⟨_, ht⟩
  · obtain ⟨_, t, _, ht, _⟩ := ((h (owned (.arrw 4 8 0 31)) (iss (owned (.arrw 4 8 0 31)))
      (mirrors _ _ (by decide +kernel) (by decide +kernel) (by decide +kernel)) (by decide +kernel)).2 4 8 0 31 (runs (by decide +kernel))
      (nw _ (iss (owned (.arrw 4 8 0 31))).crew (iss (owned (.arrw 4 8 0 31))).warp (by decide +kernel) (by decide +kernel) (by decide +kernel)
        (by decide +kernel))).1 rfl
    exact ⟨t, ht⟩
  · obtain ⟨_, _, t, _, _, _, ht, _⟩ := ((h (owned (.arrw 4 8 12 31) (regs0 [(8, 5), (12, 5)])) (iss (owned (.arrw 4 8 12 31) (regs0 [(8, 5), (12, 5)])))
      (mirrors _ _ (by decide +kernel) (by decide +kernel) (by decide +kernel)) (by decide +kernel)).2 4 8 12 31 (runs (by decide +kernel))
      (nw _ (iss (owned (.arrw 4 8 12 31) (regs0 [(8, 5), (12, 5)]))).crew (iss (owned (.arrw 4 8 12 31) (regs0 [(8, 5), (12, 5)]))).warp
        (by decide +kernel) (by decide +kernel) (by decide +kernel) (by decide +kernel))).2.1 (by decide) (by decide +kernel) (by decide +kernel)
        (by decide +kernel) (by decide +kernel)
    exact ⟨t, ht⟩
  · obtain ⟨_, _, _, ht⟩ := ((h (owned (.arrw 4 8 12 31) (regs0 [(8, 4), (12, 5)])) (iss (owned (.arrw 4 8 12 31) (regs0 [(8, 4), (12, 5)])))
      (mirrors _ _ (by decide +kernel) (by decide +kernel) (by decide +kernel)) (by decide +kernel)).2 4 8 12 31 (runs (by decide +kernel))
      (nw _ (iss (owned (.arrw 4 8 12 31) (regs0 [(8, 4), (12, 5)]))).crew (iss (owned (.arrw 4 8 12 31) (regs0 [(8, 4), (12, 5)]))).warp
        (by decide +kernel) (by decide +kernel) (by decide +kernel) (by decide +kernel))).2.2 (by decide) (by decide +kernel) (by decide +kernel)
    exact ⟨_, ht⟩

/-- Generation 255, and 256. -/
theorem witness_BeatsAndTargets (h : Claims.BeatsAndTargets) :
    (∃ t, exec (.beat 8 3) (here (.beat 8 3)) = .next t) ∧ (∃ t, exec (.btgt 8 1) (here (.btgt 8 1)) = .next t) ∧
    (∃ t, exec (.cancel 8) (regs0 [(8, 255)] (here (.cancel 8))) = .next t) ∧
    exec (.cancel 8) (regs0 [(8, 256)] (here (.cancel 8))) =
      .next ((regs0 [(8, 256)] (here (.cancel 8))).takeTrap { cause := cILLEGAL, lanes := 1 }) :=
  ⟨⟨_, (h (here (.beat 8 3)) (iss (here (.beat 8 3))) 8 3).1 (runs (by decide +kernel))⟩,
   ⟨_, (h (here (.btgt 8 1)) (iss (here (.btgt 8 1))) 8 1).2.1 (runs (by decide +kernel))⟩,
   ⟨_, (h (regs0 [(8, 255)] (here (.cancel 8))) (iss (regs0 [(8, 255)] (here (.cancel 8)))) 8 0).2.2.1 (runs (by decide +kernel)) (by decide +kernel)⟩,
   (h (regs0 [(8, 256)] (here (.cancel 8))) (iss (regs0 [(8, 256)] (here (.cancel 8)))) 8 0).2.2.2 (runs (by decide +kernel)) (by decide +kernel)⟩

/-- Lanes 0 and 1 offer slates in the page of the code, to the queue that `v12` names. -/
def offering (va q depth : Nat) : State :=
  (((here (.spawn 4 8 12)).updQueue 0 fun x => { x with ctx := some 0, depth := depth }) |> warp0 fun w => { w with
    regs := [(8, .general ((List.range 32).map fun l => if l < 2 then BitVec.ofNat 32 (va + 64 * l) else 0)), (12, .uniform (BitVec.ofNat 32 q))] })

/-- Two slates where two have room, where one has, at an address that is not one of a slate, and to a queue beyond the last; and none. -/
theorem witness_Submits (h : Claims.Submits) :
    (∃ t, exec (.spawn 4 8 12) (offering 0x10140 0 62) = .next t) ∧ (∃ t, exec (.spawn 4 8 12) (offering 0x10140 0 63) = .next t) ∧
    (∃ t, exec (.spawn 4 8 12) (offering 0x10120 0 0) = .next t) ∧ (∃ t, exec (.spawn 4 8 12) (offering 0x10140 4096 0) = .next t) ∧
    ∃ t, exec (.spawn 4 8 12) (here (.spawn 4 8 12)) = .next t :=
  have c (s : State) (hr : runsIn (.spawn 4 8 12) s = true) (h1 : (s.core (iss s).crew.core).wbuf = []) (h2 : (s.core (iss s).crew.core).l1 = [])
      (h3 : s.allBindings = []) := fun (o : BitVec 32) => h 4 8 12 s (iss s) o (runs hr) (mirrors _ _ h1 h2 h3)
  ⟨let ⟨_, _, _, _, ht⟩ := (((c (offering 0x10140 0 62) (by decide +kernel) (by decide +kernel) (by decide +kernel) (by decide +kernel) 3
      (by decide +kernel)).2 (by decide)).2.1 0 (by decide +kernel) (by decide +kernel) (by decide +kernel) (by decide +kernel)).1 (by decide +kernel)
      (by decide +kernel); ⟨_, ht⟩,
   let ⟨_, _, _, _, ht⟩ := (((c (offering 0x10140 0 63) (by decide +kernel) (by decide +kernel) (by decide +kernel) (by decide +kernel) 3
      (by decide +kernel)).2 (by decide)).2.1 0 (by decide +kernel) (by decide +kernel) (by decide +kernel) (by decide +kernel)).2.1 (by decide +kernel)
      (by decide +kernel); ⟨_, ht⟩,
   let ⟨_, _, _, _, ht⟩ := (((c (offering 0x10120 0 0) (by decide +kernel) (by decide +kernel) (by decide +kernel) (by decide +kernel) 3
      (by decide +kernel)).2 (by decide)).2.1 0 (by decide +kernel) (by decide +kernel) (by decide +kernel) (by decide +kernel)).2.2
      ⟨1, by decide, by decide +kernel⟩; ⟨_, ht⟩,
   let ⟨_, _, _, _, ht⟩ := ((c (offering 0x10140 4096 0) (by decide +kernel) (by decide +kernel) (by decide +kernel) (by decide +kernel) 3
      (by decide +kernel)).2 (by decide)).2.2 (by decide +kernel); ⟨_, ht⟩,
   ⟨_, (c (here (.spawn 4 8 12)) (by decide +kernel) (by decide +kernel) (by decide +kernel) (by decide +kernel) 0 (by decide +kernel)).1 rfl⟩⟩

/-! ### Hypotheses that can be met: traps, the end of threads, reform and cue runs -/

/-- A crew with a handler and `n` frames held. -/
def frame0 : Frame := { epc := 0x10040, cause := 0, detail := 0, taddr := 0, lanes := 1, mask := 0xF, pidx := 5, wbase := 0, div := [], wid := 0 }
def handled (i : Instr) (n : Nat) (f : Crew → Crew := id) : State :=
  crew0 (fun c => f { c with tvec := 64, frames := List.replicate n frame0 }) (here i)

/-- A code that takes the stop list's last place, and none. -/
theorem witness_TrapEntry (h : Claims.TrapEntry) : ∃ t, (handled .nop 3).takeTrap illegalT = t :=
  ⟨_, (h (handled .nop 3) (iss (handled .nop 3)) illegalT (issuer_some (by decide +kernel))
    (by unfold Iss.handles; decide +kernel) (by decide +kernel) (by unfold Iss.Alone; decide +kernel)).1 (by decide +kernel)⟩

/-- A copy command of one item, that has not started. -/
def copy0 : CopyCmd :=
  { ctx := 0, handle := 1, op := .copy, cluster := 0, core := 0, win := 0, winSize := 4096, slate := 0, crew := 0, sspc := 0, dspc := 0, scope := 2,
    cop := 0, gchk := false, ctype := 0, item := 0, gsel := 0, src := 0x10100, dst := 0x10200, len := 64, gen := 0, sword := 0, aux0 := 0,
    aux1 := 0, xstat := 0, items := 1 }

theorem witness_TrapEscalatesBusy (h : Claims.TrapEscalates) :
    let s : State := { here .nop with copies := [(1, { copy0 with sspc := 1 })] }
    ∃ c, (s.takeTrap illegalT).crew (iss s).cid = some c ∧ c.warps = [] :=
  let s : State := { here .nop with copies := [(1, { copy0 with sspc := 1 })] }
  let ⟨c, hc, hw, _⟩ := ((h s (iss s) illegalT (issuer_some (by decide +kernel)) (by decide +kernel) (by decide +kernel) (by unfold Tbl.Rising; decide +kernel)
    (.inl (by decide +kernel))).2 (by decide +kernel)).2
  ⟨c, hc, hw⟩

/-- No handler; a handler with four frames held. -/
theorem witness_TrapEscalates (h : Claims.TrapEscalates) :
    ((here .nop).takeTrap illegalT).crew 0 = none ∧ ((handled .nop 4).takeTrap illegalT).crew 0 = none := by
  have e1 : (iss (here .nop)).cid = 0 := by decide +kernel
  have e2 : (iss (handled .nop 4)).cid = 0 := by decide +kernel
  have h1 := (h (here .nop) (iss (here .nop)) illegalT (issuer_some (by decide +kernel)) (by decide +kernel) (by decide +kernel) (by unfold Tbl.Rising; decide +kernel)
    (.inl (by decide +kernel))).1 (by decide +kernel)
  have h2 := (h (handled .nop 4) (iss (handled .nop 4)) illegalT (issuer_some (by decide +kernel)) (by decide +kernel) (by decide +kernel)
    (by unfold Tbl.Rising; decide +kernel) (.inr (by decide +kernel))).1 (by decide +kernel)
  rw [e1] at h1; rw [e2] at h2
  exact ⟨h1, h2⟩

theorem witness_SoftwareTrap (h : Obligations.SoftwareTrap) :
    encode (.trap 0xFFFF) = [0x0420FFFF#32] ∧ (∃ t, exec (.trap 0xFFFF) (here (.trap 0xFFFF)) = .next t) ∧
    ∃ t, exec (.trap 7) (handled (.trap 7) 3) = .next t :=
  ⟨(h 0xFFFF (here (.trap 0xFFFF)) (iss (here (.trap 0xFFFF)))).1,
   ⟨_, (h 0xFFFF (here (.trap 0xFFFF)) (iss (here (.trap 0xFFFF)))).2.1 (runs (by decide +kernel))⟩,
   let ⟨_, _, _, _, _, _, _, _, _, ht⟩ := (h 7 (handled (.trap 7) 3) (iss (handled (.trap 7) 3))).2.2.1 (runs (by decide +kernel))
     (by unfold Iss.handles; decide +kernel) (by decide +kernel) (by unfold Iss.Alone; decide +kernel) (by decide +kernel)
   ⟨_, ht⟩⟩

theorem witness_TrapReturns (h : Claims.TrapReturns) :
    (∃ t, exec .tret (handled .tret 1) = .next t) ∧ exec .tret (handled .tret 0) = .next ((handled .tret 0).takeTrap illegalT) ∧
    let odd := handled .tret 1 fun c => { c with frames := c.frames.map fun f => { f with epc := 0x10042 } }
    exec .tret odd = .next (odd.takeTrap illegalT) :=
  ⟨⟨_, (h (handled .tret 1) (iss (handled .tret 1)) (runs (by decide +kernel))).1 _ [] (by rfl) (by decide +kernel)⟩,
   (h (handled .tret 0) (iss (handled .tret 0)) (runs (by decide +kernel))).2.1 (by decide +kernel),
   (h _ (iss (handled .tret 1 fun c => { c with frames := c.frames.map fun f => { f with epc := 0x10042 } })) (runs (by decide +kernel))).2.2 _ []
     (by rfl) (by decide +kernel)⟩

/-- A stop list is asked for. -/
theorem witness_TrapStopList (h : Claims.TrapEntry) : ∃ t, (handled .nop 0 fun c => { c with tska := 0x404 }).takeTrap illegalT = t := by
  let s := handled .nop 0 fun c => { c with tska := 0x404 }
  have hu : (s.writeStopList { (iss s).crew with
      frames := (iss s).frameOf illegalT :: (iss s).crew.frames
      warps := (iss s).crew.warps.set (iss s).wid (iss s).warp } illegalT.cause
    ((iss s).crew.frames.length + 1) (some (iss s).wid) (illegalT.epc.getD (iss s).warp.run.pc) illegalT.pidx).isSome = true := by decide +kernel
  obtain ⟨u, hu⟩ := Option.isSome_iff_exists.mp hu
  exact ⟨_, (h s (iss s) illegalT (issuer_some (by decide +kernel)) (by unfold Iss.handles; decide +kernel) (by decide +kernel)
    (by unfold Iss.Alone; decide +kernel)).2 u hu⟩

/-- A second warp of threads. -/
def warp1 : Warp := { run := side 0x10000 0xFFFFFFFF, lanes := (List.range 32).map fun i => some (32 + i) }
def twoWarps (i : Instr) (f : Warp → Warp := id) : State :=
  crew0 (fun c => { c with n := 64, warps := c.warps ++ [(1, warp1)], bars := [(1, ⟨[3], 7, false, 0⟩)] }) (warp0 f (here i))

/-- A trap while another warp of the crew can issue; one within the skid of a trap that the other raised earlier, or now in the other
quadrant. -/
theorem witness_TrapRaised (h : Claims.TrapRaised) : ∃ t, (crew0 (fun c => { c with tvec := 64 }) (twoWarps .nop)).takeTrap illegalT = t :=
  let s := crew0 (fun c => { c with tvec := 64 }) (twoWarps .nop)
  let ⟨_, _⟩ := h s (iss s) illegalT (issuer_some (by decide +kernel)) (by unfold Iss.handles; decide +kernel) (by decide +kernel)
    (by decide +kernel) (by unfold Iss.Alone; decide +kernel) (by decide +kernel)
  ⟨_, rfl⟩

def within (a : Nat) : State :=
  crew0 (fun c => { c with tvec := 64, warps := c.warps.set 1 { warp1 with quad := 1 }, stop := some ⟨1, a, illegalT, [(0, 3)]⟩ })
    (twoWarps .nop)

theorem witness_TrapWithinSkid (h : Claims.TrapWithinSkid) :
    (∃ t, (within 5).takeTrap illegalT = t) ∧ ∃ t, (within 0).takeTrap illegalT = t :=
  ⟨⟨_, (h (within 5) (iss (within 5)) illegalT ⟨1, 5, illegalT, [(0, 3)]⟩ { warp1 with quad := 1 } (issuer_some (by decide +kernel))
      (by decide +kernel) (by decide +kernel) (by decide +kernel)).1 (.inl (by decide +kernel))⟩,
   ⟨_, (h (within 0) (iss (within 0)) illegalT ⟨1, 0, illegalT, [(0, 3)]⟩ { warp1 with quad := 1 } (issuer_some (by decide +kernel))
      (by decide +kernel) (by decide +kernel) (by decide +kernel)).2 (by decide +kernel) (by decide +kernel)
      ⟨32, 0, ⟨by decide +kernel, ⟨0, by decide +kernel⟩, by decide +kernel⟩, ⟨by decide +kernel, ⟨0, by decide +kernel⟩, by decide +kernel⟩,
        by decide, by decide⟩⟩⟩

/-- The other warp has used its skid up. -/
theorem witness_TrapAfterSkid (h : Claims.TrapAfterSkid) :
    ∃ t, (crew0 (fun c => { c with stop := some ⟨0, 0, illegalT, [(1, 0)]⟩ }) (twoWarps .nop)).endStop 0 false = t :=
  let s := crew0 (fun c => { c with stop := some ⟨0, 0, illegalT, [(1, 0)]⟩ }) (twoWarps .nop)
  ⟨_, h s 0 (iss s).crew ⟨0, 0, illegalT, [(1, 0)]⟩ (iss s).warp (by decide +kernel) (by decide +kernel) (by decide +kernel) (by decide +kernel)
    (by simp)⟩

/-- A warp of several of a crew, the same with another side, the last warp, and a trap handler. -/
theorem witness_ThreadsExit (h : Claims.ThreadsExit) :
    (∃ t, exec .exit (twoWarps .exit) = .next t) ∧
    (∃ t, exec .exit (twoWarps .exit fun w => { w with run := side 0x10000 0xFFFF, div := [side 0x20000 0xFFFF0000] }) = .next t) ∧
    (∃ t, exec .exit (here .exit) = .next t ∧ t.crew 0 = none) ∧ ∃ t, exec .exit (handled .exit 4) = .next t ∧ t.crew 0 = none := by
  have a (s : State) (hr : runsIn .exit s = true) (h1 : (iss s).crew.kind ≠ .cue) (h2 : s.crews.Rising) (h3 : Tbl.Rising (iss s).crew.warps) :=
    h s (iss s) (runs hr) h1 h2 h3
  refine ⟨?_, ?_, ?_, ?_⟩
  · obtain ⟨_, _, ht, _⟩ := (a (twoWarps .exit) (by decide +kernel) (by decide +kernel) (by unfold Tbl.Rising; decide +kernel)
      (by unfold Tbl.Rising; decide +kernel)).1 (by decide +kernel) ⟨1, warp1, by decide +kernel, by decide +kernel, by decide +kernel⟩ (by decide +kernel)
    exact ⟨_, ht⟩
  · let s := twoWarps .exit fun w => { w with run := side 0x10000 0xFFFF, div := [side 0x20000 0xFFFF0000] }
    obtain ⟨_, _, ht, _, _, _, hs⟩ := (a s (by decide +kernel) (by decide +kernel) (by unfold Tbl.Rising; decide +kernel)
      (by unfold Tbl.Rising; decide +kernel)).1 (by decide +kernel) ⟨1, warp1, by decide +kernel, by decide +kernel, by decide +kernel⟩ (by decide +kernel)
    obtain ⟨_, _⟩ := hs (side 0x20000 0xFFFF0000) [] (by decide +kernel) (by decide +kernel) rfl (by simp)
    exact ⟨_, ht⟩
  · have e : (iss (here .exit)).cid = 0 := by decide +kernel
    obtain ⟨t, ht, hc⟩ := (a (here .exit) (by decide +kernel) (by decide +kernel) (by unfold Tbl.Rising; decide +kernel)
      (by unfold Tbl.Rising; decide +kernel)).2 (.inr (by decide +kernel)) (by decide +kernel)
    exact ⟨t, ht, by rwa [e] at hc⟩
  · have e : (iss (handled .exit 4)).cid = 0 := by decide +kernel
    obtain ⟨t, ht, hc⟩ := (a (handled .exit 4) (by decide +kernel) (by decide +kernel) (by unfold Tbl.Rising; decide +kernel)
      (by unfold Tbl.Rising; decide +kernel)).2 (.inl (by decide +kernel)) (by decide +kernel)
    exact ⟨t, ht, by rwa [e] at hc⟩

/-- Three threads of 31 that leave their warp with no carry registers. -/
def threeLanes (i : Instr) : State :=
  warp0 (fun w => { w with run := side 0x10000 7, lanes := (List.range 32).map fun l => if l < 3 then some l else none }) (here i)

theorem witness_ReformFiles (h : Claims.ReformFiles) : ∃ t c b, exec (.reform 0 8) (threeLanes (.reform 0 8)) = .next t ∧ t.crew 0 = some c ∧
    c.bins.find 0 = some b ∧ b.threads.length = 3 := by
  let s := threeLanes (.reform 0 8)
  obtain ⟨t, c, ht, _, hc, _, hb⟩ := h 0 8 s (iss s) (runs (by decide +kernel))
    ⟨by unfold Tbl.Rising; decide +kernel, by decide +kernel, by unfold Tbl.Rising; decide +kernel, by decide +kernel⟩ (by decide +kernel)
    (by decide +kernel) (by decide +kernel)
  obtain ⟨b, hf, _, hl, _⟩ := hb 0 (by decide +kernel) (by decide +kernel) (by decide +kernel) (by decide +kernel) (by decide +kernel)
    (by decide +kernel) (by decide +kernel)
  have e1 : (iss s).cid = 0 := by decide +kernel
  have e2 : 16 * (iss s).warp.quad = 0 := by decide +kernel
  have e3 : (lanesOf (iss s).warp.m0).length = 3 := by decide +kernel
  exact ⟨t, c, b, ht, by rwa [e1] at hc, by rwa [e2] at hf, by rwa [e3] at hl⟩

/-- A cue run at an instruction; `v8` holds element 31, the last of the binding, or a wait of the largest argument. -/
def cued (i : Instr) (r : List (Nat × Nat)) : State := regs0 r (here i)
def binding0 : Binding :=
  { ctx := 0, dbase := 0, cbase := 0, sbase := 0, ubase := 0, nelem := 32, esize := 0, stw := false, ncore := 1, cue := loadAt, cparm := 0 }

theorem witness_CueInstructions (h : Claims.CueInstructions) :
    (∃ t, exec .exit (cued (.cwait 8 9) []) = .next t) ∧ (∃ t, exec (.cwait 8 9) (cued (.cwait 8 9) [(8, 0xFFF)]) = .next t) ∧
    (∃ t, exec (.cwake 8) (cued (.cwake 8) [(8, 31)]) = .next t) ∧ ∃ t, exec (.cloc 5 4) (cued (.cloc 5 4) []) = .next t :=
  have a (s : State) (h1 : (iss s).crew.kind = .cue) (h2 : s.bindings.find (iss s).crew.binding = some binding0) := h s (iss s) binding0 h1 h2
  ⟨⟨_, (a (cued (.cwait 8 9) []) (by decide +kernel) (by decide +kernel)).1 (runs (by decide +kernel)) (by decide +kernel) (by decide +kernel)⟩,
   ⟨_, (a (cued (.cwait 8 9) [(8, 0xFFF)]) (by decide +kernel) (by decide +kernel)).2.1 8 9 (runs (by decide +kernel)) (by decide +kernel) (by decide +kernel)
     (by decide +kernel)⟩,
   let ⟨_, _, _, ht⟩ := (a (cued (.cwake 8) [(8, 31)]) (by decide +kernel) (by decide +kernel)).2.2.1 8 (runs (by decide +kernel))
     ⟨by decide +kernel, by rw [show ((cued (.cwake 8) [(8, 31)]).core (iss (cued (.cwake 8) [(8, 31)])).crew.core).l1 = [] by decide +kernel]; simp,
      by rw [show ((cued (.cwake 8) [(8, 31)]).core (iss (cued (.cwake 8) [(8, 31)])).crew.core).l1 = [] by decide +kernel]; simp,
      by rw [show ((cued (.cwake 8) [(8, 31)]).core (iss (cued (.cwake 8) [(8, 31)])).crew.core).l1 = [] by decide +kernel]; simp,
      by decide +kernel, by decide +kernel⟩ (by decide +kernel); ⟨_, ht⟩,
   let ⟨t, ht, _⟩ := (a (cued (.cloc 5 4) []) (by decide +kernel) (by decide +kernel)).2.2.2 5 4 (runs (by decide +kernel)) (by decide +kernel); ⟨t, ht⟩⟩

/-! ### Hypotheses that can be met: engine commands -/

abbrev Goes (i : Instr) (s : State) : Prop := ∃ t, exec i s = .next t
theorem goes {i s I v u r} (h : CommandGives i s I v u r) : Goes i s := let ⟨t, h, _⟩ := h; ⟨t, h⟩
theorem goesSlot {i s I v u st n d} (h : SlotGives i s I v u st n d) : Goes i s := let ⟨_, _, _, _, _, h, _⟩ := h; goes h

/-- Tables that map the first GiB of context 0 to itself, readable and writable. -/
def mapped (s : State) : State :=
  (s.updMem fun m => { m with dram := ((m.dram.write 0x1000 [0x01, 0x20]).write 0x2000 [0x01, 0x30]).write 0x3000 [0x1F] }).updCtx 0
    fun c => { c with root := 0x1000 }
def leaf0 : TlbEnt := ⟨0, 0, 30, 0, true, true, true, 0, false, 0, 0⟩
/-- A mapped state at an instruction, with registers and bytes in memory. -/
def eng (i : Instr) (r : List (Nat × Nat)) (m : List (Nat × List Byte) := []) : State :=
  m.foldl (fun s x => s.updMem fun q => { q with dram := q.dram.write x.1 x.2 }) (mapped (regs0 r (here i)))

theorem readable (u : State) (ctx va n al : Nat) (h : (va % al == 0 && match u.engRange ctx false va n with
    | .ok ps => decide (ps = [(leaf0, va, n)]) && (u.partsOwned ps).isNone | .error _ => false) = true) :
    u.Readable ctx va n al (u.partsRead [(leaf0, va, n)]) := by
  rw [Bool.and_eq_true, beq_iff_eq] at h
  refine ⟨h.1, [(leaf0, va, n)], ?_⟩
  have h2 := h.2
  split at h2
  · rename_i ps hp
    rw [Bool.and_eq_true, decide_eq_true_eq, Option.isNone_iff_eq_none] at h2
    obtain ⟨h3, h4⟩ := h2
    subst h3
    exact ⟨hp, h4, rfl⟩
  · cases h2

theorem readableAs (u : State) (ctx va n al : Nat) (bs : List Byte) (h : (va % al == 0 && match u.engRange ctx false va n with
    | .ok ps => decide (ps = [(leaf0, va, n)]) && (u.partsOwned ps).isNone | .error _ => false) = true) (hb : u.partsRead [(leaf0, va, n)] = bs) :
    u.Readable ctx va n al bs := hb ▸ readable u ctx va n al h

/-- The checks of `Readable` as one Boolean. -/
def readsB (u : State) (ctx va n al : Nat) (bs : List Byte) : Bool :=
  (va % al == 0 && match u.engRange ctx false va n with
    | .ok ps => decide (ps = [(leaf0, va, n)]) && (u.partsOwned ps).isNone | .error _ => false) && u.partsRead [(leaf0, va, n)] == bs

theorem readsOk {u : State} {ctx va n al : Nat} {bs : List Byte} (h : readsB u ctx va n al bs = true) : u.Readable ctx va n al bs := by
  rw [readsB, Bool.and_eq_true, beq_iff_eq] at h
  exact readableAs u ctx va n al bs h.1 h.2

theorem unreadable (u : State) (ctx va n al : Nat) (h : (match u.engRange ctx false va n with | .ok _ => false | .error _ => true) = true) :
    u.Unreadable ctx va n al := by
  right
  split at h
  · cases h
  · rename_i c hc; exact ⟨c, hc⟩

/-- A number of the issuer's own dolly. -/
theorem bindsHere {I : Iss} {u : State} {n : Nat} {x : Binding}
    (h : n < 4 ∧ x.ctx = I.crew.ctx ∧ u.bindings.find (4 * I.cluster + n) = some x) : I.Binds u u n x := ⟨h.1, h.2.1, .inl ⟨rfl, h.2.2⟩⟩

/-- 64 commands of the context wait in each engine of the cluster. -/
def full (i : Instr) : State := (here i).updCluster 0 fun c => { c with
  copyQ := (List.range 64), dollyQ := List.replicate 64 ⟨0, 0, 0, .pass, false⟩, grammarQ := List.replicate 64 ⟨0, 0, 0, .save 0, false⟩ }

theorem witness_CommandsWait (h : Claims.CommandsWait) :
    Goes (.xcStat 4 8) (full (.xcStat 4 8)) ∧ Goes (.swPass 4 8 10) (full (.swPass 4 8 10)) ∧ Goes (.gpStep 4 8 10) (full (.gpStep 4 8 10)) := by
  refine ⟨⟨_, h (.xcStat 4 8) (full (.xcStat 4 8)) (iss (full (.xcStat 4 8))) (runs ?_) (.inl ⟨⟨4, 8, .inl rfl⟩, ?_⟩)⟩,
    ⟨_, h (.swPass 4 8 10) (full (.swPass 4 8 10)) (iss (full (.swPass 4 8 10))) (runs ?_) (.inr (.inl ⟨⟨4, 8, 10, .inr (.inl rfl)⟩, ?_⟩))⟩,
    ⟨_, h (.gpStep 4 8 10) (full (.gpStep 4 8 10)) (iss (full (.gpStep 4 8 10))) (runs ?_) (.inr (.inr ⟨⟨4, 8, 10, .inr (.inl rfl)⟩, ?_⟩))⟩⟩ <;>
    decide +kernel

/-- A descriptor of 256 elements of 2^`lg` bytes. -/
def descr (lg : Nat) (data : Nat := 0x20000) : List Byte :=
  bytesLE 8 data ++ bytesLE 8 0x30000 ++ bytesLE 8 0x40000 ++ bytesLE 8 0x50000 ++ bytesLE 4 256 ++ bytesLE 1 lg ++ bytesLE 1 0 ++ bytesLE 1 1 ++
    bytesLE 1 0 ++ bytesLE 8 0x10000 ++ bytesLE 8 0 ++ bytesLE 8 0
def bind4 : Binding := { boundBy 0 (descr 0) with ctx := 0 }
def bindAt (i : Instr) (d : List Byte) (r : Nat × Nat) (b : Tbl Binding := []) : State :=
  { eng i [(8, 0x10140), r] [(0x10140, d)] with bindings := b }

/-- Element sizes 6 and 7, arrays in memory and beyond it, a base in use, all four numbers in use, and the last number free. -/
theorem witness_BindingBegins (h : Claims.BindingBegins) :
    Goes (.swBind 4 8 12) (bindAt (.swBind 4 8 12) (descr 7) (12, 6)) ∧
    Goes (.swBind 4 8 0) (bindAt (.swBind 4 8 0) (descr 6 0x40000000) (12, 6)) ∧
    Goes (.swBind 4 8 0) (bindAt (.swBind 4 8 0) (descr 6) (12, 6) [(0, { bind4 with sbase := 0x40000 })]) ∧
    (let b := [(0, { bind4 with sbase := 0 }), (1, { bind4 with sbase := 0 }), (2, { bind4 with sbase := 0 })]
     Goes (.swBind 4 8 0) (bindAt (.swBind 4 8 0) (descr 6) (12, 6) (b ++ [(3, { bind4 with sbase := 0 })])) ∧
     Goes (.swBind 4 8 0) (bindAt (.swBind 4 8 0) (descr 6) (12, 6) b)) ∧
    Goes (.swBind 4 8 0) (regs0 [(8, 0x10140)] (here (.swBind 4 8 0))) ∧ Goes (.swBind 4 8 12) (eng (.swBind 4 8 12) [(12, 8)]) := by
  have c (lg : Nat) (b12 : BitVec 7) (d : Nat) (b : Tbl Binding) :=
    h 4 8 b12 (bindAt (.swBind 4 8 b12) (descr lg d) (12, 6) b) (iss (bindAt (.swBind 4 8 b12) (descr lg d) (12, 6) b))
  have e (lg : Nat) (b12 : BitVec 7) (d : Nat) (b : Tbl Binding) (h1 : _) (h2 : _) (h3 : _) (h4 : _) :=
    (c lg b12 d b h1).1 _ (runs h2) h3 (readable _ _ _ _ _ h4)
  refine ⟨goes ((e 7 12 0x20000 [] ?_ ?_ ?_ ?_).1 ?_), goes ((e 6 0 0x40000000 [] ?_ ?_ ?_ ?_).2.1 ?_ ?_),
    goes (((e 6 0 0x20000 _ ?_ ?_ ?_ ?_).2.2 ?_ ?_).1 ?_),
    ⟨goes (((e 6 0 0x20000 _ ?_ ?_ ?_ ?_).2.2 ?_ ?_).2.1 ?_ ?_), goes (((e 6 0 0x20000 _ ?_ ?_ ?_ ?_).2.2 ?_ ?_).2.2 3 ?_ ?_ ?_ ?_)⟩,
    goes ((h 4 8 0 (regs0 [(8, 0x10140)] (here (.swBind 4 8 0))) (iss (regs0 [(8, 0x10140)] (here (.swBind 4 8 0)))) ?_).2.1 (runs ?_) ?_
      (unreadable _ _ _ _ _ ?_)),
    goes ((h 4 8 12 (eng (.swBind 4 8 12) [(12, 8)]) (iss (eng (.swBind 4 8 12) [(12, 8)])) ?_).2.2.1 (runs ?_) ?_ ?_ ?_)⟩ <;>
    first | decide +kernel | (unfold State.ArraysOk; decide +kernel)

/-- `v12` names binding 3 of the cluster, to be unbound: absent, with a pass queued, and idle. -/
theorem witness_Unbinds (h : Claims.BindingBegins) :
    let i : Instr := .swUnbind 4 12
    Goes i (bindAt i [] (12, 7)) ∧ Goes i (bindAt i [] (12, 7) [(3, { bind4 with queued := [(1, 0, 0)] })]) ∧ Goes i (bindAt i [] (12, 7) [(3, bind4)]) := by
  have c (b : Tbl Binding) := h 4 8 12 (bindAt (.swUnbind 4 12) [] (12, 7) b) (iss (bindAt (.swUnbind 4 12) [] (12, 7) b))
  refine ⟨goes (((c [] ?_).2.2.2 (runs ?_) ?_ ?_ ?_).1 (.inr (.inr ?_))),
    goes ((((c _ ?_).2.2.2 (runs ?_) ?_ ?_ ?_).2 _ { bind4 with queued := [(1, 0, 0)] } (bindsHere ?_)).1 (.inr ?_)),
    goes ((((c _ ?_).2.2.2 (runs ?_) ?_ ?_ ?_).2 _ bind4 (bindsHere ?_)).2 ?_ ?_)⟩ <;>
    decide +kernel

theorem witness_BindingCommands (h : Claims.BindingCommands) :
    Goes (.swPass 4 10 12) ((eng (.swPass 4 10 12) [(10, 4), (12, 0x10144)])) ∧
    (let s (b w : Nat) : State := { eng (.swPass 4 10 12) [(10, 3), (12, w)] with bindings := [(3, { bind4 with assigned := 2 ^ 32 - 1 - b })] }
     Goes (.swPass 4 10 12) (s 0 0x10146) ∧ Goes (.swPass 4 10 12) (s 0 0x10144)) := by
  let s (w : Nat) : State := { eng (.swPass 4 10 12) [(10, 3), (12, w)] with bindings := [(3, { bind4 with assigned := 2 ^ 32 - 1 - 0 })] }
  have c (w : Nat) := h 4 10 12 (s w) (iss (s w)) ((iss (s w)).released (s w)) { bind4 with assigned := 2 ^ 32 - 1 - 0 }
  refine ⟨goes ((h 4 10 12 (eng (.swPass 4 10 12) [(10, 4), (12, 0x10144)]) (iss (eng (.swPass 4 10 12) [(10, 4), (12, 0x10144)])) State.reset bind4 ?_).1 _
      (.inl rfl) (runs ?_) (.inl ?_)), goes (((c 0x10146 ?_).2.1 (runs ?_) (bindsHere ?_)).1 ?_ ?_),
      goes (((c 0x10144 ?_).2.1 (runs ?_) (bindsHere ?_)).2 (.inr ?_))⟩ <;> decide +kernel

/-- The context's binding 3 stands on cluster 2, which is fenced: it comes over. -/
theorem witness_BindsFenced (h : Claims.BindingCommands) :
    let s : State := ({ eng (.swPass 4 10 12) [(10, 3), (12, 0x10144)] with bindings := [(11, bind4)] } : State).updPw 2 fun p =>
      { p with fenced := true }
    Goes (.swPass 4 10 12) s := by
  intro s
  let u := (iss s).released s
  let w : State := { u with bindings := (u.bindings.del 11).set (4 * (iss s).cluster + 3) bind4 }
  have hb : (iss s).Binds u w ((iss s).warp.operand 10).toNat bind4 :=
    ⟨by decide +kernel, by decide +kernel, .inr ⟨by decide +kernel, 11, by decide +kernel, by decide +kernel, by decide +kernel, by decide +kernel,
      by rw [show ((iss s).warp.operand 10).toNat = 3 by decide +kernel]⟩⟩
  exact goes (((h 4 10 12 s (iss s) w bind4 (by decide +kernel)).2.1 (runs (by decide +kernel)) hb).2 (.inr (by decide +kernel)))

/-- A list of two indices, of which 256 names no element; a count of none, an address that cannot be read. -/
theorem witness_Wakes (h : Claims.BindingCommands) :
    let s (w : Nat) (va : Nat) : State := { eng (.swWake 4 10 12) [(10, w), (12, va)] [(0x10140, bytesLE 4 255 ++ bytesLE 4 256)] with bindings := [(3, bind4)] }
    Goes (.swWake 4 10 12) (s 0x203 0x10140) ∧ Goes (.swWake 4 10 12) (s 3 0x10140) ∧ Goes (.swWake 4 10 12) (s 0x203 0x60000000) := by
  let s (w : Nat) (va : Nat) : State := { eng (.swWake 4 10 12) [(10, w), (12, va)] [(0x10140, bytesLE 4 255 ++ bytesLE 4 256)] with bindings := [(3, bind4)] }
  have c (w va : Nat) := h 4 10 12 (s w va) (iss (s w va)) ((iss (s w va)).released (s w va)) bind4
  refine ⟨goes ((((c 0x203 0x10140 ?_).2.2.1 (runs ?_)).2.2 ?_ ?_ ?_ ?_ (bindsHere ?_)).2 _ (readable _ _ _ _ _ ?_)), goes (((c 3 0x10140 ?_).2.2.1 (runs ?_)).1 ?_),
    goes ((((c 0x203 0x60000000 ?_).2.2.1 (runs ?_)).2.2 ?_ ?_ ?_ ?_ (bindsHere ?_)).1 (unreadable _ _ _ _ _ ?_))⟩ <;> decide +kernel

theorem witness_BindingStatus (h : Claims.BindingCommands) :
    let s (b : BitVec 7) (va : Nat) : State := { eng (.swStat 4 10 b) [(10, 3), (12, va)] with bindings := [(3, bind4)] }
    Goes (.swStat 4 10 0) (s 0 0) ∧ Goes (.swStat 4 10 12) (s 12 0x10140) ∧ Goes (.swStat 4 10 12) (s 12 0x10120) := by
  let s (b : BitVec 7) (va : Nat) : State := { eng (.swStat 4 10 b) [(10, 3), (12, va)] with bindings := [(3, bind4)] }
  have c (b : BitVec 7) (va : Nat) := h 4 10 b (s b va) (iss (s b va)) ((iss (s b va)).released (s b va)) bind4
  obtain ⟨_, _, _, _, _, hg⟩ := ((c 12 0x10140 (by decide +kernel)).2.2.2 (runs (by decide +kernel)) (bindsHere (by decide +kernel))).2.2 (by decide +kernel) (by decide +kernel)
  refine ⟨goes (((c 0 0 ?_).2.2.2 (runs ?_) (bindsHere ?_)).1 ?_), goes hg, goes (((c 12 0x10120 ?_).2.2.2 (runs ?_) (bindsHere ?_)).2.1 ?_ ?_)⟩ <;>
    decide +kernel

/-- A dimension of three elements. -/
def dim0 : List Byte := bytesLE 4 3 ++ bytesLE 8 4 ++ bytesLE 8 8 ++ bytesLE 4 0
/-- A copy descriptor in the space of memory. -/
def copyDescr (scope item src dst len sword : Nat) (aux0 : Nat := 0) (aux1 : Nat := 0) : List Byte :=
  bytesLE 1 0 ++ bytesLE 1 scope ++ bytesLE 2 0 ++ bytesLE 3 item ++ bytesLE 1 0 ++ bytesLE 8 src ++ bytesLE 8 dst ++ bytesLE 4 len ++ bytesLE 4 0 ++
    bytesLE 8 sword ++ bytesLE 8 aux0 ++ bytesLE 8 aux1 ++ bytesLE 8 0
def copyAt (i : Instr) (d : List Byte) : State := eng i [(8, 0x10140), (12, 65528)] [(0x10140, d)]

/-- An item beyond the largest, a scope of a collective, a completion word that cannot be written, an accepted copy with the last byte-count word of
the window, a fill, a gather, a strided copy, a reserved bit, and a descriptor that cannot be read. -/
theorem witness_CopiesAccepted (h : Claims.CopiesAccepted) :
    Goes (.xcCopy 4 8 0) (copyAt (.xcCopy 4 8 0) (copyDescr 5 (2 ^ 23 + 32) 0x20000 0x30000 64 0)) ∧
    Goes (.xcCopy 4 8 0) (copyAt (.xcCopy 4 8 0) (copyDescr 5 64 0x20000 0x30000 64 0x60000000)) ∧
    Goes (.xcCopy 4 8 12) (copyAt (.xcCopy 4 8 12) (copyDescr 5 32 0x20000 0x30000 65 0x10100)) ∧
    Goes (.xcFill 4 8 0) (copyAt (.xcFill 4 8 0) (copyDescr 0 32 0xFFFFFFFF 0x30000 1 0)) ∧
    Goes (.xcGath 4 8 0) (copyAt (.xcGath 4 8 0) (copyDescr 0 11 0x20000 0x30000 2 0 0x10180 4)) ∧
    Goes (.xcScat 4 8 0) (copyAt (.xcScat 4 8 0) (copyDescr 0 11 0x20000 0x30000 2 0 0x60000000 4)) ∧
    Goes (.xcTcopy 4 8 0) (copyAt (.xcTcopy 4 8 0) (copyDescr 0 0x100 0x20000 0x30000 0 0 ++ dim0)) ∧
    Goes (.xcScat 4 8 0) (copyAt (.xcScat 4 8 0) (copyDescr 8 0 0 0 0 0)) ∧
    Goes (.xcCopy 4 8 0) (regs0 [(8, 0x10140)] (here (.xcCopy 4 8 0))) := by
  have c (i : Instr) (op : CopyOp) (b : BitVec 7) (d ds : List Byte) (h0 : _) (h1 : _) (h2 : _) (h3 : _) (h4 : _) :=
    (h i op 4 8 b (copyAt i d) (iss (copyAt i d)) _ ds h0 (runs h1) h2 h3).2 (readable _ _ _ _ _ h4)
  obtain ⟨_, _, _, g1⟩ := (((c (.xcCopy 4 8 12) .copy 12 (copyDescr 5 32 0x20000 0x30000 65 0x10100) [] (.inl ⟨rfl, rfl⟩) (by decide +kernel) (by decide +kernel)
    (by decide +kernel) (by decide +kernel)).2 (by decide +kernel) (by decide +kernel) (fun h => by cases h)).2.2 (by decide +kernel) (by decide +kernel)).1 (fun h => by cases h)
    (fun h => by cases h)
  obtain ⟨_, _, _, g2⟩ := (((c (.xcFill 4 8 0) .fill 0 (copyDescr 0 32 0xFFFFFFFF 0x30000 1 0) [] (.inr (.inr (.inr (.inr ⟨rfl, rfl⟩)))) (by decide +kernel)
    (by decide +kernel) (by decide +kernel) (by decide +kernel)).2 (by decide +kernel) (fun h => by cases h) (fun h => by cases h)).2.2 (by decide +kernel) (by decide +kernel)).1
    (fun h => by cases h) (fun h => by cases h)
  obtain ⟨_, _, _, _, _, _, g3⟩ := (((c (.xcGath 4 8 0) .gath 0 (copyDescr 0 11 0x20000 0x30000 2 0 0x10180 4) [] (.inr (.inr (.inl ⟨rfl, rfl⟩))) (by decide +kernel)
    (by decide +kernel) (by decide +kernel) (by decide +kernel)).2 (by decide +kernel) (fun h => by cases h) (fun h => by cases h)).2.2 (by decide +kernel) (by decide +kernel)).2.2
    (.inl rfl) _ (readable _ _ _ _ _ (by decide +kernel)) [(leaf0, 0x10180, 8)] (by decide +kernel)
  obtain ⟨_, _, _, g4⟩ := (((c (.xcTcopy 4 8 0) .tcopy 0 (copyDescr 0 0x100 0x20000 0x30000 0 0 ++ dim0) dim0
    (.inr (.inl ⟨rfl, rfl⟩)) (by decide +kernel) (by decide +kernel) (by decide +kernel) (by decide +kernel)).2 (by decide +kernel) (fun h => by cases h)
    (fun _ => ⟨by decide +kernel, by decide +kernel, readableAs _ _ _ _ _ _ (by decide +kernel) (by decide +kernel), by decide +kernel⟩)).2.2 (by decide +kernel)
    (by decide +kernel)).1 (fun h => by cases h) (fun h => by cases h)
  refine ⟨goes (((c (.xcCopy 4 8 0) .copy 0 (copyDescr 5 (2 ^ 23 + 32) 0x20000 0x30000 64 0) [] (.inl ⟨rfl, rfl⟩) ?_ ?_ ?_ ?_).2 ?_ ?_ (fun h => by cases h)).1 ?_),
    goes (((c (.xcCopy 4 8 0) .copy 0 (copyDescr 5 64 0x20000 0x30000 64 0x60000000) [] (.inl ⟨rfl, rfl⟩) ?_ ?_ ?_ ?_).2 ?_ ?_ (fun h => by cases h)).2.1 ?_ ?_),
    goes g1, goes g2, goes g3,
    goes ((((c (.xcScat 4 8 0) .scat 0 (copyDescr 0 11 0x20000 0x30000 2 0 0x60000000 4) [] (.inr (.inr (.inr (.inl ⟨rfl, rfl⟩)))) ?_ ?_ ?_ ?_).2 ?_
      (fun h => by cases h) (fun h => by cases h)).2.2 ?_ ?_).2.1 (.inr rfl) (unreadable _ _ _ _ _ ?_)), goes g4,
    goes ((c (.xcScat 4 8 0) .scat 0 (copyDescr 8 0 0 0 0 0) [] (.inr (.inr (.inr (.inl ⟨rfl, rfl⟩)))) ?_ ?_ ?_ ?_).1 ?_),
    goes ((h (.xcCopy 4 8 0) .copy 4 8 0 (regs0 [(8, 0x10140)] (here (.xcCopy 4 8 0))) (iss (regs0 [(8, 0x10140)] (here (.xcCopy 4 8 0)))) [] [] (.inl ⟨rfl, rfl⟩)
      (runs ?_) ?_ ?_).1 (unreadable _ _ _ _ _ ?_))⟩ <;> decide +kernel

/-- Handle `h` of commands up to 2000, with a command under handle 2000 or 977. -/
def handles (i : Instr) (h : Nat) (c : CopyCmd) : State := { (eng i [(8, h)]).updCtx 0 fun x => { x with handles := 2000 } with copies := [(h, c)] }

/-- The oldest handle that is kept, the one before it, and commands that are done, running, waiting, and a collective. -/
theorem witness_CopiesControlled (h : Claims.CopiesControlled) :
    Goes (.xcStat 4 8) (handles (.xcStat 4 8) 976 copy0) ∧ Goes (.xcStat 4 8) (handles (.xcStat 4 8) 977 copy0) ∧
    Goes (.xcStat 4 8) (handles (.xcStat 4 8) 2000 { copy0 with done := true, scope := 3, stats := [0] }) ∧
    Goes (.xcCanc 4 8) (handles (.xcCanc 4 8) 2000 { copy0 with done := true }) ∧
    Goes (.xcCanc 4 8) (handles (.xcCanc 4 8) 2000 { copy0 with op := .coll }) ∧
    Goes (.xcCanc 4 8) (handles (.xcCanc 4 8) 2000 copy0) ∧ Goes (.xcCanc 4 8) (handles (.xcCanc 4 8) 2000 { copy0 with running := true, started := true }) := by
  have c (i : Instr) (n : Nat) (x : CopyCmd) := h i 4 8 (handles i n x) (iss (handles i n x)) x
  refine ⟨goes ((c (.xcStat 4 8) 976 copy0 (.inl rfl) (runs ?_) ?_).1 (.inl ?_)), goes (((c (.xcStat 4 8) 977 copy0 (.inl rfl) (runs ?_) ?_).2 ?_ ?_).1 rfl),
    goes (((c (.xcStat 4 8) 2000 { copy0 with done := true, scope := 3, stats := [0] } (.inl rfl) (runs ?_) ?_).2 ?_ ?_).1 rfl),
    goes (((c (.xcCanc 4 8) 2000 { copy0 with done := true } (.inr rfl) (runs ?_) ?_).2 ?_ ?_).2.1 rfl (.inl rfl)),
    goes (((c (.xcCanc 4 8) 2000 { copy0 with op := .coll } (.inr rfl) (runs ?_) ?_).2 ?_ ?_).2.2.1 rfl rfl rfl),
    goes ((((c (.xcCanc 4 8) 2000 copy0 (.inr rfl) (runs ?_) ?_).2 ?_ ?_).2.2.2 rfl rfl ?_ rfl).1 rfl),
    goes ((((c (.xcCanc 4 8) 2000 { copy0 with running := true, started := true } (.inr rfl) (runs ?_) ?_).2 ?_ ?_).2.2.2 rfl rfl ?_ rfl).2 rfl)⟩ <;> decide +kernel

/-! ### Hypotheses that can be met: grammars, trees, prefixes and scrubs -/

/-- A grammar of one state, 32 classes and 32 tokens at 0x10140: classes 0 to 3 accept with each operation; token 31 has no class. -/
def grammar0 : List Byte :=
  bytesLE 2 1 ++ bytesLE 2 1 ++ bytesLE 2 32 ++ bytesLE 2 0 ++ bytesLE 4 32 ++ bytesLE 4 0 ++ bytesLE 8 0x10200 ++ bytesLE 8 0x10280 ++ bytesLE 8 0x10300 ++
    bytesLE 24 0
def grammarMem : List (Nat × List Byte) :=
  [(0x10140, grammar0), (0x10200, ((List.range 31).flatMap fun i => bytesLE 2 i) ++ bytesLE 2 32), (0x10280, bytesLE 4 0),
   (0x10300, bytesLE 4 0xF ++ bytesLE 4 0xFFFF ++ bytesLE 4 0x1050000 ++ bytesLE 4 0x2000000 ++ bytesLE 4 0x3060000)]
def slot0 : GSlot := { owner := 0, gbase := 0x10140 }
def slotted (i : Instr) (r : List (Nat × Nat)) (g : Tbl GSlot) : State := { eng i r grammarMem with gslots := g }

/-- The turn of the only context at the slots of its cluster. -/
theorem free {s : State} {I : Iss} {ns : List Nat} (h : (s.cluster I.cluster).grammarQ = [] ∧ (s.ctx I.crew.ctx).resident = true ∧
    (s.ctx I.crew.ctx).func < 65 ∧ s.quantaOf (s.ctx I.crew.ctx).func ≠ 0) : s.SlotsFree I ns :=
  ⟨by simp [State.grammarsOf, h.1], by simp [h.1], h.2.1, h.2.2, by simp [h.1]⟩

/-- A `GP.STEP` of slot 63, holding `g`, by a token, and the state in which its slot reads the grammar. -/
def steps (t : Nat) (g : GSlot) : State := slotted (.gpStep 4 8 12) [(8, 63), (12, t)] [(63, g)]
def reads (t : Nat) (g : GSlot) : State := (iss (steps t g)).released (steps t g)

/-- What a step meets before it reads: its turn and its slot; then a slot that goes on and the vocabulary of 32; then a token of it, the
header's fields and the token's class. -/
abbrev StepReady (t : Nat) (g : GSlot) : Prop :=
  runsIn (.gpStep 4 8 12) (steps t g) = true ∧
  (((steps t g).cluster (iss (steps t g)).cluster).grammarQ = [] ∧ ((steps t g).ctx (iss (steps t g)).crew.ctx).resident = true ∧
    ((steps t g).ctx (iss (steps t g)).crew.ctx).func < 65 ∧ (steps t g).quantaOf ((steps t g).ctx (iss (steps t g)).crew.ctx).func ≠ 0) ∧
  ((iss (steps t g)).warp.operand 8).toNat < 64 ∧
    (reads t g).gslots.find (64 * (iss (steps t g)).cluster + ((iss (steps t g)).warp.operand 8).toNat) = some g ∧
    g.owner = (iss (steps t g)).crew.ctx
abbrev head0 : Grammar := grammarOf (grammar0.take 40)
abbrev readsAt (t : Nat) (g : GSlot) (va n : Nat) (bs : List Byte) : Prop := readsB (reads t g) (iss (steps t g)).crew.ctx va n 1 bs = true
abbrev StepLive (t : Nat) (g : GSlot) : Prop :=
  (g.gen = (((reads t g).ctx (iss (steps t g)).crew.ctx).gen.get 0 g.gsel).toNat ∧ g.state ≠ 0xFFFF) ∧ readsAt t g (g.gbase + 8) 4 (bytesLE 4 32)
abbrev StepClass (t : Nat) (g : GSlot) (k : Nat) : Prop :=
  ((iss (steps t g)).warp.operand 12).toNat < leNat (bytesLE 4 32) ∧ readsAt t g g.gbase 40 (grammar0.take 40) ∧
  readsAt t g (head0.cmap + 2 * ((iss (steps t g)).warp.operand 12).toNat) 2 (bytesLE 2 k)
/-- A class and state within the grammar, the row it finds and the class's bit there; and an action word of a row that accepts it. -/
abbrev StepRow (t : Nat) (g : GSlot) : Prop :=
  (leNat (bytesLE 2 t) < head0.nclass ∧ g.state < head0.nstate) ∧
  readsAt t g (head0.ridx + 4 * (g.state * head0.nsym + g.topSym)) 4 (bytesLE 4 0) ∧
  readsAt t g (head0.rows + leNat (bytesLE 4 0) * (head0.nclass / 8 + 4 * head0.nclass) + leNat (bytesLE 2 t) / 8) 1
    (bytesLE 1 (if t < 8 then 15 else 0))
abbrev StepAction (t : Nat) (g : GSlot) (w : Nat) : Prop :=
  (leNat (bytesLE 1 (if t < 8 then 15 else 0))).testBit (leNat (bytesLE 2 t) % 8) = true ∧
  readsAt t g (head0.rows + leNat (bytesLE 4 0) * (head0.nclass / 8 + 4 * head0.nclass) + head0.nclass / 8 + 4 * leNat (bytesLE 2 t)) 4 (bytesLE 4 w)

/-- A stale slot; one in acceptance; an unreadable vocabulary; a token beyond it, and one without a class; a class that the row refuses; a
push onto a full stack, a pop and a replacement of an empty one; a push onto 63 symbols, and no operation. -/
theorem witness_GrammarSteps (h : Claims.GrammarSteps) :
    let go (t : Nat) (g : GSlot) : Prop := Goes (.gpStep 4 8 12) (steps t g)
    (go 1 { slot0 with gen := 1 } ∧ go 1 { slot0 with state := 0xFFFF } ∧ go 1 { slot0 with gbase := 0x60000000 } ∧ go 32 slot0 ∧ go 31 slot0) ∧
    go 4 slot0 ∧ go 1 { slot0 with depth := 64 } ∧ go 2 slot0 ∧ go 3 slot0 ∧ go 1 { slot0 with depth := 63 } ∧ go 0 slot0 :=
  have start (t : Nat) (g : GSlot) (r : StepReady t g) := h 4 8 12 (steps t g) (iss (steps t g)) g (runs r.1) (free r.2.1) r.2.2
  have live (t : Nat) (g : GSlot) (r : StepReady t g) (l : StepLive t g) := (start t g r).2.2.2 _ l.1.1 l.1.2 (readsOk l.2)
  have classed (t : Nat) (g : GSlot) (k : Nat) (r : StepReady t g) (l : StepLive t g) (c : StepClass t g k) :=
    ((live t g r l).2.2 _ c.1 (readsOk c.2.1)).2 _ (readsOk c.2.2)
  have row (t : Nat) (g : GSlot) (p : StepReady t g ∧ StepLive t g ∧ StepClass t g t ∧ StepRow t g) :=
    (((classed t g t p.1 p.2.1 p.2.2.1).2 p.2.2.2.1.1 p.2.2.2.1.2).2 _ (readsOk p.2.2.2.2.1)).2 _ (readsOk p.2.2.2.2.2)
  have act (t : Nat) (g : GSlot) (w : Nat) (p : StepReady t g ∧ StepLive t g ∧ StepClass t g t ∧ StepRow t g) (x : StepAction t g w) :=
    (row t g p).2.2 _ x.1 (readsOk x.2)
  let ⟨_, _, _, g1⟩ := (act 1 { slot0 with depth := 63 } 0x1050000 (by decide +kernel) (by decide +kernel)).2.2 ⟨rfl, rfl, by decide, by decide⟩
    (fun _ => by decide) (fun h => absurd h (by decide))
  let ⟨_, _, _, g0⟩ := (act 0 slot0 0xFFFF (by decide +kernel) (by decide +kernel)).2.2 ⟨rfl, rfl, by decide, by decide⟩ (fun _ => by decide)
    (fun h => absurd h (by decide))
  ⟨⟨goesSlot ((start 1 { slot0 with gen := 1 } (by decide +kernel)).1 (by decide +kernel)),
    goesSlot ((start 1 { slot0 with state := 0xFFFF } (by decide +kernel)).2.1 (by decide +kernel) rfl),
    goesSlot ((start 1 { slot0 with gbase := 0x60000000 } (by decide +kernel)).2.2.1 (by decide +kernel) (by decide +kernel)
      (unreadable _ _ _ _ _ (by decide +kernel))),
    goesSlot ((live 32 slot0 (by decide +kernel) (by decide +kernel)).1 (by decide +kernel)),
    goesSlot ((classed 31 slot0 32 (by decide +kernel) (by decide +kernel) (by decide +kernel)).1 (.inl (by decide +kernel)))⟩,
   goesSlot ((row 4 slot0 (by decide +kernel)).1 (by decide +kernel)),
   goesSlot ((act 1 { slot0 with depth := 64 } 0x1050000 (by decide +kernel) (by decide +kernel)).1 (by decide +kernel) (by decide +kernel)),
   goesSlot ((act 2 slot0 0x2000000 (by decide +kernel) (by decide +kernel)).2.1 (.inl (by decide +kernel)) rfl),
   goesSlot ((act 3 slot0 0x3060000 (by decide +kernel) (by decide +kernel)).2.1 (.inr (by decide +kernel)) rfl),
   goesSlot g1, goesSlot g0⟩

/-- An image of a slot with a full log and stack, and one that is not well formed. -/
def image0 (bad : Nat) : List Byte := bytesLE 8 0x10140 ++ bytesLE 2 0 ++ bytesLE 1 64 ++ bytesLE 1 32 ++ bytesLE 1 0 ++ bytesLE 1 bad ++ bytesLE 242 0

/-- Reserved bits; a slot of another context with a command under way; an address that cannot be read, a header that breaks its rule, and a
grammar bound to the last slot. -/
theorem witness_GrammarBinds (h : Claims.GrammarSlots) :
    let s (a w : Nat) : State := slotted (.gpBind 4 8 12) [(8, a), (12, w)] []
    let go (a w : Nat) : Prop := Goes (.gpBind 4 8 12) (s a w)
    let busy : State := { s 0x10140 63 with gslots := [(63, { slot0 with owner := 1 })] }.updCluster 0 fun c => { c with grammarQ := [⟨63, 1, 0, .save 0, true⟩] }
    (go 0x10140 64 ∧ Goes (.gpBind 4 8 12) busy) ∧ go 0x60000000 63 ∧ go 0x10200 63 ∧ go 0x10140 0xFF3F := by
  let s (a w : Nat) : State := slotted (.gpBind 4 8 12) [(8, a), (12, w)] []
  let busy : State := { s 0x10140 63 with gslots := [(63, { slot0 with owner := 1 })] }.updCluster 0 fun c => { c with grammarQ := [⟨63, 1, 0, .save 0, true⟩] }
  have c (a w : Nat) := h 4 8 12 (s a w) (iss (s a w))
  have bound (a w : Nat) (hr : runsIn (.gpBind 4 8 12) (s a w) = true) (h1 : _) (h2 : _) := ((c a w).2.1 (runs hr) h1 h2).2
  obtain ⟨_, g1⟩ := ((bound 0x10140 0xFF3F (by decide +kernel) (by decide +kernel) (by decide +kernel) (free (by decide +kernel))).2 _
    (readable _ _ _ _ _ (by decide +kernel))).2 (by decide +kernel)
  refine ⟨⟨goesSlot ((c 0x10140 64).1 (runs ?_) (free ?_) (.inl ?_)), goesSlot (((h 4 8 12 busy (iss busy)).2.1 (runs ?_) ?_ ?_).1 { slot0 with owner := 1 }
      ⟨?_, ?_, ?_, ?_, ?_⟩ ?_ ?_ ⟨⟨63, 1, 0, .save 0, true⟩, ?_⟩)⟩,
    goesSlot ((bound 0x60000000 63 ?_ ?_ ?_ (free ?_)).1 (unreadable _ _ _ _ _ ?_)),
    goesSlot (((bound 0x10200 63 ?_ ?_ ?_ (free ?_)).2 _ (readable _ _ _ _ _ ?_)).1 ?_), goesSlot g1⟩ <;> decide +kernel

/-- Slot 63, its number beyond the last, held by no context and by another; and a fork onto it. -/
theorem witness_GrammarSlots (h : Claims.GrammarSlots) :
    let s (i : Instr) (n w : Nat) (g : Tbl GSlot) : State := slotted i [(8, n), (12, w)] g
    Goes (.gpMask 4 8 12) (s (.gpMask 4 8 12) 64 0 []) ∧ Goes (.gpRoll 4 8 12) (s (.gpRoll 4 8 12) 63 63 []) ∧
    Goes (.gpFork 4 8 12) (s (.gpFork 4 8 12) 0 63 []) ∧ Goes (.gpFork 4 8 12) (s (.gpFork 4 8 12) 0 63 [(0, slot0)]) ∧
    Goes (.gpFork 4 8 12) (s (.gpFork 4 8 12) 0 63 [(0, slot0), (63, { slot0 with owner := 1 })]) := by
  have c (i : Instr) (n w : Nat) (g : Tbl GSlot) := (h 4 8 12 (slotted i [(8, n), (12, w)] g) (iss (slotted i [(8, n), (12, w)] g))).2.2
  refine ⟨goesSlot ((c (.gpMask 4 8 12) 64 0 []).1 _ (.inr (.inr (.inr (.inl rfl)))) (runs ?_) (free ?_) (.inl ?_)),
    goesSlot ((c (.gpRoll 4 8 12) 63 63 []).2.1 _ (.inr (.inl ⟨rfl, ?_⟩)) (runs ?_) (free ?_) ?_),
    goesSlot ((c (.gpFork 4 8 12) 0 63 []).2.2.1 (runs ?_) (free ?_) ?_ ?_),
    goesSlot (((c (.gpFork 4 8 12) 0 63 [(0, slot0)]).2.2.2.1 slot0 (runs ?_) (free ?_) ?_ ?_).1 ?_),
    goesSlot (((c (.gpFork 4 8 12) 0 63 [(0, slot0), (63, { slot0 with owner := 1 })]).2.2.2.1 slot0 (runs ?_) (free ?_) ?_ ?_).2
      { slot0 with owner := 1 } ?_ ?_)⟩ <;>
    first | decide +kernel | (unfold Iss.Holds; decide +kernel) | (unfold Iss.HoldsNot; decide +kernel)

/-- Rollbacks of a log of one, and images: of another context's slot, unreadable, not well formed, and whole. -/
theorem witness_GrammarRestores (h : Claims.GrammarSlots) :
    let s (i : Instr) (n w : Nat) (g : Tbl GSlot) : State := slotted i [(8, n), (12, w)] g
    let log1 : GSlot := { slot0 with log := 2 ^ 24 :: List.replicate 31 0, logn := 1, stack := 5 :: List.replicate 63 0, depth := 1 }
    let image (bad : Nat) : State := eng (.gpLoad 4 8 12) [(8, 63), (12, 0x10400)] [(0x10400, image0 bad)]
    (Goes (.gpRoll 4 8 12) (s (.gpRoll 4 8 12) 63 2 [(63, log1)]) ∧ Goes (.gpRoll 4 8 12) (s (.gpRoll 4 8 12) 63 1 [(63, log1)])) ∧
    Goes (.gpLoad 4 8 12) (s (.gpLoad 4 8 12) 63 0x10400 [(63, { slot0 with owner := 1 })]) ∧
    Goes (.gpLoad 4 8 12) (s (.gpLoad 4 8 12) 63 0x60000000 []) ∧ Goes (.gpLoad 4 8 12) (image 1) ∧ Goes (.gpLoad 4 8 12) (image 0) := by
  have c (i : Instr) (n w : Nat) (g : Tbl GSlot) := (h 4 8 12 (slotted i [(8, n), (12, w)] g) (iss (slotted i [(8, n), (12, w)] g))).2.2.2.2.2.2
  let image (bad : Nat) : State := eng (.gpLoad 4 8 12) [(8, 63), (12, 0x10400)] [(0x10400, image0 bad)]
  have c2 (bad : Nat) := (h 4 8 12 (image bad) (iss (image bad))).2.2.2.2.2.2.2
  let log1 : GSlot := { slot0 with log := 2 ^ 24 :: List.replicate 31 0, logn := 1, stack := 5 :: List.replicate 63 0, depth := 1 }
  obtain ⟨g, hg⟩ : ∃ g, slotOfImage (iss (image 0)).crew.ctx (image0 0) = some g := Option.isSome_iff_exists.mp (by decide +kernel)
  obtain ⟨_, g1⟩ := (((c2 0 (runs (by decide +kernel)) (free (by decide +kernel)) (by decide +kernel)).2 (by decide +kernel)).2 (image0 0)
    (readableAs _ _ _ _ _ _ (by decide +kernel) (by decide +kernel))).2 g hg
  have roll (n : Nat) (hr : runsIn (.gpRoll 4 8 12) (slotted (.gpRoll 4 8 12) [(8, 63), (12, n)] [(63, log1)]) = true) (h1 : _) (h2 : _) (h3 : _) :=
    (c (.gpRoll 4 8 12) 63 n [(63, log1)]).1 log1 (runs hr) (free h1) h2 h3
  obtain ⟨_, _, _, g2⟩ := (roll 1 (by decide +kernel) (by decide +kernel) (by unfold Iss.Holds; decide +kernel) (by decide +kernel)).2 (by decide +kernel)
    ⟨by decide +kernel, by decide +kernel, by decide, by decide⟩
  refine ⟨⟨goesSlot ((roll 2 ?_ ?_ ?_ ?_).1 ?_), goesSlot g2⟩,
    goesSlot (((c (.gpLoad 4 8 12) 63 0x10400 [(63, { slot0 with owner := 1 })]).2 (runs ?_) (free ?_) ?_).1 { slot0 with owner := 1 } ?_ ?_),
    goesSlot ((((c (.gpLoad 4 8 12) 63 0x60000000 []).2 (runs ?_) (free ?_) ?_).2 ?_).1 (unreadable _ _ _ _ _ ?_)),
    goesSlot ((((c2 1 (runs ?_) (free ?_) ?_).2 ?_).2 _ (readable _ _ _ _ _ ?_)).1 ?_), goesSlot g1⟩ <;>
    first | decide +kernel | (unfold Iss.Holds; decide +kernel)

/-- A mask and an image that can be written, and that cannot; and a mask of a slot whose VOCAB cannot be read. -/
theorem witness_GrammarOutputs (h : Claims.GrammarOutputs) :
    let s (i : Instr) (a : Nat) (g : GSlot) : State := slotted i [(8, 63), (12, a)] [(63, g)]
    let mask (a : Nat) (g : GSlot) : Prop := Goes (.gpMask 4 8 12) (s (.gpMask 4 8 12) a g)
    (mask 0x20000 slot0 ∧ mask 0x20002 slot0 ∧ mask 0x20000 { slot0 with gbase := 0x60000000 }) ∧
    Goes (.gpSave 4 8 12) (s (.gpSave 4 8 12) 0x20000 slot0) ∧ Goes (.gpSave 4 8 12) (s (.gpSave 4 8 12) 0x20020 slot0) := by
  have c (i : Instr) (a : Nat) (g : GSlot) := h 4 8 12 (slotted i [(8, 63), (12, a)] [(63, g)]) (iss (slotted i [(8, 63), (12, a)] [(63, g)])) g
  refine ⟨⟨goesSlot (((c (.gpMask 4 8 12) 0x20000 slot0 (free ?_) ?_).1 1 (runs ?_) (.inr ⟨_, readable _ _ _ _ _ ?_, ?_⟩)).1 ?_),
    goesSlot (((c (.gpMask 4 8 12) 0x20002 slot0 (free ?_) ?_).1 1 (runs ?_) (.inr ⟨_, readable _ _ _ _ _ ?_, ?_⟩)).2 ?_),
    goesSlot (((c (.gpMask 4 8 12) 0x20000 { slot0 with gbase := 0x60000000 } (free ?_) ?_).1 0 (runs ?_) (.inl ⟨unreadable _ _ _ _ _ ?_, rfl⟩)).1 ?_)⟩,
    goesSlot (((c (.gpSave 4 8 12) 0x20000 slot0 (free ?_) ?_).2 (runs ?_)).1 ?_),
    goesSlot (((c (.gpSave 4 8 12) 0x20020 slot0 (free ?_) ?_).2 (runs ?_)).2 ?_)⟩ <;>
    first | decide +kernel | (unfold Iss.Holds; decide +kernel)

/-- An image with a full log and stack, and a slot with one entry of each. -/
theorem witness_SlotImages (h : Claims.SlotImages) :
    (∃ g, slotOfImage 5 ((image0 0).take 252) = some g ∧ slotImage g = (image0 0).take 252) ∧
    (let g : GSlot := { slot0 with log := 0xFFFFFFFF :: List.replicate 31 0, logn := 1, stack := 255 :: List.replicate 63 0, depth := 1 }
     slotOfImage 0 (slotImage g) = some g) := by
  obtain ⟨g, hg⟩ : ∃ g, slotOfImage 5 ((image0 0).take 252) = some g := Option.isSome_iff_exists.mp (by decide +kernel)
  exact ⟨⟨g, hg, (h.1 5 _ g (by decide +kernel) (by decide +kernel) hg).2.2⟩,
    h.2 _ ⟨by decide +kernel, by decide +kernel, by decide, by decide⟩ (by decide) (by decide) (by decide) (by decide) (by decide)
      (by decide +kernel) (by decide +kernel)⟩

/-- A tree's request, and its depths at 0x10180. -/
def tree (n : Nat) (d : List Nat) (out : Nat) : State :=
  eng (.dtBuild 4 8) [(8, 0x10140)] [(0x10140, bytesLE 2 n ++ bytesLE 6 0 ++ bytesLE 8 0x10180 ++ bytesLE 8 0x20000 ++ bytesLE 8 out), (0x10180, d.flatMap (bytesLE 1))]

theorem treeOk_iff (d : List Nat) : TreeOk d ↔ d.getD 0 0 = 0 ∧
    ∀ i, i < d.length → 0 < i → 1 ≤ d.getD i 0 ∧ d.getD i 0 ≤ d.getD (i - 1) 0 + 1 ∧ d.getD i 0 ≤ 63 :=
  ⟨fun h => ⟨h.1, fun i hl h0 => h.2 i h0 hl⟩, fun h => ⟨h.1, fun i h0 hl => h.2 i hl h0⟩⟩

/-- No node, depths that cannot be read, results that cannot be written, a tree of three, and one whose last node breaks the rule. -/
theorem witness_TreesBuilt (h : Claims.TreesBuilt) :
    Goes (.dtBuild 4 8) (tree 0 [] 0) ∧ Goes (.dtBuild 4 8) (eng (.dtBuild 4 8) [(8, 0x10140)] [(0x10140, bytesLE 8 1 ++ bytesLE 8 0x60000000)]) ∧
    Goes (.dtBuild 4 8) (tree 3 [0, 1, 2] 0x20102) ∧ Goes (.dtBuild 4 8) (tree 3 [0, 1, 2] 0x20100) ∧ Goes (.dtBuild 4 8) (tree 3 [0, 1, 3] 0x20100) := by
  have c (s : State) (ds : List Byte) (hr : runsIn (.dtBuild 4 8) s = true) (h2 : _) := (h 4 8 s (iss s) _ ds (runs hr)).2 (readable _ _ _ _ _ h2)
  have e (d : List Nat) (out : Nat) (hr : runsIn (.dtBuild 4 8) (tree 3 d out) = true) (h2 : _) (hn : _) (hm : _) (hz : _) (hd : _) :=
    (c (tree 3 d out) (d.flatMap (bytesLE 1)) hr h2).2.2 hn hm hz (readsOk hd)
  obtain ⟨_, _, _, _, _, g1⟩ := ((e [0, 1, 2] 0x20100 (by decide +kernel) (by decide +kernel) (by decide +kernel) (by decide +kernel) (by decide +kernel)
    (by decide +kernel)).2 (by decide +kernel) (by decide +kernel) (by decide +kernel)).1 ((treeOk_iff _).mpr (by decide +kernel))
  refine ⟨goesSlot ((c (tree 0 [] 0) [] ?_ ?_).1 (.inl ?_)),
    goesSlot ((c (eng (.dtBuild 4 8) [(8, 0x10140)] [(0x10140, bytesLE 8 1 ++ bytesLE 8 0x60000000)]) [] ?_ ?_).2.1 ?_ ?_ ?_ (unreadable _ _ _ _ _ ?_)),
    goesSlot ((e [0, 1, 2] 0x20102 ?_ ?_ ?_ ?_ ?_ ?_).1 (.inr ?_)), goesSlot g1,
    goesSlot (((e [0, 1, 3] 0x20100 ?_ ?_ ?_ ?_ ?_ ?_).2 ?_ ?_ ?_).2 2 ?_ ?_ (.inr ?_))⟩ <;>
    first | decide +kernel | (rw [treeOk_iff]; decide +kernel)

/-- The issuing context's prefix table: hash 7 in entry 63, pinned to the limit, its parent 0, and more. -/
def prefixed (i : Instr) (a b : Nat) (t : Tbl PtEnt) : State := (regs0 [(8, a), (12, b)] (here i)).updCtx 0 fun c => { c with ptab := t, ptAge := t.map (·.1) }
def pt0 (pins : Nat) : Tbl PtEnt := [(0, ⟨5, none, 0⟩), (2, ⟨6, none, 0⟩), (63, ⟨7, some 0, pins⟩)]

theorem witness_PrefixTable (h : Claims.PrefixTable) :
    Goes (.ptLook 4 8) (prefixed (.ptLook 4 8) 9 0 (pt0 0)) ∧ Goes (.ptLook 4 8) (prefixed (.ptLook 4 8) 7 0 (pt0 0)) ∧
    Goes (.ptPin 4 8) (prefixed (.ptPin 4 8) 7 0 (pt0 0xFFFE)) ∧ Goes (.ptPin 4 8) (prefixed (.ptPin 4 8) 7 0 (pt0 0xFFFF)) ∧
    Goes (.ptUnpin 4 8) (prefixed (.ptUnpin 4 8) 64 0 (pt0 0)) ∧ Goes (.ptUnpin 4 8) (prefixed (.ptUnpin 4 8) 62 0 (pt0 0)) ∧
    Goes (.ptUnpin 4 8) (prefixed (.ptUnpin 4 8) 63 0 (pt0 0)) ∧ Goes (.ptUnpin 4 8) (prefixed (.ptUnpin 4 8) 63 0 (pt0 1)) ∧
    Goes (.ptEvict 4 8) (prefixed (.ptEvict 4 8) 64 0 (pt0 0)) ∧ Goes (.ptEvict 4 8) (prefixed (.ptEvict 4 8) 62 0 (pt0 0)) ∧
    Goes (.ptEvict 4 8) (prefixed (.ptEvict 4 8) 63 0 (pt0 1)) ∧ Goes (.ptEvict 4 8) (prefixed (.ptEvict 4 8) 0 0 (pt0 0)) ∧
    Goes (.ptEvict 4 8) (prefixed (.ptEvict 4 8) 63 0 (pt0 0)) := by
  have c (i : Instr) (a : Nat) (t : Tbl PtEnt) := h 4 8 12 (prefixed i a 0 t) (iss (prefixed i a 0 t))
  refine ⟨goesSlot ((c (.ptLook 4 8) 9 (pt0 0)).1 ?_ _ (.inl rfl) (runs ?_)), goesSlot (((c (.ptLook 4 8) 7 (pt0 0)).2.1 63 ⟨7, some 0, 0⟩ ?_ ?_).1 (runs ?_)),
    goesSlot (((c (.ptPin 4 8) 7 (pt0 0xFFFE)).2.1 63 ⟨7, some 0, 0xFFFE⟩ ?_ ?_).2.1 (runs ?_) ?_),
    goesSlot (((c (.ptPin 4 8) 7 (pt0 0xFFFF)).2.1 63 ⟨7, some 0, 0xFFFF⟩ ?_ ?_).2.2.1 (runs ?_) ?_),
    goesSlot (((c (.ptUnpin 4 8) 64 (pt0 0)).2.2.1 (runs ?_)).1 ?_), goesSlot (((c (.ptUnpin 4 8) 62 (pt0 0)).2.2.1 (runs ?_)).2.1 ?_ ?_),
    goesSlot ((((c (.ptUnpin 4 8) 63 (pt0 0)).2.2.1 (runs ?_)).2.2 ⟨7, some 0, 0⟩ ?_ ?_).1 ?_),
    goesSlot ((((c (.ptUnpin 4 8) 63 (pt0 1)).2.2.1 (runs ?_)).2.2 ⟨7, some 0, 1⟩ ?_ ?_).2 ?_),
    goesSlot (((c (.ptEvict 4 8) 64 (pt0 0)).2.2.2.1 (runs ?_)).1 ?_), goesSlot (((c (.ptEvict 4 8) 62 (pt0 0)).2.2.2.1 (runs ?_)).2.1 ?_ ?_),
    goesSlot ((((c (.ptEvict 4 8) 63 (pt0 1)).2.2.2.1 (runs ?_)).2.2 ⟨7, some 0, 1⟩ ?_ ?_).1 ?_),
    goesSlot ((((c (.ptEvict 4 8) 0 (pt0 0)).2.2.2.1 (runs ?_)).2.2 ⟨5, none, 0⟩ ?_ ?_).2.1 ?_ ⟨(63, ⟨7, some 0, 0⟩), ?_⟩),
    goesSlot ((((c (.ptEvict 4 8) 63 (pt0 0)).2.2.2.1 (runs ?_)).2.2 ⟨7, some 0, 0⟩ ?_ ?_).2.2 ?_ ?_)⟩ <;> decide +kernel

/-- All entries in use and pinned, or all but one. -/
def ptFull (pin62 : Nat) : Tbl PtEnt := (List.range 64).map fun k => (k, ⟨k, none, if k = 62 then pin62 else 1⟩)

/-- An entry that stands, a parent beyond the table and one that is empty, a free entry, a full table, and a full table with a victim. -/
theorem witness_PrefixInserts (h : Claims.PrefixTable) :
    let go (a b : Nat) (t : Tbl PtEnt) : Prop := Goes (.ptIns 4 8 12) (prefixed (.ptIns 4 8 12) a b t)
    go 7 0xFFFFFFFF (pt0 0) ∧ go 9 64 (pt0 0) ∧ go 9 62 (pt0 0) ∧ go 9 63 (pt0 0) ∧ go 99 0xFFFFFFFF (ptFull 1) ∧ go 99 63 (ptFull 0) := by
  have c (a b : Nat) (t : Tbl PtEnt) := h 4 8 12 (prefixed (.ptIns 4 8 12) a b t) (iss (prefixed (.ptIns 4 8 12) a b t))
  obtain ⟨_, _, _, hg⟩ := ((((c 9 63 (pt0 0)).2.2.2.2 (runs (by decide +kernel))).2 (by decide +kernel)).2 (.inr (by decide +kernel))).1
    ⟨1, by decide +kernel, by decide +kernel⟩
  refine ⟨goesSlot (((c 7 0xFFFFFFFF (pt0 0)).2.1 63 ⟨7, some 0, 0⟩ ?_ ?_).2.2.2 (runs ?_) (.inr ?_)), goesSlot (((c 9 64 (pt0 0)).2.2.2.2 (runs ?_)).1 ?_ ?_),
    goesSlot ((((c 9 62 (pt0 0)).2.2.2.2 (runs ?_)).2 ?_).1 ?_ ?_), goesSlot hg,
    goesSlot (((((c 99 0xFFFFFFFF (ptFull 1)).2.2.2.2 (runs ?_)).2 ?_).2 (.inl ?_)).2 ?_ |>.1 ?_),
    goesSlot (((((c 99 63 (ptFull 0)).2.2.2.2 (runs ?_)).2 ?_).2 (.inr ?_)).2 ?_ |>.2 62 ?_ ?_)⟩ <;> decide +kernel

/-- Eight busy jobs, or seven. -/
def jobs (n : Nat) (c : Nat := 9) : Tbl Scrub := (List.range n).map fun j => (j, { busy := true, ctx := c, phase := 2, units := 0 })
def scrubbing (n : Nat) (j : Tbl Scrub) (r : Bool) : State :=
  { (regs0 [(8, n)] (here (.xcScrb 4 8))).updCtx 1023 fun c => { c with resident := r } with scrubs := j }

/-- No free job; a number beyond the contexts; one that a job holds; one that is not alive; the last context; and key slots. -/
theorem witness_Scrubbing (h : Claims.Scrubbing) :
    let go (n : Nat) (j : Tbl Scrub) (r : Bool) : Prop := Goes (.xcScrb 4 8) (scrubbing n j r)
    go 1023 (jobs 8) true ∧ go 1024 (jobs 7) true ∧ go 9 (jobs 7) true ∧ go 1023 (jobs 7) false ∧ go 1023 (jobs 7) true ∧
    (let zs (n : Nat) : State := eng (.ksZero 4 8 12) [(8, n), (12, 0x10102)]
     Goes (.ksZero 4 8 12) (zs 256) ∧ Goes (.ksZero 4 8 12) (zs 0) ∧ Goes (.ksZero 4 8 12) (zs 255) ∧
     Goes (.ksZero 4 8 0) { eng (.ksZero 4 8 0) [(8, 255)] with keys := [(255, 1)] }) := by
  have c (n : Nat) (j : Tbl Scrub) (r : Bool) := (h 4 8 12 (scrubbing n j r) (iss (scrubbing n j r))).1
  have z (n : Nat) := (h 4 8 12 (eng (.ksZero 4 8 12) [(8, n), (12, 0x10102)]) (iss (eng (.ksZero 4 8 12) [(8, n), (12, 0x10102)]))).2
  obtain ⟨_, g1, _⟩ := ((c 1023 (jobs 7) true (runs (by decide +kernel))).2 7 (by decide +kernel) (by decide +kernel) (by decide +kernel)).2.2.2 (by decide +kernel)
    (by decide +kernel) (by decide +kernel) (.inl (by decide +kernel))
  obtain ⟨_, g2, _⟩ := ((h 4 8 0 { eng (.ksZero 4 8 0) [(8, 255)] with keys := [(255, 1)] } (iss { eng (.ksZero 4 8 0) [(8, 255)] with keys := [(255, 1)] })).2
    (runs (by decide +kernel))).2.2.2 (by decide +kernel) (by decide +kernel) (.inl (by decide +kernel))
  refine ⟨⟨_, (c 1023 (jobs 8) true (runs ?_)).1 ?_⟩, goes (((c 1024 (jobs 7) true (runs ?_)).2 7 ?_ ?_ ?_).1 ?_),
    goes (((c 9 (jobs 7) true (runs ?_)).2 7 ?_ ?_ ?_).2.1 ?_ ?_), goes (((c 1023 (jobs 7) false (runs ?_)).2 7 ?_ ?_ ?_).2.2.1 ?_ ?_ (.inr ?_)), goes g1,
    goes ((z 256 (runs ?_)).1 ?_), goes ((z 0 (runs ?_)).2.1 ?_), goes ((z 255 (runs ?_)).2.2.1 ?_ ?_ ?_ ?_), goes g2⟩ <;> decide +kernel

/-! ### Hypotheses that can be met: rows and the matrix unit -/

/-- The TLB entry of a page in the row affinity of its stack. -/
def rowTlb : TlbEnt := { loadTlb 0 with aff := 1 }
/-- A control thread at a row instruction, at 100 ns, with rows in the tracker of its cluster. -/
def rowed (i : Instr) (rows : List RowEnt) (r : List (Nat × Nat) := []) : State :=
  { ((regs0 ([(8, 0x107FF)] ++ r) (here i)).updCore 320 fun k => { k with tlb := [rowTlb] }).updCluster 0 fun c => { c with rows := rows } with now := 100000 }
def row0 (st : RowState) (row : Nat := 1) : RowEnt := ⟨0, row, st, 88000, if st = .opened then none else some 99000, List.replicate 2048 7, 0, false⟩

theorem rowAt (s : State) (I : Iss) (a : BitVec 7) (h : I.warp.operand64 a < 2 ^ 57) (h1 : ∀ b, b ∈ I.warp.badPages → b.page ≠ I.rowVa' a / 65536)
    (h2 : s.tlbHit I.crew.core I.crew.ctx (I.rowVa' a) = some rowTlb) (h3 : stackOfPa (rowTlb.addr (I.rowVa' a)) = stackOf I.cluster) : I.RowAt s a rowTlb :=
  ⟨h, h1, h2, by decide, .inl rfl, h3⟩

/-- A bank with an open row, one with nothing, and one that has expired. -/
theorem witness_RowActivates (h : Claims.RowActivates) :
    Goes (.ract 8) (rowed (.ract 8) [row0 .opened]) ∧ Goes (.ract 8) (rowed (.ract 8) []) ∧ Goes (.ract 8) (rowed (.ract 8) [row0 .expired]) := by
  have c (rows : List RowEnt) (h1 : runsIn (.ract 8) (rowed (.ract 8) rows) = true) (h2 : _) (h3 : _) (h4 : _) (h5 : _) :=
    h 8 (rowed (.ract 8) rows) (iss (rowed (.ract 8) rows)) rowTlb (runs h1) (rowAt _ _ _ h2 h3 h4 h5)
  have n (rows : List RowEnt) (hr : ((rowed (.ract 8) rows).settleStack 0).mem.dir = []) : ∀ i, i < 16 →
      (((rowed (.ract 8) rows).settleStack 0).mem.dirOf false (rowTlb.addr ((iss (rowed (.ract 8) rows)).rowVa' 8) / 128 + i)).owners = [] := by
    intro i _; unfold MemSt.dirOf; rw [hr]; rfl
  have hst (rows : List RowEnt) (h : stackOf (iss (rowed (.ract 8) rows)).cluster = 0) := h
  obtain ⟨_, ht, _⟩ := (c [] (by decide +kernel) (by decide +kernel) (by decide +kernel) (by decide +kernel) (by decide +kernel)).2
    (by intro k r hk; revert r; revert hk; revert k; decide +kernel) (by decide +kernel)
    (by decide +kernel) (by decide +kernel) (by decide +kernel) (by rw [hst [] (by decide +kernel)]; exact n [] (by decide +kernel))
  obtain ⟨_, hu, _⟩ := (c [row0 .expired] (by decide +kernel) (by decide +kernel) (by decide +kernel) (by decide +kernel) (by decide +kernel)).2
    (by intro k r hk; revert r; revert hk; revert k; decide +kernel)
    (by decide +kernel) (by decide +kernel) (by decide +kernel) (by decide +kernel) (by rw [hst _ (by decide +kernel)]; exact n _ (by decide +kernel))
  exact ⟨⟨_, (c [row0 .opened] (by decide +kernel) (by decide +kernel) (by decide +kernel) (by decide +kernel) (by decide +kernel)).1
    ⟨0, row0 .opened, by decide, by decide +kernel, rfl⟩⟩, ⟨_, ht⟩, ⟨_, hu⟩⟩

/-- `RCON` of a bank with nothing, another row, a row in each state, one whose key is gone and a poisoned one. -/
theorem witness_RowsRefused (h : Claims.RowsRead) :
    let go (rows : List RowEnt) : Prop := Goes (.rcon 15 8) (rowed (.rcon 15 8) rows)
    go [] ∧ go [row0 .opened 2] ∧ go [row0 .closing] ∧ go [row0 .expired] ∧ go [{ row0 .opened with slot := 255 }] ∧
    go [{ row0 .opened with poisoned := true }] ∧ go [row0 .opened] := by
  have c (rows : List RowEnt) (hr : runsIn (.rcon 15 8) (rowed (.rcon 15 8) rows) = true) (h2 : _) (h3 : _) (h4 : _) (h5 : _) :=
    (h 15 8 12 (rowed (.rcon 15 8) rows) (iss (rowed (.rcon 15 8) rows)) rowTlb (rowAt _ _ _ h2 h3 h4 h5)).1 (runs hr)
  have one (x : RowEnt) (hr : runsIn (.rcon 15 8) (rowed (.rcon 15 8) [x]) = true) (h2 : _) (h3 : _) (h4 : _) (h5 : _) (h6 : _ ∧ _ ∧ _ ∧ _) (h7 : _) :=
    (c [x] hr h2 h3 h4 h5 h6.1 h6.2.1 h6.2.2.1 h6.2.2.2).2 x h7
  refine ⟨⟨_, (c [] ?_ ?_ ?_ ?_ ?_ ?_ ?_ ?_ ?_).1 ?_⟩, ⟨_, (one (row0 .opened 2) ?_ ?_ ?_ ?_ ?_ ⟨?_, ?_, ?_, ?_⟩ ?_).1 ?_⟩,
    ⟨_, ((one (row0 .closing) ?_ ?_ ?_ ?_ ?_ ⟨?_, ?_, ?_, ?_⟩ ?_).2 ?_).1 rfl⟩, ⟨_, ((one (row0 .expired) ?_ ?_ ?_ ?_ ?_ ⟨?_, ?_, ?_, ?_⟩ ?_).2 ?_).2.1 rfl⟩,
    ⟨_, ((one { row0 .opened with slot := 255 } ?_ ?_ ?_ ?_ ?_ ⟨?_, ?_, ?_, ?_⟩ ?_).2 ?_).2.2.1 rfl ?_ ?_⟩,
    ⟨_, (((one { row0 .opened with poisoned := true } ?_ ?_ ?_ ?_ ?_ ⟨?_, ?_, ?_, ?_⟩ ?_).2 ?_).2.2.2 rfl (.inl rfl)).1 rfl⟩,
    ⟨_, (((one (row0 .opened) ?_ ?_ ?_ ?_ ?_ ⟨?_, ?_, ?_, ?_⟩ ?_).2 ?_).2.2.2 rfl (.inl rfl)).2 rfl ?_ ?_⟩⟩ <;> decide +kernel

/-- Transfers to the end of the weight stage, and an offset that is too large. -/
theorem witness_RowsRead (h : Claims.RowsRead) :
    Goes (.rconWs 8 12) (rowed (.rconWs 8 12) [row0 .opened] [(12, 0x5FF800)]) ∧
    Goes (.rconWs 8 12) (rowed (.rconWs 8 12) [row0 .opened] [(12, 0x5FF900)]) := by
  have c (off : Nat) (h2 : _) (h3 : _) (h4 : _) (h5 : _) :=
    h 15 8 12 (rowed (.rconWs 8 12) [row0 .opened] [(12, off)]) (iss (rowed (.rconWs 8 12) [row0 .opened] [(12, off)])) rowTlb (rowAt _ _ _ h2 h3 h4 h5)
  refine ⟨⟨_, (((((c 0x5FF800 ?_ ?_ ?_ ?_).2.1 (runs ?_) ?_ ?_).2 (row0 .opened) ?_).2 ?_).2.2.2 rfl (.inl rfl)).2 rfl ?_ ?_⟩,
    ⟨_, (c 0x5FF900 ?_ ?_ ?_ ?_).2.2 (runs ?_) (.inr ?_)⟩⟩ <;> decide +kernel

/-- `RCLS` of nothing, another row, a row in each state; and `RSTAT`. -/
theorem witness_RowsClose (h : Claims.RowsClose) :
    let go (rows : List RowEnt) : Prop := Goes (.rcls 8) (rowed (.rcls 8) rows)
    go [] ∧ go [row0 .opened 2] ∧ go [row0 .closing] ∧ go [row0 .expired] ∧ go [row0 .opened] := by
  have c (rows : List RowEnt) (hr : runsIn (.rcls 8) (rowed (.rcls 8) rows) = true) (h2 : _) (h3 : _) (h4 : _) (h5 : _) :=
    h 8 (rowed (.rcls 8) rows) (iss (rowed (.rcls 8) rows)) rowTlb (runs hr) (rowAt _ _ _ h2 h3 h4 h5)
  refine ⟨⟨_, (c [] ?_ ?_ ?_ ?_ ?_).1 ?_⟩, ⟨_, ((c [row0 .opened 2] ?_ ?_ ?_ ?_ ?_).2 (row0 .opened 2) ?_).1 ?_⟩,
    ⟨_, ((c [row0 .closing] ?_ ?_ ?_ ?_ ?_).2 (row0 .closing) ?_).2.1 ?_ rfl⟩,
    ⟨_, ((c [row0 .expired] ?_ ?_ ?_ ?_ ?_).2 (row0 .expired) ?_).2.2.1 ?_ rfl⟩,
    ⟨_, ((c [row0 .opened] ?_ ?_ ?_ ?_ ?_).2 (row0 .opened) ?_).2.2.2 ?_ rfl ?_⟩⟩ <;> decide +kernel

theorem witness_RowsReported (h : Claims.RowsReported) :
    Goes (.rstat 4 8) (rowed (.rstat 4 8) [row0 .opened]) ∧ Goes (.rstat 4 8) (rowed (.rstat 4 8) []) := by
  have c (rows : List RowEnt) (hr : runsIn (.rstat 4 8) (rowed (.rstat 4 8) rows) = true) (h2 : _) (h3 : _) (h4 : _) (h5 : _) :=
    h 4 8 (rowed (.rstat 4 8) rows) (iss (rowed (.rstat 4 8) rows)) rowTlb (runs hr) (rowAt _ _ _ h2 h3 h4 h5)
  obtain ⟨_, _, g1⟩ := c [row0 .opened] (by decide +kernel) (by decide +kernel) (by decide +kernel) (by decide +kernel) (by decide +kernel)
  obtain ⟨_, _, g2⟩ := c [] (by decide +kernel) (by decide +kernel) (by decide +kernel) (by decide +kernel) (by decide +kernel)
  exact ⟨⟨_, g1⟩, ⟨_, g2⟩⟩

/-- A control thread at an instruction, with registers and the matrix unit changed. -/
def mxd (i : Instr) (r : List (Nat × Nat)) (f : MatrixSt → MatrixSt := id) : State := (regs0 r (here i)).updMx 0 f
/-- The same on cluster 1, the second member of a group of two. -/
def mxd1 (i : Instr) : State := ((here i).updMx 1 fun m => { m with coop := some (0, 1) }) |> crew0 fun c => { c with core := 321 }

theorem witness_MatrixSetup (h : Claims.MatrixSetup) :
    Goes (.tshape 3 8) (mxd (.tshape 3 8) [(8, 0x4000)]) ∧ Goes (.tshape 15 8) (mxd (.tshape 15 8) [(8, 1855), (9, 0x1000002)]) ∧
    Goes (.omap 3 8) (mxd (.omap 3 8) [(8, 0x300)]) ∧ Goes (.omap 15 8) (mxd (.omap 15 8) [(8, 0x2FF), (10, 0xFFFFFF)]) ∧
    Goes (.tclr 15) (mxd (.tclr 15) []) ∧ Goes (.tclr 12) (mxd1 (.tclr 12)) ∧ Goes (.scpl 8 12) (mxd (.scpl 8 12) [(12, 4096)]) ∧
    Goes (.scpl 8 12) (mxd (.scpl 8 12) [(12, 4095)]) ∧ Goes (.scinv 8) (mxd (.scinv 8) [(8, 0x1FFF)]) ∧ Goes (.scq 4 8) (mxd (.scq 4 8) [(8, 4095)]) := by
  have c (i : Instr) (t : BitVec 7) (r : List (Nat × Nat)) := h t 8 12 4 (mxd i r) (iss (mxd i r))
  obtain ⟨_, g, _⟩ := (c (.scq 4 8) 0 [(8, 4095)]).2.2.2.2.2.2 (runs (by decide +kernel)) (by decide +kernel)
  refine ⟨⟨_, ((c (.tshape 3 8) 3 [(8, 0x4000)]).1 (runs ?_)).1 (.inl ?_)⟩, ⟨_, ((c (.tshape 15 8) 15 [(8, 1855), (9, 0x1000002)]).1 (runs ?_)).2 ?_ (.inl ?_)⟩,
    ⟨_, ((c (.omap 3 8) 3 [(8, 0x300)]).2.1 (runs ?_)).1 (.inr (.inl ?_))⟩, ⟨_, ((c (.omap 15 8) 15 [(8, 0x2FF), (10, 0xFFFFFF)]).2.1 (runs ?_)).2 ?_⟩,
    ⟨_, (c (.tclr 15) 15 []).2.2.1 (runs ?_) ?_ ?_⟩,
    ⟨_, (h 12 0 0 0 (mxd1 (.tclr 12)) (iss (mxd1 (.tclr 12)))).2.2.2.1 (runs ?_) ?_ ⟨1, ?_, by decide⟩⟩,
    ⟨_, ((c (.scpl 8 12) 0 [(12, 4096)]).2.2.2.2.1 (runs ?_)).1 ?_⟩, ⟨_, ((c (.scpl 8 12) 0 [(12, 4095)]).2.2.2.2.1 (runs ?_)).2 ?_ ?_⟩,
    ⟨_, (c (.scinv 8) 0 [(8, 0x1FFF)]).2.2.2.2.2.1 (runs ?_) ?_ ?_⟩, ⟨_, g⟩⟩ <;> decide +kernel

theorem reachAt (I : Iss) (s : State) (q : Need) (va : Nat) (x : TlbEnt × Option TlbEnt)
    (h : s.checkAccess I.crew.core I.crew.ctx va I.warp.badPages q = .ok x.1 x.2)
    (hm : s.mem.dir = [] ∧ s.mem.hostDir = [] ∧ s.mem.keyTag = [] ∧ s.mem.poison = [] ∧ (s.core I.crew.core).l1 = [] ∧ s.keyOf x.1.slot = 0 ∧
      ∀ y, x.2 = some y → s.keyOf y.slot = 0) : I.ReachAt s q va x := by
  obtain ⟨h1, h2, h3, h4, h5, h6, h7⟩ := hm
  have hk : ∀ i, s.keyOf (partOf va i x.1 x.2).1.slot = 0 := by
    intro i; unfold partOf
    split
    · exact h6
    · rename_i y hy
      split
      · exact h6
      · exact h7 y hy
  refine ⟨h, ?_, ?_, by simp [h4]⟩
  · intro i _ p
    unfold MemSt.dirOf
    rw [h1, h2]
    cases p.1.host <;> rfl
  · intro i _
    exact ⟨fun _ k _ => by rw [h3, hk]; rfl, by simp [h5]⟩

/-- A tile of two rows of 32 bytes at 0x10100, in the page of the code. -/
def tiled (i : Instr) : State := mxd i [(8, 0x10100), (12, 32)] fun m => { m with tctl := [(15, { shape := 1, map0 := 1 })] }
def accAll : Nat → TlbEnt × Option TlbEnt := fun _ => (loadTlb 0, none)
theorem reachAll (I : Iss) (s : State) (q : Need) (va r : Nat) (h : s.checkAccess I.crew.core I.crew.ctx va I.warp.badPages q = .ok (loadTlb 0) none)
    (hm : s.mem.dir = [] ∧ s.mem.hostDir = [] ∧ s.mem.keyTag = [] ∧ s.mem.poison = [] ∧ (s.core I.crew.core).l1 = []) : I.ReachAt s q va (accAll r) :=
  reachAt _ _ _ _ _ h ⟨hm.1, hm.2.1, hm.2.2.1, hm.2.2.2.1, hm.2.2.2.2, rfl, by intro y hy; cases hy⟩

theorem witness_TilesMove (h : Claims.TilesMove) : Goes (.tld 15 8 12) (tiled (.tld 15 8 12)) ∧ Goes (.tst 15 8 12) (tiled (.tst 15 8 12)) := by
  have c (i : Instr) := h 15 8 12 (tiled i) (iss (tiled i)) accAll
  have m (i : Instr) (h1 : (((tiled i).settleStack (stackOf (iss (tiled i)).cluster)).core (iss (tiled i)).crew.core).wbuf = [])
      (h2 : (((tiled i).settleStack (stackOf (iss (tiled i)).cluster)).core (iss (tiled i)).crew.core).l1 = [])
      (h3 : ((tiled i).settleStack (stackOf (iss (tiled i)).cluster)).allBindings = []) := mirrors _ _ h1 h2 h3
  obtain ⟨_, _, _, g1⟩ := ((c (.tld 15 8 12)) (m _ (by decide +kernel) (by decide +kernel) (by decide +kernel)) (by decide +kernel)).1 (runs (by decide +kernel))
    (by decide +kernel) (by
      intro r hr
      refine reachAll _ _ _ _ _ ?_ (by decide +kernel)
      revert r; decide +kernel)
  obtain ⟨_, _, g2, _⟩ := ((c (.tst 15 8 12)) (m _ (by decide +kernel) (by decide +kernel) (by decide +kernel)) (by decide +kernel)).2 (runs (by decide +kernel))
    (by decide +kernel) (by decide +kernel) (by
      intro r hr
      refine reachAll _ _ _ _ _ ?_ (by decide +kernel)
      revert r; decide +kernel)
  exact ⟨⟨_, g1⟩, ⟨_, g2⟩⟩

/-- A record at 0x10100 whose mask names lane 0, with format word `f`; the tile's row 1 takes it. -/
def fed (f : Nat) : State :=
  (mxd (.tfeed 15 8 12) [(8, 0x1000002), (12, 0x10100)] fun m => { m with tctl := [(15, { shape := 1, map0 := 1 })] }).updMem fun m =>
    { m with dram := (m.dram.write 0x10100 (bytesLE 4 1)).write 0x10180 (bytesLE 4 f) }

/-- A format that differs, and the one that was given. -/
theorem witness_TileFeeds (h : Claims.TileFeeds) : Goes (.tfeed 15 8 12) (fed 0x1000003) ∧ Goes (.tfeed 15 8 12) (fed 0x1000002) := by
  have c (f : Nat) (h1 : runsIn (.tfeed 15 8 12) (fed f) = true) (h2 : (((fed f).settleStack (stackOf (iss (fed f)).cluster)).core (iss (fed f)).crew.core).wbuf = [])
      (h3 : (((fed f).settleStack (stackOf (iss (fed f)).cluster)).core (iss (fed f)).crew.core).l1 = [])
      (h4 : ((fed f).settleStack (stackOf (iss (fed f)).cluster)).allBindings = []) :=
    h 15 8 12 (fed f) (iss (fed f)) (accAll 0) (accAll 0) accAll (runs h1) (mirrors _ _ h2 h3 h4)
  obtain ⟨_, _, _, g1⟩ := (c 0x1000003 (by decide +kernel) (by decide +kernel) (by decide +kernel) (by decide +kernel) (by decide +kernel) (by decide +kernel)
    (reachAt _ _ _ _ _ (by decide +kernel) (by decide +kernel)) (reachAt _ _ _ _ _ (by decide +kernel) (by decide +kernel))).1 1 (by decide) (by decide +kernel)
  obtain ⟨_, _, _, g2⟩ := (c 0x1000002 (by decide +kernel) (by decide +kernel) (by decide +kernel) (by decide +kernel) (by decide +kernel) (by decide +kernel)
    (reachAt _ _ _ _ _ (by decide +kernel) (by decide +kernel)) (reachAt _ _ _ _ _ (by decide +kernel) (by decide +kernel))).2 (by
      intro i hi
      refine ⟨by revert i; decide +kernel, by revert i; decide +kernel, reachAll _ _ _ _ _ ?_ (by decide +kernel)⟩
      revert i; decide +kernel) (by decide +kernel)
  exact ⟨⟨_, g1⟩, ⟨_, g2⟩⟩

/-- Tiles with their roles: `e4m3` against `e4m3`. -/
def roles (i : Instr) (r : List (Nat × Nat)) (fa fb n : Nat) : State := mxd i r fun m => { m with
  tctl := [(1, { fmt := fa }), (2, { fmt := fb })], queue := List.replicate n { op := .mzero, acc := 0 } }

/-- A full queue; a tile without its role; a multiply of bytes, with the scales of both; `MZERO`, and a drain of one row. -/
theorem witness_MatrixQueues (h : Claims.MatrixQueues) :
    Goes (.mzero 3) (roles (.mzero 3) [] 0 0 8) ∧ Goes (.mma 3 1 2) (roles (.mma 3 1 2) [] 0x1000032 0x1000032 7) ∧
    Goes (.mma 3 1 2) (roles (.mma 3 1 2) [] 0x1000032 0x2000032 7) ∧ Goes (.mzero 3) (roles (.mzero 3) [] 0 0 7) ∧
    Goes (.mdrn 3 8 12) (roles (.mdrn 3 8 12) [(8, 0), (12, 0), (13, 0x8000032)] 0 0 7) := by
  have c (i : Instr) (op : MOp) (k : BitVec 7) (r : List (Nat × Nat)) (fa fb n : Nat) := h i op k 1 2 8 12 (roles i r fa fb n) (iss (roles i r fa fb n))
  have no (s : State) (q : MItem) (hq : q.blocks = []) : (iss s).ScalesReach s q := by intro b hb; rw [hq] at hb; cases hb
  refine ⟨⟨_, (c (.mzero 3) .mzero 3 [] 0 0 8).1 (.inr (.inr (.inr (.inl rfl)))) (runs ?_) ?_⟩,
    ⟨_, ((c (.mma 3 1 2) .mma 3 [] 0x1000032 0x1000032 7).2.1 (.inl ⟨rfl, rfl⟩) (runs ?_) ?_).1 ?_⟩,
    ⟨_, ((c (.mma 3 1 2) .mma 3 [] 0x1000032 0x2000032 7).2.1 (.inl ⟨rfl, rfl⟩) (runs ?_) ?_).2 ?_ ?_ ?_ (no _ _ ?_)⟩,
    ⟨_, (c (.mzero 3) .mzero 3 [] 0 0 7).2.2.1 (runs ?_) ?_⟩,
    ⟨_, (c (.mdrn 3 8 12) .mdrn 3 [(8, 0), (12, 0), (13, 0x8000032)] 0 0 7).2.2.2 (runs ?_) ?_ ?_ ?_ ?_ ?_ ?_ ?_ ?_ (no _ _ ?_)⟩⟩ <;> decide +kernel

/-- The last row of an accumulator tile, and a codebook. -/
theorem witness_MatrixLoads (h : Claims.MatrixLoads) :
    Goes (.mload 3 8) (warp0 (fun w => { w with pending := some (w.run.pc, 63) }) (mxd (.mload 3 8) [(8, 0x10000)])) ∧
    Goes (.cbld 15 8) (mxd (.cbld 15 8) [(8, 0x10000)]) := by
  let s := warp0 (fun w => { w with pending := some (w.run.pc, 63) }) (mxd (.mload 3 8) [(8, 0x10000)])
  let u := mxd (.cbld 15 8) [(8, 0x10000)]
  obtain ⟨_, _, _, _, g1, _⟩ := (h 3 8 s (iss s) accAll (mirrors _ _ (by decide +kernel) (by decide +kernel) (by decide +kernel))).1 (runs (by decide +kernel))
    (by decide +kernel) (by decide +kernel) (by
      intro r hr h2
      refine reachAll _ _ _ _ _ ?_ (by decide +kernel)
      revert h2; revert hr; revert r; decide +kernel)
  obtain ⟨_, _, _, g2⟩ := (h 15 8 u (iss u) accAll (mirrors _ _ (by decide +kernel) (by decide +kernel) (by decide +kernel))).2 (runs (by decide +kernel))
    (by decide +kernel) (reachAll _ _ _ _ _ (by decide +kernel) (by decide +kernel))
  exact ⟨⟨_, g1⟩, ⟨_, g2⟩⟩

/-- A poisoned drain; a transfer that is under way; nothing; and `MFENCE` likewise. -/
theorem witness_MatrixWaits (h : Claims.MatrixWaits) :
    Goes (.mwait 2) (mxd (.mwait 2) [] fun m => { m with drainPoison := 1 }) ∧ Goes (.mwait 3) (mxd (.mwait 3) []) ∧
    (let s (i : Instr) : State := mxd i [] fun m => { m with queue := [{ op := .mdrn, acc := 0 }] }
     Goes (.mwait 2) (s (.mwait 2)) ∧ Goes (.mwait 1) (s (.mwait 1)) ∧ Goes .mfence (s .mfence)) ∧ Goes .mfence (mxd .mfence []) := by
  have c (i : Instr) (cls : Nat) (r : List (Nat × Nat)) (f : MatrixSt → MatrixSt) := h i cls (mxd i r f) (iss (mxd i r f))
  have nw (s : State) (I : Iss) (h1 : s.crews = [(0, I.crew)]) (h2 : I.crew.warps = [(0, I.warp)]) (h3 : I.warp.div = []) (h4 : I.warp.run.wait = .none) :
      s.NoneWaits fun w => ∃ k, w = .mwait k := noneWaits s _ I.crew I.warp h1 h2 h3 h4 (by rintro ⟨t, h⟩; cases h)
  let q (m : MatrixSt) : MatrixSt := { m with queue := [{ op := .mdrn, acc := 0 }] }
  obtain ⟨_, g2, _⟩ := ((c (.mwait 3) 3 [] id (.inl ⟨3, rfl, rfl, by decide⟩) (runs (by decide +kernel)) (by decide +kernel) (by decide +kernel)).2 (.inr (by decide +kernel))
    (by decide +kernel) (nw _ (iss (mxd (.mwait 3) [])) (by decide +kernel) (by decide +kernel) (by decide +kernel) (by decide +kernel))).1 (by decide +kernel)
  obtain ⟨_, g3, _⟩ := ((c (.mwait 2) 2 [] q (.inl ⟨2, rfl, rfl, by decide⟩) (runs (by decide +kernel)) (by decide +kernel) (by decide +kernel)).2 (.inr (by decide +kernel))
    (by decide +kernel) (nw _ (iss (mxd (.mwait 2) [] q)) (by decide +kernel) (by decide +kernel) (by decide +kernel) (by decide +kernel))).2 (by decide +kernel)
  obtain ⟨_, g4, _⟩ := ((c (.mwait 1) 1 [] q (.inl ⟨1, rfl, rfl, by decide⟩) (runs (by decide +kernel)) (by decide +kernel) (by decide +kernel)).2 (.inl (by decide))
    (by decide +kernel) (nw _ (iss (mxd (.mwait 1) [] q)) (by decide +kernel) (by decide +kernel) (by decide +kernel) (by decide +kernel))).1 (by decide +kernel)
  obtain ⟨_, g5, _⟩ := ((c .mfence 4 [] q (.inr ⟨rfl, rfl⟩) (runs (by decide +kernel)) (by decide +kernel) (by decide +kernel)).2 (.inr (by decide +kernel))
    (by decide +kernel) (nw _ (iss (mxd .mfence [] q)) (by decide +kernel) (by decide +kernel) (by decide +kernel) (by decide +kernel))).2 (by decide +kernel)
  obtain ⟨_, g6, _⟩ := ((c .mfence 4 [] id (.inr ⟨rfl, rfl⟩) (runs (by decide +kernel)) (by decide +kernel) (by decide +kernel)).2 (.inr (by decide +kernel))
    (by decide +kernel) (nw _ (iss (mxd .mfence [])) (by decide +kernel) (by decide +kernel) (by decide +kernel) (by decide +kernel))).1 (by decide +kernel)
  exact ⟨⟨_, (c (.mwait 2) 2 [] (fun m => { m with drainPoison := 1 }) (.inl ⟨2, rfl, rfl, by decide⟩) (runs (by decide +kernel)) (by decide +kernel)
    (by decide +kernel)).1 (by decide) (by decide +kernel) (by decide)⟩, ⟨_, g2⟩, ⟨⟨_, g3⟩, ⟨_, g4⟩, ⟨_, g5⟩⟩, ⟨_, g6⟩⟩

/-- A member of a group of clusters 0 and 1, with what stands at cluster 1. -/
def grouped (v : Nat) (own : Option (Nat × Nat)) (m : MatrixSt) : State := (mxd (.mcoop 8) [(8, v)] fun x => { x with coop := own }).updMx 1 fun _ => m

theorem pair0 (n : Nat) (P : Nat → Prop) (hn : n / 4 % 16 = 0 ∧ n / 64 % 16 = 1) (h0 : P 0) (h1 : P 1) :
    ∀ k, (∃ i, i ≤ n / 64 % 16 ∧ k = 16 * (0 / 16) + n / 4 % 16 + i) → P k := by
  rintro k ⟨i, hi, rfl⟩
  rw [hn.1]; rw [hn.2] at hi
  obtain rfl | rfl : i = 0 ∨ i = 1 := by omega
  · exact h0
  · exact h1

/-- A descriptor that breaks its rule; a join while a group stands, with a member of another owner, after and before the other's; a sync and a leave of the
group, the last and the first to arrive; and one of another group. -/
theorem witness_CooperationGroups (h : Claims.CooperationGroups) :
    let go (v : Nat) (own : Option (Nat × Nat)) (m : MatrixSt) : Prop := Goes (.mcoop 8) (grouped v own m)
    go 67 none {} ∧ go 64 (some (0, 1)) {} ∧ Goes (.mcoop 8) ((grouped 64 none {}).updCluster 1 fun x => { x with owner := some 1 }) ∧
    go 64 none { coopAt := some 64 } ∧ go 64 none {} ∧ go 65 (some (0, 2)) {} ∧
    go 66 (some (0, 1)) { coop := some (0, 1), coopAt := some 66 } ∧ go 65 (some (0, 1)) { coop := some (0, 1) } := by
  have c (v : Nat) (own : Option (Nat × Nat)) (m : MatrixSt) (h1 : runsIn (.mcoop 8) (grouped v own m) = true) (h2 : _) (h3 : _) (h4 : _) :=
    h 8 (grouped v own m) (iss (grouped v own m)) (runs h1) h2 h3 h4
  have cl (s : State) (h : (iss s).cluster = 0) := h
  let s3 := (grouped 64 none {}).updCluster 1 fun x => { x with owner := some 1 }
  have j (s : State) (n : Nat) (hn : (iss s).num 8 0 = n) (hc : (iss s).cluster = 0) (hv : n / 4 % 16 = 0 ∧ n / 64 % 16 = 1) (P : Nat → Prop) (h0 : P 0) (h1 : P 1) :
      ∀ k, (∃ i, i ≤ (iss s).num 8 0 / 64 % 16 ∧ k = 16 * ((iss s).cluster / 16) + (iss s).num 8 0 / 4 % 16 + i) → P k := by
    rw [hn, hc]; exact pair0 n P hv h0 h1
  have e1 : ∃ i, i ≤ (iss (grouped 64 none {})).num 8 0 / 64 % 16 ∧
      1 = 16 * ((iss (grouped 64 none {})).cluster / 16) + (iss (grouped 64 none {})).num 8 0 / 4 % 16 + i := ⟨1, by decide +kernel, by decide +kernel⟩
  have e2 : ∃ i, i ≤ (iss (grouped 65 (some (0, 1)) { coop := some (0, 1) })).num 8 0 / 64 % 16 ∧
      1 = 16 * ((iss (grouped 65 (some (0, 1)) { coop := some (0, 1) })).cluster / 16) +
        (iss (grouped 65 (some (0, 1)) { coop := some (0, 1) })).num 8 0 / 4 % 16 + i := ⟨1, by decide +kernel, by decide +kernel⟩
  obtain ⟨_, g4, _⟩ := (((c 64 none { coopAt := some 64 } (by decide +kernel) (by decide +kernel) (by decide +kernel) (by decide +kernel)).2.1 (by decide +kernel)
      (by decide +kernel)).2 (by decide +kernel)
      (j _ 64 (by decide +kernel) (by decide +kernel) (by decide) _ (by decide +kernel) (by decide +kernel))).2
      (fun k o hk => j (grouped 64 none { coopAt := some 64 }) 64 (by decide +kernel) (by decide +kernel) (by decide)
        (fun k => ∀ o, ((grouped 64 none { coopAt := some 64 }).cluster k).owner = some o → o = (iss (grouped 64 none { coopAt := some 64 })).crew.ctx) (by decide +kernel) (by decide +kernel) k hk o) |>.1
      (j _ 64 (by decide +kernel) (by decide +kernel) (by decide) _ (by decide +kernel) (by decide +kernel))
  obtain ⟨_, g5, _⟩ := (((c 64 none {} (by decide +kernel) (by decide +kernel) (by decide +kernel) (by decide +kernel)).2.1 (by decide +kernel)
      (by decide +kernel)).2 (by decide +kernel)
      (j _ 64 (by decide +kernel) (by decide +kernel) (by decide) _ (by decide +kernel) (by decide +kernel))).2
      (fun k o hk => j (grouped 64 none {}) 64 (by decide +kernel) (by decide +kernel) (by decide)
        (fun k => ∀ o, ((grouped 64 none {}).cluster k).owner = some o → o = (iss (grouped 64 none {})).crew.ctx) (by decide +kernel) (by decide +kernel) k hk o) |>.2
      (fun ha => absurd (ha 1 e1 (by decide +kernel)) (by decide +kernel))
  obtain ⟨_, g7, _⟩ := ((c 66 (some (0, 1)) { coop := some (0, 1), coopAt := some 66 } (by decide +kernel) (by decide +kernel) (by decide +kernel) (by decide +kernel)).2.2
      (by decide +kernel) (by decide +kernel)).2 (by decide +kernel) (by decide +kernel) (by decide +kernel) (by decide +kernel) |>.1
      (j _ 66 (by decide +kernel) (by decide +kernel) (by decide) _ (by decide +kernel) (by decide +kernel))
  obtain ⟨_, g8, _⟩ := ((c 65 (some (0, 1)) { coop := some (0, 1) } (by decide +kernel) (by decide +kernel) (by decide +kernel) (by decide +kernel)).2.2
      (by decide +kernel) (by decide +kernel)).2 (by decide +kernel) (by decide +kernel) (by decide +kernel) (by decide +kernel) |>.2
      ⟨1, e2, by decide +kernel, by decide +kernel⟩
  refine ⟨⟨_, (c 67 none {} ?_ ?_ ?_ ?_).1 ?_⟩, ⟨_, ((c 64 (some (0, 1)) {} ?_ ?_ ?_ ?_).2.1 ?_ ?_).1 ?_⟩,
    ⟨_, (((h 8 s3 (iss s3) (runs (by decide +kernel)) (by decide +kernel) (by decide +kernel) (by decide +kernel)).2.1 (by decide +kernel) (by decide +kernel)).2
      (by decide +kernel) (j _ 64 (by decide +kernel) (by decide +kernel) (by decide) _ (by decide +kernel) (by decide +kernel))).1
      ⟨1, 1, ⟨1, by decide +kernel, by decide +kernel⟩, by decide +kernel, by decide +kernel⟩⟩, ⟨_, g4⟩, ⟨_, g5⟩,
    ⟨_, ((c 65 (some (0, 2)) {} ?_ ?_ ?_ ?_).2.2 ?_ ?_).1 ?_⟩, ⟨_, g7⟩, ⟨_, g8⟩⟩ <;> decide +kernel

/-! ### Hypotheses that can be met: power, links, the host and resets -/

/-- A machine after reset, changed, at an event with its input. -/
def ev (inp : Input) (f : State → State := id) : State := { f State.reset with inp := inp }
/-- Context 0 of class 2 on clusters 0 and 1, at steps 4 and 5, the second capped. -/
def busy : State → State := fun s =>
  ((s.updCtx 0 fun c => { c with resident := true, cores := [0, 10] }).updPw 0 fun p => { p with step := 4 }).updPw 1 fun p => { p with step := 5, cap := 99 }
/-- Every cluster at one cap. -/
def capped (n : Nat) : State → State := fun s => (List.range 32).foldl (fun s k => s.updPw k fun p => { p with cap := n }) s

/-- Demand above and below each share, where a cap can move and where none can; and the slider held, pushed up and down, and left. -/
theorem witness_PowerSteps (h : Claims.PowerSteps) :
    (Goes .budgetCapAdjust (ev { val := 4000 } (capped 0)) ∧ Goes .budgetCapAdjust (ev { val := 4000 } busy) ∧
     Goes .budgetCapAdjust (ev {}) ∧ Goes .budgetCapAdjust (ev {} busy) ∧ Goes .budgetCapAdjust (ev { val := 2400 })) ∧
    (Goes .budgetCapAdjust (ev { sub := 1, val := 801 }) ∧ Goes .budgetCapAdjust (ev { sub := 1, val := 799 }) ∧
     Goes .budgetCapAdjust (ev { sub := 1, val := 800 })) ∧
    let s (val aux : Nat) (fix : Bool) : State :=
      ev { val := val, aux := aux } fun s => { s with power := { s.power with slfix := fix, memcap := true, cmpcap := true } }
    Goes .sliderPeriod (s 3 8 true) ∧ Goes .sliderPeriod (s 3 8 false) ∧ Goes .sliderPeriod (s 1 9 false) ∧ Goes .sliderPeriod (s 1 8 false) := by
  have b (inp : Input) (f : State → State) := (h (ev inp f)).2
  have c (val aux : Nat) (fix : Bool) :=
    (h (ev { val := val, aux := aux } fun s => { s with power := { s.power with slfix := fix, memcap := true, cmpcap := true } })).2.2.2.1
  refine ⟨⟨⟨_, ((b { val := 4000 } (capped 0)).1 rfl).1 ?_ ?_⟩, ⟨_, ((b { val := 4000 } busy).1 rfl).2.1 ?_ ?_ 1 ?_ ?_ ?_⟩,
      ⟨_, ((b {} id).1 rfl).2.2.1 ?_ ?_⟩, ⟨_, ((b {} busy).1 rfl).2.2.2.1 ?_ ?_ 1 ?_ ?_ ?_⟩, ⟨_, ((b { val := 2400 } id).1 rfl).2.2.2.2 ?_⟩⟩,
    ⟨⟨_, ((b { sub := 1, val := 801 } id).2.1 ?_).1 ?_⟩, ⟨_, ((b { sub := 1, val := 799 } id).2.1 ?_).2.1 ?_⟩,
      ⟨_, ((b { sub := 1, val := 800 } id).2.1 ?_).2.2 ?_⟩⟩,
    ⟨_, (c 3 8 true).1 rfl⟩, ⟨_, (c 3 8 false).2.1 rfl ?_⟩, ⟨_, (c 1 9 false).2.2.1 rfl ?_ ?_⟩, ⟨_, (c 1 8 false).2.2.2 rfl ?_ ?_⟩⟩ <;> decide +kernel

/-- A trip in force and not; its end in band 1 and in band 0; fences; and a switch at 3 °C, of an array at work, and at 4 °C. -/
theorem witness_TripsAndFences (h : Obligations.TripsAndFences) :
    let tripped (band : Nat) : State := ev {} fun s => ({ s with power := { s.power with tripped := true } } : State).updStack 15 fun k => { k with band := band }
    let fence (f : Bool) (v : Nat) : State := ev { unit := 31, val := v } fun s => s.updPw 31 fun p => { p with fenced := f }
    let half (n v : Nat) : State := ev { sub := n, val := v } fun s => s.updMx 0 fun m => { m with queue := [{ op := .mzero, acc := 0, started := true }] }
    (Goes .thermalTrip (tripped 0) ∧ Goes .thermalTrip (ev {}) ∧ Goes .thermalClear (tripped 1) ∧ Goes .thermalClear (tripped 0)) ∧
    (Goes .clusterFenced (fence true 36) ∧ Goes .clusterFenced (fence false 35) ∧ Goes .clusterFenced (fence false 36)) ∧
    Goes .halfSwitch (half 2 3) ∧ Goes .halfSwitch (half 1 4) ∧ Goes .halfSwitch (half 2 4) := by
  let tripped (band : Nat) : State := ev {} fun s => ({ s with power := { s.power with tripped := true } } : State).updStack 15 fun k => { k with band := band }
  let fence (f : Bool) (v : Nat) : State := ev { unit := 31, val := v } fun s => s.updPw 31 fun p => { p with fenced := f }
  let half (n v : Nat) : State := ev { sub := n, val := v } fun s => s.updMx 0 fun m => { m with queue := [{ op := .mzero, acc := 0, started := true }] }
  have r (s : State) (hr : s.crews = []) := h s (by rw [hr]; exact List.Pairwise.nil)
  have r1 (band : Nat) := r (tripped band) rfl
  have r2 (f : Bool) (v : Nat) := (r (fence f v) rfl).2.2.2.2
  have r3 (n v : Nat) := (r (half n v) rfl).2.2.2.2.2.2
  obtain ⟨t2, _, g2, _⟩ := (r (ev {}) rfl).2.1 (by decide +kernel)
  obtain ⟨t4, g4, _⟩ := (r1 0).2.2.2.1 (by decide +kernel) (by decide +kernel)
  obtain ⟨t7, _, g7, _⟩ := (r2 false 36).2.1 (by decide +kernel) (by decide +kernel)
  exact ⟨⟨⟨_, (r1 0).1 (by decide +kernel)⟩, ⟨_, g2⟩, ⟨_, (r1 1).2.2.1 (.inr ⟨15, by decide, by decide +kernel⟩)⟩, ⟨_, g4⟩⟩,
    ⟨⟨_, (r2 true 36).1 (.inl (by decide +kernel))⟩, ⟨_, (r2 false 35).1 (.inr (by decide +kernel))⟩, ⟨_, g7⟩⟩,
    ⟨_, (r3 2 3).1 (.inl (by decide +kernel))⟩,
    ⟨_, (r3 1 4).1 (.inr ⟨by decide, { op := .mzero, acc := 0, started := true }, by decide +kernel, by decide +kernel⟩)⟩,
    ⟨_, (r3 2 4).2 (by decide +kernel) (fun hb => absurd hb.1 (by decide))⟩⟩

/-- A host's tolerance. -/
def tol (n : Option Nat) (f : State → State := id) (inp : Input := { unit := 31 }) : State :=
  ev inp fun s => f { s with power := { s.power with tolerance := n } }
theorem tolIs {n m : Nat} (h : m ≤ n) : ∀ t, some n = some t → m ≤ t := by
  intro t ht; injection ht with ht; omega
theorem tolNot {n m : Nat} (h : n < m) : ¬∀ t, some n = some t → m ≤ t := by
  intro ht; have := ht n rfl; omega
theorem tolNone {m : Nat} : ∀ t, (none : Option Nat) = some t → m ≤ t := by intro t ht; cases ht

/-- W1 refused, entered, and passed through to W2; W2 refused and entered; W3 refused and entered. -/
theorem witness_PowerStates (h : Claims.PowerStates) :
    let late (s : State) : State := { s with now := 50000000 }
    (Goes .w1Entry (tol (some 99)) ∧ Goes .w1Entry (tol (some 100)) ∧ Goes .w1Entry (tol none late)) ∧
    (Goes .w2Entry (tol (some 23999)) ∧ Goes .w2Entry (tol (some 24000))) ∧ Goes .w3Entry (tol (some 179999)) ∧ Goes .w3Entry (tol (some 180000)) := by
  let late (s : State) : State := { s with now := 50000000 }
  obtain ⟨_, g1, _⟩ := (h (tol none late)).1.2.2 ⟨by decide +kernel, tolNone⟩ ⟨by decide +kernel, tolNone, by decide +kernel, by decide +kernel, by decide +kernel⟩
  obtain ⟨_, g2, _⟩ := (h (tol (some 24000))).2.1.2
    ⟨by decide +kernel, by decide +kernel, tolIs (by decide), by decide +kernel, by decide +kernel, by decide +kernel⟩
  obtain ⟨_, g3, _⟩ := (h (tol (some 180000))).2.2.2.2.2.2.1.2
    ⟨by decide +kernel, tolIs (by decide), by decide +kernel, by decide +kernel, by decide +kernel⟩
  exact ⟨⟨⟨_, (h (tol (some 99))).1.1 (fun hh => tolNot (by decide) hh.2)⟩,
      ⟨_, (h (tol (some 100))).1.2.1 ⟨by decide +kernel, tolIs (by decide)⟩ (fun hd => tolNot (by decide) hd.2.1)⟩, ⟨_, g1⟩⟩,
    ⟨⟨_, (h (tol (some 23999))).2.1.1 (fun hh => tolNot (by decide) hh.2.2.1)⟩, ⟨_, g2⟩⟩,
    ⟨_, (h (tol (some 179999))).2.2.2.2.2.2.1.1 (fun hh => tolNot (by decide) hh.2.1)⟩, ⟨_, g3⟩⟩

/-- The hold's end without a request and with one, a power-up's end with and without one under way, and reports: one that allows what stands,
and ones that wake a cluster from W1 and the package from W3. -/
theorem witness_PowerWakes (h : Claims.PowerStates) :
    let held (l : Bool) (q : List Nat) : State := ev { unit := 31 } fun s =>
      ({ s with power := { s.power with inrush := [(1, q)] } } : State).updPw 31 fun p => { p with hold := true, latched := l }
    (Goes .breakEvenHoldEnd (ev {}) ∧ Goes .breakEvenHoldEnd (held false []) ∧ Goes .breakEvenHoldEnd (held true [30])) ∧
    (Goes .clusterPowerUpDone (ev { unit := 1 } fun s => { s with power := { s.power with inrush := [(1, [30, 31])] } }) ∧ Goes .clusterPowerUpDone (ev {})) ∧
    let report (n : Nat) (f : State → State) : State := ev { val := n, aux := n } f
    Goes .latencyToleranceReport (report 0 id) ∧
    (∃ t, exec .latencyToleranceReport (report 99 fun s => s.updPw 31 fun p => { p with w := 1 }) = .next t ∧ (t.pw 31).w = 0) ∧
    ∃ t, exec .latencyToleranceReport (report 179999 fun s => { s with power := { s.power with selfRefresh := true } }) = .next t ∧
      t.power.selfRefresh = false := by
  let held (l : Bool) (q : List Nat) : State := ev { unit := 31 } fun s =>
    ({ s with power := { s.power with inrush := [(1, q)] } } : State).updPw 31 fun p => { p with hold := true, latched := l }
  let report (n : Nat) (f : State → State) : State := ev { val := n, aux := n } f
  have b (s : State) := (h s).2.2
  obtain ⟨t0, r0, _, e0, _⟩ := (b (report 0 id)).2.2.2.2.2
  obtain ⟨t1, r1, _, _, _, w1⟩ := (b (report 99 fun s => s.updPw 31 fun p => { p with w := 1 })).2.2.2.2.2
  obtain ⟨t2, r2, _, _, w2, _⟩ := (b (report 179999 fun s => { s with power := { s.power with selfRefresh := true } })).2.2.2.2.2
  have := e0 (by intro k hk; exact ⟨fun h => absurd h (by revert k; decide +kernel), fun h => absurd h (by revert k; decide +kernel)⟩)
    (fun hw => absurd hw.1 (by decide +kernel))
  exact ⟨⟨⟨_, (b (ev {})).1 (by decide +kernel)⟩, ⟨_, ((b (held false [])).2.1 (by decide +kernel)).1 (.inl (by decide +kernel))⟩,
      ⟨_, ((b (held true [30])).2.1 (by decide +kernel)).2 (by decide +kernel) (by decide +kernel)⟩⟩,
    ⟨⟨_, (b (ev { unit := 1 } fun s => { s with power := { s.power with inrush := [(1, [30, 31])] } })).2.2.1 30 [31] (by decide +kernel)⟩,
      ⟨_, (b (ev {})).2.2.2.1 (by decide +kernel)⟩⟩,
    ⟨t0, r0⟩, ⟨t1, r1, (w1 31 (by decide)).1 (by decide +kernel) (tolNot (by decide))⟩, ⟨t2, r2, (w2 ⟨by decide +kernel, tolNot (by decide)⟩).1⟩⟩

theorem witness_LinkSteps (h : Claims.LinkSteps) :
    let up (k v : Nat) (flag : Bool) (l : Link) : State := ev { unit := k, val := v, flag := flag } fun s => s.updLink k fun _ => l
    let eth (v : Nat) (l : Link) : State := ev { unit := 15, val := v } fun s => s.updLink 79 fun _ => l
    (Goes .gangFlitReceive (up 35 2 false { fenced := true }) ∧ Goes .gangFlitReceive (up 35 2 false { up := true }) ∧
     Goes .gangFlitReceive (up 35 3 false {}) ∧ Goes .gangFlitReceive (up 35 0 true {})) ∧
    (Goes .ethFrameReceive (eth 0x88B5 { fenced := true }) ∧ Goes .ethFrameReceive (eth 0x88B5 { up := true }) ∧
     Goes .ethFrameReceive (eth 0x88B5 {}) ∧ Goes .ethFrameReceive (eth 0x88B6 {})) ∧
    (Goes .heartbeatSend (up 79 0 false {}) ∧ Goes .linkDown (up 79 0 false { up := true }) ∧ Goes .linkDown (up 64 0 false {})) ∧
    Goes .laneFailure (up 79 0 false { fenced := true }) ∧ Goes .laneFailure (up 35 0 false { lanes := 1, up := true }) := by
  let up (k v : Nat) (flag : Bool) (l : Link) : State := ev { unit := k, val := v, flag := flag } fun s => s.updLink k fun _ => l
  let eth (v : Nat) (l : Link) : State := ev { unit := 15, val := v } fun s => s.updLink 79 fun _ => l
  have g (v : Nat) (l : Link) := (h (up 35 v false l)).1
  have e (l : Link) := (h (eth 0x88B5 l)).2.2.1
  have rest (k v : Nat) (f : Bool) (l : Link) := (h (up k v f l)).2.2.2.2.2
  obtain ⟨_, g1, _⟩ := (rest 79 0 false {}).1 (by decide +kernel) (by decide +kernel)
  refine ⟨⟨⟨_, (g 2 { fenced := true } ?_ ?_).1 ?_⟩, ⟨_, (g 2 { up := true } ?_ ?_).2.1 ?_ ?_⟩, ⟨_, (g 3 {} ?_ ?_).2.2 ?_ ?_⟩,
      ⟨_, (h (up 35 0 true {})).2.1 ?_ ?_⟩⟩,
    ⟨⟨_, (e { fenced := true } ?_ ?_ ?_).1 ?_⟩, ⟨_, (e { up := true } ?_ ?_ ?_).2.1 ?_ ?_⟩, ⟨_, (e {} ?_ ?_ ?_).2.2 ?_ ?_⟩,
      ⟨_, (h (eth 0x88B6 {})).2.2.2.2.1 ?_ ?_⟩⟩,
    ⟨⟨_, g1⟩, ⟨_, ((rest 79 0 false { up := true }).2.1 ?_ ?_).1 (.inr ?_) ?_⟩, ⟨_, (rest 64 0 false {}).2.2.1 ?_ ?_⟩⟩,
    ⟨_, (rest 79 0 false { fenced := true }).2.2.2.1 ?_ ?_⟩, ⟨_, (rest 35 0 false { lanes := 1, up := true }).2.2.2.2.1 ?_ ?_⟩⟩ <;> decide +kernel

/-- The last of four ports of four lanes: a frame on its last lane, and its silence. -/
theorem witness_LinkPorts (h : Claims.LinkSteps) :
    let port (inp : Input) : State := ev inp fun s => ({ s with fabric := { s.fabric with ports := 2 } } : State).updLink 79 fun _ => { up := true }
    (∃ t, exec .ethFrameReceive (port { unit := 15, val := 0x88B5 }) = .next t ∧ (t.link 76).up = true ∧ t.link 75 = {}) ∧
    ∃ t, exec .linkDown (port { unit := 79 }) = .next t ∧ (t.link 79).up = false := by
  let port (inp : Input) : State := ev inp fun s => ({ s with fabric := { s.fabric with ports := 2 } } : State).updLink 79 fun _ => { up := true }
  obtain ⟨t, ht, hl⟩ := (h (port { unit := 15, val := 0x88B5 })).2.2.2.1 (by decide +kernel) (by decide +kernel)
  obtain ⟨u, hu, _, hd⟩ := ((h (port { unit := 79 })).2.2.2.2.2.2.1 (by decide +kernel) (by decide +kernel)).2
  refine ⟨⟨t, ht, ?_, ?_⟩, u, hu, ?_⟩
  · rw [(hl 76).1 (by decide +kernel)]; decide +kernel
  · rw [(hl 75).2 (by decide +kernel)]; decide +kernel
  · rw [(hd 79).1 (by decide +kernel)]

/-- An entry in force for group 9: a node with a parent, or the root. -/
def entry9 (root : Bool) (kids : Tbl MergeChild) : MergeEnt := { fgrp := 9, fgrpIn := 9, par := if root then 0x18000 else 0x10000, parIn := if root then 0x18000 else 0x10000, children := kids }
def merging (inp : Input) (e : MergeEnt) : State := ev inp fun s => { s with fabric := { s.fabric with merge := [(255, e)] } }

theorem witness_MergeSteps (h : Claims.MergeSteps) :
    let m (n : Nat) (flag : Bool) (e : MergeEnt) : State := merging { unit := n, sub := 3, flag := flag } e
    let kid (a : Nat) (f : Bool) : Tbl MergeChild := [(3, ⟨1, true, a, f⟩)]
    Goes .mergeMessageReceive (m 8 false (entry9 true [])) ∧ Goes .mergeMessageReceive (m 9 true (entry9 true [])) ∧
    Goes .mergeMessageReceive (m 9 false (entry9 true (kid 0 true))) ∧ Goes .mergeMessageReceive (m 9 false (entry9 true (kid 8 false))) ∧
    Goes .mergePeriodEnd (m 0 false {}) ∧ Goes .mergePeriodEnd (m 0 false (entry9 true [])) ∧ Goes .mergePeriodEnd (m 0 false (entry9 false (kid 6 true))) ∧
    Goes .mergePeriodEnd (m 0 false (entry9 true (kid 6 true))) ∧ Goes .packageLost (ev { unit := 7 } fun s => { s with fabric := { s.fabric with lost := [7] } }) ∧
    Goes .packageLost (ev { unit := 7 }) := by
  let kid (a : Nat) (f : Bool) : Tbl MergeChild := [(3, ⟨1, true, a, f⟩)]
  have c (n : Nat) (flag : Bool) (e : MergeEnt) := h (merging { unit := n, sub := 3, flag := flag } e) 255 e
  have r (e : MergeEnt) (h1 : ∀ x, x ∈ e.children → x.2.fresh = true → x.2.age + 1 < 8) := (c 0 false e).2.2.2.2.1 rfl h1
  obtain ⟨_, g6, _⟩ := (r (entry9 true []) (by decide)).2.1 (by decide) (by decide)
  obtain ⟨_, g7, _⟩ := (r (entry9 false (kid 6 true)) (by decide)).2.2.1 (1, true) (by decide) (by decide) (by decide)
  obtain ⟨_, g8, _⟩ := (r (entry9 true (kid 6 true)) (by decide)).2.2.2 (1, true) (by decide) (by decide) (by decide)
  obtain ⟨_, ga, _⟩ := (h (ev { unit := 7 }) 0 {}).2.2.2.2.2.2 (by decide +kernel)
  exact ⟨⟨_, (c 8 false (entry9 true [])).2.2.1 (by decide +kernel)⟩, ⟨_, ((c 9 true (entry9 true [])).2.2.2.1 (by decide +kernel) (by decide +kernel)).1 rfl⟩,
    ⟨_, (((c 9 false (entry9 true (kid 0 true))).2.2.2.1 (by decide +kernel) (by decide +kernel)).2 rfl).1 (by decide +kernel)⟩,
    ⟨_, (((c 9 false (entry9 true (kid 8 false))).2.2.2.1 (by decide +kernel) (by decide +kernel)).2 rfl).2 ⟨1, true, 8, false⟩ (by decide +kernel) rfl⟩,
    ⟨_, (r {} (by decide)).1 (by decide)⟩, ⟨_, g6⟩, ⟨_, g7⟩, ⟨_, g8⟩,
    ⟨_, (h (ev { unit := 7 } fun s => { s with fabric := { s.fabric with lost := [7] } }) 0 {}).2.2.2.2.2.1 (by decide +kernel)⟩, ⟨_, ga⟩⟩

/-- A command block at 0x1000 of host memory, at the head of the stream of function `fn`. -/
def block (op flags ctx addr arg size : Nat) : List Byte :=
  bytesLE 1 op ++ bytesLE 1 flags ++ bytesLE 2 ctx ++ bytesLE 4 0 ++ bytesLE 8 addr ++ bytesLE 8 arg ++ bytesLE 8 size
def cmd (fn : Nat) (b : List Byte) (f : State → State := id) : State :=
  ev { func := fn } fun s => f ((s.updMem fun m => { m with hostMem := m.hostMem.write 0x1000 b }).updFunc fn fun x => { x with waiting := [0x1000] })

theorem heads (s : State) (op : Nat) (h : (s.func s.inp.func).running = none ∧ (s.func s.inp.func).suspended = false ∧
    (s.func s.inp.func).waiting = [0x1000] ∧ (s.blockAt 0x1000).op = op) : s.Heads op (s.blockAt 0x1000) [] :=
  ⟨h.1, h.2.1, h.2.2.1, rfl, h.2.2.2⟩

/-- A command under way whose block stands at `b`. -/
def underWay (b : Nat) : State := (cmd 0 []).updFunc 0 fun x => { x with running := some ⟨b, 1, 1, 0, 0, 0, 0, 0, 0⟩ }

/-- A block with a reserved flag, and one of no operation; completions of blocks in host memory and at the last byte of package memory. -/
theorem witness_CommandStream (h : Obligations.CommandStream) :
    (Goes .create (cmd 0 (block 1 2 0 0 0 0)) ∧ Goes .vfsuspend (cmd 1 (block 0x10 0 0 0 1 0)) ∧ Goes .commandComplete (cmd 0 (block 9 0 0 0 0 0))) ∧
    ((underWay 0x1000).finishCmd 0 5).vectors = [(1, 1)] ∧
    ((underWay (2 ^ 64 + dramSize - 5)).finishCmd 0 5).homeRead false 0 (dramSize - 1) 1 = [5] := by
  have a := (h.2.2.2 (underWay 0x1000) 0 5 _ (by rfl)).2.2.2
  have b := (h.2.2.2 (underWay (2 ^ 64 + dramSize - 5)) 0 5 _ (by rfl)).2.2.1 (by decide) (by decide) (by unfold Tbl.Rising; decide +kernel) (by decide +kernel)
  refine ⟨⟨⟨_, h.2.1 (cmd 0 (block 1 2 0 0 0 0)) 1 .create _ [] rfl (heads _ _ ?_) ?_ (fun h => absurd h (by decide))⟩,
    ⟨_, h.2.1 (cmd 1 (block 0x10 0 0 0 1 0)) 0x10 .vfsuspend _ [] rfl (heads _ _ ?_) ?_ (fun _ => ?_)⟩,
    ⟨_, h.2.2.1 (cmd 0 (block 9 0 0 0 0 0)) 9 _ [] rfl (heads _ _ ?_)⟩⟩, a.trans ?_, b⟩ <;>
    (try unfold State.InForm) <;> decide +kernel

/-- `CREATE`: an argument beyond the slots, another function's context, one that stands, an empty slot, floors that do not fit, and the last context. -/
theorem witness_ContextCreate (h : Obligations.ContextCommands) :
    let go (fn ctx arg : Nat) (f : State → State) : Prop := Goes .create (cmd fn (block 1 0 ctx 0 arg 0) f)
    let given : State → State := fun s => s.updCtx 1023 fun c => { c with func := 1 }
    go 0 1023 256 id ∧ go 0 1023 255 given ∧ go 0 1023 255 (fun s => s.updCtx 1023 fun c => { c with saved := true }) ∧ go 0 1023 255 id ∧ go 1 1023 0 given ∧
    go 0 1023 0 id := by
  let given : State → State := fun s => s.updCtx 1023 fun c => { c with func := 1 }
  have c (fn ctx arg : Nat) (f : State → State) (h1 : _) (h2 : (cmd fn (block 1 0 ctx 0 arg 0) f).InForm _) :=
    (h (cmd fn (block 1 0 ctx 0 arg 0) f) _ []).1 (heads _ 1 h1) h2
  obtain ⟨_, g6, _⟩ := ((c 0 1023 0 id (by decide +kernel) (by unfold State.InForm; decide +kernel)).2.2 (by decide +kernel) (by decide +kernel) (by decide +kernel)).2
    (by decide +kernel) (by decide +kernel) (by decide +kernel) (by decide +kernel) |>.2.2 (.inl (by decide +kernel)) (by decide +kernel)
  refine ⟨⟨_, (c 0 1023 256 id ?_ ?_).1 (.inl ?_)⟩, ⟨_, (c 0 1023 255 given ?_ ?_).2.1 ?_ ?_ ?_⟩,
    ⟨_, ((c 0 1023 255 (fun s => s.updCtx 1023 fun c => { c with saved := true }) ?_ ?_).2.2 ?_ ?_ ?_).1 (.inr (.inl ?_))⟩,
    ⟨_, ((c 0 1023 255 id ?_ ?_).2.2 ?_ ?_ ?_).2 ?_ ?_ ?_ ?_ |>.1 ?_⟩, ⟨_, ((c 1 1023 0 given ?_ ?_).2.2 ?_ ?_ ?_).2 ?_ ?_ ?_ ?_ |>.2.1 (.inl ?_) ?_⟩, ⟨_, g6⟩⟩ <;>
    (try unfold State.InForm) <;> decide +kernel

/-- `DESTROY` and `TEARDOWN`, of contexts that are foreign, held by a job, absent, protected and alive, with eight busy jobs and with seven. -/
theorem witness_ContextEnd (h : Obligations.ContextCommands) :
    let ds (arg : Nat) (f : State → State) : Prop := Goes .destroy (cmd 0 (block 5 0 1023 0 arg 0) f)
    let td (f : State → State) : Prop := Goes .teardown (cmd 0 (block 6 0 1023 0 0 0) f)
    let alive (k : Nat) : State → State := fun s => s.updCtx 1023 fun c => { c with resident := true, kslot := k }
    let jobs (n k : Nat) : State → State := fun s => { alive 0 s with scrubs := (List.range n).map fun j => (j, { busy := true, ctx := k }) }
    ds 1 id ∧ ds 0 (fun s => s.updCtx 1023 fun c => { c with func := 1 }) ∧ ds 0 (jobs 1 1023) ∧ ds 0 id ∧ ds 0 (alive 255) ∧ ds 0 (alive 0) ∧
    td (jobs 1 1023) ∧ td id ∧ td (jobs 8 9) ∧ td (jobs 7 9) := by
  let alive (k : Nat) : State → State := fun s => s.updCtx 1023 fun c => { c with resident := true, kslot := k }
  let jobs (n k : Nat) : State → State := fun s => { alive 0 s with scrubs := (List.range n).map fun j => (j, { busy := true, ctx := k }) }
  have c (arg : Nat) (f : State → State) (h1 : _) (h2 : (cmd 0 (block 5 0 1023 0 arg 0) f).InForm _) :=
    (h (cmd 0 (block 5 0 1023 0 arg 0) f) _ []).2.1 (heads _ 5 h1) h2
  have d (f : State → State) (h1 : _) (h2 : (cmd 0 (block 6 0 1023 0 0 0) f).InForm _) (h3 : _) (h4 : _) (h5 : _) :=
    (h (cmd 0 (block 6 0 1023 0 0 0) f) _ []).2.2 (heads _ 6 h1) h2 h3 h4 h5
  obtain ⟨_, g6, _⟩ := ((c 0 (alive 0) (by decide +kernel) (by unfold State.InForm; decide +kernel)).2.2 (by decide +kernel) (by decide +kernel) (by decide +kernel)).2.2.2
    (by decide +kernel) (by decide +kernel) (by decide +kernel)
  obtain ⟨_, g10, _⟩ := (d (jobs 7 9) (by decide +kernel) (by unfold State.InForm; decide +kernel) (by decide +kernel) (by decide +kernel) (by decide +kernel)).2.2.2
    (by decide +kernel) (by decide +kernel) 7 (by decide) (by decide +kernel) (by decide +kernel)
  refine ⟨⟨_, (c 1 id ?_ ?_).1 (.inl ?_)⟩, ⟨_, (c 0 (fun s => s.updCtx 1023 fun c => { c with func := 1 }) ?_ ?_).2.1 ?_ ?_ ?_⟩,
    ⟨_, ((c 0 (jobs 1 1023) ?_ ?_).2.2 ?_ ?_ ?_).1 ?_⟩, ⟨_, ((c 0 id ?_ ?_).2.2 ?_ ?_ ?_).2.1 ?_ ?_ ?_⟩, ⟨_, ((c 0 (alive 255) ?_ ?_).2.2 ?_ ?_ ?_).2.2.1 ?_ ?_ ?_⟩, ⟨_, g6⟩,
    ⟨_, (d (jobs 1 1023) ?_ ?_ ?_ ?_ ?_).1 ?_⟩, ⟨_, (d id ?_ ?_ ?_ ?_ ?_).2.1 ?_ ?_⟩, ⟨_, (d (jobs 8 9) ?_ ?_ ?_ ?_ ?_).2.2.1 ?_ ?_ ?_⟩, ⟨_, g10⟩⟩ <;>
    (try unfold State.InForm) <;> decide +kernel

/-- A command that runs for function 0 at a stage, without a block. -/
def running (op ctx addr arg size stage : Nat) (f : State → State := id) : State :=
  ev { unit := ctx } fun s => f (s.updFunc 0 fun x => { x with running := some ⟨0x1000, op, 0, ctx, addr, arg, size, stage, 0⟩ })
/-- A crew of context `k` runs. -/
def withCrew (k : Nat) : State → State := fun s => { s.updCtx k (fun c => { c with resident := true }) with
  crews := [(0, { kind := .vector, ctx := k, core := 0, n := 1 })] }

/-- A drain of a context that is not resident, of one that is, with a crew that still runs and without, and at its timeout. -/
theorem witness_DrainCommands (h : Obligations.DrainCommands) :
    Goes .drain (cmd 0 (block 7 0 1023 0 0xFFFFFFFF 0)) ∧ Goes .drain (cmd 0 (block 7 0 1023 0 0xFFFFFFFF 0) (withCrew 1023)) ∧
    Goes .undrain (cmd 0 (block 8 0 1023 0 0 0)) ∧ Goes .commandComplete (running 7 1023 0 0 0 1) ∧ Goes .commandComplete (running 7 1023 0 0 0 1 (withCrew 1023)) ∧
    Goes .drainTimeout (running 7 1023 0 0 0 1 (withCrew 1023)) := by
  have c (f : State → State) := h (cmd 0 (block 7 0 1023 0 0xFFFFFFFF 0) f) ((cmd 0 (block 7 0 1023 0 0xFFFFFFFF 0) f).blockAt 0x1000) []
  have r (f : State → State) := h (running 7 1023 0 0 0 1 f) ⟨0x1000, 7, 0, 1023, 0, 0, 0, 1, 0⟩ []
  obtain ⟨_, g6, _⟩ := (r (withCrew 1023)).2.2.2 (by rfl) rfl rfl rfl (by unfold Tbl.Rising; decide +kernel)
  refine ⟨⟨_, ((c id).1 (heads _ _ ?_) ?_ ?_ ?_ ?_).1 ?_⟩, ⟨_, ((c (withCrew 1023)).1 (heads _ _ ?_) ?_ ?_ ?_ ?_).2 ?_⟩,
    ⟨_, (h (cmd 0 (block 8 0 1023 0 0 0)) _ []).2.1 (heads _ _ ?_) ?_ ?_ ?_ ?_⟩, ⟨_, ((r id).2.2.1 (by rfl) rfl rfl).1 ?_⟩,
    ⟨_, ((r (withCrew 1023)).2.2.1 (by rfl) rfl rfl).2 (0, { kind := .vector, ctx := 1023, core := 0, n := 1 }) ?_ ?_ ?_⟩, ⟨_, g6⟩⟩ <;>
    (try unfold State.InForm) <;> decide +kernel

/-- A record at 0x4000: its state, flags and function; it holds record 1, where there is one. -/
def recorded (st fl f : Nat) (held : Bool) (s : State) : State :=
  let head := bytesLE 1 st ++ bytesLE 1 fl ++ bytesLE 6 0 ++ bytesLE 8 4096 ++ bytesLE 2 0 ++ bytesLE 2 f
  { s.updMem (fun m => { m with dram := (m.dram.write 0x4000 head).write 0x4100 (bytesLE 8 1) }) with
    records := if held then [(1, { ctx := 5, cx := { func := f } })] else [] }

theorem restored {α : Type} (x : Except Nat α) (h : x.toOption.isSome = true) : ∃ v, x = .ok v := by
  cases x with
  | error e => cases h
  | ok v => exact ⟨v, rfl⟩

/-- `SAVE` of a context that is absent; over another function's record; in too little room; and, with a length of one page, of one that is
resident. -/
theorem witness_Saves (h : Obligations.RecordCommands) (hl : Config.freeNat 0 = 0) :
    let go (size : Nat) (f : State → State) : Prop := Goes .save (cmd 0 (block 2 0 1023 0x4000 0 size) f)
    go 4096 id ∧ go 4096 (fun s => recorded 1 0 1 false (withCrew 1023 s)) ∧ go 0 (withCrew 1023) ∧ go 4096 (withCrew 1023) := by
  let s (size : Nat) (f : State → State) : State := cmd 0 (block 2 0 1023 0x4000 0 size) f
  have l (size : Nat) (f : State → State) (h0 : (s size f).fresh = 0) : (s size f).needLen = 4096 := by unfold State.needLen; rw [h0, hl]
  have c (size : Nat) (f : State → State) (ok : (s size f).fresh = 0 ∧ ((s size f).blockAt 0x1000).arg = 0 ∧ ((s size f).blockAt 0x1000).ctx < 1024)
      (h2 : _) (h3 : (s size f).InForm _) (h4 : _) (h5 : ((s size f).blockAt 0x1000).addr % 4096 = 0 ∧ ((s size f).blockAt 0x1000).addr + 4096 ≤ dramSize) :=
    (h (s size f) ((s size f).blockAt 0x1000) []).1 2 .save (.inl ⟨rfl, rfl, ok.2.1⟩) (heads _ _ h2) h3 ok.2.2 h4 ⟨h5.1, (l size f ok.1).symm ▸ h5.2⟩
  obtain ⟨_, g4, _⟩ := (c 4096 (withCrew 1023) (by decide +kernel) (by decide +kernel) (by unfold State.InForm; decide +kernel) (by decide +kernel)
    (by decide +kernel)).2.2.2 (by decide +kernel) (by decide +kernel) (by rw [l _ _ (by decide +kernel)]; decide +kernel)
  have g3 := (c 0 (withCrew 1023) (by decide +kernel) (by decide +kernel) (by unfold State.InForm; decide +kernel) (by decide +kernel)
    (by decide +kernel)).2.2.1 (by decide +kernel) (by decide +kernel) (by rw [l _ _ (by decide +kernel)]; decide +kernel)
  refine ⟨⟨_, (c 4096 id ?_ ?_ ?_ ?_ ?_).1 ?_⟩, ⟨_, (c 4096 (fun s => recorded 1 0 1 false (withCrew 1023 s)) ?_ ?_ ?_ ?_ ?_).2.1 ?_ ?_⟩, ⟨_, g3⟩, ⟨_, g4⟩⟩ <;>
    (try unfold State.InForm) <;> decide +kernel

/-- `RESTORE` of an empty record, of another function's, of a protected one without its key, and of a saved context. -/
theorem witness_Restores (h : Obligations.RecordCommands) :
    let go (f : State → State) : Prop := Goes .restore (cmd 0 (block 3 0 5 0x4000 0 0) f)
    go id ∧ go (recorded 1 0 1 false) ∧ go (recorded 1 1 0 true) ∧ go (recorded 1 0 0 true) := by
  let s (f : State → State) : State := cmd 0 (block 3 0 5 0x4000 0 0) f
  have r (f : State → State) (ok : ((s f).blockAt 0x1000).arg = 0 ∧ ((s f).blockAt 0x1000).ctx < 1024) (h2 : _) (h3 : (s f).InForm _) (h4 : _) (h5 : _) :=
    (h (s f) ((s f).blockAt 0x1000) []).2.1 (heads _ _ h2) h3 ok.1 ok.2 h4 h5
  let s5 := s (recorded 1 0 0 true)
  obtain ⟨v, hv⟩ := restored ((s5.begun (s5.blockAt 0x1000) []).restoreAt s5.inp.func (s5.blockAt 0x1000).ctx (s5.blockAt 0x1000).addr) (by decide +kernel)
  have g5 := ((r (recorded 1 0 0 true) (by decide +kernel) (by decide +kernel) (by unfold State.InForm; decide +kernel) (by decide +kernel)
    (by decide +kernel)).2.2.2 (by decide +kernel) (by decide +kernel) v hv).1
  refine ⟨⟨_, (r id ?_ ?_ ?_ ?_ ?_).1 ?_⟩, ⟨_, (r (recorded 1 0 1 false) ?_ ?_ ?_ ?_ ?_).2.1 ?_ ?_⟩,
    ⟨_, (r (recorded 1 1 0 true) ?_ ?_ ?_ ?_ ?_).2.2.1 ?_ ?_ ?_ (.inl ?_)⟩, ⟨_, g5⟩⟩ <;>
    (try unfold State.InForm) <;> decide +kernel

/-- A save that waits for a crew, one whose context has stopped, a switch, and a suspension of a function with a context that has stopped. -/
theorem witness_RecordsTaken (h : Obligations.RecordCommands) :
    let go (op arg : Nat) (f : State → State) : Prop := Goes .commandComplete (running op 1023 0x8000 arg 4096 1 f)
    let alive : State → State := fun s => s.updCtx 1023 fun c => { c with resident := true, func := 1 }
    go 2 0 (withCrew 1023) ∧ go 2 0 alive ∧ go 4 0x4005 alive ∧ go 0x10 1 alive := by
  let alive : State → State := fun s => s.updCtx 1023 fun c => { c with resident := true, func := 1 }
  have c (op arg : Nat) (f : State → State) (h1 : ((running op 1023 0x8000 arg 4096 1 f).func 0).running = some ⟨0x1000, op, 0, 1023, 0x8000, arg, 4096, 1, 0⟩) :=
    (h (running op 1023 0x8000 arg 4096 1 f) ⟨0x1000, op, 0, 1023, 0x8000, arg, 4096, 1, 0⟩ []).2.2.1 h1 rfl ⟨by show 0x8000 % 4096 = 0; decide, by show 0x8000 + 4096 ≤ dramSize; decide⟩ (Nat.le_refl _)
  obtain ⟨_, g2, _⟩ := (c 2 0 alive (by rfl)).2.1 rfl (by decide +kernel) (by decide +kernel)
  obtain ⟨u, _, g3, g3'⟩ := (c 4 0x4005 alive (by rfl)).2.2.1 rfl (by decide +kernel) (by decide +kernel)
  obtain ⟨_, g4, _⟩ := (c 0x10 1 alive (by rfl)).2.2.2 rfl (by decide +kernel)
  refine ⟨⟨_, (c 2 0 (withCrew 1023) (by rfl)).1 (.inl rfl) (by decide +kernel) (by decide +kernel)⟩, ⟨_, g2⟩, ?_, ⟨_, g4⟩⟩
  cases hr : u.restoreAt 0 (0x4005 % 1024) (0x4005 / 4096 * 4096) with
  | error e => exact ⟨_, g3 e hr⟩
  | ok v => exact ⟨_, (g3' v hr).1⟩

/-- `VFSUSPEND` of a function whose command cannot stop, of one that is suspended, over another function's record and, with a length of one
page, of one that is idle. -/
theorem witness_Suspends (h : Obligations.RecordCommands) (hl : Config.freeNat 0 = 0) :
    let go (f : State → State) : Prop := Goes .vfsuspend (cmd 0 (block 0x10 0 0 0x4000 64 4096) f)
    go (fun s => s.updFunc 64 fun x => { x with running := some ⟨0, 1, 0, 0, 0, 0, 0, 0, 0⟩ }) ∧ go (fun s => s.updFunc 64 fun x => { x with suspended := true }) ∧
    go (recorded 1 0 1 false) ∧ go id := by
  let sus (f : State → State) : State := cmd 0 (block 0x10 0 0 0x4000 64 4096) f
  have l (f : State → State) (h0 : (sus f).fresh = 0) : (sus f).needLen = 4096 := by unfold State.needLen; rw [h0, hl]
  have c (f : State → State) (h2 : _) (h3 : (sus f).InForm _) (h4 : 1 ≤ ((sus f).blockAt 0x1000).arg ∧ ((sus f).blockAt 0x1000).arg ≤ 64) :=
    (h (sus f) ((sus f).blockAt 0x1000) []).2.2.2.1 (heads _ _ h2) h3 h4.1 h4.2
  have room (f : State → State) (h0 : (sus f).fresh = 0) (h5 : ((sus f).blockAt 0x1000).addr % 4096 = 0 ∧ ((sus f).blockAt 0x1000).addr + 4096 ≤ dramSize) :
      ((sus f).blockAt 0x1000).addr % 4096 = 0 ∧ ((sus f).blockAt 0x1000).addr + (sus f).needLen ≤ dramSize := ⟨h5.1, (l f h0).symm ▸ h5.2⟩
  obtain ⟨u4, g4, _⟩ := (c id (by decide +kernel) (by unfold State.InForm; decide +kernel) (by decide +kernel)).2.2.2 (by decide +kernel)
    (room id (by decide +kernel) (by decide +kernel)) (by decide +kernel) (by decide +kernel) (by rw [l _ (by decide +kernel)]; decide +kernel)
  refine ⟨⟨_, (c (fun s => s.updFunc 64 fun x => { x with running := some ⟨0, 1, 0, 0, 0, 0, 0, 0, 0⟩ }) ?_ ?_ ?_).1 ?_⟩,
    ⟨_, (c (fun s => s.updFunc 64 fun x => { x with suspended := true }) ?_ ?_ ?_).2.1 ?_ (room _ ?_ ?_) ?_⟩,
    ⟨_, (c (recorded 1 0 1 false) ?_ ?_ ?_).2.2.1 ?_ (room _ ?_ ?_) ?_ ?_⟩, ⟨u4, g4⟩⟩ <;>
    (try unfold State.InForm) <;> decide +kernel

/-- `VFRESUME` of a function that is not suspended, from another function's record, and from its own. -/
theorem witness_Resumes (h : Obligations.RecordCommands) :
    let asleep : State → State := fun s => s.updFunc 64 fun x => { x with suspended := true }
    let go (f : State → State) : Prop := Goes .vfresume (cmd 0 (block 0x11 0 0 0x4000 64 0) f)
    go id ∧ go (fun s => recorded 1 0 1 false (asleep s)) ∧ go (fun s => recorded 1 0 64 false (asleep s)) := by
  let asleep : State → State := fun s => s.updFunc 64 fun x => { x with suspended := true }
  let res (f : State → State) : State := cmd 0 (block 0x11 0 0 0x4000 64 0) f
  have r (f : State → State) (h2 : _) (h3 : (res f).InForm _) (h4 : 1 ≤ ((res f).blockAt 0x1000).arg ∧ ((res f).blockAt 0x1000).arg ≤ 64) (h5 : _) :=
    (h (res f) ((res f).blockAt 0x1000) []).2.2.2.2 (heads _ _ h2) h3 h4.1 h4.2 h5
  obtain ⟨u4, g4, _⟩ := (r (fun s => recorded 1 0 64 false (asleep s)) (by decide +kernel) (by unfold State.InForm; decide +kernel) (by decide +kernel)
    (by decide +kernel)).2.2 (by decide +kernel) (by decide +kernel) (by decide +kernel) (by decide +kernel) (restored _ (by decide +kernel))
  refine ⟨⟨_, (r id ?_ ?_ ?_ ?_).1 (.inl ?_)⟩, ⟨_, (r (fun s => recorded 1 0 1 false (asleep s)) ?_ ?_ ?_ ?_).2.1 ?_ ?_ ?_⟩, ⟨_, g4⟩⟩ <;>
    (try unfold State.InForm) <;> decide +kernel

/-- An assignment record for function 1: class ceiling, quanta and core 0. -/
def assigning (ceil quanta : Nat) (f : State → State := id) : State := cmd 0 (block 0x12 0 0 0x4000 1 0) fun s =>
  f (s.updMem fun m => { m with dram := m.dram.write 0x4000 (bytesLE 2 1 ++ bytesLE 1 ceil ++ bytesLE 1 quanta ++ bytesLE 2 0 ++ bytesLE 2 64 ++
    bytesLE 8 0 ++ bytesLE 1 1) })

theorem not_foreign (s : State) (r : Assignment) (h : s.coreFunc = [] ∧ s.ctxs = [] ∧ s.slotFunc = [] ∧ s.queues = []) : r.foreign s = false := by
  obtain ⟨h1, h2, h3, h4⟩ := h
  simp [Assignment.foreign, State.coreOwner, State.funcOf, State.ctx, State.slotOwner, State.queueOwner, State.queue, h1, h2, h3, h4, Tbl.get]

theorem not_held (s : State) (r : Assignment) (h : s.ctxs = [] ∧ s.queues = [] ∧ s.scrubs = [] ∧ s.slotHeld = [] ∧ s.scrubQueue = []) : r.held s = false := by
  obtain ⟨h1, h2, h3, h4, h5⟩ := h
  simp [Assignment.held, State.ctxHeld, State.queueHeld, State.ctx, State.queue, h1, h2, h3, h4, h5, Tbl.get, Tbl.find]

theorem has_room (s : State) (r : Assignment) (h : s.ctxs = [] ∧ s.queues = [] ∧ ∀ f, (s.func f).qcap = 64) (hq : r.qcap = 64)
    (hn : s.funcs.all (fun f => f.1 = 0) = true ∧ r.quanta ≤ 64 ∧ r.ways ≤ 15 ∧ r.share ≤ 62) : r.noRoom s = false := by
  obtain ⟨h1, h2, h3⟩ := h
  have hc : ∀ q, r.capOf s q = 64 := by intro q; unfold Assignment.capOf; simp only [h3, hq]; split <;> rfl
  have ho (g : Func → Nat) (fs : Tbl Func) (hf : fs.all (fun f => f.1 = 0) = true) (a : Nat) :
      fs.foldl (fun a f => if f.1 = 0 || f.1 = r.func then a else a + g f.2) a = a := by
    induction fs generalizing a with
    | nil => rfl
    | cons x t ih =>
      rw [List.all_cons, Bool.and_eq_true] at hf
      rw [List.foldl_cons, if_pos (by simp [of_decide_eq_true hf.1])]
      exact ih hf.2 a
  have hs : ∀ (l : List Nat) (a : Nat), l.foldl (fun a q => a + r.capOf s q) a = a + 64 * l.length := by
    intro l
    induction l with
    | nil => intro a; rfl
    | cons x t ih => intro a; rw [List.foldl_cons, ih, hc, List.length_cons]; omega
  unfold Assignment.noRoom
  simp only [ho _ _ hn.1, hs]
  simp [State.residents, State.queue, h1, h2, Tbl.get, hn.2.1, hn.2.2.1, hn.2.2.2]

/-- A record with a class beyond 3, one that lists another function's core, one that lists a core that a job holds, one with more quanta than are left,
and one that stands. -/
theorem witness_Assigns (h : Obligations.Assigns) :
    Goes .assign (assigning 4 0) ∧ Goes .assign (assigning 3 0 fun s => { s with coreFunc := [(0, 2)] }) ∧
    Goes .assign (assigning 3 0 fun s => { s with scrubs := [(0, { busy := true, ctx := 9, cores := [0] })] }) ∧
    Goes .assign (assigning 3 64 fun s => s.updFunc 2 fun x => { x with quanta := 1 }) ∧ Goes .assign (assigning 3 64) := by
  have c (ceil q : Nat) (f : State → State) (h2 : _) (h3 : (assigning ceil q f).InForm _) (h4 : _) (h5 : _) (h6 : _) :=
    h (assigning ceil q f) ((assigning ceil q f).blockAt 0x1000) [] (heads _ _ h2) h3 h4 h5 h6
  obtain ⟨_, g5, _⟩ := (c 3 64 id (by decide +kernel) (by unfold State.InForm; decide +kernel) (by decide +kernel) (by decide +kernel) (by decide +kernel)).2.2.2.2
    (by decide +kernel) (not_foreign _ _ ⟨rfl, rfl, rfl, rfl⟩) (not_held _ _ ⟨rfl, rfl, rfl, rfl, rfl⟩) (has_room _ _ ⟨rfl, rfl, by
      intro f; cases f <;> rfl⟩ (by decide +kernel) (by decide +kernel))
  have g3 := (c 3 0 (fun s => { s with scrubs := [(0, { busy := true, ctx := 9, cores := [0] })] }) (by decide +kernel) (by unfold State.InForm; decide +kernel)
    (by decide +kernel) (by decide +kernel) (by decide +kernel)).2.2.1 (by decide +kernel) (not_foreign _ _ ⟨rfl, rfl, rfl, rfl⟩) (by decide +kernel)
  have g4 := (c 3 64 (fun s => s.updFunc 2 fun x => { x with quanta := 1 }) (by decide +kernel) (by unfold State.InForm; decide +kernel)
    (by decide +kernel) (by decide +kernel) (by decide +kernel)).2.2.2.1 (by decide +kernel) (not_foreign _ _ ⟨rfl, rfl, rfl, rfl⟩)
    (not_held _ _ ⟨rfl, rfl, rfl, rfl, rfl⟩) (by decide +kernel)
  refine ⟨⟨_, (c 4 0 id ?_ ?_ ?_ ?_ ?_).1 ?_⟩, ⟨_, (c 3 0 (fun s => { s with coreFunc := [(0, 2)] }) ?_ ?_ ?_ ?_ ?_).2.1 ?_ ?_⟩, ⟨_, g3⟩, ⟨_, g4⟩, ⟨_, g5⟩⟩ <;>
    (try unfold State.InForm) <;> decide +kernel

/-- A register access of a function at an offset. -/
def access (fn o v : Nat) : State := ev { func := fn, unit := o, val := v, sub := 1023 }

theorem witness_HostRegisters (h : Claims.HostRegisters) :
    (Goes .dlsizeWrite (access 64 0 32) ∧ Goes .dlsizeWrite (access 64 0 64) ∧ Goes .dlsizeWrite (access 64 0 65536)) ∧
    Goes .ptrootWrite (access 0 0 4096) ∧ Goes .ptrootWrite (access 1 0 4096) := by
  have c (fn v : Nat) := h (access fn 0 v)
  obtain ⟨_, g2, _⟩ := (c 64 64).2.1 6 (by decide) (by decide) (by decide)
  obtain ⟨_, g3, _⟩ := (c 64 65536).2.1 16 (by decide) (by decide) (by decide)
  refine ⟨⟨⟨_, (c 64 32).1 ?_⟩, ⟨_, g2⟩, ⟨_, g3⟩⟩, ⟨_, (c 0 4096).2.2.1 ?_ ?_⟩, ⟨_, (c 1 4096).2.2.2.1 (.inr ?_)⟩⟩ <;> decide +kernel

/-- The windows of functions 64 and 1 and of the PF, and its management window. -/
theorem witness_RegisterWrites (h : Claims.HostRegisters) :
    let go (fn o v : Nat) : Prop := Goes .registerWrite (access fn o v)
    (go 64 8 1 ∧ go 0 0x1000100 4096 ∧ go 1 0x10C 1 ∧ go 1 0x114 8 ∧ go 0 0x107FFC8 0xFF0000) ∧
    go 0 0x2000 255 ∧ go 0 0x207C 5 ∧ go 0 0x1400 255 ∧ go 0 0x140C 0x7FFF ∧ go 0 0x118C 0xFFFF0000 ∧
    Goes .registerWrite (ev { flag := true, sub := 2, val := 1 }) := by
  have c (s : State) := (h s).2.2.2.2
  have d (s : State) := (c s).2.2.2.2.2
  obtain ⟨_, g4, _⟩ := (c (access 1 0x114 8)).2.2.2.1 ⟨rfl, .inl ⟨by decide, rfl⟩⟩
  obtain ⟨_, g5, _⟩ := (c (access 0 0x107FFC8 0xFF0000)).2.2.2.2.1 4095 4095 (by decide) ⟨rfl, .inr ⟨rfl, rfl⟩⟩ (by decide +kernel)
  obtain ⟨_, g7, _⟩ := (d (access 0 0x207C 5)).2.1 15 (by decide) ⟨rfl, rfl, rfl⟩
  obtain ⟨_, ga, _⟩ := (d (access 0 0x118C 0xFFFF0000)).2.2.2.2.1 35 (by decide) ⟨rfl, rfl, rfl⟩
  exact ⟨⟨⟨_, (c (access 64 8 1)).1 ⟨rfl, .inl ⟨by decide, rfl⟩⟩⟩, ⟨_, (c (access 0 0x1000100 4096)).2.1 ⟨rfl, .inr ⟨rfl, rfl⟩⟩⟩,
      ⟨_, (c (access 1 0x10C 1)).2.2.1 ⟨rfl, .inl ⟨by decide, rfl⟩⟩⟩, ⟨_, g4⟩, ⟨_, g5⟩⟩,
    ⟨_, (d (access 0 0x2000 255)).1 ⟨rfl, rfl, rfl⟩⟩, ⟨_, g7⟩, ⟨_, (d (access 0 0x1400 255)).2.2.1 ⟨rfl, rfl, rfl⟩⟩,
    ⟨_, (d (access 0 0x140C 0x7FFF)).2.2.2.1 ⟨rfl, rfl, rfl⟩⟩, ⟨_, ga⟩, ⟨_, (d (ev { flag := true, sub := 2, val := 1 })).2.2.2.2.2 rfl⟩⟩

/-- A slot that is 0, loaded, held, empty and being zeroed. -/
theorem witness_KeySlots (h : Claims.KeySlots) :
    let k (n : Nat) (f : State → State) : State := ev { unit := 255 } fun s => f { s with kssel := n, ksdata := 5 }
    let full : State → State := fun s => { s with keys := [(255, 9)] }
    Goes .keyLoad (k 0 id) ∧ Goes .keyLoad (k 255 fun s => { s with slotHeld := [(255, 3)] }) ∧ Goes .keyLoad (k 255 full) ∧ Goes .keyZero (k 255 id) ∧
    Goes .keyZero (k 255 full) ∧ Goes .keyZeroDone (k 255 id) ∧ Goes .keyZeroDone (k 255 fun s => { s with zeroing := [255] }) := by
  have c (n : Nat) (f : State → State) := h (ev { unit := 255 } fun s => f { s with kssel := n, ksdata := 5 })
  obtain ⟨_, g5, _⟩ := (c 255 fun s => { s with keys := [(255, 9)] }).2.2.2.1 (by decide +kernel) (by decide +kernel) (by decide +kernel) (by unfold Tbl.Rising; decide +kernel)
  obtain ⟨_, g7, _⟩ := (c 255 fun s => { s with zeroing := [255] }).2.2.2.2.2 (by decide +kernel) (by decide +kernel) (by unfold Tbl.Rising; decide +kernel)
  refine ⟨⟨_, (c 0 id).1 (.inl ?_)⟩, ⟨_, (c 255 fun s => { s with slotHeld := [(255, 3)] }).1 (.inr (.inl ?_))⟩, ⟨_, (c 255 fun s => { s with keys := [(255, 9)] }).2.1 ?_ ?_ ?_⟩,
    ⟨_, (c 255 id).2.2.1 (.inr (.inl ?_))⟩, ⟨_, g5⟩, ⟨_, (c 255 id).2.2.2.2.1 ?_⟩, ⟨_, g7⟩⟩ <;> decide +kernel

/-- No teardown that waits, one with job 7 free; a unit of pages that is not the last and the last of the cores; a job without units; and the end of one. -/
theorem witness_ScrubJobs (h : Claims.ScrubJobs) :
    let w (n : Nat) (q : List (Nat × Nat × Bool)) : State := ev {} fun s => { s.updCtx 1023 (fun c => { c with resident := true }) with
      scrubs := (List.range n).map fun j => (j, { busy := true, ctx := 9 }), scrubQueue := q }
    let j (x : Scrub) : State := ev { unit := 7 } fun s => { s with scrubs := [(7, { x with busy := true, ctx := 9 })] }
    Goes .scrubJobStart (w 8 [(1023, 0, true)]) ∧ Goes .scrubJobStart (w 7 [(1023, 0, true)]) ∧ Goes .scrubUnitCommit (j { phase := 1 }) ∧
    Goes .scrubUnitCommit (j { phase := 4, pages := [(0x8FFFFFE000, 2)], remain := 2 }) ∧ Goes .scrubDone (j { phase := 3 }) ∧
    Goes .scrubDone (j { phase := 4, pages := [(0, 1)], units := 1 }) := by
  have a (n : Nat) := h (ev {} fun s => { s.updCtx 1023 (fun c => { c with resident := true }) with
      scrubs := (List.range n).map fun j => (j, { busy := true, ctx := 9 }), scrubQueue := [(1023, 0, true)] })
  have b (x : Scrub) := h (ev { unit := 7 } fun s => { s with scrubs := [(7, { x with busy := true, ctx := 9 })] })
  obtain ⟨_, g2, _⟩ := (a 7).2.1 1023 0 true [] 7 rfl (by decide) (by decide +kernel) (by decide +kernel) (by decide +kernel) (by decide +kernel)
  obtain ⟨_, g4, _⟩ := (b { phase := 4, pages := [(0x8FFFFFE000, 2)], remain := 2 }).2.2.2.1 (by decide +kernel)
  obtain ⟨_, g6, _⟩ := (b { phase := 4, pages := [(0, 1)], units := 1 }).2.2.2.2.2 (by decide +kernel)
  refine ⟨⟨_, (a 8).1 (.inr ?_)⟩, ⟨_, g2⟩, ⟨_, (b { phase := 1 }).2.2.1 ?_⟩, ⟨_, g4⟩, ⟨_, (b { phase := 3 }).2.2.2.2.1 ?_⟩, ⟨_, g6⟩⟩ <;> decide +kernel

theorem witness_Resets (h : Obligations.Resets) : Goes .flrVf (ev { unit := 65 }) ∧ Goes .flrVf (ev { unit := 64 }) ∧ Goes .flrPf (ev {}) ∧ Goes .hotReset (ev {}) ∧
    Goes .warmReset (ev {}) ∧ Goes .powerOn (ev { list := [31] }) := by
  obtain ⟨_, g2, _⟩ := (h (ev { unit := 64 })).2.1 (by decide) (by decide)
  obtain ⟨_, g3, _⟩ := (h (ev {})).2.2.1
  obtain ⟨_, g4, g5, _⟩ := (h (ev {})).2.2.2.1
  obtain ⟨_, g6, _⟩ := (h (ev { list := [31] })).2.2.2.2
  exact ⟨⟨_, (h (ev { unit := 65 })).1 (.inr (by decide))⟩, ⟨_, g2⟩, ⟨_, g3⟩, ⟨_, g4⟩, ⟨_, g5⟩, ⟨_, g6⟩⟩

/-! ### Hypotheses that can be met: slates, dispatch, the control loop and the engines' work -/

/-- A slate's 64 bytes. -/
def slateBytes (pred st : Nat) : List Byte :=
  bytesLE 8 0x10000 ++ bytesLE 24 0 ++ bytesLE 2 pred ++ bytesLE 1 st ++ bytesLE 3 0 ++ bytesLE 1 47 ++ bytesLE 5 0 ++ bytesLE 4 9 ++ bytesLE 14 0 ++ bytesLE 2 1
/-- Queue 4095 of context 0, with a slate at 0x10140. -/
def submitted (v : Nat) (pred st : Nat) (f : Queue → Queue) : State :=
  ev { unit := 4095, sub := 4095, val := v } fun s =>
    { ((mapped (s.updCtx 0 fun c => { c with resident := true })).updMem fun m => { m with dram := m.dram.write 0x10140 (slateBytes pred st) }).updQueue 4095
        fun q => f { q with ctx := some 0 } with slates := [(0, { checked := true })], nextSlate := 1 }

/-- A queue of no context, rejections counted and not, the last place of a queue, and the device's reading of a slate that is not free, one that waits and one
that is ready. -/
theorem witness_SlatesSubmitted (h : Claims.SlatesSubmitted) :
    let qs (v : Nat) (f : Queue → Queue) : Prop := Goes .qsubWrite (submitted v 0 0 f)
    let ac (pred st : Nat) : Prop := Goes .slateAccept (submitted 0 pred st fun q => { q with incoming := [0x10140], depth := 2, ready := [0] })
    qs 0x10140 (fun q => { q with ctx := none, rej := 1 }) ∧ qs 0x10140 (fun q => { q with depth := 64 }) ∧ qs 0x10140 (fun q => { q with depth := 63 }) ∧
    ac 0 1 ∧ ac 1 0 ∧ ac 0 0 := by
  let queue : Queue → Queue := fun q => { q with incoming := [0x10140], depth := 2, ready := [0] }
  have c (f : Queue → Queue) := (h (submitted 0x10140 0 0 f) 4095 0).1
  have a (pred st : Nat) (h1 : _) (h2 : _) (h3 : _) := (h (submitted 0 pred st queue) 4095 0).2 rfl 0x10140 [] h1 h2 h3
  have dr (pred st : Nat) (h4 : (((submitted 0 pred st queue).updQueue 4095 fun q => { q with incoming := [] }).devRead 0 0x10140 64) = some (slateBytes pred st)) :
      ∀ bs, (((submitted 0 pred st queue).updQueue 4095 fun q => { q with incoming := [] }).devRead 0 0x10140 64) = some bs → bs = slateBytes pred st := by
    exact fun bs hb => (Option.some.inj (h4.symm.trans hb)).symm
  refine ⟨⟨_, ((c (fun q => { q with ctx := none, rej := 1 }) ?_).1 (.inl ?_)).1 ?_⟩, ⟨_, ((c (fun q => { q with depth := 64 }) ?_).1 (.inr ?_)).2 ?_⟩,
    ⟨_, (c (fun q => { q with depth := 63 }) ?_).2 ?_ ?_⟩,
    ⟨_, (a 0 1 ?_ ?_ ?_).1 (fun bs hb => by rw [dr 0 1 (by decide +kernel) bs hb]; decide +kernel)⟩,
    ⟨_, ((a 1 0 ?_ ?_ ?_).2 (slateBytes 1 0) ?_ ?_).1 ?_⟩,
    ⟨_, ((a 0 0 ?_ ?_ ?_).2 (slateBytes 0 0) ?_ ?_).2 ?_ ?_ ⟨0, { checked := true }, [], ?_, ?_, rfl, ?_⟩ ?_ ?_ ?_⟩⟩ <;> decide +kernel

/-- No such slate; one with a crew that runs; one that is done; one without a deadline, and one that is late and asks to be raised. -/
theorem witness_SlatesEnd (h : Claims.SlatesEnd) :
    let s (x : Tbl Slate) : State := ev { unit := 7 } fun s => { s with slates := x }
    let done : Slate := { checked := true, ncrews := 1, placed := 1, ended := 1 }
    Goes .slateRetire (s []) ∧ Goes .slateRetire (s [(7, { done with ended := 0 })]) ∧ Goes .slateRetire (s [(7, done)]) ∧ Goes .deadlineExpiry (s [(7, done)]) ∧
    Goes .deadlineExpiry (s [(7, { done with expiry := some 9, flags := 4 })]) := by
  let done : Slate := { checked := true, ncrews := 1, placed := 1, ended := 1 }
  have c (x : Tbl Slate) (y : Slate) := h (ev { unit := 7 } fun s => { s with slates := x }) y
  obtain ⟨_, g3, _⟩ := ((c [(7, done)] done).2 rfl).2.1 (by decide +kernel) (by unfold Tbl.Rising; decide +kernel)
  obtain ⟨_, _, g5, _⟩ := ((c [(7, { done with expiry := some 9, flags := 4 })] { done with expiry := some 9, flags := 4 }).2 rfl).2.2.2 9 rfl
  exact ⟨⟨_, (c [] done).1 rfl⟩, ⟨_, ((c [(7, { done with ended := 0 })] { done with ended := 0 }).2 rfl).1 (by decide +kernel)⟩, ⟨_, g3⟩,
    ⟨_, ((c [(7, done)] done).2 rfl).2.2.1 rfl⟩, ⟨_, g5⟩⟩

/-- A context on core 0 with queue 0, at the turn of die 0's dispatcher; its cluster stands in power state `w`, with a request latched or not. -/
def turn (w : Nat) (l : Bool) (x : Slate) (q : Queue → Queue) (t : Tbl Take) : State := ev { flag := true } fun s =>
  { ((s.updCtx 0 fun c => { c with resident := true, cores := [0], granted := [2] }).updPw 0 fun p => { p with w := w, latched := l }).updQueue 0
      fun y => q { y with ctx := some 0 } with slates := [(0, x)], nextSlate := 1, takes := t, nextTake := 1 }
def arbAfter (s : State) : Arbiter := ((s.atTurn.decide' s.inp.unit (!s.inp.flag)).getD (0, {})).2
/-- A crew of one warp. -/
def slate1 : Slate := { checked := true, state := 2, kernel := 0x10000, nlev := 2, lanesL := 1, sizes := [32, 1], doms := [0, 1], ncrews := 1, nregs := 16 }
def take1 : Take := { slate := 0, kind := 1, crew := { kind := .vector, ctx := 0, core := 0, n := 32, nregs := 16 } }
/-- The control thread of a member on a cluster. -/
def slate2 : Slate := { slate1 with nlev := 3, sizes := [32, 1, 1], doms := [0, 1, 2], ccent := some 0x10000 }
def take2 : Take := { slate := 0, kind := 1, crew := { kind := .control, ctx := 0, core := 320, n := 1, nregs := 16 } }
/-- A co-resident group of two crews, of the package. -/
def slate3 : Slate := { slate1 with nlev := 2, sizes := [32, 2], doms := [0, 1], lvf := [0, 1], ncrews := 2 }

def rdy : Queue → Queue := fun q => { q with ready := [0] }
def tks : Queue → Queue := fun q => { q with takes := [0] }
/-- A context on a core of each of two sleeping clusters, the second of which is asked to wake; the dispatcher takes the second core. -/
def twoCl (q : Queue → Queue) (t : Tbl Take) : State := ev { flag := true, val := 11 } fun s =>
  { (((s.updCtx 0 fun c => { c with resident := true, cores := [0, 10] }).updPw 0 fun p => { p with w := 2 }).updPw 1 fun p =>
      { p with w := 2, latched := true }).updQueue 0 fun y => q { y with ctx := some 0 } with
    slates := [(0, slate1)], nextSlate := 1, takes := t, nextTake := 1 }

/-- A crew and a take for a cluster that is asked to wake, taken before the lower-numbered one that sleeps, for one that sleeps and for one that is
up; a take whose record cannot be read, and no winner. -/
theorem witness_Dispatches (h : Obligations.Dispatches) :
    let go (w : Nat) (l : Bool) : Prop := Goes .crewPlace (turn w l slate1 rdy [])
    let back (w : Nat) (l : Bool) (y : Take) : Prop := Goes .takeRestore (turn w l slate1 tks [(0, y)])
    Goes .crewPlace (twoCl rdy []) ∧ (go 2 false ∧ go 1 false) ∧ Goes .takeRestore (twoCl tks [(0, take1)]) ∧
    back 2 false take1 ∧ back 1 false take1 ∧ back 1 false { take1 with image := some [1] } ∧ go 2 true := by
  have c (s : State) (k : Nat) (h1 : s.Wins 0 0 (arbAfter s) (.crew 0)) (h2 : _) (h3 : _) (h4 : _) (h5 : _) (h6 : _) :=
    (h s 0 0 0 k (arbAfter s) slate1 take1 take1).2.1 h1 h2 h3 h4 h5 h6
  have d (s : State) (k : Nat) (y : Take) (h1 : s.Wins 0 0 (arbAfter s) (.take 0)) (h2 : _) (h3 : _) (h4 : _) (h5 : Tbl.Rising _) :=
    (h s 0 0 0 k (arbAfter s) slate1 y y).2.2.1 h1 h2 h3 h4 h5
  obtain ⟨_, _, g3, _⟩ := (c (turn 1 false slate1 rdy []) 0 (by unfold State.Wins; decide +kernel) (by decide +kernel) (by decide +kernel) (by decide +kernel)
    (by decide +kernel) (by decide +kernel)).2.2 (by decide +kernel)
  obtain ⟨_, _, g6, _⟩ := ((d (turn 1 false slate1 tks [(0, take1)]) 0 take1 (by unfold State.Wins; decide +kernel) (by decide +kernel) (by decide +kernel)
    (by decide +kernel) (by unfold Tbl.Rising; decide +kernel)).2 (by decide +kernel) (by decide +kernel)).2.2 (by decide +kernel)
  obtain ⟨_, g7, _⟩ := (d (turn 1 false slate1 tks [(0, { take1 with image := some [1] })]) 0 { take1 with image := some [1] }
    (by unfold State.Wins; decide +kernel) (by decide +kernel) (by decide +kernel) (by decide +kernel) (by unfold Tbl.Rising; decide +kernel)).1
    (by decide +kernel)
  have g8 := (h (turn 2 true slate1 rdy []) 0 0 0 0 {} slate1 take1 take1).1 (by decide +kernel) .crewPlace (.inl rfl)
  refine ⟨⟨_, (c (twoCl rdy []) 10 ?_ ?_ ?_ ?_ ?_ ?_).1 ?_ ?_⟩, ⟨⟨_, (c (turn 2 false slate1 rdy []) 0 ?_ ?_ ?_ ?_ ?_ ?_).2.1 ?_ ?_⟩, ⟨_, g3⟩⟩,
    ⟨_, ((d (twoCl tks [(0, take1)]) 10 take1 ?_ ?_ ?_ ?_ ?_).2 ?_ ?_).1 ?_ ?_⟩,
    ⟨_, ((d (turn 2 false slate1 tks [(0, take1)]) 0 take1 ?_ ?_ ?_ ?_ ?_).2 ?_ ?_).2.1 ?_ ?_⟩, ⟨_, g6⟩, ⟨_, g7⟩, ⟨_, g8⟩⟩ <;>
    (try unfold State.Wins) <;> (try unfold Tbl.Rising) <;> decide +kernel

theorem of_snd {α β : Type} {o : Option (α × β)} {b : β} (h : o.map (·.2) = some b) : ∃ v, o = some (v, b) := by
  obtain ⟨⟨v, c⟩, rfl, rfl⟩ := Option.map_eq_some_iff.1 h
  exact ⟨v, rfl⟩

/-- A control thread and a group, in the same three cases: where the cluster is asked already they do not start. -/
theorem witness_DispatchesMore (h : Obligations.Dispatches) :
    let ctl (w : Nat) (l : Bool) : State := turn w l slate2 tks [(0, take2)]
    let grp (w : Nat) (l : Bool) : State := turn w l slate3 rdy []
    ((ctl 2 true).atTurn.starts 0 0 = false ∧ Goes .controlThreadRestore (ctl 2 false) ∧ Goes .controlThreadRestore (ctl 1 false)) ∧
    (grp 2 true).atTurn.starts 0 0 = false ∧ Goes .groupPlace (grp 2 false) ∧ Goes .groupPlace (grp 1 false) := by
  have c (w : Nat) (l : Bool) (h1 : _) (h2 : _) (h3 : _) (h4 : _) (h5 : _) (h6 : _) (h7 : Tbl.Rising _) :=
    (h (turn w l slate2 tks [(0, take2)]) 0 0 0 0 (arbAfter (turn w l slate2 tks [(0, take2)])) slate2 take2 take2).2.2.2.1 0 h1 h2 h3 h4 h5 h6 h7
  let P (w : Nat) (l : Bool) : Option (State × List Nat) :=
    (turn w l slate3 rdy []).atTurn.placeAll 0 ((turn w l slate3 rdy []).atTurn.among slate3.chosen ((turn w l slate3 rdy []).atTurn.openCores 0))
      ((List.range (min (slate3.groupSize.getD 1) (slate3.ncrews - slate3.placed))).map (slate3.placed + ·))
  have d (w : Nat) (l : Bool) (h1 : _) (h2 : _) (h3 : _) (h4 : _) (h5 : _) (h6 : _) (h7 : _) :=
    (h (turn w l slate3 rdy []) 0 0 0 0 (arbAfter (turn w l slate3 rdy [])) slate3 take1 take1).2.2.2.2.1 h1 h2 h3 h4 h5 h6 h7
  obtain ⟨v, e⟩ := of_snd (o := P 1 false) (b := [0, 0]) (by decide +kernel)
  obtain ⟨v2, e2⟩ := of_snd (o := P 2 true) (b := [0, 0]) (by decide +kernel)
  obtain ⟨v3, e3⟩ := of_snd (o := P 2 false) (b := [0, 0]) (by decide +kernel)
  obtain ⟨_, _, g3, _⟩ := (c 1 false (by decide +kernel) (by decide +kernel) (by decide +kernel) (by decide +kernel) (by decide +kernel)
    (by decide +kernel) (by unfold Tbl.Rising; decide +kernel)).2.2 (by decide +kernel) (by decide +kernel)
  obtain ⟨_, g6, _⟩ := (d 1 false (by decide +kernel) (by decide +kernel) (by decide +kernel) (by decide +kernel) (by decide +kernel)
    (by decide +kernel) (by decide +kernel) v [0, 0] e).2.2 (by decide +kernel) (by decide +kernel)
  refine ⟨⟨(c 2 true ?_ ?_ ?_ ?_ ?_ ?_ ?_).1 ?_ ?_, ⟨_, (c 2 false ?_ ?_ ?_ ?_ ?_ ?_ ?_).2.1 ?_ ?_ ?_⟩, ⟨_, g3⟩⟩,
    (d 2 true ?_ ?_ ?_ ?_ ?_ ?_ ?_ v2 [0, 0] e2).1 ?_ ?_, ⟨_, (d 2 false ?_ ?_ ?_ ?_ ?_ ?_ ?_ v3 [0, 0] e3).2.1 ?_ ?_ ?_⟩, ⟨_, g6⟩⟩ <;>
    (try unfold Tbl.Rising) <;> decide +kernel

/-- A queue without an item, and one with one; a winner that waits, and none. -/
theorem witness_DispatchTimes (h : Obligations.Dispatches) :
    Goes .quantumEnd (turn 0 false slate1 id []) ∧ Goes .ageTick (turn 0 false slate1 id []) ∧ Goes .ageTick (turn 0 false slate1 rdy []) ∧
    (turn 0 false slate1 rdy []).effPrio 0 ≤ 47 ∧ Goes .backfillTimeout (turn 0 false slate1 id []) ∧
    Goes .backfillTimeout (turn 0 false slate1 (fun q => { q with wonAt := some 3 }) []) := by
  have c (q : Queue → Queue) := (h (turn 0 false slate1 q []) 0 0 0 0 {} slate1 take1 take1).2.2.2.2.2
  have g := (c rdy).2.2.1 0 (.crew 0) slate1 (by decide +kernel) (by decide +kernel)
  exact ⟨⟨_, (c id).1⟩, ⟨_, (c id).2.1.1 (by decide +kernel)⟩, ⟨_, (c rdy).2.1.2 (by decide +kernel)⟩, by rw [g]; exact Nat.min_le_left _ _,
    ⟨_, (c id).2.2.2.1 (by decide +kernel)⟩, ⟨_, (c fun q => { q with wonAt := some 3 }).2.2.2.2 3 (by decide +kernel)⟩⟩

/-- A crew that does not spill, one at a take boundary, and one that is pre-empted; no core that leaves, and one whose time has come. -/
theorem witness_TakesSpill (h : Obligations.TakesSpill) :
    let cr : Crew := { kind := .vector, ctx := 0, core := 0, n := 32, nregs := 16 }
    let s (c : Crew) (l : Tbl Nat) : State := ev { sub := 0 } fun s => { s.updCtx 0 fun c => { c with leaving := l } with crews := [(0, c)] }
    Goes .takeSpillDone (s cr []) ∧ Goes .takeSpillDone (s { cr with takeCarry := some 5 } []) ∧ Goes .takeSpillDone (s { cr with spill2 := true } []) ∧
    Goes .coreReleaseTimeout (s cr []) ∧ Goes .coreReleaseTimeout (s cr [(0, 7)]) := by
  let cr : Crew := { kind := .vector, ctx := 0, core := 0, n := 32, nregs := 16 }
  have c (x : Crew) (l : Tbl Nat) := h (ev { sub := 0 } fun s => { s.updCtx 0 fun c => { c with leaving := l } with crews := [(0, x)] }) x
  obtain ⟨_, _, g2, _⟩ := (((c { cr with takeCarry := some 5 } []).1 rfl).2 rfl (by decide +kernel) (by unfold Tbl.Rising; decide +kernel) rfl).1 5 rfl
  obtain ⟨_, _, g3, _⟩ := (((c { cr with spill2 := true } []).1 rfl).2 rfl (by decide +kernel) (by unfold Tbl.Rising; decide +kernel) rfl).2 rfl rfl rfl
    (by decide +kernel)
  obtain ⟨_, g5, _⟩ := (c cr [(0, 7)]).2.2 7 (by decide +kernel) (by unfold Tbl.Rising; decide +kernel)
  exact ⟨⟨_, ((c cr []).1 rfl).1 (.inl ⟨rfl, rfl⟩)⟩, ⟨_, g2⟩, ⟨_, g3⟩, ⟨_, (c cr []).2.1 (by decide +kernel)⟩, ⟨_, g5⟩⟩

/-- A beat and a target on their way, before the ending tick and from it on; an absent context, one with nothing that is late and one in each
mode. -/
theorem witness_ControlLaw (h : Obligations.ControlLaw) :
    let s (f : Ctx → Ctx) : State := ev { unit := 1023 } fun s => s.updCtx 1023 f
    let mode (m : Nat) : State := s fun c => { c with resident := true, loop := { c.loop with mode := m } }
    (Goes .beatArrive (s fun c => { c with beatsOnWay := [(0, 9, 0)], resident := true, due := 0 }) ∧
     Goes .btgtArrive (s fun c => { c with btgtOnWay := [(9, 5, 0)] })) ∧
    (s fun c => { c with due := 5 }).ctx 1023 = ((s fun c => { c with due := 5 }).ctx 1023).overdueBeats 5 ∧
    Goes .controlPeriodEnd (s id) ∧ Goes .controlPeriodEnd (mode 0) ∧ Goes .controlPeriodEnd (mode 1) ∧ Goes .controlPeriodEnd (mode 2) := by
  have c (f : Ctx → Ctx) := h (ev { unit := 1023 } fun s => s.updCtx 1023 f)
  have p (m : Nat) := (c fun c => { c with resident := true, loop := { c.loop with mode := m } }).2.2.2.2 (by rfl)
  obtain ⟨_, g1, _⟩ := (c fun c => { c with beatsOnWay := [(0, 9, 0)], resident := true, due := 0 }).1 0 9 0 [] rfl
  obtain ⟨_, g2, _⟩ := (c fun c => { c with btgtOnWay := [(9, 5, 0)] }).2.1 9 5 0 [] rfl
  have g3 := (c fun c => { c with due := 5 }).2.2.2.1 (by intro b hb; cases hb) (by intro b hb; cases hb)
  obtain ⟨_, g4, _⟩ := p 0
  obtain ⟨_, g5, _⟩ := p 1
  obtain ⟨_, g6, _⟩ := p 2
  exact ⟨⟨⟨_, g1⟩, ⟨_, g2⟩⟩, g3.symm, ⟨_, (c id).2.2.1 rfl⟩, ⟨_, g4⟩, ⟨_, g5⟩, ⟨_, g6⟩⟩

theorem witness_Grants (h : Obligations.Grants) :
    let s (f : Ctx → Ctx) : State := ev {} fun s => s.updCtx 0 f
    Goes .allocatorEpoch (s fun c => { c with resident := true }) ∧ Goes .grantApply (s id) ∧ Goes .grantApply (s fun c => { c with pending := some [1, 1, 0, 1, 25] }) ∧
    Goes .grantApply (s fun c => { c with pending := some [1, 1, 0, 1, 25], resident := true }) := by
  have c (f : Ctx → Ctx) := h (ev {} fun s => s.updCtx 0 f) (List.pairwise_singleton _ _)
  obtain ⟨_, g1, _⟩ := (c fun c => { c with resident := true }).1
  obtain ⟨_, g4, _⟩ := ((c fun c => { c with pending := some [1, 1, 0, 1, 25], resident := true }).2.2 [1, 1, 0, 1, 25] rfl).2 rfl (by decide +kernel)
  exact ⟨⟨_, g1⟩, ⟨_, (c id).2.1 rfl⟩, ⟨_, ((c fun c => { c with pending := some [1, 1, 0, 1, 25] }).2.2 [1, 1, 0, 1, 25] rfl).1 (.inl rfl)⟩, ⟨_, g4⟩⟩

/-! ### Hypotheses that can be met: items, engines, passes and the matrix unit -/

/-- Copy command 5 of two items of 32 bytes, at an event. -/
def copies (c : CopyCmd) (inp : Input := {}) : State := ev { inp with unit := 5 } fun s => { mapped s with copies := [(5, c)] }
def copy2 : CopyCmd := { copy0 with item := 32, items := 2, started := true }

/-- An item that is under way, a check that fails, one that passes, no item under way, the first item and the last; an item that is performed, an
index that was poisoned and one beyond the bound. -/
theorem witness_CopyItems (h : Claims.CopyItems) :
    Goes .copyItemStart (copies { copy2 with running := true }) ∧ Goes .copyItemStart (copies { copy2 with gchk := true, gen := 1 }) ∧
    Goes .copyItemStart (copies copy2) ∧ Goes .copyItemComplete (copies copy2) ∧ Goes .copyItemComplete (copies { copy2 with running := true }) ∧
    Goes .copyItemComplete (copies { copy2 with running := true, stats := [0] }) ∧ ((copies copy2).perform copy2 0).2.1 = 0 ∧
    ((copies copy2).perform { copy2 with idxs := [(0, true)] } 0).2.1 = 5 ∧
    ((copies copy2).perform { copy2 with op := .gath, idxs := [(9, false)], aux1 := 9 } 0).2.1 = 0x12 := by
  have c (x : CopyCmd) := h (copies x) x
  have p (x : CopyCmd) := (h (copies copy2) x).2
  obtain ⟨_, _, g2, _⟩ := ((c { copy2 with gchk := true, gen := 1 }).1 rfl (by decide)).2.1 rfl rfl rfl |>.1 (by decide +kernel)
  obtain ⟨_, _, g5, _⟩ := ((c { copy2 with running := true }).1 rfl (by decide)).2.2.2 rfl (by decide +kernel)
  obtain ⟨_, _, g6, _⟩ := ((c { copy2 with running := true, stats := [0] }).1 rfl (by decide)).2.2.2 rfl (by decide +kernel)
  have g8 := (p { copy2 with idxs := [(0, true)] }).1 rfl
  have g9 := (p { copy2 with op := .gath, idxs := [(9, false)], aux1 := 9 }).2.1 rfl (by decide)
  refine ⟨⟨_, ((c { copy2 with running := true }).1 rfl (by decide)).1 (.inr (.inr rfl))⟩, ⟨_, g2⟩,
    ⟨_, (((c copy2).1 rfl (by decide)).2.1 rfl rfl rfl).2 ?_ ?_⟩, ⟨_, ((c copy2).1 rfl (by decide)).2.2.1 (.inl rfl)⟩, ⟨_, g5⟩, ⟨_, g6⟩,
    ((p copy2).2.2 0x10100 0x10200 32 [(leaf0, 0x10100, 32)] [(leaf0, 0x10200, 32)] rfl rfl rfl rfl ?_ ?_ ?_ ?_ rfl).1,
    congrArg (fun r => r.2.1) g8, congrArg (fun r => r.2.1) g9⟩ <;> decide +kernel

/-- Engine commands of context 0, waiting at cluster 0 in power state `w`: none, and one of each engine. -/
def engines (e w : Nat) (some : Bool) : State := ev { sub := e } fun s =>
  let s : State := { (s.updCtx 0 fun c => { c with resident := true, cores := [0] }) with copies := if some then [(5, { copy0 with item := 32, items := 2 })] else [] }
  (s.updPw 0 fun p => { p with w := w }).updCluster 0 fun k => if some then
    { k with copyQ := [5], dollyQ := [⟨0, 0, 0, .pass, false⟩], grammarQ := [⟨0, 0, 0, .save 0x10100, false⟩] } else k
def engWon (s : State) : Nat × Arbiter :=
  let cl := s.inp.unit
  let e := s.inp.sub
  let can (ctx : Nat) : Bool := if e = 0 then (s.waitingCopy cl ctx).isSome
    else if e = 1 then (s.cluster cl).dollyQ.any fun c => c.ctx == ctx && !c.started
    else (s.cluster cl).grammarQ.any fun c => c.ctx == ctx && !c.started
  (s.arbitrate (s.arb (if e = 0 then 16 + cl else if e = 1 then 64 + cl else 128 + cl)) can can).getD (0, {})

theorem witness_EngineStarts (h : Claims.EngineStarts) :
    Goes .engineCommandStart (engines 0 0 false) ∧ Goes .engineCommandStart (engines 1 2 true) ∧ Goes .engineCommandStart (engines 0 1 true) ∧
    Goes .engineCommandStart (engines 1 1 true) ∧ Goes .engineCommandStart (engines 2 0 true) := by
  have c (e w : Nat) (b : Bool) := h (engines e w b) 0 (engWon (engines e w b)).2
  obtain ⟨_, g3, _⟩ := (c 0 1 true).2.2 (by decide +kernel) (by decide +kernel) (by decide +kernel)
  obtain ⟨_, g4, _⟩ := (c 1 1 true).2.2 (by decide +kernel) (by decide +kernel) (by decide +kernel)
  obtain ⟨_, g5, _⟩ := (c 2 0 true).2.2 (by decide +kernel) (by decide +kernel) (by decide +kernel)
  exact ⟨⟨_, (c 0 0 false).1 (.inr (by decide +kernel))⟩, ⟨_, (c 1 2 true).2.1 (by decide +kernel) (by decide +kernel) (by decide +kernel)⟩, ⟨_, g3⟩,
    ⟨_, g4⟩, ⟨_, g5⟩⟩

/-- A reduction of two members, this one first, the other of another package: before and after the peer's item. -/
def coll : CopyCmd := { copy0 with op := .coll, cop := 5, len := 64, started := true, members := [(0, 0), (9, 0)], items := 1 }
def mover : CopyCmd := { coll with cop := 1, root := 0 }
/-- The member of context 1 of this package has ended its item with a fault of its own. -/
def here1 : State :=
  let mine : CopyCmd := { coll with members := [(0, 0), (0, 1)], round := [(1, 0)] }
  { copies mine { sub := 1 } with copies := [(5, mine), (6, { mine with ctx := 1, rank := 1, round := [(0, 0)], peer := [(0, 7)] })] }

/-- An item that waits; a member that stops, an item that fails on the way, one that is well and one that only moves; a peer of this package. -/
theorem witness_CollectiveSteps (h : Claims.CollectiveSteps) :
    let at' (c : CopyCmd) (v : Nat) (f : Bool := true) : State := copies c { sub := 1, val := v, flag := f }
    let early : State := { at' { coll with seq := 1 } 0 with copies := [(4, { coll with seq := 0 }), (5, { coll with seq := 1 })] }
    (Goes .collectiveItemDone early ∧ Goes .collectiveItemDone (at' { coll with stop := some 3 } 0)) ∧ Goes .collectiveItemDone (at' coll 10) ∧
    Goes .collectiveItemDone (at' coll 0) ∧ Goes .collectiveItemDone (at' mover 0) ∧ Goes .collectiveItemDone here1 := by
  have c (s : State) (x : CopyCmd) := h s x
  let a (x : CopyCmd) (v : Nat) (f : Bool) : State := copies x { sub := 1, val := v, flag := f }
  let early : State := { a { coll with seq := 1 } 0 true with copies := [(4, { coll with seq := 0 }), (5, { coll with seq := 1 })] }
  have item (s : State) (x : CopyCmd) (h1 : s.copies.find s.inp.unit = some x) (h2 : x.op = .coll) (h3 : x.done = false) := (h s x h1 h2 h3).1
  have g0 := (item early { coll with seq := 1 } (by decide +kernel) rfl rfl (by decide) (by decide) rfl).1 (by decide +kernel)
  obtain ⟨_, _, g1, _⟩ := ((item (a { coll with stop := some 3 } 0 true) _ rfl rfl rfl (by decide) (by decide) rfl).2.1 (by decide +kernel)
    (by decide +kernel)).1 3 (by decide +kernel) (by decide)
  obtain ⟨_, _, g2, _⟩ := ((item (a coll 10 true) _ rfl rfl rfl (by decide) (by decide) rfl).2.1 (by decide +kernel) (by decide +kernel)).2.2.1
    (by decide +kernel) (by decide +kernel) (by decide) (by decide)
  obtain ⟨_, _, g3, _⟩ := ((item (a coll 0 true) _ rfl rfl rfl (by decide) (by decide) rfl).2.1 (by decide +kernel) (by decide +kernel)).2.2.2
    (by decide +kernel) (by decide +kernel) rfl
  obtain ⟨_, _, g4, _⟩ := ((item (a mover 0 true) _ rfl rfl rfl (by decide) (by decide) rfl).2.1 (by decide +kernel) (by decide +kernel)).2.2.2
    (by decide +kernel) (by decide +kernel) rfl
  obtain ⟨_, _, g5, _⟩ := (item here1 { coll with members := [(0, 0), (0, 1)], round := [(1, 0)] } rfl rfl rfl (by decide) (by decide) rfl).2.2
    (by decide +kernel) (by decide +kernel) 6 { coll with members := [(0, 0), (0, 1)], ctx := 1, rank := 1, round := [(0, 0)], peer := [(0, 7)] } 7
    (by decide +kernel) rfl (by decide)
  exact ⟨⟨⟨_, g0⟩, ⟨_, g1⟩⟩, ⟨_, g2⟩, ⟨_, g3⟩, ⟨_, g4⟩, ⟨_, g5⟩⟩

/-- A commit that waits for a page that migrates, one that goes well and one that fails. -/
theorem witness_CollectiveCommits (h : Claims.CollectiveSteps) :
    let full : CopyCmd := { coll with peer := [(1, 0)] }
    let at' (f : Bool) : State := copies full { sub := 1, flag := f }
    Goes .collectiveCommit { at' true with migrating := [1] } ∧ Goes .collectiveCommit (at' true) ∧ Goes .collectiveCommit (at' false) := by
  let full : CopyCmd := { coll with peer := [(1, 0)] }
  have c (f : Bool) := (h (copies full { sub := 1, flag := f }) full rfl rfl rfl).2 (by decide +kernel) (by decide +kernel)
    (by decide +kernel) (by cases f <;> decide +kernel)
  have g0 := ((h { copies full { sub := 1, flag := true } with migrating := [1] } full rfl rfl rfl).2 (by decide +kernel) (by decide +kernel)
    (by decide +kernel) (by decide +kernel)).1 (by decide +kernel)
  obtain ⟨_, _, g1, _⟩ := (c true).2.1 (by decide +kernel) rfl
  obtain ⟨_, _, g2, _⟩ := (c false).2.2 (by decide +kernel) rfl (by decide)
  exact ⟨⟨_, g0⟩, ⟨_, g1⟩, ⟨_, g2⟩⟩

/-- A slot command on its way at cluster 0: the slot at the root state, or one whose binding is stale. -/
def performs (w : GWork) (st : Bool) (g : GSlot) : State :=
  { (slotted (.gpStep 4 8 12) [] [(0, g)]).updCluster 0 fun k => { k with grammarQ := [⟨0, 0, 0, w, st⟩] } with inp := {} }

/-- The first line of the grammar is owned by item 7. -/
def ownedLines (s : State) : State := { s with mem := { s.mem with dir := [(514, { owners := [7] })] } }

theorem maskOk {r : GRes (List Byte)} {v : List Byte} (h : (match r with | .ok b _ => b == v | _ => false) = true) : ∃ l, r = .ok v l := by
  cases r with
  | ok b l => exact ⟨l, by rw [eq_of_beq h]⟩
  | bad _ _ => exact absurd h Bool.false_ne_true
  | held _ _ _ => exact absurd h Bool.false_ne_true
theorem maskBad {r : GRes (List Byte)} {n : Nat} (h : (match r with | .bad m _ => m == n | _ => false) = true) : ∃ l, r = .bad n l := by
  cases r with
  | ok _ _ => exact absurd h Bool.false_ne_true
  | bad m l => exact ⟨l, by rw [eq_of_beq h]⟩
  | held _ _ _ => exact absurd h Bool.false_ne_true
theorem maskHeld {r : GRes (List Byte)} (h : (match r with | .held .. => true | _ => false) = true) : ∃ a b c, r = .held a b c := by
  cases r with
  | ok _ _ => exact absurd h Bool.false_ne_true
  | bad _ _ => exact absurd h Bool.false_ne_true
  | held a b c => exact ⟨a, b, c, rfl⟩

/-- A command that has not started, one of each kind, a mask of a grammar that is not sound, and one whose table an item owns. -/
theorem witness_GrammarPerforms (h : Claims.GrammarPerforms) :
    let m : GWork := .mask 0x10400 0x10404
    let owned : State := ownedLines (performs m true slot0)
    Goes .grammarSlotPerform (performs (.save 0x10100) false slot0) ∧ Goes .grammarSlotPerform (performs (.save 0x10100) true slot0) ∧
    Goes .grammarSlotPerform (performs m true { slot0 with state := gACCEPTED }) ∧ Goes .grammarSlotPerform (performs m true slot0) ∧
    Goes .grammarSlotPerform owned := by
  let m : GWork := .mask 0x10400 0x10404
  have c (s : State) (w : GWork) (g : GSlot) (hi : _) (hq : _) := h s 0 ⟨0, 0, 0, w, true⟩ g hi hq
  have run (s : State) (w : GWork) (g : GSlot) (hi : _) (hq : _) (h1 : _) (h2 : _) (h3 : _) (h4 : _) (h5 : _) :=
    (c s w g hi hq).2 rfl h1 h2 h3 h4 h5
  obtain ⟨_, _, g2, _⟩ := (run (performs (.save 0x10100) true slot0) (.save 0x10100) slot0 rfl rfl rfl rfl (by intro d hd; cases hd) rfl rfl).2 _ rfl
  obtain ⟨_, e3⟩ := maskOk (r := (performs m true { slot0 with state := gACCEPTED }).gMask { slot0 with state := gACCEPTED } 1)
    (v := List.replicate 4 0) (by decide +kernel)
  obtain ⟨_, e4⟩ := maskBad (r := (performs m true slot0).gMask slot0 1) (n := gBADGRAMMAR) (by decide +kernel)
  obtain ⟨_, _, _, e5⟩ := maskHeld (r := (ownedLines (performs m true slot0)).gMask slot0 1) (by decide +kernel)
  obtain ⟨_, g3, _⟩ := ((run (performs m true { slot0 with state := gACCEPTED }) m { slot0 with state := gACCEPTED } rfl rfl rfl rfl
    (by intro d hd; cases hd) rfl rfl).1 0x10400 0x10404 rfl).1 _ _ e3
  obtain ⟨_, g4, _⟩ := ((run (performs m true slot0) m slot0 rfl rfl rfl rfl (by intro d hd; cases hd) rfl rfl).1 0x10400 0x10404 rfl).2.1 _ _ e4
  have g5 := ((run (ownedLines (performs m true slot0)) m slot0 rfl rfl rfl rfl (by intro d hd; cases hd) rfl rfl).1 0x10400 0x10404 rfl).2.2 _ _ _ e5
  exact ⟨⟨_, (h (performs (.save 0x10100) false slot0) 0 ⟨0, 0, 0, .save 0x10100, false⟩ slot0 rfl rfl).1 (.inl rfl)⟩, ⟨_, g2⟩, ⟨_, g3⟩, ⟨_, g4⟩,
    ⟨_, g5⟩⟩

/-- Binding 3 of cluster 0, of a context that holds core 0 or no core, and the queue of its dolly. -/
def bound3 (b : Binding) (q : List DollyCmd) (cores : List Nat := [0]) : State := ev { sub := 3 } fun s =>
  { ((mapped s).updCtx 0 fun c => { c with resident := true, cores := cores }).updCluster 0 fun k => { k with dollyQ := q } with bindings := [(3, b)] }
def queued3 : Binding := { bind4 with ctx := 0, queued := [(1, 0, 0)] }
def running3 : Binding := { bind4 with ctx := 0, pass := 1, running := some (1, 0, 0), cursor := 0 }

/-- No pass that can start and one, no core and one, a pass that goes on and one that ends, no wake and the last of one; and all of it without
power. -/
theorem witness_PassSteps (h : Claims.PassSteps) :
    Goes .passStart (bound3 bind4 []) ∧ Goes .passStart (bound3 queued3 [⟨0, 3, 0, .pass, true⟩]) ∧ Goes .blockPass (bound3 running3 [] []) ∧
    Goes .blockPass (bound3 running3 []) ∧ Goes .passEnd (bound3 running3 []) ∧ Goes .passEnd (bound3 { running3 with cursor := 9 } []) ∧
    Goes .wakeApply (bound3 bind4 []) ∧ Goes .wakeApply (bound3 bind4 [⟨0, 3, 0, .wake [255], true⟩]) := by
  have c (b : Binding) (q : List DollyCmd) (l : List Nat) (k : Nat) := h (bound3 b q l) b k
  have at3 (b : Binding) (l : List Nat) := (c b [] l 3).2.2.2.1 (show 3 < 4 by decide) rfl
  obtain ⟨_, _, g2, _⟩ := (c queued3 [⟨0, 3, 0, .pass, true⟩] [0] 3).2.2.1 _ _ (by decide +kernel) rfl rfl
  obtain ⟨_, _, g4, _⟩ := (at3 running3 [0]).2.1 (by decide +kernel) (by decide +kernel) (by decide) (by decide +kernel)
  obtain ⟨_, _, g6, _⟩ := (at3 { running3 with cursor := 9 } [0]).2.2.2 (by decide +kernel) (by decide +kernel)
  obtain ⟨_, g8, _⟩ := (c bind4 [⟨0, 3, 0, .wake [255], true⟩] [0] 3).2.2.2.2.2 0 _ 255 [] (by decide +kernel) rfl rfl rfl (by decide)
  exact ⟨⟨_, (c bind4 [] [0] 3).2.1 (by decide +kernel)⟩, ⟨_, g2⟩, ⟨_, (at3 running3 []).1 (.inl (by decide +kernel))⟩, ⟨_, g4⟩,
    ⟨_, (at3 running3 [0]).2.2.1 (.inl (by decide +kernel))⟩, ⟨_, g6⟩, ⟨_, (c bind4 [] [0] 3).2.2.2.2.1 (by decide +kernel)⟩, ⟨_, g8⟩⟩

theorem witness_PassStepsOff (h : Claims.PassSteps) :
    let s : State := { bound3 running3 [] with power := { ({} : PowerSt) with tripped := true } }
    Goes .passStart s ∧ Goes .wakeApply s ∧ Goes .blockPass s ∧ Goes .passEnd s := by
  have c := h { bound3 running3 [] with power := { ({} : PowerSt) with tripped := true } } running3 0
  have p := c.2.2.2.1 (by decide) rfl
  exact ⟨⟨_, (c.1 (.inl rfl) (by decide)).1⟩, ⟨_, (c.1 (.inl rfl) (by decide)).2⟩, ⟨_, p.1 (.inr (.inl rfl))⟩, ⟨_, p.2.2.1 (.inr (.inl rfl))⟩⟩

/-- The matrix unit of cluster 159 at an event. -/
def mxEv (f : MatrixSt → MatrixSt) (x : List RowXfer := []) : State := ev { unit := 159 } fun s => (s.updMx 159 f).updCluster 159 fun k => { k with xfers := x }
def zero7 (st : Bool) (miss : List (Nat × Nat) := []) : MItem := { op := .mzero, acc := 7, started := st, missing := miss }
def shared15 (w : SharedWhat) : SharedWrite := ⟨158, 15, w⟩

theorem witness_MatrixSteps (h : Obligations.MatrixSteps) :
    let q (i : MItem) : State := mxEv fun m => { m with queue := [i] }
    let w (x : SharedWhat) : State := mxEv fun m => { m with shared := [shared15 x] }
    Goes .matrixExecStart (mxEv id) ∧ Goes .matrixExecStart (q (zero7 true)) ∧ Goes .matrixExecStart (q (zero7 false)) ∧ Goes .matrixExecDone (mxEv id) ∧
    Goes .scaleFetchDone (mxEv id) ∧ Goes .matrixExecDone (q (zero7 false)) ∧ Goes .matrixExecDone (q (zero7 true)) ∧ Goes .scaleFetchDone (q (zero7 true)) ∧
    Goes .scaleFetchDone (q (zero7 true [(3, 64)])) ∧ Goes .sharedTileWriteDone (mxEv id) ∧ Goes .sharedTileWriteDone (w (.bytes 16383 [1])) ∧
    Goes .sharedTileWriteDone (w (.shape 0 2)) := by
  have c (i : MItem) := h (mxEv fun m => { m with queue := [i] }) i []
  have n := h (mxEv id) (zero7 true) []
  have w (x : SharedWhat) := (h (mxEv fun m => { m with shared := [shared15 x] }) (zero7 true) []).2.2.2.2.2 (shared15 x) [] rfl
  obtain ⟨_, _, g3, _⟩ := ((c (zero7 false)).2.1 (by decide +kernel)).2 rfl (by decide +kernel)
  obtain ⟨_, g7, _⟩ := ((c (zero7 true)).2.2.2.1 rfl).2.1 rfl rfl
  obtain ⟨_, _, g9, _⟩ := ((c (zero7 true [(3, 64)])).2.2.2.1 rfl).2.2.2 3 64 [] rfl
  obtain ⟨_, g11, _⟩ := w (.bytes 16383 [1])
  obtain ⟨_, g12, _⟩ := w (.shape 0 2)
  exact ⟨⟨_, n.1 (by decide +kernel)⟩, ⟨_, ((c (zero7 true)).2.1 (by decide +kernel)).1 (.inl rfl)⟩, ⟨_, g3⟩, ⟨_, (n.2.2.1 rfl).1⟩, ⟨_, (n.2.2.1 rfl).2⟩,
    ⟨_, ((c (zero7 false)).2.2.2.1 rfl).1 (.inl rfl)⟩, ⟨_, g7⟩, ⟨_, ((c (zero7 true)).2.2.2.1 rfl).2.2.1 rfl⟩, ⟨_, g9⟩, ⟨_, n.2.2.2.2.1 rfl⟩, ⟨_, g11⟩, ⟨_, g12⟩⟩

/-! ### Hypotheses that can be met: the bus, cores and the memory system -/

/-- A stack's clusters at an event, with a transfer, rows and a bank. -/
def bus (unit bank : Nat) (x : List RowXfer) (rows : List RowEnt) : State := ev { unit := unit, sub := bank } fun s =>
  { s.updCluster 0 fun c => { c with xfers := x, rows := rows } with now := 100000 }

theorem notOpen {o : Option RowEnt} (h : o.all (fun r => r.st != .opened) = true) : ¬∃ r, o = some r ∧ r.st = .opened := by
  rintro ⟨r, rfl, e⟩
  simp [e] at h

/-- No transfer, row or open row, and one; a refresh that an open row defers, one that runs, and none while the stack refreshes itself. -/
theorem witness_BusEvents (h : Claims.BusEvents) :
    (Goes .rowTransferEnd (bus 0 0 [] []) ∧ Goes .rowTransferEnd (bus 0 0 [⟨0, 100500, some 15, 16383, [1]⟩] [])) ∧
    (Goes .activateToFirstConsume (bus 0 0 [] []) ∧ Goes .activateToFirstConsume (bus 0 0 [] [row0 .opened]) ∧ Goes .rowForcedClose (bus 0 0 [] [])) ∧
    (Goes .rowForcedClose (bus 0 0 [] [row0 .closing]) ∧ Goes .rowForcedClose (bus 0 0 [] [row0 .opened]) ∧
      Goes .prechargeEnd (bus 0 0 [] [row0 .closing])) ∧
    Goes .bankRefresh (bus 0 0 [] [row0 .opened]) ∧ Goes .bankRefresh (bus 0 0 [] [row0 .closing]) ∧
    Goes .bankRefresh { bus 0 0 [] [] with power := { ({} : PowerSt) with selfRefresh := true } } := by
  have c (x : List RowXfer) (rows : List RowEnt) (r : RowEnt) := h (bus 0 0 x rows) r
  have refresh (r : RowEnt) := (c [] [r] r).2.2.2.2.2.2 rfl
  obtain ⟨_, g2, _⟩ := (c [⟨0, 100500, some 15, 16383, [1]⟩] [] (row0 .opened)).2.1 _ _ rfl
  obtain ⟨_, g4, _⟩ := ((c [] [row0 .opened] (row0 .opened)).2.2.2.1 rfl).1
  obtain ⟨_, _, g7, _⟩ := ((c [] [row0 .opened] (row0 .opened)).2.2.2.1 rfl).2.2 rfl
  obtain ⟨_, g8, _⟩ := (c [] [row0 .closing] (row0 .closing)).2.2.2.2.1
  exact ⟨⟨⟨_, (c [] [] (row0 .opened)).1 rfl⟩, ⟨_, g2⟩⟩, ⟨⟨_, ((c [] [] (row0 .opened)).2.2.1 rfl).1⟩, ⟨_, g4⟩,
      ⟨_, ((c [] [] (row0 .opened)).2.2.1 rfl).2⟩⟩, ⟨⟨_, ((c [] [row0 .closing] (row0 .closing)).2.2.2.1 rfl).2.1 (by decide)⟩, ⟨_, g7⟩, ⟨_, g8⟩⟩,
    ⟨_, (refresh (row0 .opened)).1 (.inl ⟨row0 .opened, by decide +kernel, rfl⟩)⟩,
    ⟨_, (refresh (row0 .closing)).2 (notOpen (by decide +kernel)) (notOpen (by decide +kernel))⟩,
    ⟨_, (h { bus 0 0 [] [] with power := { ({} : PowerSt) with selfRefresh := true } } (row0 .opened)).2.2.2.2.2.1 rfl⟩⟩

/-- A crew of one warp that has issued `n` instructions, with another side, at an event. -/
def warpD (n : Nat) (d : List Side) : Warp := { run := side 0x10000 1, div := d, issued := n, lanes := [] }
def crewD (n : Nat) (d : List Side) : Crew := { kind := .vector, ctx := 0, core := 0, n := 32, nregs := 16, warps := [(0, warpD n d)] }
def diverged (n : Nat) (d : List Side) : State := ev {} fun s => { s with crews := [(0, crewD n d)] }

theorem witness_CoreEvents (h : Obligations.CoreEvents) :
    Goes .binIssue (diverged 0 []) ∧ Goes .divergenceYield (diverged 64 [side 0x10100 2]) ∧ Goes .divergenceYield (diverged 63 [side 0x10100 2]) ∧
    Goes .divergenceYield (ev {}) ∧ Goes .divergenceYield { diverged 0 [] with inp := { sub := 1 } } := by
  have c (n : Nat) (d : List Side) := h (diverged n d) (crewD n d) (warpD n d)
  have at0 (n : Nat) (d : List Side) := (c n d).2.2.2 rfl rfl
  obtain ⟨_, g1, _⟩ := (c 0 []).1 (List.pairwise_singleton _ _) (by intro x hx; rw [List.mem_singleton.mp hx]; exact List.Pairwise.nil)
  obtain ⟨_, g3, _⟩ := (at0 63 [side 0x10100 2]).2 (.inl (by decide))
  obtain ⟨_, g5, _⟩ := (h { diverged 0 [] with inp := { sub := 1 } } (crewD 0 []) (warpD 0 [])).2.2.1 rfl rfl
  exact ⟨⟨_, g1⟩, ⟨_, (at0 64 [side 0x10100 2]).1 (by decide) (by decide)⟩, ⟨_, g3⟩, ⟨_, (h (ev {}) (crewD 0 []) (warpD 0 [])).2.1 rfl⟩, ⟨_, g5⟩⟩

/-- A walk of core 0 at page `p`, in a mapped context, at an event; the first entry of the last table. -/
def walks (p : Nat) (pte : Nat := 0x1F) : State := ev { flag := true } fun s =>
  let t := (mapped s).updMem fun m => { m with walks := [⟨0, p, 0⟩], dram := m.dram.write 0x3000 (bytesLE 2 pte) }
  { t with ats := true, pri := true }

/-- 65 walks of a die, of which the last waits for a walker. -/
def queued64 : State := ev { sub := 64 } fun s => s.updMem fun m => { m with walks := (List.range 65).map fun p => ⟨0, p, 0⟩ }

/-- No walk; one that no walker has taken up; a leaf of device memory; a page with no translation, the last of the space; a host page under PRI;
responses. -/
theorem witness_PageWalks (h : Obligations.PageWalks) :
    (Goes .pageWalkDone (ev {}) ∧ Goes .pageWalkDone queued64) ∧ (∃ t, exec .pageWalkDone (walks 0x3FFF) = .next t ∧ t.tlbHit 0 0 0x3FFF0000 = some leaf0) ∧
    (∃ t, exec .pageWalkDone (walks (2 ^ 41 - 1)) = .next t ∧ t.mem.walks = []) ∧
    (∃ t, exec .pageWalkDone (walks 0x3FFF 0x9F) = .next t ∧ t.priWaits = [(0, 0x3FFF, 0)]) ∧
    Goes .priResponse (ev {}) ∧ Goes .priResponse (ev {} fun s => { s with priWaits := [(0, 1, 0)] }) := by
  have n := h (ev {}) ⟨0, 1, 0⟩
  have g0 := (h queued64 ⟨0, 64, 0⟩).2.1 (by decide +kernel) (by decide +kernel)
  obtain ⟨_, g2, _, _, c2⟩ := (h (walks 0x3FFF) ⟨0, 0x3FFF, 0⟩).2.2.1 rfl (by decide +kernel) (by decide)
  obtain ⟨_, g3, c3, _, d3⟩ := (h (walks (2 ^ 41 - 1)) ⟨0, 2 ^ 41 - 1, 0⟩).2.2.1 rfl (by decide +kernel) (by decide)
  have := (d3 rfl).1 (by decide +kernel)
  obtain ⟨_, g4, _, _, c4⟩ := (h (walks 0x3FFF 0x9F) ⟨0, 0x3FFF, 0⟩).2.2.1 rfl (by decide +kernel) (by decide)
  obtain ⟨_, g5, _⟩ := (h (ev {} fun s => { s with priWaits := [(0, 1, 0)] }) ⟨0, 1, 0⟩).2.2.2.2.2 rfl
  exact ⟨⟨⟨_, n.1 rfl⟩, ⟨_, g0⟩⟩, ⟨_, g2, ((c2 rfl).2.1 leaf0 (by decide +kernel) (.inl rfl) rfl).1⟩, ⟨_, g3, c3.trans (by decide +kernel)⟩,
    ⟨_, g4, ((c4 rfl).2.2 { leaf0 with host := true } (by decide +kernel) rfl rfl rfl rfl rfl).1⟩, ⟨_, n.2.2.2.2.1 rfl⟩, ⟨_, g5⟩⟩

/-- A core's bank queue and write buffers, at an event. -/
def cored (inp : Input) (f : CoreSt → CoreSt) (o : List Nat := []) : State := ev inp fun s =>
  ({ s with crews := [(0, crewD 0 [])] }.updCore 0 f).updMem fun m => { m with dir := if o = [] then [] else [(512, { owners := o })] }
def wbuf0 : WBuf := ⟨0, 0, 0x10000, [1, 2], 3, loadTlb 0⟩

theorem refusal {α β : Type} (x : Except α β) (h : (match x with | .ok _ => false | .error _ => true) = true) : ∃ c, x = .error c := by
  cases x with
  | ok _ => cases h
  | error c => exact ⟨c, rfl⟩

/-- Bank 63 with no request and one; write buffer 3 with none, one that waits for an engine and one that drains. -/
theorem witness_MemoryEvents (h : Claims.MemoryEvents) :
    Goes .scratchpadAccessDone (cored { sub := 63 } id) ∧ Goes .scratchpadAccessDone (cored { sub := 63 } fun c => { c with bankQ := [(63, 0, 0)] }) ∧
    Goes .writeBufferDrain (cored { sub := 3 } id) ∧ Goes .writeBufferDrain (cored { sub := 3 } (fun c => { c with wbuf := [wbuf0] }) [7]) ∧
    Goes .writeBufferDrain (cored { sub := 3 } fun c => { c with wbuf := [wbuf0] }) := by
  obtain ⟨_, g2, _⟩ := (h (cored { sub := 63 } fun c => { c with bankQ := [(63, 0, 0)] })).2.1 _ rfl
  exact ⟨⟨_, (h (cored { sub := 63 } id)).1 rfl⟩, ⟨_, g2⟩, ⟨_, (h (cored { sub := 3 } id)).2.2.1 rfl⟩,
    ⟨_, ((h (cored { sub := 3 } (fun c => { c with wbuf := [wbuf0] }) [7])).2.2.2.1 wbuf0 rfl).1 (by decide +kernel)⟩,
    ⟨_, ((h (cored { sub := 3 } fun c => { c with wbuf := [wbuf0] })).2.2.2.1 wbuf0 rfl).2 (by decide +kernel)⟩⟩

/-- Host memory; the host's accesses that are refused and performed. -/
theorem witness_HostAccess (h : Claims.MemoryEvents) :
    Goes .hostPortAccess (ev { val := 1, list := [1] }) ∧ Goes .hostPortAccess (ev { val := 0, list := [1] }) ∧
    Goes .hostPortAccess (ev { val := 0, sub := 0x3FFFFFFF, list := [1] } mapped) := by
  obtain ⟨_, r⟩ := refusal ((ev { val := 0, list := [1] }).engRange 0 true 0 1) (by decide +kernel)
  exact ⟨⟨_, (h (ev { val := 1, list := [1] })).2.2.2.2.1 rfl⟩, ⟨_, ((h (ev { val := 0, list := [1] })).2.2.2.2.2.1 (by decide)).1 _ r⟩,
    ⟨_, ((h (ev { val := 0, sub := 0x3FFFFFFF, list := [1] } mapped)).2.2.2.2.2.1 (by decide)).2 [(leaf0, 0x3FFFFFFF, 1)] (by decide +kernel)
      (by decide +kernel) rfl⟩⟩

/-- A sector past the end of memory, and the last one: nothing wrong, corrected, not corrected; an L2 slice corrected, a scratchpad not. -/
theorem witness_PatrolScrub (h : Claims.MemoryEvents) :
    (Goes .patrolScrub (ev { unit := 0x480000000 }) ∧ Goes .patrolScrub (ev { unit := 0x47FFFFFFF }) ∧
      Goes .patrolScrub (ev { unit := 0x47FFFFFFF, sub := 1 }) ∧ Goes .patrolScrub (ev { unit := 0x47FFFFFFF, sub := 2 })) ∧
    Goes .patrolScrub (ev { unit := 1, sub := 3, val := 3 }) ∧ Goes .patrolScrub (ev { unit := 31, sub := 3, val := 5, aux := 9, flag := true }) := by
  have e (inp : Input) := (h (ev inp)).2.2.2.2.2.2
  obtain ⟨_, g3, _⟩ := ((e { unit := 0x47FFFFFFF, sub := 1 }).2.2 (by decide)).2.1 rfl
  obtain ⟨_, g4, _⟩ := ((e { unit := 0x47FFFFFFF, sub := 2 }).2.2 (by decide)).2.2 rfl
  exact ⟨⟨⟨_, (e { unit := 0x480000000 }).2.1 (by decide) (by decide)⟩, ⟨_, ((e { unit := 0x47FFFFFFF }).2.2 (by decide)).1 rfl (by decide)⟩, ⟨_, g3⟩,
      ⟨_, g4⟩⟩, ⟨_, ((e { unit := 1, sub := 3, val := 3 }).1 rfl (by decide) (by decide)).1 rfl⟩,
    ⟨_, ((e { unit := 31, sub := 3, val := 5, aux := 9, flag := true }).1 rfl (by decide) (by decide)).2 rfl rfl⟩⟩

/-- Page 0 of context 0 in 64 KiB, on a stack in heat band `band`, with migrations under way, at an event. -/
def small (band val : Nat) (m : List Migration) : State := ev { val := val } fun s =>
  let pages : List (Nat × List Byte) := [(0x1000, [0x01, 0x20]), (0x2000, [0x01, 0x30]), (0x3000, [0x01, 0x40]), (0x4000, [0x01, 0x50]), (0x5000, [0x1F])]
  let s := s.updMem fun q => { q with dram := pages.foldl (fun d x => d.write x.1 x.2) q.dram }
  { ((s.updCtx 0 fun c => { c with root := 0x1000 }).updStack 0 fun k => { k with band := band }) with migrations := m }

/-- A page of a cool stack, one of a warm stack, one whose copy is done; and a byte that moves. -/
theorem witness_Migrations (h : Claims.Migrations) :
    Goes .pageMigrationStart (small 0 0x900000000 []) ∧ Goes .pageMigrationStart (small 1 0x900000000 []) ∧
    Goes .pageMigrated (small 1 0 [⟨0, 0, 16, 0, 0x900000000⟩]) ∧ (Cells.move [(5, 1)] 5 4 1).get 4 = Cells.get [(5, 1)] 5 := by
  have c (band : Nat) (hb : _) := h.1 (small band 0x900000000 []) { leaf0 with lg := 16 } hb
  obtain ⟨_, g2, _⟩ := (c 1 (by decide +kernel)).2 (by decide +kernel) (by intro m hm; cases hm)
  obtain ⟨_, g3, _⟩ := h.2.1 (small 1 0 [⟨0, 0, 16, 0, 0x900000000⟩]) _ rfl
  exact ⟨⟨_, (c 0 (by decide +kernel)).1 (.inl (by decide +kernel))⟩, ⟨_, g2⟩, ⟨_, g3⟩, (h.2.2 [(5, 1)] 5 4 1 (by decide) (.inl (by decide))).2.1 0 (by decide)⟩

/-! ### Hypotheses that can be met: rules word for word, decoding and the step -/

theorem goesOf {o : Host.Outcome State Fault Refusal} (h : (match o with | .next _ => true | _ => false) = true) : ∃ t, o = .next t := by
  cases o with
  | next t => exact ⟨t, rfl⟩
  | fault r => cases h
  | refused r => cases h

/-- m0 of a crew, m15 of a crew, and d = 0. -/
theorem witness_Elects (h : Obligations.Elects) :
    Goes (.elect 1) (here (.elect 1)) ∧ Goes (.elect 15) (here (.elect 15)) ∧ Goes (.elect 0) (here (.elect 0)) := by
  have c (k : BitVec 4) := h k (here (.elect k)) (iss (here (.elect k)))
  obtain ⟨_, g1, _⟩ := (c 1).2.1 (runs (by decide +kernel))
  obtain ⟨_, g2, _⟩ := (c 15).2.1 (runs (by decide +kernel))
  exact ⟨⟨_, g1⟩, ⟨_, g2⟩, ⟨_, (c 0).2.2 (issuer_some (by decide +kernel)) (.inr rfl)⟩⟩

/-- The four shifts in 32 bits, and the narrowest and widest types. -/
theorem witness_Shifts (h : Obligations.Shifts) :
    let s (i : Instr) : State := regs0 [(8, 0x80000001), (12, 32)] (here i)
    Goes (.shl none 4 8 12 0) (s (.shl none 4 8 12 0)) ∧ Goes (.shr none 4 8 12 0) (s (.shr none 4 8 12 0)) ∧ Goes (.sar none 4 8 12 4) (s (.sar none 4 8 12 4)) ∧
    Goes (.rol none 4 8 12 3) (s (.rol none 4 8 12 3)) ∧ (let w := intW (0 : BitVec 3).toNat; BitVec.ofNat w ((BitVec.ofNat w 0x80000001).toNat * 2 ^ 32) = 0) := by
  have c (i : Instr) (t : BitVec 3) := h none 4 8 12 t (regs0 [(8, 0x80000001), (12, 32)] (here i)) (iss (regs0 [(8, 0x80000001), (12, 32)] (here i)))
  obtain ⟨_, _, g1, _⟩ := (c (.shl none 4 8 12 0) 0).1 (runs (by decide +kernel))
  obtain ⟨_, _, g2, _⟩ := (c (.shr none 4 8 12 0) 0).2.1 (runs (by decide +kernel))
  obtain ⟨_, _, g3, _⟩ := (c (.sar none 4 8 12 4) 4).2.2.1 (runs (by decide +kernel))
  obtain ⟨_, _, g4, _⟩ := (c (.rol none 4 8 12 3) 3).2.2.2.1 (runs (by decide +kernel))
  exact ⟨⟨_, g1⟩, ⟨_, g2⟩, ⟨_, g3⟩, ⟨_, g4⟩, ((c (.shl none 4 8 12 0) 0).2.2.2.2 (BitVec.ofNat _ 0x80000001) 32 (by decide)).1⟩

theorem witness_SignOperations (h : Obligations.SignOperations) :
    Goes (.fabs none 4 8 0) (here (.fabs none 4 8 0)) ∧ Goes (.fneg none 4 8 1) (here (.fneg none 4 8 1)) ∧
    Goes (.fcpys none 4 8 12 2) (here (.fcpys none 4 8 12 2)) := by
  have c (i : Instr) (t : BitVec 3) := h none 4 8 12 t (here i) (iss (here i))
  obtain ⟨_, g1, _⟩ := (c (.fabs none 4 8 0) 0).1 (runs (by decide +kernel))
  obtain ⟨_, g2, _⟩ := (c (.fneg none 4 8 1) 1).2.1 (runs (by decide +kernel))
  obtain ⟨_, g3, _⟩ := (c (.fcpys none 4 8 12 2) 2).2.2 (runs (by decide +kernel))
  exact ⟨⟨_, g1⟩, ⟨_, g2⟩, ⟨_, g3⟩⟩

/-- A signed offset at its least value, and an instruction behind a prefix. -/
theorem witness_DecodeEncode (h : Obligations.DecodeEncode) :
    decodeBytes (encodeBytes (.loop 12 (-2 ^ 15)) ++ [7]) = .ok (.loop 12 (-2 ^ 15), (Instr.loop 12 (-2 ^ 15)).size) ∧
    decodeBytes (encodeBytes (.iadd (some (pfxOf 0xEC800000#32)) 8 7 4 2) ++ []) = .ok (.iadd (some (pfxOf 0xEC800000#32)) 8 7 4 2, 8) :=
  ⟨h (.loop 12 (-2 ^ 15)) [7] (by decide +kernel), h (.iadd (some (pfxOf 0xEC800000#32)) 8 7 4 2) [] (by decide +kernel)⟩

theorem decodesTo {r : Except DecodeError (Instr × Nat)} {i : Instr} {n : Nat}
    (h : (match r with | .ok x => decide (x = (i, n)) | .error _ => false) = true) : r = .ok (i, n) := by
  cases r with
  | ok x => rw [of_decide_eq_true h]
  | error e => cases h

theorem witness_EncodeDecode (h : Obligations.EncodeDecode) : (bytesLE 4 0x24200020).take 4 = encodeBytes (.crd 4 32) :=
  (h (bytesLE 4 0x24200020) (.crd 4 32) 4 (decodesTo (by decide +kernel))).2

/-- The state after the fetch of the focus's turn. -/
def turned (s : State) (core q : Nat) : State := (s.pick core q).1
def fetched (s : State) : State := match (iss s).fetch s with | .instr u _ | .held u | .trap u _ => u
def trapped (s : State) : TrapInfo := match (iss s).fetch s with | .trap _ x => x | _ => { cause := 0 }
theorem fetchesInstr {s : State} {i : Instr} (h : (match (iss s).fetch s with | .instr _ j => decide (j = i) | _ => false) = true) :
    (iss s).fetch s = .instr (fetched s) i := by
  unfold fetched
  split at h <;> simp_all
theorem fetchesTrap {s : State} (h : (match (iss s).fetch s with | .trap _ _ => true | _ => false) = true) :
    (iss s).fetch s = .trap (fetched s) (trapped s) := by
  unfold fetched trapped
  split at h <;> simp_all
theorem fetchesHeld {s : State} (h : (match (iss s).fetch s with | .held _ => true | _ => false) = true) : (iss s).fetch s = .held (fetched s) := by
  unfold fetched
  split at h <;> simp_all
theorem picked {s : State} {core q : Nat} (h : (s.pick core q).2 = true) : s.pick core q = (turned s core q, true) := Prod.ext rfl h

/-- A word where the next step fetches. -/
def placed (w : Nat) (f : State → State := id) : State := f (State.reset.withFetchWord 32 w)
def unmapped : State := placed 0x58280003 fun s => s.updCore 0 fun k => { k with tlb := [] }
def issues : State := placed 0x58280003 fun s => { s with agenda := [⟨7, .issue (.quad 0 0)⟩], focus := .none }
def issues' : State := { issues with agenda := [], now := issues.now + 7 }
def ticked : State := placed 0 fun s => { s with agenda := [⟨7, .event .ageTick {}⟩] }

theorem turnsRun (s v : State) (i : Instr) (core q : Nat) (h : ∀ t u I, v.pick core q = (t, true) → t.issuer = some I →
      (∀ i, I.fetch t = .instr u i → (∀ w, exec i u = .next w → step s = .next (I.finish i q w)) ∧ (∀ r, exec i u = .fault r → step s = .fault r) ∧
        ∀ r, exec i u = .refused r → step s = .refused r) ∧
      (∀ x, I.fetch t = .trap u x → step s = .next ((u.takeTrap x).cycleEnd I.core q)) ∧ (I.fetch t = .held u → step s = .next (u.cycleEnd I.core q)))
    (h1 : (v.pick core q).2 = true) (h2 : (turned v core q).issuer.isSome = true)
    (h3 : (match (iss (turned v core q)).fetch (turned v core q) with | .instr _ j => decide (j = i) | _ => false) = true)
    (h4 : (match exec i (fetched (turned v core q)) with | .next _ => true | _ => false) = true) : ∃ t, step s = .next t :=
  let ⟨_, hw⟩ := goesOf h4
  ⟨_, ((h _ _ _ (picked h1) (issuer_some h2)).1 i (fetchesInstr h3)).1 _ hw⟩

/-- The first instruction of a quadrant. -/
theorem witness_StepRuns (h : Claims.StepRuns) : ∃ t, step (placed 0x58280003) = .next t :=
  turnsRun _ _ (.movi none 5 3) 0 0 (fun t u I => (h _ t u 0 0 I .none 0 []).1 (by decide +kernel) (by decide +kernel)) (by decide +kernel) (by decide +kernel)
    (by decide +kernel) (by decide +kernel)

/-- A word that no row names. -/
theorem witness_StepTraps (h : Claims.StepRuns) : ∃ t, step (placed 0xFFFFFFFF) = .next t :=
  ⟨_, ((h _ _ _ 0 0 _ .none 0 []).1 (by decide +kernel) (by decide +kernel) (picked (by decide +kernel)) (issuer_some (by decide +kernel))).2.1 _
    (fetchesTrap (by decide +kernel))⟩

/-- A fetch that waits for a walk. -/
theorem witness_StepHolds (h : Claims.StepRuns) : ∃ t, step unmapped = .next t :=
  ⟨_, ((h _ _ _ 0 0 _ .none 0 []).1 (by decide +kernel) (by decide +kernel) (picked (by decide +kernel)) (issuer_some (by decide +kernel))).2.2
    (fetchesHeld (by decide +kernel))⟩

/-- An event of the agenda. -/
theorem witness_StepAgenda (h : Claims.StepRuns) : ∃ t, step ticked = .next t :=
  let ⟨_, h5⟩ := goesOf (o := exec .ageTick { ticked with agenda := [], now := ticked.now + 7, inp := {} }) (by decide +kernel)
  ⟨_, ((h ticked ticked ticked 0 0 (iss ticked) .none 7 []).2.2 .ageTick {} (by decide +kernel) (by decide +kernel)).trans h5⟩

/-- An agent that the agenda names issues. -/
theorem witness_StepIssues (h : Claims.StepRuns) : ∃ t, step issues = .next t :=
  turnsRun _ issues' (.movi none 5 3) 0 0 (fun t u I => ((h issues t u 0 0 I (.quad 0 0) 7 []).2.1 (by decide +kernel)).1 (.quad 0 0) [] rfl
    (by decide +kernel)) (by decide +kernel) (by decide +kernel) (by decide +kernel) (by decide +kernel)

/-- A line that the instruction cache holds, one that it does not, and a pair and a word that is none. -/
def wordOf (I : Iss) (s : State) (va : Nat) : State × BitVec 32 := match I.fetchWord s va with | .word u w => (u, w) | _ => (s, 0)
theorem wordIs {I : Iss} {s : State} {va : Nat} (h : (match I.fetchWord s va with | .word _ _ => true | _ => false) = true) :
    I.fetchWord s va = .word (wordOf I s va).1 (wordOf I s va).2 := by
  unfold wordOf
  split at h <;> simp_all
def lines (l : List ILine) (i : Instr) : State := (here i).updCore 0 fun k => { k with icache := l }
def line0 : ILine := ⟨512, false, 0, 0xFFFFFFFF⟩

theorem witness_Fetches (h : Claims.Fetches) :
    let pair : Instr := .iadd (some (pfxOf 0xEC800000#32)) 8 7 4 2
    let s (l : List ILine) (i : Instr) : State := lines l i
    (∃ u, (iss (s [line0] (.movi none 5 3))).fetchWord (s [line0] (.movi none 5 3)) 0x10000 = .word u 0xFFFFFFFF) ∧
    (∃ u, (iss (s [] (.movi none 5 3))).fetchWord (s [] (.movi none 5 3)) 0x10000 = .word u 0x58280003) ∧
    (∃ u, (iss (s [] (.movi none 5 3))).fetch (s [] (.movi none 5 3)) = .instr u (.movi none 5 3)) ∧
    (∃ u, (iss (s [] pair)).fetch (s [] pair) = .instr u pair) ∧
    ∃ u, (iss (s [line0] (.movi none 5 3))).fetch (s [line0] (.movi none 5 3)) = .trap u { cause := 0x01 } := by
  let pair : Instr := .iadd (some (pfxOf 0xEC800000#32)) 8 7 4 2
  have c (l : List ILine) (i : Instr) (h1 : _) (h2 : _) (h3 : _) := h (lines l i) (iss (lines l i)) 0x10000 (loadTlb 0) h1 h2 h3 (by decide) (.inl rfl)
  obtain ⟨u1, g1⟩ := (c [line0] (.movi none 5 3) (by decide +kernel) (by decide +kernel) (by decide +kernel)).1 line0 (by decide +kernel)
  have c2 := c [] (.movi none 5 3) (by decide +kernel) (by decide +kernel) (by decide +kernel)
  obtain ⟨u2, g2⟩ := c2.2.1 (by decide +kernel) (by decide +kernel) (by decide +kernel)
  let I (l : List ILine) (i : Instr) : Iss := iss (lines l i)
  have w2 := wordIs (I := I [] (.movi none 5 3)) (s := lines [] (.movi none 5 3)) (va := 0x10000) (by decide +kernel)
  have w4 := wordIs (I := I [] pair) (s := lines [] pair) (va := 0x10000) (by decide +kernel)
  have w1 := wordIs (I := I [line0] (.movi none 5 3)) (s := lines [line0] (.movi none 5 3)) (va := 0x10000) (by decide +kernel)
  have c4 := (c [] pair (by decide +kernel) (by decide +kernel) (by decide +kernel)).2.2 (by decide +kernel) _ _ w4
  have c1 := (c [line0] (.movi none 5 3) (by decide +kernel) (by decide +kernel) (by decide +kernel)).2.2 (by decide +kernel) _ _ w1
  have w5 := wordIs (I := I [] pair) (s := (wordOf (I [] pair) (lines [] pair) 0x10000).1) (va := ((I [] pair).warp.run.pc + 4).toNat) (by decide +kernel)
  have h4 : decodeBytes (bytesLE 4 (wordOf (I [] pair) (lines [] pair) 0x10000).2.toNat ++ bytesLE 4 (wordOf (I [] pair) (wordOf (I [] pair) (lines [] pair) 0x10000).1
      ((I [] pair).warp.run.pc + 4).toNat).2.toNat) = .ok (pair, 8) := decodesTo (by decide +kernel)
  obtain ⟨_, x⟩ := refusal (decodeBytes (bytesLE 4 (wordOf (I [line0] (.movi none 5 3)) (lines [line0] (.movi none 5 3)) 0x10000).2.toNat)) (by decide +kernel)
  exact ⟨⟨u1, g1.trans (congrArg _ (by decide +kernel))⟩, ⟨u2, g2.trans (congrArg _ (by decide +kernel))⟩,
    ⟨_, ((c2.2.2 (by decide +kernel) _ _ w2).1 (.movi none 5 3) (decodesTo (by decide +kernel)))⟩,
    ⟨_, (c4.2.1 (by decide +kernel) (by decide +kernel) _ _ w5).1 pair h4⟩,
    ⟨_, c1.2.2 (by decide +kernel) _ x⟩⟩

/-- A prefixed word with a bad field, a register past the crew's window, a privileged instruction, one of a control core, one of a vector core, one that a
trap handler refuses and one of cue mode. -/
theorem witness_StopsBeforeEffect (h : Obligations.StopsBeforeEffect) :
    let cue (i : Instr) : State := crew0 (fun c => { c with kind := .cue }) (here i)
    let ctl (i : Instr) : State := crew0 (fun c => { c with kind := .control, core := 320 }) (here i)
    let held (i : Instr) : State := handled i 1
    let user (i : Instr) : State := (here i).updCtx 0 fun c => { c with priv := false }
    let vec (i : Instr) : State := crew0 (fun c => { c with kind := .vector, core := 0 }) (here i)
    let sick (i : Instr) : State := warp0 (fun w => { w with poison := [(8, 0xFFFFFFFF)] }) (here i)
    let few (i : Instr) : State := crew0 (fun c => { c with nregs := 16 }) (here i)
    Goes (.fenceAcq 127) (here (.fenceAcq 127)) ∧ Goes (.mov none 4 16 0) (few (.mov none 4 16 0)) ∧ Goes (.ksZero 4 8 12) (user (.ksZero 4 8 12)) ∧
    Goes (.tclr 0) (vec (.tclr 0)) ∧ Goes (.pset 8) (ctl (.pset 8)) ∧ Goes (.barw 31) (held (.barw 31)) ∧ Goes (.cwake 8) (vec (.cwake 8)) ∧
    Goes .tret (cue .tret) ∧ Goes (.mov none 4 8 0) (sick (.mov none 4 8 0)) := by
  intro cue ctl held user vec sick few
  have c (i : Instr) (s : State) (he : encode i ≠ []) (hi : s.issuer.isSome = true) := h i s (iss s) he (issuer_some hi)
  have g (i : Instr) (s : State) (he : encode i ≠ []) (hi : s.issuer.isSome = true) (hx : illegal i s (iss s) = true) : Goes i s := ⟨_, (c i s he hi).1 hx⟩
  have c1 := c (.fenceAcq 127) (here (.fenceAcq 127)) (by decide +kernel) (by decide +kernel)
  have c2 := c (.mov none 4 16 0) (few (.mov none 4 16 0)) (by decide +kernel) (by decide +kernel)
  have c3 := c (.ksZero 4 8 12) (user (.ksZero 4 8 12)) (by decide +kernel) (by decide +kernel)
  have c4 := c (.tclr 0) (vec (.tclr 0)) (by decide +kernel) (by decide +kernel)
  have c5 := c (.pset 8) (ctl (.pset 8)) (by decide +kernel) (by decide +kernel)
  have c6 := c (.barw 31) (held (.barw 31)) (by decide +kernel) (by decide +kernel)
  have c7 := c (.cwake 8) (vec (.cwake 8)) (by decide +kernel) (by decide +kernel)
  have c8 := c .tret (cue .tret) (by decide +kernel) (by decide +kernel)
  have c9 := c (.mov none 4 8 0) (sick (.mov none 4 8 0)) (by decide +kernel) (by decide +kernel)
  exact ⟨⟨_, c1.1 (c1.2.2.1 (by decide +kernel))⟩, ⟨_, c2.1 (c2.2.2.2.1 ⟨(16, 1), by decide +kernel⟩)⟩,
    ⟨_, c3.1 (c3.2.2.2.2.1 (by decide +kernel) (by decide +kernel))⟩, ⟨_, c4.1 (c4.2.2.2.2.2.1 (by decide +kernel) (by decide +kernel))⟩,
    ⟨_, c5.1 (c5.2.2.2.2.2.2.1 (by decide +kernel) (by decide +kernel))⟩, ⟨_, c6.1 (c6.2.2.2.2.2.2.2.1 (by decide +kernel) (by decide +kernel))⟩,
    ⟨_, c7.1 (c7.2.2.2.2.2.2.2.2.1 (by decide +kernel) (by decide +kernel))⟩,
    ⟨_, c8.1 (c8.2.2.2.2.2.2.2.2.2 (by decide +kernel) (by decide +kernel))⟩, ⟨_, c9.2.1 (by decide +kernel) (by decide +kernel)⟩⟩

/-- The reset state, and its step. -/
theorem witness_MemoryStaysCanonical (h : Obligations.MemoryStaysCanonical) (h0 : Obligations.ResetState) :
    ∃ t, step State.reset = .next t ∧ t.mem.Canonical :=
  let ⟨_, ht⟩ := goesOf (o := step State.reset) (by decide +kernel)
  ⟨_, ht, h _ _ h0.1 ht⟩

/-! ### The manual's worked examples -/

/-- A warp of `n` threads of context 0's crew at an instruction, with registers. -/
def warpAt (n : Nat) (i : Instr) (r : List (Nat × VReg)) (f : Warp → Warp := id) : State :=
  let held : List (Option Nat) := (List.range 32).map fun k => if k < n then some k else none
  crew0 (fun c => { c with n := n }) (warp0 (fun w => f { w with run := { w.run with lanes := BitVec.ofNat 32 (2 ^ n - 1) }, lanes := held, regs := r }) (here i))
/-- A check of the warp, the crew and the flags after an instruction. -/
def gives (i : Instr) (s : State) (f : Warp → Crew → Bool) : Bool :=
  match exec i s with
  | .next t => (match t.crew 0 with | some c => (match c.warps.find 0 with | some w => f w c | none => false) | none => false)
  | _ => false
def words (l : List Nat) : VReg := .general ((l ++ List.replicate (32 - l.length) 0).map (BitVec.ofNat 32 ·))

/-- The example of "Control, scalar and integer instructions" (R341, R342, R366): the shapes of results. -/
theorem test_example_shapes :
    gives (.crd 4 32) (warpAt 32 (.crd 4 32) []) (fun w _ => w.reg 4 == .affine 0 1) ∧
    gives (.imul none 6 4 5 2) (warpAt 32 (.imul none 6 4 5 2) [(4, .affine 0 1), (5, .uniform 3)]) (fun w _ => w.reg 6 == .affine 0 3) ∧
    gives (.iaddi none 7 6 16) (warpAt 32 (.iaddi none 7 6 16) [(6, .affine 0 3)]) (fun w _ => w.reg 7 == .affine 16 3) ∧
    gives (.lea none 10 12 7 2) (warpAt 32 (.lea none 10 12 7 2) [(7, .affine 16 3), (12, .uniform 0x1000), (13, .uniform 2)])
      (fun w _ => w.reg 10 == .affine 0x1040 12 && w.reg 11 == .uniform 2) := by decide +kernel

/-- R339: no type narrower than 32 bits yields an affine result. R382: a subnormal power of two sets UF. -/
theorem test_narrow_and_subnormal :
    gives (.mov none 5 4 0) (warpAt 32 (.mov none 5 4 0) [(4, .affine 0 1)]) (fun w _ => w.reg 5 == words (List.range 32)) ∧
    gives (.mov none 5 4 2) (warpAt 32 (.mov none 5 4 2) [(4, .affine 0 1)]) (fun w _ => w.reg 5 == .affine 0 1) ∧
    exp2C 0 .ieee 0xC2FE0000 = (0x00400000, fUF) := by decide +kernel

/-- The same example: the comparison and the addition under its mask. -/
theorem test_example_masked :
    let pair : Instr := .iadd (some (pfxOf 0xEC800000#32)) 8 7 4 2
    gives pair (warpAt 32 pair [(4, .affine 0 1), (7, .affine 16 3)] fun w => { w with masks := [(2, 7)] })
      (fun w _ => (List.range 4).map (w.lane 8) == [16, 20, 24, 0]) := by decide +kernel

/-- The example of R345: the sides after `JMPI`. -/
theorem test_example_jmpi :
    gives (.jmpi 20) (warpAt 8 (.jmpi 20) [(20, words [0x20000, 0x20000, 0x30000, 0x40000, 0x20000, 0x30000, 0x40000, 0x40000])])
      (fun w _ => w.run.lanes == 0x13 && w.run.pc == 0x20000 && w.div.map (fun d => (d.lanes, d.pc)) == [(0x24, 0x30000), (0xC8, 0x40000)]) := by decide +kernel

/-- The example of R187: the division that traps, and the one after `c.TEN`.IDZ was cleared. -/
theorem test_example_idiv :
    let s (ten : Word) : State := crew0 (fun c => { c with ten := ten, tvec := 64 }) (warpAt 8 (.idiv none 4 5 6 2)
      [(5, words [1, 1, 1, 1, 1, 1, 0x80000000, 1]), (6, words [1, 1, 0, 1, 1, 1, 0xFFFFFFFF, 1])])
    gives (.idiv none 4 5 6 2) (s 1) (fun w c => (c.frames.map fun f => (f.lanes, f.detail)) == [(4, 3)] && c.flags == 0 && w.lane 4 0 == 0) ∧
    gives (.idiv none 4 5 6 2) (s 0) (fun w c => w.lane 4 2 == 0xFFFFFFFF && w.lane 4 6 == 0x80000000 && c.flags == 0xC0) := by decide +kernel

/-- The examples of R386 and R390. -/
theorem test_example_cvtfi :
    let s (x : Nat) : State := regs0 [(8, x)] (here (.cvtfi none 4 8 0 0))
    gives (.cvtfi none 4 8 0 0) (s 0x43488000) (fun w c => w.lane 4 0 == 0x7F && c.flags == 1) ∧
    gives (.cvtfi none 4 8 0 0) (s 0xC0600000) (fun w c => w.lane 4 0 == 0xFFFFFFFC && c.flags == 16) ∧
    gives (.cvtfi none 4 8 0 0) (s 0x7FC00000) (fun w c => w.lane 4 0 == 0 && c.flags == 1) := by decide +kernel

theorem test_example_cvtne :
    let i (p : BitVec 32) : Instr := .cvtne (some (pfxOf p)) 10 4 2 0 0
    let s (p : BitVec 32) : State := warpAt 2 (i p) [(4, words [0x3F802000, 0x7F7FFFFF]), (10, words [0x12345678, 0x12345678])]
    gives (i 0xEC005800#32) (s 0xEC005800#32) (fun w c => w.lane 10 0 == 0x12343F80 && w.lane 10 1 == 0x12347F80 && w.lane 11 0 == 0x3A800000 &&
      w.lane 11 1 == 0x7F7FFFFF && c.flags == 20) ∧
    gives (i 0xEC005A00#32) (s 0xEC005A00#32) (fun w c => w.lane 10 0 == 0x12343F80 && w.lane 10 1 == 0x12347F7F && w.lane 11 0 == 0x3A800000 &&
      w.lane 11 1 == 0x7B7FFF00 && c.flags == 16) := by decide +kernel

/-- The example of R391. -/
theorem test_example_rng :
    gives (.rng none 8 2 4 0) (here (.rng none 8 2 4 0)) (fun w _ => w.lane 8 0 == 0x3EC4BD76) ∧ cbg 0 0 0 0 = 0x625EBBD6 := by decide +kernel

/-- The example of R397 and R392-R396: a scan, a shuffle and a reduction of FP32 with lane 5 inactive. -/
theorem test_example_lanes :
    let s (i : Instr) : State := warpAt 8 i [(4, words [0x3F800000, 0x4B800000, 0x3F800000, 0xCB800000, 0x3F800000, 0x42C80000, 0x3F800000, 0x3F800000]), (9, .uniform 1)]
      fun w => { w with run := { w.run with lanes := 0xDF } }
    gives (.wscan none 5 4 0 4) (s (.wscan none 5 4 0 4)) (fun w _ =>
      (List.range 8).map (w.lane 5) == [0x3F800000, 0x4B800000, 0x4B800000, 0, 0x3F800000, 0, 0x40000000, 0x40400000]) ∧
    gives (.wred none 6 4 0 4) (s (.wred none 6 4 0 4)) (fun w c => w.lane 6 0 == 0x40400000 && w.lane 6 7 == 0x40400000 && c.flags == 16) ∧
    gives (.shfl none 7 4 9 2 0) (s (.shfl none 7 4 9 2 0)) (fun w _ =>
      (List.range 8).map (w.lane 7) == [0x4B800000, 0x3F800000, 0xCB800000, 0x3F800000, 0x3F800000, 0, 0x3F800000, 0x3F800000]) := by decide +kernel

/-- The example of R97: two control periods of a context with default gains. -/
theorem test_example_control_law :
    let s (l : Loop) : State := ev {} fun s => s.updCtx 0 fun c => { c with resident := true, loop := l }
    let l0 : Loop := { t := 0x80000, mode := 1, i := 0x100000, cnt0 := 6, his := [16, 8, 8, 64, 25] }
    let ends (l : Loop) (f : Loop → Bool) : Bool := match exec .controlPeriodEnd (s l) with | .next t => f (t.ctx 0).loop | _ => false
    ends l0 (fun r => r.m == 0x60000 && r.i == 0x101000 && r.u == 0x109000 && r.demand == 16) ∧
    ends { l0 with i := 0x101000, cnt0 := 7 } (fun r => r.m == 0x70000 && r.i == 0x101800 && r.u == 0x105800 && r.demand == 16) := by decide +kernel

/-- The example of R218: stack, bank and row of an address. -/
theorem test_example_address : stackOfPa 0x2B45678800 = 4 ∧ bankOfPa 0x2B45678800 = 305 ∧ rowOfPa 0x2B45678800 = 34151 := by decide +kernel

/-- The example of R299. -/
theorem test_example_tree :
    let d := [0, 1, 2, 2, 1, 2]
    (List.range 6).map (treeParent d) = [0xFFFF, 0, 1, 1, 0, 4] ∧ treeRows [0xFFFF, 0, 1, 1, 0, 4] = [0x01, 0x03, 0x07, 0x0B, 0x11, 0x31] := by decide +kernel

/-- The example of "Tile and matrix instructions" (R443, R448): a row against two VQ2 columns, then its drain with a residual. -/
def mxExample : MatrixSt :=
  let tiles : Cells := ((Cells.write [] 0 ((List.range 16).flatMap fun _ => bytesLE 2 0x3F80)).write 16384 (bytesLE 2 0x120B ++ bytesLE 2 0x120E)).write 16416 (bytesLE 2 0x12FF)
  { tiles := tiles, cbooks := Cells.write [] (3072 + 4 * 0x12) (bytesLE 4 0x76543210), scBase := [(5, 0)] }
def mxProduct : MItem :=
  { op := .mmas, acc := 0, ti := 0, tj := 1, ca := { shape := 0x700, fmt := 0x01000030 }, cb := { shape := 1, fmt := 0x02300509, bstr := 8 },
    started := true, scales := (List.range 16).map fun k => (5 * 2 ^ 32 + k, if k = 0 then 0x7E else if k = 8 then 0x80 else 0x7F) }
theorem test_example_mmas :
    let m := (mxExample.perform mxProduct).1
    m.entry 0 = 0x40420000000000 ∧ m.entry 1 = 0xC0800000000000 ∧ m.entry 2 = 0 := by decide +kernel

theorem test_example_mdrn :
    let m : MatrixSt := { acc := [(0, 0x40420000000000), (1, 0xC0800000000000)], activ := Cells.write [] 0x3000 (bytesLE 2 0x3F00 ++ bytesLE 2 0x3C00) }
    let r := m.perform { op := .mdrn, acc := 0, off := 0x1000, drain := [0x3040, 0x08000030, 0x04000030, 0x3000, 0x2000, 0, 0, 0, 0], started := true }
    (List.range 4).map (fun k => r.1.activ.get (0x1000 + k)) = [0x10, 0x41, 0x00, 0xC2] ∧ r.2 = 16 := by decide +kernel

/-- The example of FIPS-197, appendix C.3 (R70, R79): AES-256 of a block and back. -/
theorem test_aes :
    let ks := roundKeys (List.range 32)
    let b := (List.range 16).map (17 * ·)
    let c := [0x8E, 0xA2, 0xB7, 0xCA, 0x51, 0x67, 0x45, 0xBF, 0xEA, 0xFC, 0x49, 0x90, 0x4B, 0x49, 0x60, 0x89]
    aesEncrypt ks b = c ∧ aesDecrypt ks c = b := by decide +kernel

/-- Vector 10 of IEEE 1619: the first block of data unit 255. -/
theorem test_xts :
    let k := numOf [0x27, 0x18, 0x28, 0x18, 0x28, 0x45, 0x90, 0x45, 0x23, 0x53, 0x60, 0x28, 0x74, 0x71, 0x35, 0x26, 0x62, 0x49, 0x77, 0x57, 0x24, 0x70, 0x93,
      0x69, 0x99, 0x59, 0x57, 0x49, 0x66, 0x96, 0x76, 0x27, 0x31, 0x41, 0x59, 0x26, 0x53, 0x58, 0x97, 0x93, 0x23, 0x84, 0x62, 0x64, 0x33, 0x83, 0x27, 0x95,
      0x02, 0x88, 0x41, 0x97, 0x16, 0x93, 0x99, 0x37, 0x51, 0x05, 0x82, 0x09, 0x74, 0x94, 0x45, 0x92]
    sealBlock (k + 1) 0xFF000 (List.range 16) =
      [0x1C, 0x3B, 0x3A, 0x10, 0x2F, 0x77, 0x03, 0x86, 0xE4, 0x83, 0x6C, 0x99, 0xE3, 0x70, 0xCF, 0x9B] := by decide +kernel

end Sys2Proof.Tests
end

section
/-! SUPPORT. Every step keeps the memories in canonical form (R11, R218). The two memories change at few places: `homePut`, `putNum`
and the moves and zeroings of `Cells`, whose lemmas are in the laws of memory. Everything else is a chain of calls down to these, so
there is one lemma for each function of the model that gives a state, in the model's order: `f_mem` where `f` leaves the memories
alone, and otherwise `canonical_f`. A proof unfolds its own function only and names the lemmas of the functions that it calls. -/

namespace Sys2Proof.Machine

/-! ### What carries the form: loops, choices, effects, replies and outcomes -/

theorem State.foldl_mem {α : Type} {f : State → α → State} (hf : ∀ s x, (f s x).mem = s.mem) (l : List α) (s : State) :
    (l.foldl f s).mem = s.mem := by
  induction l generalizing s with
  | nil => rfl
  | cons x l ih => exact (ih (f s x)).trans (hf s x)

@[simp] theorem State.until_mem (s : State) (t : Nat) : (s.until t).mem = s.mem := rfl

@[simp] theorem State.untilTick_mem (s : State) (t : Nat) : (s.untilTick t).mem = s.mem := rfl

/-- An effect leaves the memories canonical, in the next state that it gives and in the state in which it raises a trap. -/
structure Eff.Canonical (x : Eff) : Prop where
  ok : ∀ t, x = .ok t → t.mem.Canonical
  error : ∀ t i, x = .error (t, i) → t.mem.Canonical

@[simp] theorem Eff.canonical_ok {t : State} : Eff.Canonical (.ok t) ↔ t.mem.Canonical :=
  ⟨fun h => h.ok t rfl, fun h => ⟨fun _ e => (by cases e; exact h), fun _ _ e => (nomatch e)⟩⟩

@[simp] theorem Eff.canonical_error {t : State} {i : TrapInfo} : Eff.Canonical (.error (t, i)) ↔ t.mem.Canonical :=
  ⟨fun h => h.error t i rfl, fun h => ⟨fun _ e => (nomatch e), fun _ _ e => (by cases e; exact h)⟩⟩

/-- A reply that accepts a command leaves the memories canonical. -/
def Reply.Canonical (r : Reply) : Prop := ∀ t w, r = .accept t w → t.mem.Canonical

@[simp] theorem Reply.canonical_accept {t : State} {w : Nat} : (Reply.accept t w).Canonical ↔ t.mem.Canonical :=
  ⟨fun h => h t w rfl, fun h _ _ e => by cases e; exact h⟩

@[simp] theorem Reply.canonical_refuse (w : Nat) : (Reply.refuse w).Canonical := fun _ _ e => nomatch e

@[simp] theorem Reply.canonical_wait (host : Bool) (line : Nat) (l : List Nat) : (Reply.wait host line l).Canonical :=
  fun _ _ e => nomatch e

@[simp] theorem Reply.canonical_stall (page : Nat) : (Reply.stall page).Canonical := fun _ _ e => nomatch e

theorem Reply.canonical_ite {p : Prop} [Decidable p] {x y : Reply} (hx : x.Canonical) (hy : y.Canonical) :
    (if p then x else y).Canonical := by
  split <;> assumption

theorem Eff.canonical_ite {p : Prop} [Decidable p] {x y : Eff} (hx : Eff.Canonical x) (hy : Eff.Canonical y) :
    Eff.Canonical (if p then x else y) := by
  split <;> assumption

/-- What a try at dispatch leaves has canonical memories. -/
def Try.Canonical (x : Try) : Prop := ∀ t, x = some t → t.1.mem.Canonical

/-- An outcome that gives a next state leaves the memories canonical. -/
def NextCanonical (o : Host.Outcome State Fault Refusal) : Prop := ∀ t, o = .next t → t.mem.Canonical

@[simp] theorem nextCanonical_next {t : State} : NextCanonical (.next t) ↔ t.mem.Canonical :=
  ⟨fun h => h t rfl, fun h _ e => by cases e; exact h⟩

/-- The state after an attempt is canonical when the state it starts from and the state it may give are. -/
theorem State.canonical_getD {o : Option State} {s : State} (h : s.mem.Canonical) (ho : ∀ t, o = some t → t.mem.Canonical) :
    (o.getD s).mem.Canonical := by
  cases o with
  | none => exact h
  | some t => exact ho t rfl

/-- A loop that carries a value beside the state. -/
theorem State.canonical_foldl_fst {α β : Type} {f : State × β → α → State × β}
    (hf : ∀ p x, p.1.mem.Canonical → (f p x).1.mem.Canonical) (l : List α) (p : State × β) (h : p.1.mem.Canonical) :
    (l.foldl f p).1.mem.Canonical := by
  induction l generalizing p with
  | nil => exact h
  | cons x l ih => exact ih (f p x) (hf p x h)

theorem State.foldl_fst_mem {α β : Type} {f : State × β → α → State × β} (hf : ∀ p x, (f p x).1.mem = p.1.mem) (l : List α)
    (p : State × β) : (l.foldl f p).1.mem = p.1.mem := by
  induction l generalizing p with
  | nil => rfl
  | cons x l ih => exact (ih (f p x)).trans (hf p x)

theorem State.canonical_ite {p : Prop} [Decidable p] {s t : State} (hs : s.mem.Canonical) (ht : t.mem.Canonical) :
    (if p then s else t).mem.Canonical := by
  split <;> assumption

theorem State.canonical_ite_fst {β : Type} {p : Prop} [Decidable p] {x y : State × β} (hx : x.1.mem.Canonical)
    (hy : y.1.mem.Canonical) : (if p then x else y).1.mem.Canonical := by
  split <;> assumption

/-! ### Home memory, caches and write buffers (`Machine.Mem`) -/

theorem State.canonical_putBit {s : State} (h : s.mem.Canonical) (ctx base i : Nat) (v : Bool) :
    (s.putBit ctx base i v).mem.Canonical := by
  grind [State.putBit, State.canonical_putNum]

theorem State.canonical_storeWakes {s : State} (h : s.mem.Canonical) (core : Option Nat) (host : Bool) (pa n : Nat) :
    (s.storeWakes core host pa n).mem.Canonical := by
  grind [State.storeWakes, State.canonical_wakeElem, State.canonical_foldl]

@[simp] theorem State.updStack_mem (s : State) (k : Nat) (f : StackSt → StackSt) : (s.updStack k f).mem = s.mem := rfl

@[simp] theorem State.dramCommand_mem (s : State) (host : Bool) (line : Nat) : (s.dramCommand host line).mem = s.mem := by
  grind [State.dramCommand, State.until_mem, State.updStack_mem]

theorem MemSt.Canonical.setDir {m : MemSt} (h : m.Canonical) (host : Bool) (line : Nat) (e : DirEnt) :
    (m.setDir host line e).Canonical := by
  unfold MemSt.setDir
  split <;> exact h

theorem State.canonical_recall {s : State} (h : s.mem.Canonical) (host : Bool) (line : Nat) (keep : Bool) :
    (s.recall host line keep).mem.Canonical :=
  h.setDir host line _

theorem State.canonical_l2One {s : State} (h : s.mem.Canonical) (die ctx : Nat) (host : Bool) (slot line : Nat) (write : Bool) :
    (s.l2One die ctx host slot line write).mem.Canonical := by
  grind [State.l2One, State.canonical_recall, State.updMem, State.dramCommand_mem, MemSt.Canonical]

theorem State.canonical_l2Access {s : State} (h : s.mem.Canonical) (who : Option Nat) (die : Nat) (host : Bool)
    (slot line : Nat) (write home : Bool) : (s.l2Access who die host slot line write home).mem.Canonical := by
  cases who with
  | none => exact h
  | some ctx => grind [State.l2Access, State.canonical_recall, State.canonical_l2One, State.updMem, MemSt.Canonical.setDir]

theorem State.canonical_l2Core {s : State} (h : s.mem.Canonical) (core : Nat) (host : Bool) (slot line : Nat)
    (write home : Bool) : (s.l2Core core host slot line write home).mem.Canonical := by
  grind [State.l2Core, State.canonical_l2Access]

theorem State.canonical_homeWrite {s : State} (h : s.mem.Canonical) (core : Option Nat) (home host : Bool) (slot pa : Nat)
    (bs : List Byte) : (s.homeWrite core home host slot pa bs).mem.Canonical := by
  cases core <;> grind [State.homeWrite, State.canonical_l2Core, State.canonical_homePut, State.canonical_storeWakes]

theorem State.canonical_writeBack {s : State} (h : s.mem.Canonical) (core : Nat) (l : L1Line) :
    (s.writeBack core l).mem.Canonical := by
  grind [State.writeBack, State.canonical_homeWrite, State.canonical_foldl]

theorem State.canonical_performStore {s : State} (h : s.mem.Canonical) (core : Nat) (w : WBuf) :
    (s.performStore core w).mem.Canonical := by
  grind [State.performStore, State.canonical_homeWrite, State.updCore_mem]

theorem State.canonical_drainLine {s : State} (h : s.mem.Canonical) (core line : Nat) (host : Bool) :
    (s.drainLine core line host).mem.Canonical := by
  grind [State.drainLine, State.canonical_performStore, State.setCore_mem, State.canonical_foldl]

theorem State.canonical_l1Fill {s : State} (h : s.mem.Canonical) (core line : Nat) (host : Bool) (slot ord : Nat) :
    (s.l1Fill core line host slot ord).1.mem.Canonical := by
  grind [State.l1Fill, State.canonical_drainLine, State.canonical_writeBack, State.canonical_l2Core, State.setCore_mem]

theorem State.canonical_l1Byte {s : State} (h : s.mem.Canonical) (core : Nat) (host : Bool) (slot ord pa : Nat) :
    (s.l1Byte core host slot ord pa).1.mem.Canonical := by
  grind [State.l1Byte, State.canonical_l1Fill]

theorem State.canonical_l1SetByte {s : State} (h : s.mem.Canonical) (core : Nat) (host : Bool) (slot ord pa : Nat) (b : Byte) :
    (s.l1SetByte core host slot ord pa b).mem.Canonical := by
  grind [State.l1SetByte, State.canonical_l1Fill, State.setCore_mem]

theorem State.canonical_flushLines {s : State} (h : s.mem.Canonical) (core : Nat) (keep : Bool) (p : L1Line → Bool) :
    (s.flushLines core keep p).mem.Canonical := by
  grind [State.flushLines, State.canonical_writeBack, State.updCore_mem, State.canonical_foldl]

theorem State.canonical_wroteWhole {s : State} (h : s.mem.Canonical) (core : Nat) (ks : List Nat) :
    (s.wroteWhole core ks).mem.Canonical := by
  grind [State.wroteWhole, State.updMem, State.updCore_mem, State.canonical_foldl, MemSt.Canonical]

theorem State.canonical_l1Drop {s : State} (h : s.mem.Canonical) (core line : Nat) (host : Bool) :
    (s.l1Drop core line host).mem.Canonical := by
  grind [State.l1Drop, State.canonical_drainLine, State.canonical_flushLines]

@[simp] theorem State.tlbFill_mem (s : State) (core : Nat) (e : TlbEnt) : (s.tlbFill core e).mem = s.mem := rfl

theorem State.canonical_loadByte {s : State} (h : s.mem.Canonical) (core : Nat) (e : TlbEnt) (pa : Nat) (home : Bool) :
    (s.loadByte core e pa home).1.mem.Canonical := by
  grind [State.loadByte, State.canonical_l2Core, State.canonical_l1Drop, State.canonical_l1Byte]

theorem State.canonical_loadBytes {s : State} (h : s.mem.Canonical) (core va : Nat) (e : TlbEnt) (e2 : Option TlbEnt)
    (home : Bool) (i n : Nat) : (s.loadBytes core va e e2 home i n).1.mem.Canonical := by
  induction n generalizing s i with
  | zero => exact h
  | succ n ih => exact ih (State.canonical_loadByte h _ _ _ _) _

@[simp] theorem State.noteStore_mem (s : State) (core : Nat) (e : TlbEnt) (pa : Nat) : (s.noteStore core e pa).mem = s.mem := by
  unfold State.noteStore
  split <;> rfl

@[simp] theorem State.claim_mem (s : State) (core : Nat) (self : Option (Nat × Nat)) (va pa n : Nat) :
    (s.claim core self va pa n).mem = s.mem := by
  unfold State.claim
  split <;> rfl

theorem State.canonical_storeByte {s : State} (h : s.mem.Canonical) (core : Nat) (e : TlbEnt) (pa : Nat) (home : Bool)
    (b : Byte) : (s.storeByte core e pa home b).mem.Canonical := by
  grind [State.storeByte, State.canonical_homeWrite, State.canonical_l1Drop, State.canonical_l1SetByte, State.noteStore_mem]

theorem State.canonical_storeBytes {s : State} (h : s.mem.Canonical) (core va : Nat) (e : TlbEnt) (e2 : Option TlbEnt)
    (home : Bool) (i : Nat) (bs : List Byte) : (s.storeBytes core va e e2 home i bs).mem.Canonical := by
  induction bs generalizing s i with
  | nil => exact h
  | cons b bs ih => exact ih (State.canonical_storeByte h _ _ _ _ _) _

theorem State.canonical_reveal {s : State} (h : s.mem.Canonical) (core : Option Nat) (key : Nat) (p : Nat → Bool) :
    (s.reveal core key p).mem.Canonical := by
  grind [State.reveal, State.canonical_storeByte, State.canonical_homePut, State.claim_mem, State.canonical_foldl]

theorem State.canonical_storeHidden {s : State} (h : s.mem.Canonical) (core key elem va : Nat) (e : TlbEnt) (e2 : Option TlbEnt)
    (i : Nat) (bs : List Byte) : (s.storeHidden core key elem va e e2 i bs).mem.Canonical := by
  induction bs generalizing s i with
  | nil => exact h
  | cons b bs ih =>
    refine ih ?_ _
    grind [State.canonical_storeByte]

theorem State.canonical_revealThread {s : State} (h : s.mem.Canonical) (core : Nat) (who : Option (Nat × Nat)) :
    (s.revealThread core who).mem.Canonical := by
  cases who <;> grind [State.revealThread, State.canonical_reveal]

theorem State.canonical_drainThread {s : State} (h : s.mem.Canonical) (core : Nat) (who : Option (Nat × Nat)) :
    (s.drainThread core who).mem.Canonical := by
  grind [State.drainThread, State.canonical_revealThread, State.canonical_performStore, State.setCore_mem, State.canonical_foldl]

theorem State.canonical_logAppend {s : State} (h : s.mem.Canonical) (sig : BitVec 1024) : (s.logAppend sig).mem.Canonical := by
  grind [State.logAppend, State.updMem, MemSt.Canonical]

theorem State.canonical_release {s : State} (h : s.mem.Canonical) (core : Nat) (who : Option (Nat × Nat)) (scope : Nat) :
    (s.release core who scope).1.mem.Canonical := by
  grind [State.release, State.canonical_drainThread, State.canonical_flushLines, State.canonical_logAppend, State.setCore_mem]

theorem State.canonical_acquire {s : State} (h : s.mem.Canonical) (core n : Nat) : (s.acquire core n).mem.Canonical := by
  grind [State.acquire, State.canonical_flushLines, State.updCore_mem]

theorem State.canonical_acquireHead {s : State} (h : s.mem.Canonical) (core : Nat) : (s.acquireHead core).mem.Canonical := by
  grind [State.acquireHead, State.canonical_acquire]

theorem State.canonical_releaseAll {s : State} (h : s.mem.Canonical) (core : Nat) : (s.releaseAll core).mem.Canonical := by
  grind [State.releaseAll, State.canonical_release]

theorem State.canonical_fullFence {s : State} (h : s.mem.Canonical) (core : Nat) : (s.fullFence core).mem.Canonical := by
  grind [State.fullFence, State.canonical_drainThread, State.canonical_flushLines]

theorem State.canonical_bufferStore {s : State} (h : s.mem.Canonical) (a : Agent) (e : TlbEnt) (pa : Nat) (bs : List Byte) :
    (s.bufferStore a e pa bs).mem.Canonical := by
  grind [State.bufferStore, State.canonical_flushLines, State.updCore_mem]

theorem State.canonical_observe {s : State} (h : s.mem.Canonical) (core va : Nat) (e : TlbEnt) (e2 : Option TlbEnt)
    (bs : List Byte) : (s.observe core va e e2 bs).mem.Canonical := by
  grind [State.observe, State.canonical_acquire, State.canonical_foldl]

theorem State.canonical_loadSeen {s : State} (h : s.mem.Canonical) (core va : Nat) (e : TlbEnt) (e2 : Option TlbEnt)
    (home : Bool) (n : Nat) : (s.loadSeen core va e e2 home n).1.mem.Canonical := by
  grind [State.loadSeen, State.canonical_loadBytes, State.canonical_observe]

/-! ### Rows and buses (`Machine.Bus`) -/

@[simp] theorem State.updPw_mem (s : State) (cl : Nat) (f : ClusterPw → ClusterPw) : (s.updPw cl f).mem = s.mem := rfl

theorem State.canonical_updBank {s : State} (h : s.mem.Canonical) (stack bank : Nat) (f : BankSt → BankSt) :
    (s.updBank stack bank f).mem.Canonical := by
  grind [State.updBank, State.updMem, MemSt.Canonical]

@[simp] theorem State.updMx_mem (s : State) (cl : Nat) (f : MatrixSt → MatrixSt) : (s.updMx cl f).mem = s.mem := rfl

@[simp] theorem State.shareTile_mem (s : State) (cl t : Nat) (w : SharedWhat) : (s.shareTile cl t w).mem = s.mem := by
  grind [State.shareTile, State.updMx_mem]

@[simp] theorem State.tileWrite_mem (s : State) (cl t off : Nat) (bs : List Byte) : (s.tileWrite cl t off bs).mem = s.mem := by
  simp [State.tileWrite]

@[simp] theorem State.endXfer_mem (s : State) (cl : Nat) (x : RowXfer) : (s.endXfer cl x).mem = s.mem := by
  grind [State.endXfer, State.tileWrite_mem, State.updMx_mem]

@[simp] theorem State.settleXfers_mem (s : State) (cl : Nat) : (s.settleXfers cl).mem = s.mem := by
  grind [State.settleXfers, State.endXfer_mem, State.updCluster_mem, State.foldl_mem]

theorem State.canonical_startPrecharge {s : State} (h : s.mem.Canonical) (cl bank t : Nat) (st : RowState) :
    (s.startPrecharge cl bank t st).mem.Canonical := by
  grind [State.startPrecharge, State.canonical_updBank, State.updCluster_mem]

theorem State.canonical_forceClose {s : State} (h : s.mem.Canonical) (cl : Nat) (r : RowEnt) :
    (s.forceClose cl r).mem.Canonical := by
  grind [State.forceClose, State.canonical_startPrecharge]

theorem State.canonical_settleCluster {s : State} (h : s.mem.Canonical) (cl : Nat) : (s.settleCluster cl).mem.Canonical := by
  grind [State.settleCluster, State.canonical_forceClose, State.settleXfers_mem, State.updCluster_mem, State.canonical_foldl]

theorem State.canonical_settleStack {s : State} (h : s.mem.Canonical) (stack : Nat) : (s.settleStack stack).mem.Canonical := by
  grind [State.settleStack, State.canonical_settleCluster]

theorem State.canonical_closeRowsNow {s : State} (h : s.mem.Canonical) (cl : Nat) : (s.closeRowsNow cl).mem.Canonical := by
  grind [State.closeRowsNow, State.canonical_settleCluster, State.canonical_startPrecharge, State.until_mem, State.updCluster_mem,
    State.canonical_foldl]

/-! ### Records of the dailies (`Machine.Dailies`) -/

@[simp] theorem State.updFunc_mem (s : State) (f : Nat) (g : Func → Func) : (s.updFunc f g).mem = s.mem := rfl

theorem State.canonical_postRanges {s : State} (h : s.mem.Canonical) (f : Nat) (r : Rec) (l : List (Nat × Nat)) :
    (s.postRanges f r l).mem.Canonical := by
  induction l generalizing s with
  | nil => exact h
  | cons x l ih =>
    cases l with
    | nil => exact State.canonical_post h _ _
    | cons y l => exact ih (State.canonical_post h _ _)

theorem State.canonical_reportSectors {s : State} (h : s.mem.Canonical) (code : Rec) (ctx : Option Nat)
    (sectors : List (Nat × Nat)) : (s.reportSectors code ctx sectors).mem.Canonical := by
  grind [State.reportSectors, State.updMem, State.canonical_postRanges, MemSt.Canonical]

@[simp] theorem State.updQueue_mem (s : State) (d : Nat) (f : Queue → Queue) : (s.updQueue d f).mem = s.mem := rfl

@[simp] theorem State.updSlate_mem (s : State) (k : Nat) (f : Slate → Slate) : (s.updSlate k f).mem = s.mem := by
  unfold State.updSlate
  split <;> rfl

@[simp] theorem State.crewEnded_mem (s : State) (cid : Nat) (c : Crew) (cause : Nat) : (s.crewEnded cid c cause).mem = s.mem := by
  simp [State.crewEnded]

/-! ### Contexts of a binding (`Machine.Tensor`) -/

@[simp] theorem State.updBinding_mem (s : State) (key : Nat) (f : Binding → Binding) : (s.updBinding key f).mem = s.mem := by
  unfold State.updBinding
  split <;> rfl

theorem State.canonical_dollyLine {s : State} (h : s.mem.Canonical) (key : Nat) (b : Binding) (va : Nat) (write : Bool) :
    (s.dollyLine key b va write).mem.Canonical := by
  grind [State.dollyLine, State.canonical_l2Access]

theorem State.canonical_putContext {s : State} (h : s.mem.Canonical) (key : Nat) (b : Binding) (e w : Nat) :
    (s.putContext key b e w).mem.Canonical := by
  grind [State.putContext, State.canonical_dollyLine, State.canonical_reveal, State.canonical_putNum, State.canonical_putBit,
    State.updBinding_mem]

theorem State.canonical_faultElem {s : State} (h : s.mem.Canonical) (key e cause : Nat) (off : Int) :
    (s.faultElem key e cause off).mem.Canonical := by
  grind [State.faultElem, State.canonical_putContext, State.nextFree_mem, State.updBinding_mem]

/-! ### Crews and traps (`Machine.Ops`) -/

@[simp] theorem State.updCrew_mem (s : State) (cid : Nat) (f : Crew → Crew) : (s.updCrew cid f).mem = s.mem := by
  unfold State.updCrew
  split <;> rfl

@[simp] theorem Iss.put_mem (I : Iss) (s : State) : (I.put s).mem = s.mem := rfl

@[simp] theorem Iss.stall_mem (I : Iss) (s : State) (wt : Wait) : (I.stall s wt).mem = s.mem := rfl

@[simp] theorem Iss.park_mem (I : Iss) (s : State) (wt : Wait) : (I.park s wt).mem = s.mem := by
  unfold Iss.park
  split <;> rfl

@[simp] theorem State.wake_mem (s : State) (pc : Crew → Bool) (p : Side → Bool) : (s.wake pc p).mem = s.mem := rfl

theorem State.canonical_devStore {s t : State} (h : s.mem.Canonical) (core ctx va : Nat) (bs : List Byte)
    (e : s.devStore core ctx va bs = some t) : t.mem.Canonical := by
  induction bs generalizing s va with
  | nil => grind [State.devStore]
  | cons b bs ih => grind [State.devStore, State.canonical_storeByte]

theorem State.canonical_writeStopList {s : State} (h : s.mem.Canonical) (c : Crew) (cause depth : Nat) (fw : Option Nat)
    (epc : VAddr) (pidx : Nat) {t : State} (e : s.writeStopList c cause depth fw epc pidx = some t) : t.mem.Canonical := by
  grind [State.writeStopList, State.canonical_devStore]

@[simp] theorem State.regrant_mem (s : State) : (s.regrant).mem = s.mem := by
  grind [State.regrant, State.updPw_mem, State.foldl_mem]

@[simp] theorem State.settleCores_mem (s : State) (ctx : Nat) : (s.settleCores ctx).mem = s.mem := by
  grind [State.settleCores, State.regrant_mem, State.updCtx_mem]

@[simp] theorem State.crewLeft_mem (s : State) (core : Nat) : (s.crewLeft core).mem = s.mem := rfl

@[simp] theorem State.noteStop_mem (s : State) (slate cause detail : Nat) : (s.noteStop slate cause detail).mem = s.mem := by
  simp [State.noteStop]

@[simp] theorem State.queueTake_mem (s : State) (d id : Nat) : (s.queueTake d id).mem = s.mem := rfl

@[simp] theorem State.queueGroup_mem (s : State) (slate g : Nat) : (s.queueGroup slate g).mem = s.mem := by
  grind [State.queueGroup, State.queueTake_mem]

theorem State.canonical_endCrew {s : State} (h : s.mem.Canonical) (cid : Nat) (cause : Nat) :
    (s.endCrew cid cause).mem.Canonical := by
  grind [State.endCrew, State.canonical_releaseAll, State.canonical_closeRowsNow, State.updCore_mem, State.setCrew_mem,
    State.crewEnded_mem, State.crewLeft_mem, State.settleCores_mem, State.queueGroup_mem]

theorem State.canonical_reap {s : State} (h : s.mem.Canonical) (cid : Nat) : (s.reap cid).mem.Canonical := by
  grind [State.reap, State.canonical_endCrew]

@[simp] theorem Iss.putOrDrop_mem (I : Iss) (s : State) : (I.putOrDrop s).mem = s.mem := by
  unfold Iss.putOrDrop
  split <;> rfl

theorem Iss.canonical_cueFault (I : Iss) {s : State} (h : s.mem.Canonical) (t : TrapInfo) : (I.cueFault s t).mem.Canonical := by
  grind [Iss.cueFault, State.canonical_faultElem, Iss.putOrDrop_mem, State.canonical_foldl]

theorem State.canonical_escalate {s : State} (h : s.mem.Canonical) (cid : Nat) (c : Crew) (wid : Nat) (epc : VAddr)
    (cause : Nat) : (s.escalate cid c wid epc cause).mem.Canonical := by
  unfold State.escalate
  have hw := State.canonical_getD h fun _ => State.canonical_writeStopList h c cESCALATED 0 (some wid) epc 0
  refine State.canonical_endCrew (State.canonical_post ?_ _ _) _ _
  simpa using hw

theorem Iss.canonical_enterHandler (I : Iss) {s : State} (h : s.mem.Canonical) (t : TrapInfo) :
    (I.enterHandler s t).mem.Canonical := by
  grind [Iss.enterHandler, State.canonical_writeStopList, State.canonical_escalate, Iss.put_mem]

@[simp] theorem Iss.trapWithin_mem (I : Iss) (s : State) (st : Stopping) (t : TrapInfo) : (I.trapWithin s st t).mem = s.mem := by
  grind [Iss.trapWithin, Iss.put_mem]

theorem State.canonical_takeTrap {s : State} (h : s.mem.Canonical) (t : TrapInfo) : (s.takeTrap t).mem.Canonical := by
  grind [State.takeTrap, Iss.canonical_cueFault, State.canonical_escalate, Iss.canonical_enterHandler, Iss.trapWithin_mem,
    Iss.put_mem]

theorem State.canonical_endStop {s : State} (h : s.mem.Canonical) (cid : Nat) (force : Bool) :
    (s.endStop cid force).mem.Canonical := by
  grind [State.endStop, Iss.canonical_enterHandler, State.setCrew_mem]

theorem State.canonical_endStops {s : State} (h : s.mem.Canonical) (core q : Nat) : (s.endStops core q).mem.Canonical := by
  grind [State.endStops, State.canonical_endStop, State.updCrew_mem, State.canonical_foldl]

/-! ### Reports and runs of instructions (`Machine.Operands`) -/

theorem Iss.canonical_reportAt (I : Iss) {s : State} (h : s.mem.Canonical) (cause : Nat) (acc : List (Nat × Nat)) :
    (I.reportAt s cause acc).mem.Canonical := by
  grind [Iss.reportAt, State.canonical_reportSectors]

theorem Iss.canonical_reportLanes (I : Iss) {s : State} (h : s.mem.Canonical) (t : TrapInfo) (a : BitVec 7) (n : Nat) :
    (I.reportLanes s t a n).mem.Canonical := by
  grind [Iss.reportLanes, Iss.canonical_reportAt]

/-- What an instruction does beyond its own effect is a trap: the effect alone decides. -/
theorem canonical_runInstr {s : State} (h : s.mem.Canonical) (i : Instr) {f : Iss → Eff} (hf : ∀ I, Eff.Canonical (f I)) :
    NextCanonical (runInstr i s f) := by
  intro t e
  unfold runInstr at e
  split at e
  · cases e
  next I _ =>
    split at e
    · cases e; exact State.canonical_takeTrap h _
    split at e
    · cases e; exact State.canonical_takeTrap h _
    split at e <;> cases e
    · next hr => exact (hf I).ok _ hr
    · next hr => exact State.canonical_takeTrap ((hf I).error _ _ hr) _

theorem Iss.canonical_endRuns (I : Iss) {s : State} (h : s.mem.Canonical) (f : Nat → Nat → Nat × Nat × Nat) :
    Eff.Canonical (I.endRuns s f) := by
  grind [Iss.endRuns, State.canonical_putContext, Iss.putOrDrop_mem, Eff.canonical_ok, Eff.canonical_error, State.canonical_foldl]

theorem Iss.canonical_cueExit (I : Iss) {s : State} (h : s.mem.Canonical) : Eff.Canonical (I.cueExit s) := by
  grind [Iss.cueExit, Iss.canonical_endRuns]

@[simp] theorem Iss.writeD_mem (I : Iss) (s : State) (p : Option Pfx) (d : BitVec 7) (cnt : Nat) (t : Tag) (f : Nat → Nat)
    (fl : Flags) : (I.writeD s p d cnt t f fl).mem = s.mem :=
  rfl

/-! ### Integer instructions (`Machine.Integer`) -/

theorem Iss.canonical_divide (I : Iss) {s : State} (h : s.mem.Canonical) (p : Option Pfx) (d a b : BitVec 7) (t : BitVec 2)
    (signed rem : Bool) : Eff.Canonical (I.divide s p d a b t signed rem) := by
  grind [Iss.divide, Iss.writeD_mem, Eff.canonical_ok, Eff.canonical_error]

@[simp] theorem Iss.writeTagged_mem (I : Iss) (s : State) (p : Option Pfx) (d : BitVec 7) (cnt : Nat) (tags : Nat → Tag)
    (f : Nat → Nat) : (I.writeTagged s p d cnt tags f).mem = s.mem :=
  rfl

/-! ### Masks and votes (`Machine.Mask`) -/

@[simp] theorem Iss.whole_mem (I : Iss) (s : State) (p : Option Pfx) (d : BitVec 7) (v : Nat) : (I.whole s p d v).mem = s.mem :=
  rfl

@[simp] theorem Iss.vote_mem (I : Iss) (s : State) (p : Option Pfx) (d : BitVec 7) (v : Bool) : (I.vote s p d v).mem = s.mem := by
  unfold Iss.vote
  split <;> rfl

/-! ### Control flow (`Machine.Control`) -/

theorem Iss.canonical_branch (I : Iss) {s : State} (h : s.mem.Canonical) (t : BitVec 32) (target : VAddr) (brd : Bool) :
    Eff.Canonical (I.branch s t target brd) := by
  grind [Iss.branch, Iss.put_mem, State.setCrew_mem, Eff.canonical_ok, Eff.canonical_error]

theorem Iss.canonical_jump (I : Iss) {s : State} (h : s.mem.Canonical) (a : BitVec 7) (link : Bool) :
    Eff.Canonical (I.jump s a link) := by
  grind [Iss.jump, Iss.put_mem, Eff.canonical_ok, Eff.canonical_error]

@[simp] theorem canonical_execTret {s : State} (h : s.mem.Canonical) : NextCanonical (execTret s) := by
  refine canonical_runInstr h _ fun I => ?_
  grind [Eff.canonical_ok, Eff.canonical_error, Iss.put_mem]

theorem State.canonical_takeBoundary {s : State} (h : s.mem.Canonical) (cid carry : Nat) :
    (s.takeBoundary cid carry).mem.Canonical := by
  grind [State.takeBoundary, State.canonical_endCrew, State.setCrew_mem]

theorem State.canonical_completeBar {s : State} (h : s.mem.Canonical) (cid n : Nat) : (s.completeBar cid n).mem.Canonical := by
  grind [State.completeBar, State.canonical_endCrew, State.canonical_takeBoundary, State.setCrew_mem]

theorem State.canonical_recheckBars {s : State} (h : s.mem.Canonical) (cid : Nat) : (s.recheckBars cid).mem.Canonical := by
  grind [State.recheckBars, State.canonical_completeBar, State.canonical_foldl]

theorem Iss.canonical_exitThreads (I : Iss) {s : State} (h : s.mem.Canonical) : (I.exitThreads s).mem.Canonical := by
  grind [Iss.exitThreads, State.canonical_endCrew, State.canonical_recheckBars, State.setCrew_mem]

theorem Iss.canonical_kill (I : Iss) {s : State} (h : s.mem.Canonical) : (I.kill s).mem.Canonical := by
  unfold Iss.kill
  exact State.canonical_endCrew (State.canonical_getD h fun _ => State.canonical_writeStopList h _ _ _ _ _ _) _ _

@[simp] theorem canonical_execExit {s : State} (h : s.mem.Canonical) : NextCanonical (execExit s) := by
  refine canonical_runInstr h _ fun I => ?_
  grind [Eff.canonical_ok, Iss.canonical_cueExit, Iss.canonical_kill, Iss.canonical_exitThreads]

@[simp] theorem State.file_mem (s : State) (cid q : Nat) (l : List (BinKey × Filed)) : (s.file cid q l).mem = s.mem := by
  grind [State.file, State.setCrew_mem, State.updCore_mem]

@[simp] theorem State.holdScan_mem (core q : Nat) (s : State) (kept l : List Nat) :
    (State.holdScan core q s kept l).mem = s.mem := by
  induction l generalizing s kept with
  | nil => rfl
  | cons cid rest ih => grind [State.holdScan, State.updCore_mem, State.setCrew_mem]

@[simp] theorem State.cycleBegin_mem (s : State) (core q : Nat) : (s.cycleBegin core q).mem = s.mem := by
  grind [State.cycleBegin, State.updCore_mem, State.holdScan_mem]

@[simp] theorem State.cycleEnd_mem (s : State) (core q : Nat) : (s.cycleEnd core q).mem = s.mem := by
  grind [State.cycleEnd, State.setCrew_mem, State.foldl_mem]

@[simp] theorem canonical_execBinIssue {s : State} (h : s.mem.Canonical) : NextCanonical (execBinIssue s) := by
  grind [execBinIssue, nextCanonical_next, State.cycleEnd_mem, State.cycleBegin_mem, State.canonical_foldl]

@[simp] theorem canonical_execReform {s : State} (h : s.mem.Canonical) (k a : BitVec 7) : NextCanonical (execReform k a s) := by
  refine canonical_runInstr h _ fun I => ?_
  grind [Eff.canonical_ok, Eff.canonical_error, State.file_mem, State.setCrew_mem]

@[simp] theorem canonical_execWinb {s : State} (h : s.mem.Canonical) (b : BitVec 7) : NextCanonical (execWinb b s) := by
  refine canonical_runInstr h _ fun I => ?_
  grind [Eff.canonical_ok, Eff.canonical_error, Iss.put_mem]

/-! ### Accesses to memory (`Machine.Memory`) -/

theorem Iss.canonical_startWalk (I : Iss) {s : State} (h : s.mem.Canonical) (va : Nat) : (I.startWalk s va).mem.Canonical := by
  grind [Iss.startWalk, State.updMem, Iss.stall_mem, MemSt.Canonical]

theorem Iss.canonical_access (I : Iss) {s : State} (h : s.mem.Canonical) (q : Need) (a : BitVec 7) (ls : List Nat)
    {f : List LaneAcc → Eff} (hf : ∀ l, Eff.Canonical (f l)) : Eff.Canonical (I.access s q a ls f) := by
  grind [Iss.access, Iss.canonical_startWalk, Iss.canonical_reportLanes, Iss.stall_mem, Eff.canonical_ok, Eff.canonical_error]

@[simp] theorem Iss.claim_mem (I : Iss) (s : State) (x : LaneAcc) (n : Nat) : (I.claim s x n).mem = s.mem := by
  grind [Iss.claim, State.claim_mem]

theorem Iss.canonical_storeLane (I : Iss) {s : State} (h : s.mem.Canonical) (x : LaneAcc) (home : Bool) (bs : List Byte) :
    (I.storeLane s x home bs).mem.Canonical := by
  grind [Iss.storeLane, State.canonical_storeBytes, State.canonical_drainThread, State.canonical_storeHidden, Iss.claim_mem]

theorem Iss.canonical_loadLane (I : Iss) {s : State} (h : s.mem.Canonical) (x : LaneAcc) (home : Bool) (n : Nat) :
    (I.loadLane s x home n).1.mem.Canonical := by
  grind [Iss.loadLane, State.canonical_loadSeen]

theorem canonical_loadLanes (I : Iss) (n : Nat) (home : Bool) {s : State} (h : s.mem.Canonical) (l : List LaneAcc) :
    (loadLanes I n home s l).1.mem.Canonical := by
  induction l generalizing s with
  | nil => exact h
  | cons x l ih => exact ih (Iss.canonical_loadLane I h _ _ _)

@[simp] theorem canonical_execLd {s : State} (h : s.mem.Canonical) (p : Option Pfx) (d a : BitVec 7) (sc : BitVec 3)
    (k : BitVec 2) (w : BitVec 3) : NextCanonical (execLd p d a sc k w s) := by
  refine canonical_runInstr h _ fun I => ?_
  grind [Eff.canonical_ok, Iss.canonical_access, canonical_loadLanes, State.canonical_acquire, Iss.writeTagged_mem]

theorem Iss.canonical_storeLanes (I : Iss) (home : Bool) (f : Nat → List Byte) {s : State} (h : s.mem.Canonical)
    (l : List LaneAcc) : (I.storeLanes home f s l).mem.Canonical := by
  grind [Iss.storeLanes, Iss.canonical_storeLane, State.canonical_foldl]

theorem Iss.canonical_clearWhole (I : Iss) {s : State} (h : s.mem.Canonical) (n : Nat) (l : List LaneAcc) :
    (I.clearWhole s n l).mem.Canonical := by
  grind [Iss.clearWhole, State.canonical_wroteWhole]

theorem canonical_markLanes (mark : Nat) {s : State} (h : s.mem.Canonical) (l : List LaneAcc) :
    (markLanes mark s l).mem.Canonical := by
  grind [markLanes, State.updMem, MemSt.Canonical.raiseMark, State.canonical_foldl]

theorem Iss.canonical_fencedMarks (I : Iss) {s : State} (h : s.mem.Canonical) (n : Nat) (l : List LaneAcc) :
    (I.fencedMarks s n l).mem.Canonical := by
  grind [Iss.fencedMarks, State.updMem, MemSt.Canonical.raiseMark, State.canonical_foldl]

theorem Iss.canonical_releaseFor (I : Iss) {s : State} (h : s.mem.Canonical) (m : BitVec 32) (scope : Nat) :
    (I.releaseFor s m scope).1.mem.Canonical := by
  grind [Iss.releaseFor, State.canonical_drainThread, State.canonical_release, State.canonical_foldl]

@[simp] theorem canonical_execSt {s : State} (h : s.mem.Canonical) (p : Option Pfx) (d a : BitVec 7) (sc : BitVec 3)
    (k : BitVec 2) (w : BitVec 3) : NextCanonical (execSt p d a sc k w s) := by
  refine canonical_runInstr h _ fun I => ?_
  grind [Eff.canonical_ok, Iss.canonical_access, Iss.canonical_releaseFor, Iss.canonical_clearWhole, Iss.canonical_storeLanes,
    canonical_markLanes, Iss.canonical_storeLane, State.canonical_bufferStore, Iss.canonical_fencedMarks, Iss.put_mem,
    Iss.claim_mem, State.canonical_foldl]

@[simp] theorem canonical_execLdc {s : State} (h : s.mem.Canonical) (p : Option Pfx) (d a : BitVec 7) (w : BitVec 3) :
    NextCanonical (execLdc p d a w s) := by
  refine canonical_runInstr h _ fun I => ?_
  grind [Eff.canonical_ok, Eff.canonical_error, Iss.canonical_startWalk, Iss.canonical_reportLanes, canonical_loadLanes,
    Iss.stall_mem, Iss.writeTagged_mem]

theorem canonical_longLanes {I : Iss} {f : State → LaneAcc → State × Nat}
    (hf : ∀ s x, s.mem.Canonical → (f s x).1.mem.Canonical) (q : Need) (a : BitVec 7) {s : State} (h : s.mem.Canonical)
    (l : List Nat) : (longLanes I q a f s l).1.mem.Canonical := by
  induction l generalizing s with
  | nil => exact h
  | cons x l ih => grind [longLanes, Iss.canonical_reportAt]

theorem Iss.canonical_endLong (I : Iss) {s : State} (h : s.mem.Canonical) (p : Option Pfx) (r : LongEnd) (done : Iss)
    (last : Iss → Iss) : Eff.Canonical (I.endLong s p r done last) := by
  cases r <;> grind [Iss.endLong, Iss.canonical_startWalk, Iss.put_mem, Iss.stall_mem, Eff.canonical_ok, Eff.canonical_error]

@[simp] theorem canonical_execLdx {s : State} (h : s.mem.Canonical) (p : Option Pfx) (d a : BitVec 7) (w : BitVec 3) :
    NextCanonical (execLdx p d a w s) := by
  refine canonical_runInstr h _ fun I => ?_
  grind [canonical_longLanes, Iss.canonical_loadLane, Iss.canonical_endLong]

@[simp] theorem canonical_execStx {s : State} (h : s.mem.Canonical) (p : Option Pfx) (d a : BitVec 7) (w : BitVec 3) :
    NextCanonical (execStx p d a w s) := by
  refine canonical_runInstr h _ fun I => ?_
  grind [canonical_longLanes, Iss.canonical_storeLane, Iss.canonical_fencedMarks, Iss.canonical_endLong]

theorem Iss.canonical_rmw (I : Iss) {s : State} (h : s.mem.Canonical) (x : LaneAcc) (n : Nat) (home : Bool) (f : Nat → Nat) :
    (I.rmw s x n home f).1.mem.Canonical := by
  grind [Iss.rmw, State.canonical_drainThread, State.canonical_loadSeen, Iss.canonical_storeLane]

@[simp] theorem canonical_execRedm {s : State} (h : s.mem.Canonical) (p : Option Pfx) (d a : BitVec 7) (k : BitVec 2)
    (sc : BitVec 3) (o : BitVec 3) (t : BitVec 2) : NextCanonical (execRedm p d a k sc o t s) := by
  refine canonical_runInstr h _ fun I => ?_
  grind [Iss.canonical_releaseFor, canonical_longLanes, Iss.canonical_rmw, canonical_markLanes, Iss.canonical_fencedMarks,
    Iss.canonical_endLong]

theorem Iss.canonical_atomLanes (I : Iss) (n : Nat) (home : Bool) (f : Nat → Nat → Nat) {s : State} (h : s.mem.Canonical)
    (l : List LaneAcc) : (I.atomLanes n home f s l).1.mem.Canonical := by
  induction l generalizing s with
  | nil => exact h
  | cons x l ih => exact ih (Iss.canonical_rmw I h _ _ _ _)

theorem Iss.canonical_atomic (I : Iss) {s : State} (h : s.mem.Canonical) (p : Option Pfx) (d a : BitVec 7) (k : BitVec 2)
    (sc : BitVec 3) (o t : Nat) (cmp : BitVec 7) : Eff.Canonical (I.atomic s p d a k sc o t cmp) := by
  unfold Iss.atomic
  dsimp only
  refine I.canonical_access h _ _ _ fun l => Eff.canonical_ok.2 ?_
  rw [Iss.writeTagged_mem]
  have h1 : (if decide (k = 2) || decide (k = 3) then I.releaseFor s (I.warp.eff p) (scopeOf sc) else (s, 0)).1.mem.Canonical :=
    State.canonical_ite_fst (I.canonical_releaseFor h _ _) h
  have h2 := fun n home f => I.canonical_atomLanes n home f h1 l
  refine State.canonical_ite (State.canonical_acquire ?_ _ _) ?_ <;>
    exact State.canonical_ite (canonical_markLanes _ (h2 _ _ _) l)
      (State.canonical_ite (h2 _ _ _) (I.canonical_fencedMarks (h2 _ _ _) _ l))

@[simp] theorem Iss.enqueue_mem (I : Iss) (s : State) (value : Bool) (offs : List (Nat × Nat)) :
    (I.enqueue s value offs).2.mem = s.mem :=
  rfl

@[simp] theorem State.spadWrite_mem (s : State) (core off : Nat) (bs : List Byte) : (s.spadWrite core off bs).mem = s.mem := rfl

@[simp] theorem State.spadWhole_mem (s : State) (core : Nat) (l : List (Nat × Nat)) : (s.spadWhole core l).mem = s.mem := by
  unfold State.spadWhole
  split <;> rfl

/-- A loop whose step is given by an equation: the kernel then compares states, where it would evaluate a comparison with 2^31 to
compare their memories. -/
theorem State.canonical_foldl_of_eq {α : Type} {f : State → α → State}
    (hf : ∀ s x t, t = f s x → s.mem.Canonical → t.mem.Canonical) (l : List α) {s : State} (h : s.mem.Canonical) :
    (l.foldl f s).mem.Canonical :=
  State.canonical_foldl (fun s x => hf s x _ rfl) l h

theorem State.canonical_recheckBytes {s : State} (h : s.mem.Canonical) (core : Nat) : (s.recheckBytes core).mem.Canonical := by
  unfold State.recheckBytes
  refine State.canonical_foldl_of_eq (fun s o t e hs => ?_) _ h
  split at e <;> subst e
  · exact State.canonical_acquire hs core ((s.core core).bcMark.get 0 o)
  · exact hs

theorem Iss.canonical_spad (I : Iss) {s : State} (h : s.mem.Canonical) (q : Need) (queued : Bool) (offs : List (Nat × Nat))
    {f : Eff} (hf : Eff.Canonical f) : Eff.Canonical (I.spad s q queued offs f) := by
  grind [Iss.spad, Iss.park_mem, Iss.stall_mem, Eff.canonical_ok, Eff.canonical_error]

@[simp] theorem canonical_execLdl {s : State} (h : s.mem.Canonical) (p : Option Pfx) (d a : BitVec 7) (_q : BitVec 1)
    (w : BitVec 3) : NextCanonical (execLdl p d a _q w s) := by
  refine canonical_runInstr h _ fun I => ?_
  grind [Eff.canonical_ok, Iss.canonical_spad, Iss.enqueue_mem, Iss.writeTagged_mem]

@[simp] theorem canonical_execStl {s : State} (h : s.mem.Canonical) (p : Option Pfx) (d a : BitVec 7) (q : BitVec 1)
    (w : BitVec 3) : NextCanonical (execStl p d a q w s) := by
  refine canonical_runInstr h _ fun I => ?_
  grind [Eff.canonical_ok, State.canonical_drainThread, State.canonical_recheckBytes, Iss.canonical_spad, Iss.enqueue_mem,
    State.spadWrite_mem, State.spadWhole_mem, Iss.put_mem, State.canonical_foldl]

theorem Iss.canonical_atomicL (I : Iss) {s : State} (h : s.mem.Canonical) (p : Option Pfx) (d a : BitVec 7) (k : BitVec 2)
    (o t : Nat) (cmp : BitVec 7) : Eff.Canonical (I.atomicL s p d a k o t cmp) := by
  grind [Iss.atomicL, State.canonical_drainThread, State.canonical_recheckBytes, Iss.canonical_spad, Iss.enqueue_mem,
    State.spadWrite_mem, Iss.writeTagged_mem, Eff.canonical_ok, State.foldl_fst_mem, State.canonical_foldl]

theorem Iss.canonical_spadWindow (I : Iss) {s : State} (h : s.mem.Canonical) (offs : List (Nat × Nat)) {f : Eff}
    (hf : Eff.Canonical f) : Eff.Canonical (I.spadWindow s offs f) := by
  grind [Iss.spadWindow, Eff.canonical_error]

@[simp] theorem canonical_execPres {s : State} (h : s.mem.Canonical) (d a : BitVec 7) : NextCanonical (execPres d a s) := by
  refine canonical_runInstr h _ fun I => ?_
  grind [Eff.canonical_ok, Iss.canonical_spadWindow, Iss.writeTagged_mem]

@[simp] theorem canonical_execPclr {s : State} (h : s.mem.Canonical) (a : BitVec 7) : NextCanonical (execPclr a s) := by
  refine canonical_runInstr h _ fun I => ?_
  grind [Eff.canonical_ok, Iss.canonical_spadWindow, Iss.put_mem, State.updCore_mem, State.canonical_foldl]

@[simp] theorem State.setPresent_mem (s : State) (core line : Nat) : (s.setPresent core line).mem = s.mem := rfl

@[simp] theorem canonical_execPset {s : State} (h : s.mem.Canonical) (a : BitVec 7) : NextCanonical (execPset a s) := by
  refine canonical_runInstr h _ fun I => ?_
  grind [Eff.canonical_ok, State.canonical_drainThread, Iss.canonical_spadWindow, State.setPresent_mem, Iss.put_mem,
    State.canonical_foldl]

/-! ### Scratchpad, fences, barriers and maintenance (`Machine.Sync`) -/

theorem Iss.canonical_drainFor (I : Iss) {s : State} (h : s.mem.Canonical) (m : BitVec 32) : (I.drainFor s m).mem.Canonical := by
  grind [Iss.drainFor, State.canonical_drainThread, State.canonical_foldl]

@[simp] theorem canonical_execFenceAcq {s : State} (h : s.mem.Canonical) (sc : BitVec 7) : NextCanonical (execFenceAcq sc s) := by
  refine canonical_runInstr h _ fun I => ?_
  grind [Eff.canonical_ok, State.canonical_acquireHead, Iss.put_mem]

@[simp] theorem canonical_execFenceRel {s : State} (h : s.mem.Canonical) (sc : BitVec 7) : NextCanonical (execFenceRel sc s) := by
  refine canonical_runInstr h _ fun I => ?_
  grind [Eff.canonical_ok, Iss.canonical_releaseFor, Iss.put_mem]

@[simp] theorem canonical_execFenceFull {s : State} (h : s.mem.Canonical) (sc : BitVec 7) :
    NextCanonical (execFenceFull sc s) := by
  refine canonical_runInstr h _ fun I => ?_
  grind [Eff.canonical_ok, State.canonical_fullFence, Iss.canonical_drainFor, Iss.put_mem]

@[simp] theorem canonical_execIfence {s : State} (h : s.mem.Canonical) : NextCanonical (execIfence s) := by
  refine canonical_runInstr h _ fun I => ?_
  grind [Eff.canonical_ok, Iss.canonical_drainFor, State.updCore_mem, Iss.put_mem]

theorem Iss.canonical_arrive (I : Iss) {s : State} (h : s.mem.Canonical) (a : BitVec 7) (n : Nat) (take : Bool) (carry : Nat)
    (wait : Bool) : Eff.Canonical (I.arrive s a n take carry wait) := by
  grind [Iss.arrive, Iss.canonical_drainFor, State.canonical_completeBar, Iss.park_mem, Iss.put_mem, Eff.canonical_ok,
    Eff.canonical_error]

@[simp] theorem canonical_execBarTake {s : State} (h : s.mem.Canonical) (k : BitVec 3) (n : BitVec 7) :
    NextCanonical (execBarTake k n s) := by
  refine canonical_runInstr h _ fun I => ?_
  grind [Eff.canonical_error, Iss.canonical_arrive]

@[simp] theorem canonical_execBarw {s : State} (h : s.mem.Canonical) (n : BitVec 7) : NextCanonical (execBarw n s) := by
  refine canonical_runInstr h _ fun I => ?_
  grind [Eff.canonical_ok, Iss.put_mem]

theorem Iss.canonical_byteWord (I : Iss) {s : State} (h : s.mem.Canonical) (a : BitVec 7) (reads : Bool) {f : Nat → Eff}
    (hf : ∀ o, Eff.Canonical (f o)) : Eff.Canonical (I.byteWord s a reads f) := by
  grind [Iss.byteWord, Iss.park_mem, Iss.stall_mem, Eff.canonical_ok, Eff.canonical_error]

@[simp] theorem canonical_execBci {s : State} (h : s.mem.Canonical) (a b : BitVec 7) : NextCanonical (execBci a b s) := by
  refine canonical_runInstr h _ fun I => ?_
  grind [Eff.canonical_ok, State.canonical_recheckBytes, Iss.canonical_byteWord, State.spadWrite_mem, State.updCore_mem,
    Iss.put_mem]

@[simp] theorem canonical_execBca {s : State} (h : s.mem.Canonical) (a b : BitVec 7) : NextCanonical (execBca a b s) := by
  refine canonical_runInstr h _ fun I => ?_
  grind [Eff.canonical_ok, Iss.canonical_drainFor, State.canonical_recheckBytes, Iss.canonical_byteWord, State.spadWrite_mem,
    Iss.put_mem]

@[simp] theorem canonical_execBcw {s : State} (h : s.mem.Canonical) (a b : BitVec 7) : NextCanonical (execBcw a b s) := by
  refine canonical_runInstr h _ fun I => ?_
  grind [Eff.canonical_ok, State.canonical_recheckBytes, Iss.canonical_byteWord, State.spadWrite_mem, Iss.park_mem]

@[simp] theorem canonical_execPref {s : State} (h : s.mem.Canonical) (a l : BitVec 7) : NextCanonical (execPref a l s) := by
  refine canonical_runInstr h _ fun I => ?_
  grind [Eff.canonical_ok, State.canonical_l1Fill, State.canonical_l2Core, Iss.put_mem]

@[simp] theorem canonical_execCwb {s : State} (h : s.mem.Canonical) (a b : BitVec 7) : NextCanonical (execCwb a b s) := by
  refine canonical_runInstr h _ fun I => ?_
  grind [Eff.canonical_ok, State.canonical_flushLines, Iss.canonical_drainFor, Iss.put_mem]

@[simp] theorem canonical_execCinv {s : State} (h : s.mem.Canonical) (a b : BitVec 7) : NextCanonical (execCinv a b s) := by
  refine canonical_runInstr h _ fun I => ?_
  grind [Eff.canonical_ok, State.canonical_flushLines, Iss.canonical_drainFor, Iss.put_mem]

@[simp] theorem canonical_execCfls {s : State} (h : s.mem.Canonical) (a b : BitVec 7) : NextCanonical (execCfls a b s) := by
  refine canonical_runInstr h _ fun I => ?_
  dsimp only
  split
  · simpa using h
  · exact Eff.canonical_ok.2 (State.canonical_flushLines (I.canonical_drainFor h _) _ _ _)

theorem State.canonical_tlbDrop {s : State} (h : s.mem.Canonical) (p : TlbEnt → Bool) (q : WalkEnt → Bool) :
    (s.tlbDrop p q).mem.Canonical :=
  h

theorem State.canonical_drainUsers {s : State} (h : s.mem.Canonical) (p : TlbEnt → Bool) : (s.drainUsers p).mem.Canonical := by
  grind [State.drainUsers, State.canonical_performStore, State.updCore_mem, State.canonical_foldl]

@[simp] theorem canonical_execTlbi {s : State} (h : s.mem.Canonical) (a r : BitVec 7) : NextCanonical (execTlbi a r s) := by
  refine canonical_runInstr h _ fun I => ?_
  grind [Eff.canonical_ok, Eff.canonical_error, State.canonical_tlbDrop, State.canonical_fullFence, State.canonical_drainUsers,
    Iss.put_mem]

/-! ### Row instructions and events of the bus (`Machine.Rows`) -/

@[simp] theorem State.wakeCtl_mem (s : State) (cl : Nat) (p : Wait → Bool) : (s.wakeCtl cl p).mem = s.mem := rfl

theorem Iss.canonical_rowOf (I : Iss) {s : State} (h : s.mem.Canonical) (a : BitVec 7) {f : State → TlbEnt → Nat → Nat → Eff}
    (hf : ∀ s e pa bank, s.mem.Canonical → Eff.Canonical (f s e pa bank)) : Eff.Canonical (I.rowOf s a f) := by
  grind [Iss.rowOf, Iss.canonical_startWalk, State.canonical_settleStack, Eff.canonical_ok, Eff.canonical_error]

theorem Iss.canonical_rowFault (I : Iss) {s : State} (h : s.mem.Canonical) (a : BitVec 7) (cause bank : Nat) :
    Eff.Canonical (I.rowFault s a cause bank) := by
  grind [Iss.rowFault, Eff.canonical_error]

theorem State.canonical_cleanRow {s : State} (h : s.mem.Canonical) (row : Nat) : (s.cleanRow row).mem.Canonical := by
  grind [State.cleanRow, State.canonical_recall, State.updMem, State.canonical_foldl, MemSt.Canonical]

@[simp] theorem canonical_execRact {s : State} (h : s.mem.Canonical) (a : BitVec 7) : NextCanonical (execRact a s) := by
  refine canonical_runInstr h _ fun I => ?_
  grind [Eff.canonical_ok, Iss.canonical_rowOf, State.canonical_cleanRow, Iss.canonical_rowFault, Iss.stall_mem,
    State.updCluster_mem, Iss.put_mem, State.updStack_mem]

theorem Iss.canonical_rowEntry (I : Iss) {s : State} (h : s.mem.Canonical) (a : BitVec 7) {f : State → RowEnt → Nat → Nat → Eff}
    (hf : ∀ s r pa bank, s.mem.Canonical → Eff.Canonical (f s r pa bank)) : Eff.Canonical (I.rowEntry s a f) := by
  grind [Iss.rowEntry, Iss.canonical_rowOf, Iss.canonical_rowFault]

theorem Iss.canonical_reportRow (I : Iss) {s : State} (h : s.mem.Canonical) (a : BitVec 7) : (I.reportRow s a).mem.Canonical := by
  grind [Iss.reportRow, State.canonical_reportSectors]

theorem Iss.canonical_consume (I : Iss) {s : State} (h : s.mem.Canonical) (a : BitVec 7) (tile : Option Nat) (off : Nat) :
    Eff.Canonical (I.consume s a tile off) := by
  grind [Iss.consume, Iss.canonical_rowEntry, Iss.canonical_reportRow, Iss.canonical_rowFault, Iss.stall_mem, Iss.put_mem,
    State.updCluster_mem, Eff.canonical_ok]

@[simp] theorem canonical_execRcon {s : State} (h : s.mem.Canonical) (t a : BitVec 7) : NextCanonical (execRcon t a s) := by
  refine canonical_runInstr h _ fun I => ?_
  grind [Eff.canonical_ok, Eff.canonical_error, State.canonical_settleStack, Iss.canonical_consume, Iss.stall_mem]

@[simp] theorem canonical_execRconWs {s : State} (h : s.mem.Canonical) (a b : BitVec 7) : NextCanonical (execRconWs a b s) := by
  refine canonical_runInstr h _ fun I => ?_
  grind [Eff.canonical_error, Iss.canonical_rowOf, Iss.canonical_consume]

@[simp] theorem canonical_execRcls {s : State} (h : s.mem.Canonical) (a : BitVec 7) : NextCanonical (execRcls a s) := by
  refine canonical_runInstr h _ fun I => ?_
  grind [Eff.canonical_ok, Iss.canonical_rowEntry, State.canonical_startPrecharge, Iss.canonical_rowFault, Iss.put_mem,
    State.updCluster_mem]

@[simp] theorem canonical_execRstat {s : State} (h : s.mem.Canonical) (d a : BitVec 7) : NextCanonical (execRstat d a s) := by
  refine canonical_runInstr h _ fun I => ?_
  grind [Eff.canonical_ok, Iss.canonical_rowOf, Iss.whole_mem]

theorem State.canonical_wakeMatrix {s : State} (h : s.mem.Canonical) (cl : Nat) : (s.wakeMatrix cl).mem.Canonical := by
  grind [State.wakeMatrix, State.canonical_fullFence, State.wakeCtl_mem, State.canonical_foldl]

theorem State.canonical_wakeRows {s : State} (h : s.mem.Canonical) (stack : Nat) : (s.wakeRows stack).mem.Canonical := by
  grind [State.wakeRows, State.canonical_wakeMatrix]

@[simp] theorem canonical_execRowTransferEnd {s : State} (h : s.mem.Canonical) : NextCanonical (execRowTransferEnd s) := by
  grind [execRowTransferEnd, nextCanonical_next, State.canonical_wakeRows, State.canonical_settleCluster, State.until_mem]

@[simp] theorem canonical_execActivateToFirstConsume {s : State} (h : s.mem.Canonical) :
    NextCanonical (execActivateToFirstConsume s) := by
  grind [execActivateToFirstConsume, nextCanonical_next, State.canonical_wakeRows, State.until_mem]

@[simp] theorem canonical_execPrechargeEnd {s : State} (h : s.mem.Canonical) : NextCanonical (execPrechargeEnd s) := by
  grind [execPrechargeEnd, nextCanonical_next, State.canonical_wakeRows, State.canonical_settleStack, State.until_mem]

@[simp] theorem canonical_execRowForcedClose {s : State} (h : s.mem.Canonical) : NextCanonical (execRowForcedClose s) := by
  grind [execRowForcedClose, nextCanonical_next, State.canonical_wakeRows, State.canonical_settleCluster, State.until_mem]

@[simp] theorem canonical_execBankRefresh {s : State} (h : s.mem.Canonical) : NextCanonical (execBankRefresh s) := by
  grind [execBankRefresh, nextCanonical_next, State.canonical_settleStack, State.canonical_updBank, State.until_mem]

/-! ### Tiles and matrix work (`Machine.Matrix`) -/

@[simp] theorem canonical_execMatrixExecStart {s : State} (h : s.mem.Canonical) : NextCanonical (execMatrixExecStart s) := by
  grind [execMatrixExecStart, nextCanonical_next, State.canonical_settleCluster, State.updMx_mem]

theorem State.canonical_scaleFill {s : State} (h : s.mem.Canonical) (cl id line : Nat) :
    (s.scaleFill cl id line).mem.Canonical := by
  grind [State.scaleFill, State.canonical_l2Access]

@[simp] theorem canonical_execScaleFetchDone {s : State} (h : s.mem.Canonical) : NextCanonical (execScaleFetchDone s) := by
  grind [execScaleFetchDone, nextCanonical_next, State.canonical_scaleFill, State.nextFree_mem, State.updMx_mem]

@[simp] theorem State.ctlFlags_mem (s : State) (cl : Nat) (fl : Flags) : (s.ctlFlags cl fl).mem = s.mem := by
  unfold State.ctlFlags
  split <;> rfl

@[simp] theorem canonical_execMatrixExecDone {s : State} (h : s.mem.Canonical) : NextCanonical (execMatrixExecDone s) := by
  grind [execMatrixExecDone, nextCanonical_next, State.canonical_wakeMatrix, State.ctlFlags_mem, State.updMx_mem]

@[simp] theorem canonical_execSharedTileWriteDone {s : State} (h : s.mem.Canonical) :
    NextCanonical (execSharedTileWriteDone s) := by
  grind [execSharedTileWriteDone, nextCanonical_next, State.canonical_wakeMatrix, State.updMx_mem]

@[simp] theorem canonical_execTshape {s : State} (h : s.mem.Canonical) (t a : BitVec 7) : NextCanonical (execTshape t a s) := by
  refine canonical_runInstr h _ fun I => ?_
  grind [Eff.canonical_ok, Eff.canonical_error, State.updMx_mem, Iss.put_mem, State.shareTile_mem]

@[simp] theorem canonical_execOmap {s : State} (h : s.mem.Canonical) (t a : BitVec 7) : NextCanonical (execOmap t a s) := by
  refine canonical_runInstr h _ fun I => ?_
  grind [Eff.canonical_ok, Eff.canonical_error, Iss.put_mem, State.updMx_mem]

theorem Iss.canonical_tileWait (I : Iss) {s : State} (h : s.mem.Canonical) (t : Nat) {f : State → Eff}
    (hf : ∀ s, s.mem.Canonical → Eff.Canonical (f s)) : Eff.Canonical (I.tileWait s t f) := by
  grind [Iss.tileWait, State.canonical_settleStack, Iss.stall_mem, Eff.canonical_ok]

@[simp] theorem canonical_execTclr {s : State} (h : s.mem.Canonical) (t : BitVec 7) : NextCanonical (execTclr t s) := by
  refine canonical_runInstr h _ fun I => ?_
  grind [Eff.canonical_ok, Eff.canonical_error, Iss.canonical_tileWait, Iss.put_mem, State.tileWrite_mem]

theorem canonical_ctlItems {I : Iss} {f : State → Nat → LaneAcc → State}
    (hf : ∀ s r x, s.mem.Canonical → (f s r x).mem.Canonical) (q : Need) (va : Nat → Nat) {s : State} (h : s.mem.Canonical)
    (l : List Nat) : (ctlItems I q va f s l).1.mem.Canonical := by
  induction l generalizing s with
  | nil => exact h
  | cons r l ih => grind [ctlItems, Iss.canonical_reportAt]

@[simp] theorem canonical_execTld {s : State} (h : s.mem.Canonical) (t a b : BitVec 7) : NextCanonical (execTld t a b s) := by
  refine canonical_runInstr h _ fun I => ?_
  grind [Eff.canonical_error, Iss.canonical_tileWait, canonical_ctlItems, State.canonical_loadSeen, Iss.canonical_endLong,
    State.tileWrite_mem]

theorem State.canonical_poisonRange {s : State} (h : s.mem.Canonical) (core : Nat) (x : LaneAcc) (n : Nat) :
    (s.poisonRange core x n).mem.Canonical := by
  grind [State.poisonRange, State.updMem, State.canonical_l1Drop, State.canonical_foldl, MemSt.Canonical]

@[simp] theorem canonical_execTst {s : State} (h : s.mem.Canonical) (t a b : BitVec 7) : NextCanonical (execTst t a b s) := by
  refine canonical_runInstr h _ fun I => ?_
  grind [Iss.canonical_tileWait, canonical_ctlItems, Iss.canonical_storeLane, State.canonical_poisonRange,
    Iss.canonical_fencedMarks, Iss.canonical_endLong]

theorem Iss.canonical_needAll (I : Iss) {s : State} (h : s.mem.Canonical) (l : List (Nat × Need)) {f : List LaneAcc → Eff}
    (hf : ∀ l, Eff.Canonical (f l)) : Eff.Canonical (I.needAll s l f) := by
  induction l generalizing f with
  | nil => exact hf []
  | cons x l ih => grind [Iss.needAll, Eff.canonical_ok, Eff.canonical_error, Iss.canonical_startWalk, Iss.stall_mem,
    Iss.canonical_reportAt]

theorem State.canonical_loadAll {s : State} (h : s.mem.Canonical) (core : Nat) (l : List (LaneAcc × Nat)) :
    (s.loadAll core l).1.mem.Canonical := by
  induction l generalizing s with
  | nil => exact h
  | cons x l ih => exact ih (State.canonical_loadSeen h _ _ _ _ _ _)

@[simp] theorem canonical_execTfeed {s : State} (h : s.mem.Canonical) (t a b : BitVec 7) : NextCanonical (execTfeed t a b s) := by
  refine canonical_runInstr h _ fun I => ?_
  grind [Eff.canonical_ok, Eff.canonical_error, Iss.canonical_tileWait, Iss.canonical_needAll, State.canonical_loadAll,
    State.shareTile_mem, State.updMx_mem, State.tileWrite_mem, Iss.put_mem, State.canonical_foldl]

theorem Iss.canonical_scalesOk_go (I : Iss) {s : State} (h : s.mem.Canonical) {f : Eff} (hf : Eff.Canonical f) (l : List Nat) :
    Eff.Canonical (Iss.scalesOk.go I s f l) := by
  induction l with
  | nil => exact hf
  | cons va l ih => grind [Iss.scalesOk.go, Eff.canonical_ok, Eff.canonical_error, Iss.canonical_startWalk]

theorem Iss.canonical_scalesOk (I : Iss) {s : State} (h : s.mem.Canonical) (bs : List (Nat × Nat)) {f : Eff}
    (hf : Eff.Canonical f) : Eff.Canonical (I.scalesOk s bs f) := by
  unfold Iss.scalesOk
  dsimp only
  split
  · exact Eff.canonical_error.2 h
  · exact I.canonical_scalesOk_go h hf _

theorem Iss.canonical_enqueueMx (I : Iss) {s : State} (h : s.mem.Canonical) (q : MItem) : Eff.Canonical (I.enqueueMx s q) := by
  grind [Iss.enqueueMx, Iss.put_mem, State.updMx_mem, Eff.canonical_ok]

theorem Iss.canonical_queueRoom (I : Iss) {s : State} (h : s.mem.Canonical) {f : Eff} (hf : Eff.Canonical f) :
    Eff.Canonical (I.queueRoom s f) := by
  grind [Iss.queueRoom, Iss.stall_mem, Eff.canonical_ok]

theorem Iss.canonical_mul (I : Iss) {s : State} (h : s.mem.Canonical) (op : MOp) (c i j : BitVec 7) :
    Eff.Canonical (I.mul s op c i j) := by
  grind [Iss.mul, Iss.canonical_scalesOk, Iss.canonical_queueRoom, Iss.canonical_enqueueMx, Eff.canonical_error]

@[simp] theorem canonical_execMzero {s : State} (h : s.mem.Canonical) (c : BitVec 7) : NextCanonical (execMzero c s) := by
  refine canonical_runInstr h _ fun I => ?_
  grind [Iss.canonical_queueRoom, Iss.canonical_enqueueMx]

@[simp] theorem canonical_execMdrn {s : State} (h : s.mem.Canonical) (c a b : BitVec 7) : NextCanonical (execMdrn c a b s) := by
  refine canonical_runInstr h _ fun I => ?_
  grind [Eff.canonical_error, Iss.canonical_scalesOk, Iss.canonical_queueRoom, Iss.canonical_enqueueMx]

@[simp] theorem canonical_execMload {s : State} (h : s.mem.Canonical) (c a : BitVec 7) : NextCanonical (execMload c a s) := by
  refine canonical_runInstr h _ fun I => ?_
  grind [Eff.canonical_ok, canonical_ctlItems, State.canonical_loadSeen, Iss.canonical_endLong, Iss.stall_mem, State.updMx_mem]

theorem Iss.canonical_mwait (I : Iss) {s : State} (h : s.mem.Canonical) (cls : Nat) : Eff.Canonical (I.mwait s cls) := by
  grind [Iss.mwait, State.canonical_settleStack, State.canonical_wakeMatrix, State.updMx_mem, Iss.park_mem, Eff.canonical_ok,
    Eff.canonical_error]

@[simp] theorem canonical_execScpl {s : State} (h : s.mem.Canonical) (a b : BitVec 7) : NextCanonical (execScpl a b s) := by
  refine canonical_runInstr h _ fun I => ?_
  grind [Eff.canonical_ok, Eff.canonical_error, Iss.stall_mem, Iss.put_mem, State.updMx_mem]

@[simp] theorem canonical_execScinv {s : State} (h : s.mem.Canonical) (a : BitVec 7) : NextCanonical (execScinv a s) := by
  refine canonical_runInstr h _ fun I => ?_
  grind [Eff.canonical_ok, Eff.canonical_error, Iss.stall_mem, Iss.put_mem, State.updMx_mem]

@[simp] theorem canonical_execScq {s : State} (h : s.mem.Canonical) (d a : BitVec 7) : NextCanonical (execScq d a s) := by
  refine canonical_runInstr h _ fun I => ?_
  grind [Eff.canonical_ok, Eff.canonical_error, Iss.whole_mem]

@[simp] theorem canonical_execCbld {s : State} (h : s.mem.Canonical) (c a : BitVec 7) : NextCanonical (execCbld c a s) := by
  refine canonical_runInstr h _ fun I => ?_
  grind [Eff.canonical_ok, Iss.canonical_needAll, State.canonical_loadAll, Iss.stall_mem, Iss.put_mem, State.updMx_mem]

theorem State.canonical_coopDone {s : State} (h : s.mem.Canonical) (cl first size desc : Nat) :
    (s.coopDone cl first size desc).mem.Canonical := by
  grind [State.coopDone, State.canonical_acquireHead, State.updMx_mem, State.wakeCtl_mem, State.canonical_foldl]

@[simp] theorem canonical_execMcoop {s : State} (h : s.mem.Canonical) (a : BitVec 7) : NextCanonical (execMcoop a s) := by
  refine canonical_runInstr h _ fun I => ?_
  grind [Eff.canonical_ok, Eff.canonical_error, State.canonical_coopDone, State.canonical_settleStack, State.canonical_release,
    State.updMx_mem, Iss.park_mem, Iss.stall_mem]

/-! ### Control registers (`Machine.System`) -/

theorem Iss.canonical_protect (I : Iss) {s : State} (h : s.mem.Canonical) (detail : Nat) :
    Eff.Canonical (I.protect s detail) := by
  grind [Iss.protect, Eff.canonical_error]

theorem Iss.canonical_crAcquire (I : Iss) {s : State} (h : s.mem.Canonical) (n : Nat) : (I.crAcquire s n).mem.Canonical := by
  grind [Iss.crAcquire, State.canonical_acquire, State.canonical_acquireHead]

@[simp] theorem canonical_execCrd {s : State} (h : s.mem.Canonical) (d : BitVec 7) (n : BitVec 12) :
    NextCanonical (execCrd d n s) := by
  refine canonical_runInstr h _ fun I => ?_
  grind [Eff.canonical_ok, Iss.canonical_crAcquire, Iss.canonical_protect, Iss.whole_mem, State.nextFree_mem, Iss.writeD_mem]

@[simp] theorem canonical_execCwr {s : State} (h : s.mem.Canonical) (a : BitVec 7) (n : BitVec 12) :
    NextCanonical (execCwr a n s) := by
  refine canonical_runInstr h _ fun I => ?_
  grind [Eff.canonical_ok, Iss.canonical_protect, Iss.put_mem, State.updCluster_mem, State.updQueue_mem, State.updBinding_mem]

@[simp] theorem canonical_execCwrQcfg {s : State} (h : s.mem.Canonical) (a : BitVec 7) : NextCanonical (execCwrQcfg a s) := by
  refine canonical_runInstr h _ fun I => ?_
  grind [Eff.canonical_ok, Eff.canonical_error, Iss.canonical_drainFor, Iss.canonical_startWalk, Iss.canonical_reportAt,
    State.canonical_loadSeen, Iss.put_mem, State.updQueue_mem, Iss.stall_mem]

@[simp] theorem canonical_execCwrTkill {s : State} (h : s.mem.Canonical) (a : BitVec 7) : NextCanonical (execCwrTkill a s) := by
  refine canonical_runInstr h _ fun I => ?_
  grind [Eff.canonical_ok, Iss.canonical_kill, Iss.put_mem]

theorem State.canonical_recheckArv {s : State} (h : s.mem.Canonical) (cl n : Nat) : (s.recheckArv cl n).mem.Canonical := by
  grind [State.recheckArv, State.canonical_acquire, State.canonical_foldl]

@[simp] theorem canonical_execCwrArv {s : State} (h : s.mem.Canonical) (a : BitVec 7) (n : BitVec 5) :
    NextCanonical (execCwrArv a n s) := by
  refine canonical_runInstr h _ fun I => ?_
  grind [Eff.canonical_ok, State.canonical_recheckArv, Iss.canonical_protect, State.updCluster_mem, Iss.put_mem]

@[simp] theorem canonical_execArrw {s : State} (h : s.mem.Canonical) (d a b : BitVec 7) (n : BitVec 5) :
    NextCanonical (execArrw d a b n s) := by
  refine canonical_runInstr h _ fun I => ?_
  grind [Eff.canonical_ok, Iss.canonical_releaseFor, State.canonical_recheckArv, Iss.canonical_protect, State.updCluster_mem,
    Iss.whole_mem, Iss.park_mem]

@[simp] theorem canonical_execRwr {s : State} (h : s.mem.Canonical) (a n : BitVec 7) : NextCanonical (execRwr a n s) := by
  refine canonical_runInstr h _ fun I => ?_
  grind [Eff.canonical_ok, Iss.canonical_releaseFor, Iss.canonical_protect, Iss.put_mem, State.updCluster_mem]

@[simp] theorem State.beat_mem (s : State) (ctx ch n : Nat) : (s.beat ctx ch n).mem = s.mem := rfl

@[simp] theorem canonical_execCancel {s : State} (h : s.mem.Canonical) (a : BitVec 7) : NextCanonical (execCancel a s) := by
  refine canonical_runInstr h _ fun I => ?_
  grind [Eff.canonical_ok, Eff.canonical_error, Iss.put_mem, State.updCtx_mem]

@[simp] theorem canonical_execSpawn {s : State} (h : s.mem.Canonical) (d a b : BitVec 7) : NextCanonical (execSpawn d a b s) := by
  refine canonical_runInstr h _ fun I => ?_
  grind [Eff.canonical_ok, Iss.canonical_releaseFor, Iss.put_mem, State.updQueue_mem]

/-! ### What engines read and write (`Machine.Engine`) -/

theorem State.canonical_partsWrite {s : State} (h : s.mem.Canonical) (l : List Part) (bs : List Byte) :
    (s.partsWrite l bs).mem.Canonical := by
  induction l generalizing s bs with
  | nil => exact h
  | cons p l ih => exact ih (State.canonical_homeWrite h _ _ _ _ _ _) _

theorem State.canonical_l2Parts {s : State} (h : s.mem.Canonical) (ctx cluster : Nat) (l : List Part) (write : Bool) :
    (s.l2Parts ctx cluster l write).mem.Canonical := by
  grind [State.l2Parts, State.canonical_l2Access, State.canonical_foldl]

theorem State.canonical_own {s : State} (h : s.mem.Canonical) (o : Nat) (l : List (Bool × Nat)) : (s.own o l).mem.Canonical := by
  grind [State.own, State.updMem, MemSt.Canonical.setDir, State.canonical_foldl]

theorem State.canonical_disown {s : State} (h : s.mem.Canonical) (o : Nat) : (s.disown o).mem.Canonical := by
  grind [State.disown, State.updMem, MemSt.Canonical]

theorem State.canonical_markLines {s : State} (h : s.mem.Canonical) (mark : Nat) (l : List (Bool × Nat)) :
    (s.markLines mark l).mem.Canonical := by
  grind [State.markLines, State.updMem, MemSt.Canonical.raiseMark, State.canonical_foldl]

theorem State.canonical_engStore {s : State} (h : s.mem.Canonical) (ctx va : Nat) (bs : List Byte) :
    (s.engStore ctx va bs).mem.Canonical := by
  grind [State.engStore, State.canonical_logAppend, State.canonical_partsWrite, State.canonical_markLines]

theorem State.canonical_noteWord {s : State} (h : s.mem.Canonical) (ctx va scope : Nat) :
    (s.noteWord ctx va scope).mem.Canonical := by
  grind [State.noteWord, State.updMem, MemSt.Canonical]

theorem State.canonical_engWord {s : State} (h : s.mem.Canonical) (ctx va code n scope : Nat) :
    (s.engWord ctx va code n scope).mem.Canonical := by
  grind [State.engWord, State.canonical_noteWord, State.canonical_engStore]

theorem State.canonical_doneWord {s : State} (h : s.mem.Canonical) (ctx va code n : Nat) (scope : Nat) :
    (s.doneWord ctx va code n scope).mem.Canonical := by
  grind [State.doneWord, State.canonical_engWord]

@[simp] theorem State.wakeOwned_mem (s : State) : (s.wakeOwned).mem = s.mem := rfl

@[simp] theorem State.wakeEngine_mem (s : State) : (s.wakeEngine).mem = s.mem := rfl

theorem Iss.canonical_command (I : Iss) {s : State} (h : s.mem.Canonical) (room : Bool) (v : BitVec 7) {f : State → Reply}
    (hf : ∀ s, s.mem.Canonical → (f s).Canonical) : Eff.Canonical (I.command s room v f) := by
  grind [Iss.command, Iss.canonical_releaseFor, Iss.stall_mem, Iss.whole_mem, Eff.canonical_ok, Reply.canonical_accept]

theorem State.canonical_descr (s : State) (ctx va n align : Nat) {f : List Byte → Reply} (hf : ∀ bs, (f bs).Canonical) :
    (s.descr ctx va n align f).Canonical := by
  grind [State.descr, Reply.canonical_refuse, Reply.canonical_wait]

@[simp] theorem State.cmdUp_mem (s : State) (slate : Nat) : (s.cmdUp slate).mem = s.mem := by
  simp [State.cmdUp]

@[simp] theorem State.cmdDown_mem (s : State) (slate : Nat) : (s.cmdDown slate).mem = s.mem := by
  simp [State.cmdDown]

@[simp] theorem State.pulse_mem (s : State) (ctx : Nat) : (s.pulse ctx).mem = s.mem := rfl

/-! ### Arbiters (`Machine.Arbiter`) -/

@[simp] theorem State.setArb_mem (s : State) (k : Nat) (a : Arbiter) : (s.setArb k a).mem = s.mem := rfl

/-! ### Bindings and passes (`Machine.Dolly`) -/

theorem Iss.binding_mem {I : Iss} {s : State} {n : Nat} {t : State × Nat × Binding} (e : I.binding s n = some t) :
    t.1.mem = s.mem := by
  simp only [Iss.binding] at e
  split at e
  · cases e
  · split at e
    · split at e <;> cases e
      rfl
    · obtain ⟨x, -, rfl⟩ := Option.map_eq_some_iff.1 e
      rfl

@[simp] theorem State.dollyDone_mem (s : State) (cl : Nat) (p : DollyCmd → Bool) : (s.dollyDone cl p).mem = s.mem := by
  grind [State.dollyDone, State.updCluster_mem, State.wakeEngine_mem, State.pulse_mem, State.cmdDown_mem, State.foldl_mem]

theorem State.canonical_flushWakes {s : State} (h : s.mem.Canonical) (key : Nat) : (s.flushWakes key).mem.Canonical := by
  grind [State.flushWakes, State.canonical_wakeElem, State.dollyDone_mem, State.canonical_foldl]

theorem Iss.canonical_bind (I : Iss) {s : State} (h : s.mem.Canonical) (va : Nat) : Reply.Canonical (I.bind s va) := by
  grind [Iss.bind, State.canonical_descr, Reply.canonical_accept, Reply.canonical_refuse]

theorem Iss.canonical_unbind (I : Iss) {s : State} (h : s.mem.Canonical) (n : Nat) : Reply.Canonical (I.unbind s n) := by
  unfold Iss.unbind
  split
  · simp
  · next t key b e =>
    have ht : t.mem.Canonical := by rw [Iss.binding_mem e]; exact h
    split
    · simp
    · exact Reply.canonical_accept.2 (State.canonical_flushWakes ht key)

theorem Iss.canonical_swBind (I : Iss) {s : State} (h : s.mem.Canonical) (v b : BitVec 7) (va : Nat) (aUsed : Bool) :
    Eff.Canonical (I.swBind s v b va aUsed) := by
  unfold Iss.swBind
  dsimp only
  split
  · exact Eff.canonical_error.2 h
  · refine I.canonical_command h _ v fun s hs => ?_
    split
    · simp
    · split
      · exact I.canonical_unbind hs _
      · exact I.canonical_bind hs va

theorem Iss.canonical_binding {I : Iss} {s : State} (h : s.mem.Canonical) {n key : Nat} {t : State} {b : Binding}
    (e : I.binding s n = some (t, key, b)) : t.mem.Canonical :=
  Iss.binding_mem e ▸ h

@[simp] theorem canonical_execSwPass {s : State} (h : s.mem.Canonical) (v a b : BitVec 7) :
    NextCanonical (execSwPass v a b s) := by
  refine canonical_runInstr h _ fun I => I.canonical_command h _ v fun s hs => ?_
  split
  · exact Reply.canonical_refuse _
  · next hb => exact Reply.canonical_ite (Reply.canonical_refuse _) (by simpa using I.canonical_binding hs hb)

@[simp] theorem canonical_execSwWake {s : State} (h : s.mem.Canonical) (v a b : BitVec 7) :
    NextCanonical (execSwWake v a b s) := by
  refine canonical_runInstr h _ fun I => I.canonical_command h _ v fun s hs => ?_
  dsimp only
  split
  · exact Reply.canonical_refuse _
  split
  · exact Reply.canonical_refuse _
  · next hb =>
    refine State.canonical_descr _ _ _ _ _ fun bs => ?_
    have ht := I.canonical_binding hs hb
    split <;> simpa using ht

@[simp] theorem canonical_execSwStat {s : State} (h : s.mem.Canonical) (v a b : BitVec 7) :
    NextCanonical (execSwStat v a b s) := by
  refine canonical_runInstr h _ fun I => I.canonical_command h _ v fun s hs => ?_
  split
  · exact Reply.canonical_refuse _
  · next hb =>
    have ht := State.canonical_acquire (I.canonical_binding hs hb) I.crew.core
    refine Reply.canonical_ite (Reply.canonical_refuse _) (Reply.canonical_accept.2 (State.canonical_ite (ht _) ?_))
    refine State.canonical_engWord (State.canonical_engStore ?_ _ _ _) _ _ _ _ _
    exact ht _

@[simp] theorem State.needCueCrew_mem (s : State) (key core ctx : Nat) : (s.needCueCrew key core ctx).1.mem = s.mem := by
  unfold State.needCueCrew
  split <;> rfl

@[simp] theorem State.packElem_mem (s : State) (key : Nat) (b : Binding) (cs : List Nat) (j e w : Nat) :
    (s.packElem key b cs j e w).mem = s.mem := by
  simp [State.packElem]

theorem State.canonical_pack {s : State} (h : s.mem.Canonical) (key : Nat) : (s.pack key).mem.Canonical := by
  grind [State.pack, State.canonical_releaseAll, State.canonical_acquireHead, State.needCueCrew_mem, State.updCrew_mem,
    State.packElem_mem, State.updBinding_mem, State.canonical_foldl]

@[simp] theorem State.dropCrew_mem (s : State) (cid : Nat) : (s.dropCrew cid).mem = s.mem := by
  grind [State.dropCrew, State.updCore_mem, State.crewLeft_mem]

theorem State.canonical_stowCue {s : State} (h : s.mem.Canonical) (key : Nat) (on : Nat → Bool) :
    (s.stowCue key on).mem.Canonical := by
  grind [State.stowCue, State.canonical_releaseAll, State.updBinding_mem, State.dropCrew_mem, State.canonical_foldl]

theorem State.canonical_passWord {s : State} (h : s.mem.Canonical) (ctx word code p : Nat) :
    (s.passWord ctx word code p).mem.Canonical := by
  grind [State.passWord, State.canonical_engWord]

@[simp] theorem State.passGone_mem (s : State) (key ctx : Nat) : (s.passGone key ctx).mem = s.mem := by
  grind [State.passGone, State.pulse_mem, State.cmdDown_mem, State.wakeEngine_mem, State.updCluster_mem]

theorem State.canonical_endPass {s : State} (h : s.mem.Canonical) (key code : Nat) : (s.endPass key code).mem.Canonical := by
  grind [State.endPass, State.canonical_releaseAll, State.canonical_logAppend, State.canonical_passWord, State.updBinding_mem,
    State.dropCrew_mem, State.passGone_mem, State.canonical_foldl]

theorem State.canonical_passStart {s : State} (h : s.mem.Canonical) (cl : Nat) : (s.passStart cl).mem.Canonical := by
  unfold State.passStart
  split
  · exact h
  · split
    · exact h
    · split
      · exact h
      · refine State.canonical_foldl (fun _ _ hs => State.canonical_acquireHead hs _) _ ?_
        simpa using h

theorem State.canonical_latchElem {s : State} (h : s.mem.Canonical) (key e : Nat) (woken : Bool) :
    (s.latchElem key e woken).mem.Canonical := by
  grind [State.latchElem, State.canonical_dollyLine, State.canonical_putContext, State.updBinding_mem]

theorem State.canonical_passBlock {s : State} (h : s.mem.Canonical) (key : Nat) : (s.passBlock key).mem.Canonical := by
  grind [State.passBlock, State.canonical_dollyLine, State.canonical_putNum, State.canonical_latchElem, State.canonical_putBit,
    State.updBinding_mem, State.canonical_foldl]

theorem State.canonical_blockPass {s : State} (h : s.mem.Canonical) (key : Nat) : (s.blockPass key).mem.Canonical := by
  grind [State.blockPass, State.canonical_pack, State.canonical_passBlock]

@[simp] theorem canonical_execPassEnd {s : State} (h : s.mem.Canonical) : NextCanonical (execPassEnd s) := by
  grind [execPassEnd, nextCanonical_next, State.canonical_endPass]

theorem State.canonical_wakeApply {s : State} (h : s.mem.Canonical) (cl : Nat) : (s.wakeApply cl).mem.Canonical := by
  unfold State.wakeApply
  dsimp only
  split
  · exact h
  split
  · exact h
  split
  · exact h
  have hw := State.canonical_wakeElem h
  split
  · simp only [State.updCluster_mem, State.pulse_mem]
    split
    · exact hw _ _
    · exact h
  · simp only [State.wakeEngine_mem, State.cmdDown_mem, State.updCluster_mem, State.pulse_mem]
    split
    · exact hw _ _
    · exact h

theorem State.canonical_stopBinding {s : State} (h : s.mem.Canonical) (key : Nat) (reset : Bool) :
    (s.stopBinding key reset).mem.Canonical := by
  grind [State.stopBinding, State.canonical_reveal, State.canonical_stowCue, State.canonical_wakeElem, State.canonical_endPass,
    State.canonical_flushWakes, State.canonical_passWord, State.updBinding_mem, State.passGone_mem, State.canonical_foldl]

@[simp] theorem canonical_execCwait {s : State} (h : s.mem.Canonical) (a b : BitVec 7) : NextCanonical (execCwait a b s) := by
  refine canonical_runInstr h _ fun I => ?_
  grind [Eff.canonical_error, Iss.canonical_endRuns]

@[simp] theorem canonical_execCwake {s : State} (h : s.mem.Canonical) (a : BitVec 7) : NextCanonical (execCwake a s) := by
  refine canonical_runInstr h _ fun I => ?_
  grind [Eff.canonical_ok, Eff.canonical_error, Iss.canonical_releaseFor, State.canonical_wakeElem, Iss.put_mem,
    State.canonical_foldl]

@[simp] theorem canonical_execCloc {s : State} (h : s.mem.Canonical) (d sel : BitVec 7) : NextCanonical (execCloc d sel s) := by
  refine canonical_runInstr h _ fun I => ?_
  grind [Eff.canonical_ok, Eff.canonical_error, Iss.put_mem, Iss.writeD_mem]

/-! ### Copies and collectives (`Machine.Copy`) -/

@[simp] theorem State.spaceWrite_mem (s : State) (c : CopyCmd) (a : Nat) (bs : List Byte) (poison : Bool) :
    (s.spaceWrite c a bs poison).mem = s.mem := by
  grind [State.spaceWrite, State.updCore_mem, State.spadWrite_mem, State.updMx_mem]

@[simp] theorem State.updCopy_mem (s : State) (key : Nat) (f : CopyCmd → CopyCmd) : (s.updCopy key f).mem = s.mem := by
  unfold State.updCopy
  split <;> rfl

@[simp] theorem State.unhold_mem (s : State) (key : Nat) : (s.unhold key).mem = s.mem := by
  grind [State.unhold, State.updCopy_mem, State.spaceWrite_mem, State.foldl_mem]

theorem State.canonical_poisonParts {s : State} (h : s.mem.Canonical) (l : List Part) : (s.poisonParts l).mem.Canonical := by
  grind [State.poisonParts, State.updMem, State.canonical_foldl, MemSt.Canonical]

theorem State.canonical_itemWrite {s : State} (h : s.mem.Canonical) (c : CopyCmd) (poison : Bool) (l : List Move)
    (bss : List (List Byte)) (ps : List (List Part)) : (s.itemWrite c poison l bss ps).mem.Canonical := by
  induction l generalizing s bss ps with
  | nil => exact h
  | cons x l ih =>
    cases bss with
    | nil => exact h
    | cons bs bss =>
      grind [State.itemWrite, State.updCopy_mem, State.spaceWrite_mem, State.canonical_partsWrite, State.canonical_poisonParts]

theorem State.canonical_itemTorn {s : State} (h : s.mem.Canonical) (c : CopyCmd) (data : List (List Byte)) (k : Nat)
    (l : List Move) : (s.itemTorn c data k l).mem.Canonical := by
  induction l generalizing s k with
  | nil => exact h
  | cons x l ih =>
    refine ih ?_ _
    grind [State.canonical_partsWrite, State.canonical_logAppend, State.canonical_markLines, State.spaceWrite_mem]

theorem State.canonical_perform {s : State} (h : s.mem.Canonical) (c : CopyCmd) (i : Nat) : (s.perform c i).1.mem.Canonical := by
  grind [State.perform, State.canonical_itemTorn, State.canonical_l2Parts, State.canonical_reportSectors,
    State.canonical_itemWrite]

theorem State.canonical_itemEnd {s : State} (h : s.mem.Canonical) (key i st : Nat) : (s.itemEnd key i st).mem.Canonical := by
  grind [State.itemEnd, State.canonical_disown, State.canonical_recheckBytes, State.updCopy_mem, State.unhold_mem,
    State.updCore_mem, State.setPresent_mem, State.wakeOwned_mem, State.pulse_mem, State.canonical_foldl]

theorem State.canonical_copyDone {s : State} (h : s.mem.Canonical) (key : Nat) : (s.copyDone key).mem.Canonical := by
  grind [State.copyDone, State.canonical_engStore, State.canonical_doneWord, State.canonical_reap, State.updCopy_mem,
    State.updCluster_mem, State.wakeOwned_mem, State.wakeEngine_mem, State.cmdDown_mem]

theorem State.canonical_copySettle {s : State} (h : s.mem.Canonical) (key : Nat) : (s.copySettle key).mem.Canonical := by
  grind [State.copySettle, State.canonical_copyDone, State.canonical_itemEnd, State.canonical_foldl]

theorem State.canonical_copyStart {s : State} (h : s.mem.Canonical) (key : Nat) : (s.copyStart key).mem.Canonical := by
  grind [State.copyStart, State.canonical_copySettle, State.updCopy_mem]

theorem State.canonical_copyComplete {s : State} (h : s.mem.Canonical) (key : Nat) : (s.copyComplete key).mem.Canonical := by
  grind [State.copyComplete, State.canonical_perform, State.canonical_logAppend, State.canonical_markLines,
    State.canonical_copySettle, State.canonical_itemEnd, State.updCopy_mem]

theorem State.canonical_copyStop {s : State} (h : s.mem.Canonical) (p : CopyCmd → Bool) (st : Nat) :
    (s.copyStop p st).mem.Canonical := by
  grind [State.copyStop, State.canonical_itemEnd, State.canonical_itemTorn, State.canonical_copySettle, State.unhold_mem,
    State.updCopy_mem, State.canonical_foldl]

theorem State.canonical_copyAccept {s : State} (h : s.mem.Canonical) (c : CopyCmd) (owned : List (Nat × List (Bool × Nat))) :
    Reply.Canonical (s.copyAccept c owned) := by
  grind [State.copyAccept, State.canonical_own, State.updCtx_mem, State.updCluster_mem, State.updCore_mem, State.cmdUp_mem,
    Reply.canonical_accept, State.canonical_foldl]

theorem Iss.canonical_copyLocal (I : Iss) {s : State} (h : s.mem.Canonical) (c : CopyCmd) :
    Reply.Canonical (I.copyLocal s c) := by
  grind [Iss.copyLocal, State.canonical_copyAccept, State.canonical_reportSectors, State.canonical_descr, Reply.canonical_refuse]

@[simp] theorem State.noteRounds_mem (s : State) (c : CopyCmd) : (s.noteRounds c).mem = s.mem := rfl

@[simp] theorem State.dropRounds_mem (s : State) (ctx : Nat) : (s.dropRounds ctx).mem = s.mem := rfl

theorem State.canonical_collAccept {s : State} (h : s.mem.Canonical) (c : CopyCmd) : Reply.Canonical (s.collAccept c) := by
  grind [State.collAccept, State.canonical_copyAccept, State.canonical_descr, State.noteRounds_mem, Reply.canonical_refuse]

theorem Iss.canonical_copyCmd (I : Iss) {s : State} (h : s.mem.Canonical) (op : CopyOp) (v a b : BitVec 7) :
    Eff.Canonical (I.copyCmd s op v a b) := by
  unfold Iss.copyCmd
  dsimp only
  generalize (if b = 0 then none else some (I.crew.spadBase + (I.warp.operand b).toNat)) = bword
  split
  · exact Eff.canonical_error.2 h
  split
  · exact Eff.canonical_error.2 h
  split
  · exact Eff.canonical_error.2 h
  refine I.canonical_command h _ v fun s hs => State.canonical_descr _ _ _ _ _ fun bs => ?_
  split
  · simp
  split
  · exact State.canonical_collAccept hs _
  split
  · exact I.canonical_copyLocal hs _
  · exact I.canonical_copyLocal hs _
  · split
    · simp
    · refine State.canonical_descr _ _ _ _ _ fun ds => ?_
      split
      · simp
      · exact I.canonical_copyLocal hs _
  · exact I.canonical_copyLocal hs _

@[simp] theorem State.collRecord_mem (s : State) (key p st : Nat) : (s.collRecord key p st).mem = s.mem := by
  simp [State.collRecord]

theorem State.canonical_collDeliver {s : State} (h : s.mem.Canonical) (key p : Nat) (bs : List Byte) (poison : Bool) :
    (s.collDeliver key p bs poison).mem.Canonical := by
  grind [State.collDeliver, State.canonical_l2Parts, State.canonical_logAppend, State.canonical_partsWrite,
    State.canonical_markLines, State.canonical_poisonParts, State.updCopy_mem]

theorem State.canonical_collPut {s : State} (h : s.mem.Canonical) (c : CopyCmd) (d : Nat) (bs : List Byte)
    (poison : List (Nat × Nat)) : (s.collPut c d bs poison).mem.Canonical := by
  grind [State.collPut, State.canonical_l2Parts, State.canonical_reportSectors, State.canonical_logAppend,
    State.canonical_partsWrite, State.canonical_markLines, State.canonical_poisonParts]

theorem State.canonical_collOwn {s : State} (h : s.mem.Canonical) (c : CopyCmd) : (s.collOwn c).mem.Canonical := by
  grind [State.collOwn, State.canonical_collPut]

theorem State.canonical_collEnd {s : State} (h : s.mem.Canonical) (key : Nat) : (s.collEnd key).mem.Canonical := by
  grind [State.collEnd, State.canonical_copyDone, State.canonical_disown, State.pulse_mem]

theorem State.canonical_collSettle {s : State} (h : s.mem.Canonical) (key : Nat) : (s.collSettle key).mem.Canonical := by
  grind [State.collSettle, State.canonical_collEnd, State.canonical_collOwn, State.updCopy_mem]

theorem State.canonical_collPair {s : State} (h : s.mem.Canonical) (k1 : Nat) (c1 : CopyCmd) (k2 : Nat) (c2 : CopyCmd) :
    (s.collPair k1 c1 k2 c2).mem.Canonical := by
  grind [State.collPair, State.canonical_l2Parts, State.canonical_reportSectors, State.canonical_collDeliver,
    State.canonical_collSettle, State.collRecord_mem]

theorem State.canonical_collItem {s : State} (h : s.mem.Canonical) (key p val : Nat) (bytes : List Nat) :
    (s.collItem key p val bytes).mem.Canonical := by
  grind [State.collItem, State.canonical_collSettle, State.canonical_collPair, State.canonical_reportSectors,
    State.canonical_collDeliver, State.collRecord_mem]

theorem State.canonical_collCommit {s : State} (h : s.mem.Canonical) (key : Nat) (remote : Bool) :
    (s.collCommit key remote).mem.Canonical := by
  grind [State.collCommit, State.canonical_collEnd, State.canonical_collPut, State.updCopy_mem]

theorem State.canonical_collGone {s : State} (h : s.mem.Canonical) (p : Nat × Nat → Bool) (st : Nat) :
    (s.collGone p st).mem.Canonical := by
  grind [State.collGone, State.canonical_collSettle, State.collRecord_mem, State.canonical_foldl]

theorem State.canonical_collStop {s : State} (h : s.mem.Canonical) (key st : Nat) : (s.collStop key st).mem.Canonical := by
  grind [State.collStop, State.canonical_collSettle, State.updCopy_mem, State.collRecord_mem, State.canonical_foldl]

@[simp] theorem canonical_execXcStat {s : State} (h : s.mem.Canonical) (v a : BitVec 7) : NextCanonical (execXcStat v a s) := by
  refine canonical_runInstr h _ fun I => I.canonical_command h _ v fun s hs => ?_
  split
  · exact Reply.canonical_refuse _
  · exact Reply.canonical_accept.2 (State.canonical_ite (State.canonical_acquire hs _ _) hs)

@[simp] theorem canonical_execXcCanc {s : State} (h : s.mem.Canonical) (v a : BitVec 7) : NextCanonical (execXcCanc v a s) := by
  refine canonical_runInstr h _ fun I => I.canonical_command h _ v fun s hs => ?_
  split
  · exact Reply.canonical_refuse _
  · next key c _ =>
    split
    · exact Reply.canonical_accept.2 hs
    split
    · exact Reply.canonical_accept.2 (State.canonical_collStop hs _ _)
    split
    · exact Reply.canonical_accept.2 hs
    · exact Reply.canonical_accept.2 (State.canonical_copySettle (by simpa using hs) _)

/-! ### Grammar slots, draft trees, the table of R304 (`Machine.Grammar`) -/

theorem canonical_gEnd {s : State} (h : s.mem.Canonical) (st idx : Nat) (detail : Option Nat) :
    Reply.Canonical (gEnd s st idx detail) := by
  grind [gEnd, State.nextFree_mem, Reply.canonical_accept]

theorem Iss.canonical_slotCommand (I : Iss) {s : State} (h : s.mem.Canonical) (v : BitVec 7) (slots : List Nat)
    {f : State → Reply} (hf : ∀ s, s.mem.Canonical → (f s).Canonical) : Eff.Canonical (I.slotCommand s v slots f) := by
  refine I.canonical_command h _ v fun s hs => hf _ ?_
  split <;> exact hs

theorem Iss.canonical_slotWrite (I : Iss) {s : State} (h : s.mem.Canonical) (v : BitVec 7) {f : State → Reply}
    (hf : ∀ s, s.mem.Canonical → (f s).Canonical) : Eff.Canonical (I.slotWrite s v f) :=
  I.canonical_command h _ v hf

theorem Iss.canonical_slotReply (I : Iss) {s : State} (h : s.mem.Canonical) (idx : Nat) (detail : Nat → Option Nat)
    {x : GRes State} (hx : ∀ t l, x = .ok t l → t.mem.Canonical) : (I.slotReply s idx detail x).Canonical := by
  cases x with
  | ok t l => exact canonical_gEnd (State.canonical_l2Parts (hx t l rfl) _ _ _ _) _ _ _
  | bad st l => exact canonical_gEnd (State.canonical_l2Parts h _ _ _ _) _ _ _
  | held host k o => exact Reply.canonical_wait host k o

@[simp] theorem Iss.putSlot_mem (I : Iss) (s : State) (n : Nat) (g : GSlot) : (I.putSlot s n g).mem = s.mem := rfl

theorem GRes.eq_of_bind_ok {α β : Type} {x : GRes α} {t u : β} {l m : List Part} (e : (x.bind fun _ => .ok t l) = .ok u m) :
    u = t := by
  cases x <;> cases e
  rfl

@[simp] theorem canonical_execGpBind {s : State} (h : s.mem.Canonical) (v a b : BitVec 7) :
    NextCanonical (execGpBind v a b s) := by
  refine canonical_runInstr h _ fun I => ?_
  refine Eff.canonical_ite (I.canonical_slotCommand h v [] fun s hs => canonical_gEnd hs _ _ _)
    (Eff.canonical_ite (I.canonical_slotCommand h v [] fun s hs => canonical_gEnd hs _ _ _) ?_)
  refine I.canonical_slotCommand h v _ fun s hs => I.canonical_slotReply hs _ _ fun t l e => ?_
  rw [GRes.eq_of_bind_ok e, Iss.putSlot_mem]
  exact hs

@[simp] theorem canonical_execGpStep {s : State} (h : s.mem.Canonical) (v a b : BitVec 7) :
    NextCanonical (execGpStep v a b s) := by
  refine canonical_runInstr h _ fun I => ?_
  grind [Reply.canonical_wait, Iss.canonical_slotCommand, State.canonical_l2Parts, canonical_gEnd, Iss.putSlot_mem]

@[simp] theorem canonical_execGpFork {s : State} (h : s.mem.Canonical) (v a b : BitVec 7) :
    NextCanonical (execGpFork v a b s) := by
  refine canonical_runInstr h _ fun I => ?_
  grind [Iss.canonical_slotCommand, canonical_gEnd, Iss.putSlot_mem]

@[simp] theorem canonical_execGpRoll {s : State} (h : s.mem.Canonical) (v a b : BitVec 7) :
    NextCanonical (execGpRoll v a b s) := by
  refine canonical_runInstr h _ fun I => ?_
  grind [Iss.canonical_slotCommand, canonical_gEnd, Iss.putSlot_mem]

theorem Iss.canonical_slotQueue (I : Iss) {s : State} (h : s.mem.Canonical) (n : Nat) (detail : Option Nat)
    (out size align : Nat) (w : GWork) : Reply.Canonical (I.slotQueue s n detail out size align w) := by
  grind [Iss.slotQueue, canonical_gEnd, State.updCluster_mem, State.cmdUp_mem]

@[simp] theorem canonical_execGpMask {s : State} (h : s.mem.Canonical) (v a b : BitVec 7) :
    NextCanonical (execGpMask v a b s) := by
  refine canonical_runInstr h _ fun I => ?_
  grind [Reply.canonical_wait, Iss.canonical_slotCommand, Iss.canonical_slotWrite, State.canonical_l2Parts, canonical_gEnd,
    Iss.canonical_slotQueue]

@[simp] theorem canonical_execGpSave {s : State} (h : s.mem.Canonical) (v a b : BitVec 7) :
    NextCanonical (execGpSave v a b s) := by
  refine canonical_runInstr h _ fun I => ?_
  grind [Iss.canonical_slotCommand, Iss.canonical_slotWrite, canonical_gEnd, Iss.canonical_slotQueue]

@[simp] theorem canonical_execGpLoad {s : State} (h : s.mem.Canonical) (v a b : BitVec 7) :
    NextCanonical (execGpLoad v a b s) := by
  refine canonical_runInstr h _ fun I => ?_
  grind [Reply.canonical_wait, Iss.canonical_slotCommand, State.canonical_l2Parts, canonical_gEnd, Iss.putSlot_mem]

theorem State.canonical_gDone {s : State} (h : s.mem.Canonical) (ctx word st detail : Nat) :
    (s.gDone ctx word st detail).mem.Canonical := by
  grind [State.gDone, State.canonical_engWord]

theorem State.canonical_gStore {s : State} (h : s.mem.Canonical) (cl ctx va : Nat) (bs : List Byte) :
    (s.gStore cl ctx va bs).mem.Canonical := by
  grind [State.gStore, State.canonical_engStore, State.canonical_l2Parts]

theorem State.canonical_gPerform {s : State} (h : s.mem.Canonical) (cl : Nat) (c : GCmd) {t : State}
    (e : s.gPerform cl c = some t) : t.mem.Canonical := by
  grind [State.gPerform, State.canonical_gDone, State.canonical_l2Parts, State.canonical_gStore, State.nextFree_mem]

@[simp] theorem State.grammarDone_mem (s : State) (cl i : Nat) (c : GCmd) : (s.grammarDone cl i c).mem = s.mem := by
  simp [State.grammarDone]

theorem State.canonical_grammarPerform {s : State} (h : s.mem.Canonical) (cl n : Nat) :
    (s.grammarPerform cl n).mem.Canonical := by
  unfold State.grammarPerform
  dsimp only
  split
  · exact h
  split
  · exact h
  split
  · exact h
  split
  · exact h
  · next t e => simpa using State.canonical_gPerform h _ _ e

theorem State.canonical_grammarFail {s : State} (h : s.mem.Canonical) (p : Nat → Nat → Bool) :
    (s.grammarFail p).mem.Canonical := by
  grind [State.grammarFail, State.canonical_gDone, State.nextFree_mem, State.grammarDone_mem, State.canonical_foldl]

theorem State.canonical_grammarAbort {s : State} (h : s.mem.Canonical) (ctx : Nat) : (s.grammarAbort ctx).mem.Canonical := by
  grind [State.grammarAbort, State.canonical_grammarFail]

@[simp] theorem canonical_execDtBuild {s : State} (h : s.mem.Canonical) (v a : BitVec 7) : NextCanonical (execDtBuild v a s) := by
  refine canonical_runInstr h _ fun I => I.canonical_command h true v fun s hs => ?_
  dsimp only
  split
  · exact canonical_gEnd hs _ _ _
  split
  · exact Reply.canonical_wait _ _ _
  · exact canonical_gEnd hs _ _ _
  · next bs l0 _ =>
    have h0 := State.canonical_l2Parts hs I.crew.ctx I.cluster l0 false
    split
    · exact canonical_gEnd h0 _ _ _
    split
    · exact Reply.canonical_wait _ _ _
    · exact canonical_gEnd h0 _ _ _
    · next ds l1 _ =>
      have h1 := State.canonical_l2Parts h0 I.crew.ctx I.cluster l1 false
      split
      · exact canonical_gEnd h1 _ _ _
      split
      · exact Reply.canonical_stall _
      split
      · exact canonical_gEnd (State.canonical_gDone h1 _ _ _ _) _ _ _
      · refine canonical_gEnd ?_ _ _ _
        exact State.canonical_gDone (State.canonical_gStore (State.canonical_gStore h1 _ _ _ _) _ _ _ _) _ _ _ _

theorem Iss.canonical_ptCommand (I : Iss) {s : State} (h : s.mem.Canonical) (v : BitVec 7)
    (f : State → Ctx → Nat × Nat × Option Nat × Ctx) : Eff.Canonical (I.ptCommand s v f) := by
  grind [Iss.ptCommand, Iss.canonical_command, canonical_gEnd, State.updCtx_mem]

/-! ### Events of the memory system (`Machine.MemEvents`) -/

theorem State.canonical_dieWalk {s : State} (h : s.mem.Canonical) (die ctx va : Nat) :
    (s.dieWalk die ctx va).1.mem.Canonical := by
  grind [State.dieWalk, State.updMem, MemSt.Canonical]

@[simp] theorem State.wakePage_mem (s : State) (core ctx : Nat) (wt : Wait) (f : Warp → Warp) :
    (s.wakePage core ctx wt f).mem = s.mem :=
  rfl

theorem State.canonical_walkDone {s : State} (h : s.mem.Canonical) (i : Nat) (refused : Bool) :
    (s.walkDone i refused).mem.Canonical := by
  grind [State.walkDone, State.updMem, State.canonical_dieWalk, State.wakePage_mem, State.tlbFill_mem, State.canonical_foldl,
    MemSt.Canonical]

@[simp] theorem canonical_execPriResponse {s : State} (h : s.mem.Canonical) : NextCanonical (execPriResponse s) := by
  grind [execPriResponse, nextCanonical_next, State.wakePage_mem]

@[simp] theorem canonical_execWriteBufferDrain {s : State} (h : s.mem.Canonical) : NextCanonical (execWriteBufferDrain s) := by
  grind [execWriteBufferDrain, nextCanonical_next, State.canonical_performStore, State.setCore_mem]

@[simp] theorem canonical_execScratchpadAccessDone {s : State} (h : s.mem.Canonical) :
    NextCanonical (execScratchpadAccessDone s) := by
  grind [execScratchpadAccessDone, nextCanonical_next, State.setCore_mem, State.updCrew_mem, State.wake_mem]

theorem State.canonical_hostAccess {s : State} (h : s.mem.Canonical) (f : Nat) : (s.hostAccess f).mem.Canonical := by
  grind [State.hostAccess, State.canonical_homePut, State.canonical_partsWrite, State.updFunc_mem]

theorem State.canonical_eccCorrected {s : State} (h : s.mem.Canonical) (sector n : Nat) :
    (s.eccCorrected sector n).mem.Canonical := by
  grind [State.eccCorrected, State.updMem, State.canonical_post, MemSt.Canonical]

theorem State.canonical_poisonAt {s : State} (h : s.mem.Canonical) (k : Nat) : (s.poisonAt k).mem.Canonical := by
  grind [State.poisonAt, State.updMem, MemSt.Canonical]

theorem State.canonical_structureLost {s : State} (h : s.mem.Canonical) (code cl n pos : Nat) (l : List Nat) :
    (s.structureLost code cl n pos l).mem.Canonical := by
  unfold State.structureLost
  dsimp only
  split
  · have hf := State.canonical_flushLines h (coreIn cl n) false fun x => !x.host && x.line == pos / 4
    split
    · exact State.canonical_poisonAt hf pos
    · exact hf
  · split
    · exact State.canonical_poisonAt h pos
    · exact h
  · exact State.canonical_foldl (fun _ _ hs => State.canonical_poisonAt hs _) _ h
  all_goals simpa using h

theorem State.canonical_softError {s : State} (h : s.mem.Canonical) (code unit n cnt : Nat) (die : Bool) :
    (s.softError code unit n cnt die).mem.Canonical := by
  grind [State.softError, State.canonical_post]

@[simp] theorem canonical_execPatrolScrub {s : State} (h : s.mem.Canonical) : NextCanonical (execPatrolScrub s) := by
  grind [execPatrolScrub, nextCanonical_next, State.canonical_structureLost, State.canonical_softError,
    State.canonical_eccCorrected, State.canonical_reportSectors, State.canonical_poisonAt]

@[simp] theorem canonical_execPageMigrationStart {s : State} (h : s.mem.Canonical) :
    NextCanonical (execPageMigrationStart s) := by
  grind [execPageMigrationStart, nextCanonical_next, State.untilTick_mem]

theorem State.canonical_rewritePte {s : State} (h : s.mem.Canonical) (ctx va new : Nat) :
    (s.rewritePte ctx va new).mem.Canonical := by
  grind [State.rewritePte, State.canonical_homePut]

theorem State.canonical_migrated {s : State} (h : s.mem.Canonical) (i : Nat) : (s.migrated i).mem.Canonical := by
  grind [State.migrated, State.canonical_performStore, State.canonical_flushLines, State.canonical_reportSectors, State.updMem,
    State.canonical_rewritePte, State.canonical_tlbDrop, State.canonical_post, State.updCore_mem, State.wake_mem, Cells.wf_move,
    State.canonical_foldl, MemSt.Canonical]

/-! ### Slates (`Machine.Slates`) -/

theorem State.canonical_setSword {s : State} (h : s.mem.Canonical) (ctx va : Nat) (w : SWord) :
    (s.setSword ctx va w).mem.Canonical := by
  grind [State.setSword, State.canonical_engStore]

theorem State.canonical_submitReject {s : State} (h : s.mem.Canonical) (d va d1 : Nat) :
    (s.submitReject d va d1).mem.Canonical := by
  grind [State.submitReject, State.canonical_post]

@[simp] theorem State.keepPools_mem (s : State) (f : Nat) : (s.keepPools f).mem = s.mem := by
  unfold State.keepPools
  split <;> rfl

@[simp] theorem State.checkHead_mem (s : State) (d : Nat) : (s.checkHead d).1.mem = s.mem := by
  grind [State.checkHead, State.updSlate_mem]

theorem State.canonical_enterReady {s : State} (h : s.mem.Canonical) (k : Nat) : (s.enterReady k).1.mem.Canonical := by
  grind [State.enterReady, State.canonical_setSword, State.updSlate_mem, State.updQueue_mem, State.checkHead_mem]

theorem State.canonical_releaseSucc {s : State} (h : s.mem.Canonical) (ctx va : Nat) (bad : Bool) :
    (s.releaseSucc ctx va bad).1.mem.Canonical := by
  grind [State.releaseSucc, State.canonical_setSword, State.canonical_enterReady]

@[simp] theorem State.dropSlate_mem (s : State) (k : Nat) (x : Slate) : (s.dropSlate k x).mem = s.mem := rfl

@[simp] theorem State.missCounts_mem (s : State) (k : Nat) (x : Slate) : (s.missCounts k x).mem = s.mem := by
  simp [State.missCounts]

theorem State.canonical_missRecord {s : State} (h : s.mem.Canonical) (x : Slate) (miss : Nat) :
    (s.missRecord x miss).mem.Canonical := by
  grind [State.missRecord, State.canonical_post]

theorem State.canonical_timeoutItems {s : State} (h : s.mem.Canonical) (k : Nat) : (s.timeoutItems k).mem.Canonical := by
  grind [State.timeoutItems, State.canonical_collStop, State.canonical_foldl]

theorem State.canonical_expired {s : State} (h : s.mem.Canonical) (k : Nat) : (s.expired k).mem.Canonical := by
  grind [State.expired, State.canonical_timeoutItems, State.canonical_missRecord, State.updSlate_mem, State.missCounts_mem]

theorem State.canonical_expireAll {s : State} (h : s.mem.Canonical) : (s.expireAll).mem.Canonical := by
  grind [State.expireAll, State.canonical_expired, State.canonical_foldl]

theorem State.canonical_retireOne {s : State} (h : s.mem.Canonical) (k out cause : Nat) :
    (s.retireOne k out cause).1.mem.Canonical := by
  unfold State.retireOne
  dsimp only
  have h1 : (if (s.slate k).any (·.overdue s.tick) then s.expired k else s).mem.Canonical :=
    State.canonical_ite (State.canonical_expired h k) h
  generalize (if (s.slate k).any (·.overdue s.tick) = true then s.expired k else s) = s1 at h1 ⊢
  split
  · exact h1
  · rw [State.checkHead_mem]
    refine State.canonical_foldl_fst ?_ _ _ ?_
    · intro p o hp
      exact State.canonical_releaseSucc hp _ _ _
    · have h2 := State.canonical_setSword h1
      split <;> simpa using h2 _ _ _

theorem State.canonical_retireAll (n : Nat) {s : State} (h : s.mem.Canonical) (l : List Due) :
    (State.retireAll n s l).mem.Canonical := by
  induction n generalizing s l with
  | zero => exact h
  | succ n ih =>
    cases l with
    | nil => exact h
    | cons x l => exact ih (State.canonical_retireOne h _ _ _) _

theorem State.canonical_retire {s : State} (h : s.mem.Canonical) (l : List Due) : (s.retire l).mem.Canonical := by
  grind [State.retire, State.canonical_retireAll]

theorem State.canonical_readSlate {s : State} (h : s.mem.Canonical) (d ctx va : Nat) :
    (s.readSlate d ctx va).1.mem.Canonical := by
  grind [State.readSlate, State.canonical_submitReject, State.canonical_engStore, State.updQueue_mem]

theorem State.canonical_slateAccept {s : State} (h : s.mem.Canonical) (d : Nat) : (s.slateAccept d).mem.Canonical := by
  grind [State.slateAccept, State.canonical_readSlate, State.canonical_enterReady, State.canonical_retire,
    State.canonical_setSword, State.updQueue_mem]

theorem State.canonical_qsub {s : State} (h : s.mem.Canonical) (f q v : Nat) (odd : Bool) : (s.qsub f q v odd).mem.Canonical := by
  grind [State.qsub, State.canonical_submitReject, State.canonical_logAppend, State.updQueue_mem, State.updFunc_mem]

theorem State.canonical_slateRetire {s : State} (h : s.mem.Canonical) (k : Nat) : (s.slateRetire k).mem.Canonical := by
  grind [State.slateRetire, State.canonical_retire]

theorem State.canonical_deadline {s : State} (h : s.mem.Canonical) (k : Nat) : (s.deadline k).mem.Canonical := by
  unfold State.deadline
  split
  · split
    · exact h
    · refine State.canonical_expired ?_ k
      simpa using h
  · split
    · exact h
    · split
      · exact h
      · split
        · exact h
        · refine State.canonical_missRecord ?_ _ _
          simpa using h

theorem State.canonical_readIncoming {s : State} (h : s.mem.Canonical) (d ctx : Nat) : (s.readIncoming d ctx).mem.Canonical := by
  grind [State.readIncoming, State.canonical_readSlate, State.canonical_foldl]

theorem State.canonical_failSlates {s : State} (h : s.mem.Canonical) (ctx : Nat) : (s.failSlates ctx).mem.Canonical := by
  grind [State.failSlates, State.canonical_readIncoming, State.canonical_retireOne, State.updSlate_mem, State.updQueue_mem,
    State.canonical_foldl]

/-! ### Takes (`Machine.Takes`) -/

@[simp] theorem State.clearWindow_mem (s : State) (core base size : Nat) : (s.clearWindow core base size).mem = s.mem := rfl

theorem State.canonical_leaveCore {s : State} (h : s.mem.Canonical) (cid : Nat) (c : Crew) :
    (s.leaveCore cid c).mem.Canonical := by
  grind [State.leaveCore, State.canonical_releaseAll, State.updCore_mem, State.clearWindow_mem, State.dropCrew_mem]

theorem State.canonical_park {s : State} (h : s.mem.Canonical) (cid : Nat) (c : Crew) (t : Take) (window : List Byte) :
    (s.park cid c t window).mem.Canonical := by
  grind [State.park, State.canonical_engStore, State.canonical_leaveCore, State.settleCores_mem]

theorem State.canonical_spillDone {s : State} (h : s.mem.Canonical) (cid : Nat) : (s.spillDone cid).mem.Canonical := by
  grind [State.spillDone, State.canonical_endStop, State.canonical_park, State.canonical_closeRowsNow, State.queueTake_mem,
    State.queueGroup_mem]

@[simp] theorem State.preempt_mem (s : State) (cid : Nat) : (s.preempt cid).mem = s.mem := by
  grind [State.preempt]

theorem State.canonical_resume {s : State} (h : s.mem.Canonical) (t : Take) (core base : Nat) :
    (s.resume t core base).mem.Canonical := by
  grind [State.resume, State.canonical_acquireHead, State.clearWindow_mem, State.updCore_mem, State.setCrew_mem]

/-! ### Placement (`Machine.Place`) -/

@[simp] theorem State.wakeRequest_mem (s : State) (cl : Nat) : (s.wakeRequest cl).mem = s.mem := by
  grind [State.wakeRequest, State.updPw_mem]

@[simp] theorem State.leaveW3_mem (s : State) (cl : Nat) : (s.leaveW3 cl).mem = s.mem := by
  grind [State.leaveW3, State.wakeRequest_mem, State.foldl_mem]

@[simp] theorem State.wakeCluster_mem (s : State) (cl : Nat) : (s.wakeCluster cl).mem = s.mem := by
  grind [State.wakeCluster, State.updPw_mem, State.leaveW3_mem, State.wakeRequest_mem]

@[simp] theorem State.wakeAll_mem (s : State) (cls : List Nat) : (s.wakeAll cls).mem = s.mem := by
  grind [State.wakeAll, State.wakeCluster_mem, State.foldl_mem]

@[simp] theorem State.newCrew_mem (s : State) (c : Crew) : (s.newCrew c).mem = s.mem := rfl

theorem State.canonical_takeCtl {s : State} (h : s.mem.Canonical) (ctx cl : Nat) : (s.takeCtl ctx cl).mem.Canonical := by
  grind [State.takeCtl, State.canonical_recheckBytes, State.updCluster_mem, State.updCore_mem]

theorem State.canonical_startCtl {s : State} (h : s.mem.Canonical) (sid : Nat) (x : Slate) (crix cl : Nat) :
    (s.startCtl sid x crix cl).mem.Canonical := by
  grind [State.startCtl, State.canonical_acquireHead, State.canonical_takeCtl, State.newCrew_mem, State.updSlate_mem]

theorem State.canonical_startSlate {s : State} (h : s.mem.Canonical) (sid : Nat) (x : Slate) :
    (s.startSlate sid x).mem.Canonical := by
  grind [State.startSlate, State.canonical_setSword, State.updQueue_mem, State.updSlate_mem]

theorem State.canonical_placeCrew {s : State} (h : s.mem.Canonical) (sid crix core : Nat) :
    (s.placeCrew sid crix core).mem.Canonical := by
  grind [State.placeCrew, State.canonical_acquireHead, State.canonical_startSlate, State.canonical_startCtl,
    State.clearWindow_mem, State.newCrew_mem, State.updSlate_mem]

theorem State.canonical_tryOn {s : State} (h : s.mem.Canonical) (cls : List Nat) {note start : State → State}
    (hn : ∀ s, s.mem.Canonical → (note s).mem.Canonical) (hs : ∀ s, s.mem.Canonical → (start s).mem.Canonical) :
    (s.tryOn cls note start).1.mem.Canonical := by
  unfold State.tryOn
  split
  · exact hs _ (by simpa using h)
  · split
    · exact h
    · exact hn _ (by simpa using h)

@[simp] theorem Try.canonical_none : Try.Canonical none := fun _ e => nomatch e

@[simp] theorem Try.canonical_some {t : State × Tried} : Try.Canonical (some t) ↔ t.1.mem.Canonical :=
  ⟨fun h => h t rfl, fun h _ e => by cases e; exact h⟩

/-- A try over the choice of a place. -/
theorem Try.canonical_map {α : Type} {o : Option α} {f : α → State × Tried} (hf : ∀ x, (f x).1.mem.Canonical) :
    Try.Canonical (o.map f) := by
  cases o with
  | none => exact Try.canonical_none
  | some x => exact Try.canonical_some.2 (hf x)

theorem State.canonical_cancelSlate {s : State} (h : s.mem.Canonical) (sid : Nat) : (s.cancelSlate sid).mem.Canonical := by
  grind [State.cancelSlate, State.canonical_retire, State.canonical_slateRetire, State.updSlate_mem, State.updQueue_mem,
    State.checkHead_mem]

theorem State.canonical_nextHead {s : State} (h : s.mem.Canonical) (sid : Nat) : (s.nextHead sid).mem.Canonical := by
  grind [State.nextHead, State.canonical_retire, State.updQueue_mem, State.checkHead_mem]

theorem State.canonical_tryCrew {s : State} (h : s.mem.Canonical) (sid only : Nat) (cores : List Nat) :
    Try.Canonical (s.tryCrew sid only cores) := by
  unfold State.tryCrew
  split
  · simp
  split
  · simp
  split
  · exact Try.canonical_some.2 (State.canonical_cancelSlate h sid)
  refine Try.canonical_map fun k => State.canonical_tryOn h _ (fun s hs => by simpa using hs) fun s hs => ?_
  exact State.canonical_nextHead (State.canonical_placeCrew (by simpa using hs) _ _ _) _

theorem State.canonical_placeAll {s : State} (h : s.mem.Canonical) (sid : Nat) (cores l : List Nat) {t : State × List Nat}
    (e : s.placeAll sid cores l = some t) : t.1.mem.Canonical := by
  induction l generalizing s t with
  | nil => cases e; exact h
  | cons c l ih =>
    simp only [State.placeAll] at e
    split at e
    · cases e
    · obtain ⟨k, -, hk⟩ := List.exists_of_findSome?_eq_some e
      obtain ⟨u, hu, rfl⟩ := Option.map_eq_some_iff.1 hk
      have ht := ih (State.canonical_placeCrew h _ _ _) hu
      exact ht

theorem State.canonical_tryGroup {s : State} (h : s.mem.Canonical) (sid : Nat) (cores : List Nat) :
    Try.Canonical (s.tryGroup sid cores) := by
  unfold State.tryGroup
  split
  · simp
  split
  · simp
  split
  · exact Try.canonical_some.2 (State.canonical_cancelSlate h sid)
  refine Try.canonical_map fun k => State.canonical_tryOn h _ (fun s hs => by simpa using hs) fun s hs => ?_
  dsimp only
  have hu : (s.updSlate sid fun x => { x with chosen := [] }).mem.Canonical := by simpa using hs
  split
  · next e => exact State.canonical_nextHead (State.canonical_placeAll hu _ _ _ e) _
  · exact hu

@[simp] theorem State.cancelTake_mem (s : State) (id : Nat) (t : Take) : (s.cancelTake id t).mem = s.mem := by
  simp [State.cancelTake]

theorem State.canonical_restoreOn {s : State} (h : s.mem.Canonical) (id : Nat) (t : Take) (core : Nat) :
    (s.restoreOn id t core).mem.Canonical := by
  grind [State.restoreOn, State.canonical_resume, State.canonical_recheckBytes, State.canonical_recheckArv,
    State.canonical_recheckBars, State.updSlate_mem, State.updQueue_mem, State.canonical_foldl]

@[simp] theorem State.dropTake_mem (s : State) (id : Nat) (x : Slate) : (s.dropTake id x).mem = s.mem := rfl

theorem State.canonical_loseTake {s : State} (h : s.mem.Canonical) (id : Nat) (t : Take) : (s.loseTake id t).mem.Canonical := by
  grind [State.loseTake, State.canonical_slateRetire, State.updSlate_mem]

theorem State.canonical_tryTake {s : State} (h : s.mem.Canonical) (id only : Nat) (cores : List Nat) :
    Try.Canonical (s.tryTake id only cores) := by
  unfold State.tryTake
  split
  · simp
  split
  · simp
  split
  · exact Try.canonical_some.2 (State.canonical_cancelSlate (by simpa using h) _)
  split
  · exact Try.canonical_some.2 (State.canonical_loseTake (by simpa using h) _ _)
  · exact Try.canonical_map fun k => State.canonical_tryOn h _ (fun s hs => hs) fun s hs => State.canonical_restoreOn hs _ _ _

theorem State.canonical_restoreAll {s : State} (h : s.mem.Canonical) (cores : List Nat) (l : List (Nat × Take))
    {t : State × List Nat} (e : s.restoreAll cores l = some t) : t.1.mem.Canonical := by
  induction l generalizing s t with
  | nil => cases e; exact h
  | cons x l ih =>
    obtain ⟨k, -, hk⟩ := List.exists_of_findSome?_eq_some e
    obtain ⟨u, hu, rfl⟩ := Option.map_eq_some_iff.1 hk
    have ht := ih (State.canonical_restoreOn h _ _ _) hu
    exact ht

theorem State.canonical_tryTakeGroup {s : State} (h : s.mem.Canonical) (id : Nat) (cores : List Nat) :
    Try.Canonical (s.tryTakeGroup id cores) := by
  unfold State.tryTakeGroup
  split
  · simp
  split
  · simp
  split
  · refine Try.canonical_some.2 (State.canonical_cancelSlate ?_ _)
    simpa [State.foldl_mem] using h
  dsimp only
  split
  · refine Try.canonical_some.2 ?_
    refine State.canonical_foldl (fun _ _ hs => State.canonical_loseTake hs _ _) _ ?_
    simpa using h
  refine Try.canonical_map fun k => State.canonical_tryOn h _ (fun s hs => hs) fun s hs => ?_
  split
  · next e => simpa using State.canonical_restoreAll hs _ _ e
  · exact hs

theorem State.canonical_restoreCtl {s : State} (h : s.mem.Canonical) (id : Nat) (t : Take) (x : Slate) (cl : Nat) :
    (s.restoreCtl id t x cl).mem.Canonical := by
  grind [State.restoreCtl, State.canonical_takeCtl, State.canonical_acquireHead, State.canonical_wakeMatrix,
    State.canonical_recheckArv, State.updCluster_mem, State.updCtx_mem, State.newCrew_mem, State.updSlate_mem, State.dropTake_mem,
    State.canonical_foldl]

theorem State.canonical_tryControl {s : State} (h : s.mem.Canonical) (id die : Nat) : Try.Canonical (s.tryControl id die) := by
  unfold State.tryControl
  split
  · simp
  split
  · simp
  exact Try.canonical_map fun cl => State.canonical_tryOn h _ (fun s hs => hs) fun s hs => State.canonical_restoreCtl hs _ _ _ _

theorem State.canonical_tryQueue {s : State} (h : s.mem.Canonical) (die d only : Nat) :
    Try.Canonical (s.tryQueue die d only) := by
  grind [State.tryQueue, State.canonical_tryCrew, State.canonical_tryGroup, State.canonical_tryTake, State.canonical_tryTakeGroup,
    State.canonical_tryControl, Try.Canonical]

@[simp] theorem State.noteWinners_mem (s : State) : (s.noteWinners).mem = s.mem := by
  grind [State.noteWinners, State.updQueue_mem, State.foldl_mem]

theorem State.canonical_dispatch {s : State} (h : s.mem.Canonical) (kind : ItemKind → Bool) :
    (s.dispatch kind).mem.Canonical := by
  unfold State.dispatch
  dsimp only
  have h1 : s.expireAll.noteWinners.mem.Canonical := by simpa using State.canonical_expireAll h
  split
  · exact h1
  split
  · exact h1
  split
  · next e => simpa using State.canonical_tryQueue h1 _ _ _ _ e
  · next e => exact State.canonical_tryQueue h1 _ _ _ _ e
  · exact h1

@[simp] theorem canonical_execAgeTick {s : State} (h : s.mem.Canonical) : NextCanonical (execAgeTick s) := by
  grind [execAgeTick, nextCanonical_next, State.untilTick_mem]

@[simp] theorem canonical_execBackfillTimeout {s : State} (h : s.mem.Canonical) : NextCanonical (execBackfillTimeout s) := by
  grind [execBackfillTimeout, nextCanonical_next, State.untilTick_mem]

theorem State.canonical_startCopy {s : State} (h : s.mem.Canonical) (cl ctx : Nat) : (s.startCopy cl ctx).mem.Canonical := by
  grind [State.startCopy, State.canonical_copySettle, State.updCopy_mem]

@[simp] theorem State.startDolly_mem (s : State) (cl ctx : Nat) : (s.startDolly cl ctx).mem = s.mem := by
  grind [State.startDolly, State.updCluster_mem]

@[simp] theorem State.startSlot_mem (s : State) (cl ctx : Nat) : (s.startSlot cl ctx).mem = s.mem := by
  grind [State.startSlot, State.wakeEngine_mem, State.updCluster_mem]

theorem State.canonical_startIn {s : State} (h : s.mem.Canonical) (cl eng ctx : Nat) : (s.startIn cl eng ctx).mem.Canonical := by
  unfold State.startIn
  split
  · exact State.canonical_startCopy h _ _
  · simpa using h
  · simpa using h

theorem State.canonical_engineStart {s : State} (h : s.mem.Canonical) (cl eng : Nat) : (s.engineStart cl eng).mem.Canonical := by
  grind [State.engineStart, State.canonical_startIn, State.wakeCluster_mem, State.setArb_mem]

/-! ### Power (`Machine.Power`) -/

@[simp] theorem canonical_execBudgetCapAdjust {s : State} (h : s.mem.Canonical) : NextCanonical (execBudgetCapAdjust s) := by
  grind [execBudgetCapAdjust, nextCanonical_next, State.updPw_mem]

@[simp] theorem canonical_execHalfSwitch {s : State} (h : s.mem.Canonical) : NextCanonical (execHalfSwitch s) := by
  grind [execHalfSwitch, nextCanonical_next, State.until_mem, State.updPw_mem]

theorem State.canonical_stopCrew {s : State} (h : s.mem.Canonical) (cid cause detail : Nat) :
    (s.stopCrew cid cause detail).mem.Canonical := by
  unfold State.stopCrew
  split
  · exact h
  · next c _ =>
    split
    · exact h
    · have hn : (s.noteStop c.slate cause detail).mem.Canonical := by simpa using h
      exact State.canonical_endCrew (State.canonical_getD hn fun _ => State.canonical_writeStopList hn _ _ _ _ _ _) _ _

theorem State.canonical_stopCrews {s : State} (h : s.mem.Canonical) (p : Crew → Bool) (cause detail : Nat) :
    (s.stopCrews p cause detail).mem.Canonical := by
  grind [State.stopCrews, State.canonical_stopCrew, State.canonical_foldl]

@[simp] theorem State.failMatrix_mem (s : State) (cl cause : Nat) : (s.failMatrix cl cause).mem = s.mem := by
  grind [State.failMatrix, State.updSlate_mem, State.updMx_mem, State.foldl_mem]

theorem State.canonical_failEngines {s : State} (h : s.mem.Canonical) (p : Nat → Bool) : (s.failEngines p).mem.Canonical := by
  grind [State.failEngines, State.canonical_copyStop, State.canonical_collStop, State.canonical_stopBinding,
    State.canonical_grammarFail, State.canonical_foldl]

theorem State.canonical_writeBackCluster {s : State} (h : s.mem.Canonical) (cl : Nat) :
    (s.writeBackCluster cl).mem.Canonical := by
  grind [State.writeBackCluster, State.canonical_fullFence, State.canonical_releaseAll, State.canonical_foldl]

theorem State.canonical_thermalTrip {s : State} (h : s.mem.Canonical) (k : Nat) : (s.thermalTrip k).mem.Canonical := by
  grind [State.thermalTrip, State.canonical_failEngines, State.canonical_stopCrews, State.canonical_writeBackCluster,
    State.canonical_post, State.failMatrix_mem, State.canonical_foldl]

@[simp] theorem State.dark_mem (s : State) (cl : Nat) : (s.dark cl).mem = s.mem := rfl

theorem State.canonical_thermalClear {s : State} (h : s.mem.Canonical) : (s.thermalClear).mem.Canonical := by
  grind [State.thermalClear, State.canonical_stopBinding, State.canonical_grammarFail, State.canonical_post, State.untilTick_mem,
    State.updPw_mem, State.dark_mem, State.canonical_foldl]

theorem State.canonical_fence {s : State} (h : s.mem.Canonical) (cl sag : Nat) : (s.fence cl sag).mem.Canonical := by
  grind [State.fence, State.canonical_failEngines, State.canonical_stopCrews, State.canonical_writeBackCluster,
    State.canonical_post, State.keepPools_mem, State.updPw_mem, State.failMatrix_mem, State.regrant_mem, State.updCluster_mem,
    State.canonical_foldl]

theorem State.canonical_powerDown {s : State} (h : s.mem.Canonical) (cl : Nat) : (s.powerDown cl).mem.Canonical := by
  grind [State.powerDown, State.canonical_writeBackCluster, State.updPw_mem, State.dark_mem]

@[simp] theorem canonical_execW1Entry {s : State} (h : s.mem.Canonical) : NextCanonical (execW1Entry s) := by
  grind [execW1Entry, nextCanonical_next, State.canonical_powerDown, State.until_mem, State.updPw_mem]

@[simp] theorem canonical_execW2Entry {s : State} (h : s.mem.Canonical) : NextCanonical (execW2Entry s) := by
  grind [execW2Entry, nextCanonical_next, State.canonical_powerDown, State.until_mem]

@[simp] theorem canonical_execBreakEvenHoldEnd {s : State} (h : s.mem.Canonical) : NextCanonical (execBreakEvenHoldEnd s) := by
  grind [execBreakEvenHoldEnd, nextCanonical_next, State.updPw_mem, State.until_mem, State.wakeRequest_mem]

@[simp] theorem canonical_execClusterPowerUpDone {s : State} (h : s.mem.Canonical) :
    NextCanonical (execClusterPowerUpDone s) := by
  grind [execClusterPowerUpDone, nextCanonical_next, State.until_mem, State.updPw_mem]

@[simp] theorem canonical_execW3Entry {s : State} (h : s.mem.Canonical) : NextCanonical (execW3Entry s) := by
  unfold execW3Entry
  dsimp only
  split
  · exact nextCanonical_next.2 h
  · exact nextCanonical_next.2 (State.canonical_foldl (fun _ _ hs => State.canonical_powerDown hs _) _ h)

@[simp] theorem canonical_execLatencyToleranceReport {s : State} (h : s.mem.Canonical) :
    NextCanonical (execLatencyToleranceReport s) := by
  grind [execLatencyToleranceReport, nextCanonical_next, State.leaveW3_mem, State.updPw_mem, State.wakeRequest_mem,
    State.canonical_foldl]

/-! ### Links and merge trees (`Machine.Fabric`) -/

@[simp] theorem State.updLink_mem (s : State) (k : Nat) (f : Link → Link) : (s.updLink k f).mem = s.mem := rfl

theorem State.canonical_linkChanged {s : State} (h : s.mem.Canonical) (k : Nat) : (s.linkChanged k).mem.Canonical := by
  grind [State.linkChanged, State.canonical_post]

theorem State.canonical_linkHeard {s : State} (h : s.mem.Canonical) (k lanes peer : Nat) :
    (s.linkHeard k lanes peer).mem.Canonical := by
  grind [State.linkHeard, State.canonical_linkChanged, State.updLink_mem]

theorem State.canonical_portHeard {s : State} (h : s.mem.Canonical) (k lanes peer : Nat) :
    (s.portHeard k lanes peer).mem.Canonical := by
  grind [State.portHeard, State.canonical_linkHeard, State.canonical_foldl]

@[simp] theorem canonical_execGangFlitReceive {s : State} (h : s.mem.Canonical) : NextCanonical (execGangFlitReceive s) := by
  grind [execGangFlitReceive, nextCanonical_next, State.canonical_linkHeard, State.updLink_mem]

@[simp] theorem canonical_execEthFrameReceive {s : State} (h : s.mem.Canonical) : NextCanonical (execEthFrameReceive s) := by
  grind [execEthFrameReceive, nextCanonical_next, State.canonical_portHeard]

@[simp] theorem canonical_execHeartbeatSend {s : State} (h : s.mem.Canonical) : NextCanonical (execHeartbeatSend s) := by
  grind [execHeartbeatSend, nextCanonical_next, State.until_mem, State.updLink_mem, State.canonical_foldl]

@[simp] theorem canonical_execLinkDown {s : State} (h : s.mem.Canonical) : NextCanonical (execLinkDown s) := by
  grind [execLinkDown, nextCanonical_next, State.canonical_linkChanged, State.until_mem, State.updLink_mem, State.canonical_foldl]

@[simp] theorem canonical_execLaneFailure {s : State} (h : s.mem.Canonical) : NextCanonical (execLaneFailure s) := by
  grind [execLaneFailure, nextCanonical_next, State.canonical_linkChanged, State.updLink_mem]

@[simp] theorem State.updMerge_mem (s : State) (i : Nat) (f : MergeEnt → MergeEnt) : (s.updMerge i f).mem = s.mem := rfl

@[simp] theorem State.mergeReport_mem (s : State) (ctx m : Nat) (clip : Bool) : (s.mergeReport ctx m clip).mem = s.mem := by
  unfold State.mergeReport
  split <;> rfl

@[simp] theorem State.mergeForget_mem (s : State) (ctx : Nat) : (s.mergeForget ctx).mem = s.mem := rfl

@[simp] theorem State.mergeDown_mem (s : State) (i : Nat) (v : Nat × Bool) : (s.mergeDown i v).mem = s.mem := rfl

theorem State.canonical_mergeStale {s : State} (h : s.mem.Canonical) (child : Nat) (stale : Bool) :
    (s.mergeStale child stale).mem.Canonical := by
  grind [State.mergeStale, State.canonical_post]

theorem State.canonical_mergeEntryEnd {s : State} (h : s.mem.Canonical) (i : Nat) : (s.mergeEntryEnd i).mem.Canonical := by
  grind [State.mergeEntryEnd, State.canonical_mergeStale, State.updMerge_mem, State.mergeDown_mem, State.canonical_foldl]

@[simp] theorem canonical_execMergePeriodEnd {s : State} (h : s.mem.Canonical) : NextCanonical (execMergePeriodEnd s) := by
  grind [execMergePeriodEnd, nextCanonical_next, State.canonical_mergeEntryEnd, State.untilTick_mem, State.canonical_foldl]

@[simp] theorem canonical_execMergeMessageReceive {s : State} (h : s.mem.Canonical) :
    NextCanonical (execMergeMessageReceive s) := by
  grind [execMergeMessageReceive, nextCanonical_next, State.canonical_mergeStale, State.mergeDown_mem, State.updMerge_mem]

@[simp] theorem canonical_execPackageLost {s : State} (h : s.mem.Canonical) : NextCanonical (execPackageLost s) := by
  grind [execPackageLost, nextCanonical_next, State.canonical_post, State.canonical_collGone]

/-! ### Control loops (`Machine.Loops`) -/

@[simp] theorem State.reclip_mem (s : State) (ctx : Nat) : (s.reclip ctx).mem = s.mem := rfl

theorem State.canonical_watchdog {s : State} (h : s.mem.Canonical) (ctx : Nat) : (s.watchdog ctx).mem.Canonical := by
  grind [State.watchdog, State.canonical_post, State.updCtx_mem]

theorem State.canonical_controlPeriodEnd {s : State} (h : s.mem.Canonical) (ctx : Nat) :
    (s.controlPeriodEnd ctx).mem.Canonical := by
  grind [State.controlPeriodEnd, State.canonical_watchdog, State.untilTick_mem, State.updCtx_mem, State.mergeReport_mem,
    State.reclip_mem]

@[simp] theorem State.rebase_mem (s : State) (ctx : Nat) : (s.rebase ctx).mem = s.mem := rfl

theorem State.canonical_withdraw {s : State} (h : s.mem.Canonical) (ctx core : Nat) : (s.withdraw ctx core).mem.Canonical := by
  grind [State.withdraw, State.canonical_stowCue, State.updCtx_mem, State.settleCores_mem, State.canonical_foldl]

theorem State.canonical_setCores {s : State} (h : s.mem.Canonical) (ctx n : Nat) : (s.setCores ctx n).mem.Canonical := by
  grind [State.setCores, State.canonical_withdraw, State.updCtx_mem, State.updCore_mem, State.canonical_foldl]

theorem State.canonical_grantApply {s : State} (h : s.mem.Canonical) (ctx : Nat) : (s.grantApply ctx).mem.Canonical := by
  grind [State.grantApply, State.canonical_setCores, State.updCtx_mem, State.regrant_mem]

theorem State.canonical_allocate {s : State} (h : s.mem.Canonical) (f : Nat) : (s.allocate f).mem.Canonical := by
  grind [State.allocate, State.canonical_grantApply, State.updFunc_mem, State.untilTick_mem, State.rebase_mem, State.updCtx_mem,
    State.canonical_foldl]

@[simp] theorem canonical_execCoreReleaseTimeout {s : State} (h : s.mem.Canonical) :
    NextCanonical (execCoreReleaseTimeout s) := by
  grind [execCoreReleaseTimeout, nextCanonical_next, State.untilTick_mem, State.preempt_mem, State.canonical_foldl]

/-! ### Scrubs and keys (`Machine.Scrub`) -/

theorem State.canonical_finishCmd {s : State} (h : s.mem.Canonical) (f status : Nat) : (s.finishCmd f status).mem.Canonical := by
  grind [State.finishCmd, State.canonical_writeStatus, State.updFunc_mem]

theorem State.canonical_endEngines {s : State} (h : s.mem.Canonical) (ctx : Nat) : (s.endEngines ctx).mem.Canonical := by
  grind [State.endEngines, State.canonical_copyStop, State.canonical_collStop, State.canonical_collGone,
    State.canonical_stopBinding, State.canonical_grammarAbort, State.dropRounds_mem, State.failMatrix_mem, State.canonical_foldl]

theorem State.canonical_unownLines {s : State} (h : s.mem.Canonical) (ctx : Nat) : (s.unownLines ctx).mem.Canonical := by
  grind [State.unownLines, State.updMem, MemSt.Canonical]

theorem State.canonical_stopWork {s : State} (h : s.mem.Canonical) (ctx : Nat) : (s.stopWork ctx).mem.Canonical := by
  grind [State.stopWork, State.canonical_endEngines, State.canonical_stopCrews, State.canonical_reap, State.canonical_failSlates,
    State.canonical_flushLines, State.canonical_drainThread, State.updMem, State.canonical_unownLines, State.updCtx_mem,
    State.regrant_mem, State.canonical_foldl, MemSt.Canonical]

theorem State.canonical_stopContext {s : State} (h : s.mem.Canonical) (ctx : Nat) : (s.stopContext ctx).mem.Canonical := by
  grind [State.stopContext, State.canonical_stopWork, State.updCtx_mem]

theorem State.canonical_forget {s : State} (h : s.mem.Canonical) (ctx : Nat) : (s.forget ctx).mem.Canonical := by
  grind [State.forget, State.canonical_tlbDrop]

theorem State.canonical_plainPages {s : State} (h : s.mem.Canonical) (ctx : Nat) : (s.plainPages ctx).mem.Canonical := by
  grind [State.plainPages, State.canonical_homePut, State.canonical_foldl]

@[simp] theorem State.setJob_mem (s : State) (j : Nat) (x : Scrub) : (s.setJob j x).mem = s.mem := rfl

@[simp] theorem State.passKey_mem (s : State) (j : Nat) : (s.passKey j).mem = s.mem := by
  grind [State.passKey, State.setJob_mem]

theorem MemSt.canonical_foldl {α : Type} {f : MemSt → α → MemSt} (hf : ∀ m x, m.Canonical → (f m x).Canonical) (l : List α)
    {m : MemSt} (h : m.Canonical) : (l.foldl f m).Canonical := by
  induction l generalizing m with
  | nil => exact h
  | cons x l ih => exact ih (hf m x h)

theorem MemSt.Canonical.unwrite {m : MemSt} (h : m.Canonical) (l : L2Line) : (m.unwrite l).Canonical := by
  unfold MemSt.unwrite
  refine MemSt.canonical_foldl ?_ _ h
  intro m x hm
  exact ⟨Cells.wf_write hm.1 _ _, hm.2⟩

theorem State.canonical_discardL2 {s : State} (h : s.mem.Canonical) (p : L2Line → Bool) : (s.discardL2 p).mem.Canonical := by
  unfold State.discardL2
  exact MemSt.canonical_foldl (fun _ _ hm => hm.setDir _ _ _) _ (MemSt.canonical_foldl (fun _ l hm => hm.unwrite l) _ h)

theorem State.canonical_zeroKey {s : State} (h : s.mem.Canonical) (k : Nat) : (s.zeroKey k).mem.Canonical := by
  grind [State.zeroKey, State.canonical_discardL2, State.canonical_tlbDrop]

theorem State.canonical_keyWordsNow {s : State} (h : s.mem.Canonical) : (s.keyWordsNow).mem.Canonical := by
  grind [State.keyWordsNow, State.canonical_engStore, State.canonical_foldl]

theorem State.canonical_keyZeroDone {s : State} (h : s.mem.Canonical) (k : Nat) : (s.keyZeroDone k).mem.Canonical := by
  grind [State.keyZeroDone, State.canonical_keyWordsNow, State.passKey_mem, State.canonical_foldl]

theorem State.canonical_startJob {s : State} (h : s.mem.Canonical) (j ctx starter : Nat) (command zero : Bool) :
    (s.startJob j ctx starter command zero).mem.Canonical := by
  grind [State.startJob, State.canonical_stopContext, State.canonical_zeroKey, State.setJob_mem, State.passKey_mem]

theorem State.canonical_zeroNext {s : State} (h : s.mem.Canonical) (x : Scrub) : (s.zeroNext x).mem.Canonical := by
  grind [State.zeroNext, State.updMem, State.canonical_plainPages, State.updMx_mem, MemSt.Canonical.zeroUnit, MemSt.Canonical]

theorem State.canonical_commitUnit {s : State} (h : s.mem.Canonical) (j : Nat) : (s.commitUnit j).mem.Canonical := by
  grind [State.commitUnit, State.canonical_zeroNext, State.setJob_mem]

theorem State.canonical_endJob {s : State} (h : s.mem.Canonical) (j : Nat) : (s.endJob j).mem.Canonical := by
  grind [State.endJob, State.canonical_forget, State.canonical_post, State.canonical_finishCmd, State.setJob_mem,
    State.wakeEngine_mem]

@[simp] theorem canonical_execScrubJobStart {s : State} (h : s.mem.Canonical) : NextCanonical (execScrubJobStart s) := by
  grind [execScrubJobStart, nextCanonical_next, State.canonical_startJob, State.canonical_finishCmd]

theorem State.canonical_teardownCtx {s : State} (h : s.mem.Canonical) (ctx starter : Nat) (command : Bool) :
    (s.teardownCtx ctx starter command).mem.Canonical := by
  grind [State.teardownCtx, State.canonical_startJob]

@[simp] theorem canonical_execXcScrb {s : State} (h : s.mem.Canonical) (v a : BitVec 7) : NextCanonical (execXcScrb v a s) := by
  refine canonical_runInstr h _ fun I => ?_
  grind [Reply.canonical_accept, Reply.canonical_refuse, Iss.canonical_command, State.canonical_startJob]

@[simp] theorem canonical_execKsZero {s : State} (h : s.mem.Canonical) (v a b : BitVec 7) :
    NextCanonical (execKsZero v a b s) := by
  refine canonical_runInstr h _ fun I => ?_
  grind [Reply.canonical_accept, Reply.canonical_refuse, Iss.canonical_command, State.canonical_keyWordsNow,
    State.canonical_zeroKey]

@[simp] theorem canonical_execKeyLoad {s : State} (h : s.mem.Canonical) : NextCanonical (execKeyLoad s) := by
  grind [execKeyLoad, nextCanonical_next]

@[simp] theorem canonical_execKeyZero {s : State} (h : s.mem.Canonical) : NextCanonical (execKeyZero s) := by
  grind [execKeyZero, nextCanonical_next, State.canonical_zeroKey]

/-! ### Commands (`Machine.Commands`) -/

theorem State.canonical_begin' {s : State} (h : s.mem.Canonical) (f : Nat) (p : Nat → Bool)
    {run : State → Cmd → State × Option Nat} (hrun : ∀ s c, s.mem.Canonical → (run s c).1.mem.Canonical) :
    (s.begin' f p run).mem.Canonical := by
  grind [State.begin', State.canonical_finishCmd, State.updFunc_mem]

@[simp] theorem State.waitCmd_mem (s : State) (f stage len : Nat) : (s.waitCmd f stage len).mem = s.mem := rfl

theorem State.canonical_enterCtx {s : State} (h : s.mem.Canonical) (ctx : Nat) (c : Ctx) : (s.enterCtx ctx c).mem.Canonical := by
  grind [State.enterCtx, State.canonical_setCores, State.rebase_mem, State.updCtx_mem, State.reclip_mem, State.regrant_mem]

@[simp] theorem State.claimQueues_mem (s : State) (ctx : Nat) : (s.claimQueues ctx).mem = s.mem := by
  simp [State.claimQueues]

theorem State.canonical_create {s : State} (h : s.mem.Canonical) (f : Nat) (c : Cmd) : (s.create f c).1.mem.Canonical := by
  grind [State.create, State.canonical_enterCtx, State.claimQueues_mem]

@[simp] theorem canonical_execCreate {s : State} (h : s.mem.Canonical) : NextCanonical (execCreate s) := by
  grind [execCreate, nextCanonical_next, State.canonical_begin', State.canonical_create]

theorem State.canonical_setRecState {s : State} (h : s.mem.Canonical) (a st : Nat) : (s.setRecState a st).mem.Canonical := by
  grind [State.setRecState, State.canonical_devPut]

theorem State.canonical_putRecord {s : State} (h : s.mem.Canonical) (a len : Nat) (r : Saved) :
    (s.putRecord a len r).mem.Canonical := by
  grind [State.putRecord, State.canonical_devPut]

theorem State.canonical_stopForSave {s : State} (h : s.mem.Canonical) (ctx : Nat) : (s.stopForSave ctx).mem.Canonical := by
  grind [State.stopForSave, State.canonical_withdraw, State.canonical_foldl]

theorem State.canonical_disownAll {s : State} (h : s.mem.Canonical) (c : CopyCmd) : (s.disownAll c).mem.Canonical := by
  grind [State.disownAll, State.canonical_disown, State.canonical_foldl]

theorem State.canonical_capture {s : State} (h : s.mem.Canonical) (ctx : Nat) : (s.capture ctx).1.mem.Canonical := by
  grind [State.capture, State.canonical_disownAll, State.updMem, State.canonical_tlbDrop, State.canonical_unownLines,
    State.wakeOwned_mem, State.regrant_mem, State.canonical_foldl, MemSt.Canonical]

theorem State.canonical_saveBegin {s : State} (h : s.mem.Canonical) (f : Nat) (c : Cmd) : (s.saveBegin f c).1.mem.Canonical := by
  grind [State.saveBegin, State.canonical_noRoom, State.canonical_stopForSave, State.nextFree_mem, State.waitCmd_mem]

@[simp] theorem canonical_execSave {s : State} (h : s.mem.Canonical) : NextCanonical (execSave s) := by
  grind [execSave, nextCanonical_next, State.canonical_begin', State.canonical_saveBegin]

theorem State.canonical_saveNow {s : State} (h : s.mem.Canonical) (c : Cmd) : (s.saveNow c).mem.Canonical := by
  grind [State.saveNow, State.canonical_capture, State.canonical_putRecord]

@[simp] theorem State.returnQueue_mem (s : State) (r : Saved) (d : Nat) (q : Queue) : (s.returnQueue r d q).mem = s.mem := rfl

@[simp] theorem State.returnOwned_mem (s : State) (ctx cl : Nat) (o : ClusterSt) : (s.returnOwned ctx cl o).mem = s.mem := by
  grind [State.returnOwned, State.updCluster_mem, State.wakeCluster_mem, State.updCtx_mem]

theorem State.canonical_returnCopy {s : State} (h : s.mem.Canonical) (key : Nat) (c : CopyCmd) :
    (s.returnCopy key c).mem.Canonical := by
  grind [State.returnCopy, State.canonical_own, State.updCluster_mem, State.canonical_foldl]

theorem State.canonical_install {s : State} (h : s.mem.Canonical) (r : Saved) (ctx : Nat) (l : Loop) :
    (s.install r ctx l).mem.Canonical := by
  grind [State.install, State.canonical_enterCtx, State.canonical_returnCopy, State.canonical_timeoutItems,
    State.canonical_keyWordsNow, State.mergeForget_mem, State.returnQueue_mem, State.updCluster_mem, State.returnOwned_mem,
    State.missCounts_mem, State.canonical_foldl]

theorem State.canonical_restoreAt {s : State} (h : s.mem.Canonical) (f ctx a : Nat) {t : State}
    (e : s.restoreAt f ctx a = .ok t) : t.mem.Canonical := by
  grind [State.restoreAt, State.canonical_setRecState, State.canonical_install]

@[simp] theorem canonical_execRestore {s : State} (h : s.mem.Canonical) : NextCanonical (execRestore s) := by
  grind [execRestore, nextCanonical_next, State.canonical_begin', State.canonical_restoreAt]

@[simp] theorem canonical_execSwitch {s : State} (h : s.mem.Canonical) : NextCanonical (execSwitch s) := by
  grind [execSwitch, nextCanonical_next, State.canonical_begin', State.canonical_saveBegin]

theorem State.canonical_switchNow {s : State} (h : s.mem.Canonical) (f : Nat) (c : Cmd) : (s.switchNow f c).1.mem.Canonical := by
  grind [State.switchNow, State.canonical_saveNow, State.canonical_restoreAt]

@[simp] theorem canonical_execDestroy {s : State} (h : s.mem.Canonical) : NextCanonical (execDestroy s) := by
  grind [execDestroy, nextCanonical_next, State.canonical_begin', State.canonical_forget, State.canonical_stopContext,
    State.regrant_mem]

@[simp] theorem canonical_execTeardown {s : State} (h : s.mem.Canonical) : NextCanonical (execTeardown s) := by
  grind [execTeardown, nextCanonical_next, State.canonical_begin', State.canonical_teardownCtx]

@[simp] theorem canonical_execDrain {s : State} (h : s.mem.Canonical) : NextCanonical (execDrain s) := by
  grind [execDrain, nextCanonical_next, State.canonical_begin', State.updCtx_mem, State.waitCmd_mem]

@[simp] theorem canonical_execDrainTimeout {s : State} (h : s.mem.Canonical) : NextCanonical (execDrainTimeout s) := by
  grind [execDrainTimeout, nextCanonical_next, State.untilTick_mem, State.preempt_mem, State.canonical_foldl]

@[simp] theorem canonical_execUndrain {s : State} (h : s.mem.Canonical) : NextCanonical (execUndrain s) := by
  grind [execUndrain, nextCanonical_next, State.canonical_begin', State.updCtx_mem]

theorem State.canonical_interrupt {s : State} (h : s.mem.Canonical) (f : Nat) : (s.interrupt f).mem.Canonical := by
  grind [State.interrupt, State.canonical_devPut, State.canonical_setRecState, State.updFunc_mem, State.nextFree_mem]

theorem State.canonical_suspend {s : State} (h : s.mem.Canonical) (c : Cmd) : (s.suspend c).1.mem.Canonical := by
  grind [State.suspend, State.canonical_noRoom, State.canonical_interrupt, State.canonical_stopForSave, State.nextFree_mem,
    State.updFunc_mem, State.waitCmd_mem, State.canonical_foldl]

@[simp] theorem canonical_execVfsuspend {s : State} (h : s.mem.Canonical) : NextCanonical (execVfsuspend s) := by
  grind [execVfsuspend, nextCanonical_next, State.canonical_begin', State.canonical_suspend]

theorem State.canonical_suspendNow {s : State} (h : s.mem.Canonical) (f a len : Nat) : (s.suspendNow f a len).mem.Canonical := by
  grind [State.suspendNow, State.canonical_capture, State.canonical_devPut, State.canonical_foldl]

theorem State.canonical_resumeAll {s t : State} (h : s.mem.Canonical) (f skip : Nat) (l : List (Nat × Saved))
    (e : s.resumeAll f skip l = .ok t) : t.mem.Canonical := by
  induction l generalizing s with
  | nil => grind [State.resumeAll]
  | cons x l ih => grind [State.resumeAll, State.canonical_install]

theorem State.canonical_finishInterrupted {s : State} (h : s.mem.Canonical) (f n : Nat) :
    (s.finishInterrupted f n).mem.Canonical := by
  unfold State.finishInterrupted
  dsimp only
  split
  · exact h
  split
  · exact h
  split
  · exact State.canonical_finishCmd h _ _
  · next c _ _ _ r _ =>
    have hp := State.canonical_putRecord h c.addr c.size r
    split
    · split
      · exact State.canonical_finishCmd hp _ _
      · next e => exact State.canonical_finishCmd (State.canonical_restoreAt hp _ _ _ e) _ _
    · exact State.canonical_finishCmd hp _ _

theorem State.canonical_vfResume {s : State} (h : s.mem.Canonical) (c : Cmd) : (s.vfResume c).1.mem.Canonical := by
  grind [State.vfResume, State.canonical_resumeAll, State.canonical_setRecState, State.canonical_finishInterrupted,
    State.updFunc_mem]

@[simp] theorem canonical_execVfresume {s : State} (h : s.mem.Canonical) : NextCanonical (execVfresume s) := by
  grind [execVfresume, nextCanonical_next, State.canonical_begin', State.canonical_vfResume]

theorem State.canonical_commandComplete {s : State} (h : s.mem.Canonical) (f : Nat) : (s.commandComplete f).mem.Canonical := by
  grind [State.commandComplete, State.canonical_begin', State.canonical_finishCmd, State.canonical_saveNow,
    State.canonical_switchNow, State.canonical_suspendNow]

/-! ### Assignment (`Machine.Assign`) -/

theorem Assignment.canonical_apply {s : State} (h : s.mem.Canonical) (r : Assignment) : (r.apply s).mem.Canonical := by
  grind [Assignment.apply, State.canonical_withdraw, State.keepPools_mem, State.updFunc_mem, State.updCtx_mem,
    State.canonical_foldl]

theorem State.canonical_assign {s : State} (h : s.mem.Canonical) (c : Cmd) : (s.assign c).1.mem.Canonical := by
  grind [State.assign, Assignment.canonical_apply]

@[simp] theorem canonical_execAssign {s : State} (h : s.mem.Canonical) : NextCanonical (execAssign s) := by
  grind [execAssign, nextCanonical_next, State.canonical_begin', State.canonical_assign]

/-! ### Registers and resets (`Machine.Host`) -/

theorem State.canonical_flushBacklog {s : State} (h : s.mem.Canonical) (f : Nat) (l : List Rec) :
    (s.flushBacklog f l).mem.Canonical := by
  induction l generalizing s with
  | nil => exact h
  | cons r l ih => exact ih (State.canonical_ringPut h _ _)

theorem State.canonical_writeDlsize {s : State} (h : s.mem.Canonical) (f v : Nat) : (s.writeDlsize f v).mem.Canonical := by
  grind [State.writeDlsize, State.canonical_flushBacklog, State.updFunc_mem]

@[simp] theorem State.writePtroot_mem (s : State) (f n v : Nat) : (s.writePtroot f n v).mem = s.mem := by
  unfold State.writePtroot
  split <;> rfl

@[simp] theorem State.mgmtWrite_mem (s : State) (o v : Nat) : (s.mgmtWrite o v).mem = s.mem := by
  grind [State.mgmtWrite, State.updLink_mem]

@[simp] theorem State.windowWrite_mem (s : State) (f o v : Nat) : (s.windowWrite f o v).mem = s.mem := by
  grind [State.windowWrite, State.updQueue_mem, State.updFunc_mem]

@[simp] theorem State.portWrite_mem (s : State) (n : Nat) (on : Bool) : (s.portWrite n on).mem = s.mem := by
  unfold State.portWrite
  split <;> rfl

@[simp] theorem State.registerWrite_mem (s : State) (f o v : Nat) : (s.registerWrite f o v).mem = s.mem := by
  grind [State.registerWrite, State.windowWrite_mem, State.mgmtWrite_mem]

@[simp] theorem canonical_execRegisterWrite {s : State} (h : s.mem.Canonical) : NextCanonical (execRegisterWrite s) := by
  grind [execRegisterWrite, nextCanonical_next, State.portWrite_mem, State.registerWrite_mem]

theorem State.canonical_abortCmds {s : State} (h : s.mem.Canonical) (f : Nat) : (s.abortCmds f).mem.Canonical := by
  grind [State.abortCmds, State.canonical_writeStatus, State.canonical_finishCmd, State.canonical_foldl]

@[simp] theorem State.resetWindow_mem (s : State) (f : Nat) : (s.resetWindow f).mem = s.mem := rfl

theorem State.canonical_resetContext {s : State} (h : s.mem.Canonical) (f ctx : Nat) : (s.resetContext f ctx).mem.Canonical := by
  grind [State.resetContext, State.canonical_forget, State.canonical_stopContext, State.canonical_stopWork,
    State.canonical_startJob, State.regrant_mem]

@[simp] theorem State.markJobs_mem (s : State) (p : Nat → Bool) : (s.markJobs p).mem = s.mem := rfl

theorem State.canonical_resetFunc {s : State} (h : s.mem.Canonical) (f : Nat) : (s.resetFunc f).mem.Canonical := by
  grind [State.resetFunc, State.canonical_abortCmds, State.canonical_resetContext, State.resetWindow_mem, State.canonical_foldl]

@[simp] theorem canonical_execFlrVf {s : State} (h : s.mem.Canonical) : NextCanonical (execFlrVf s) := by
  grind [execFlrVf, nextCanonical_next, State.canonical_post, State.canonical_resetFunc, State.markJobs_mem]

@[simp] theorem canonical_execFlrPf {s : State} (h : s.mem.Canonical) : NextCanonical (execFlrPf s) := by
  grind [execFlrPf, nextCanonical_next, State.canonical_resetFunc, State.markJobs_mem]

theorem State.canonical_resetChip {s : State} (h : s.mem.Canonical) : (s.resetChip).mem.Canonical := by
  grind [State.resetChip, State.updMem, State.dark_mem, State.canonical_foldl, MemSt.Canonical]

theorem State.canonical_resetDevice {s : State} (h : s.mem.Canonical) : (s.resetDevice).mem.Canonical := by
  grind [State.resetDevice, State.canonical_resetChip, State.canonical_resetFunc, State.resetWindow_mem, State.markJobs_mem,
    State.canonical_foldl]

@[simp] theorem canonical_execPowerOn {s : State} (h : s.mem.Canonical) : NextCanonical (execPowerOn s) :=
  nextCanonical_next.2 ⟨rfl, h.2⟩

/-! ### Fetch (`Machine.Fetch`) -/

@[simp] theorem State.tookSkips_mem (s : State) (l : List (Nat × Nat)) : (s.tookSkips l).mem = s.mem := by
  grind [State.tookSkips, State.updCrew_mem, State.foldl_mem]

@[simp] theorem State.unpark_mem (s : State) (core cid wid : Nat) (lanes : BitVec 32) :
    (s.unpark core cid wid lanes).mem = s.mem := by
  unfold State.unpark
  split <;> rfl

theorem State.canonical_pick {s : State} (h : s.mem.Canonical) (core q : Nat) : (s.pick core q).1.mem.Canonical := by
  grind [State.pick, State.canonical_endStops, State.cycleBegin_mem, State.tookSkips_mem, State.setCrew_mem, State.unpark_mem,
    State.updCore_mem, State.updPw_mem]

/-- The state that a fetch leaves. -/
def Fetched.state : Fetched → State
  | .word s _ | .held s | .trap s _ => s

theorem Iss.canonical_fetchWord (I : Iss) {s : State} (h : s.mem.Canonical) (va : Nat) :
    (I.fetchWord s va).state.mem.Canonical := by
  grind [Iss.fetchWord, Fetched.state, Iss.canonical_startWalk, State.updCore_mem, Iss.stall_mem, Iss.canonical_reportAt,
    State.canonical_l2Core]

/-- The state that the fetch of an instruction leaves. -/
def FetchedInstr.state : FetchedInstr → State
  | .instr s _ | .held s | .trap s _ => s

@[simp] theorem decoded_state (s : State) (bs : List Byte) : (decoded s bs).state = s := by
  unfold decoded
  split <;> rfl

theorem Iss.canonical_fetch (I : Iss) {s : State} (h : s.mem.Canonical) : (I.fetch s).state.mem.Canonical := by
  grind [Iss.fetch, Fetched.state, FetchedInstr.state, Iss.canonical_fetchWord, decoded_state]

@[simp] theorem Iss.finish_mem (I : Iss) (i : Instr) (q : Nat) (t : State) : (I.finish i q t).mem = t.mem := by
  grind [Iss.finish, State.updCrew_mem, State.pulse_mem, State.cycleEnd_mem]

/-! ### Time on a bus (`Machine.Progress`) -/

theorem State.canonical_busStep {s : State} (h : s.mem.Canonical) {t : State} (e : s.busStep = some t) : t.mem.Canonical := by
  obtain ⟨cl, -, hcl⟩ := List.exists_of_findSome?_eq_some e
  grind [State.until_mem, State.canonical_settleStack, State.canonical_wakeRows]

/-! ### One step -/

/-- Every instruction and every step that no word encodes. Those below are a direct use of what they call, and the first group of
them leaves the memories alone; the others have a lemma of their own above. -/
theorem canonical_exec {s : State} (h : s.mem.Canonical) (i : Instr) : NextCanonical (exec i s) := by
  unfold exec
  cases i with
  | beat | btgt | winq | tagq | tagg | elect | iadd | isub | imul | imulh | imulhn | imad | iabs | imin | iminn | imax | imaxn
      | bfx | bfxs | bfi | shl | shr | sar | rol | and | or | xor | andn | mov | popc | clz | ctz | brev | lea | icmp | sel |
      iaddi | movi | movh | fadd | fsub | fmul | ffma | fmin | fmax | fdiv | fcpys | fabs | fneg | frnd | ffrac | fsqrt | frcp
      | frsq | fclass | fexp2 | flog2 | fsin | fcos | ftanh | ferf | fsigm | fcmp | hadd2 | hmul2 | hfma2 | hmin2 | hmax2 |
      rng | cvtpk | cvtun | cvtif | cvtfi | cvtw | cvtn | cvtne | mand | mor | mxor | mandn | mnot | mmov | mset | mget | mpop
      | mffs | shfl | wred | wscan | barq | nop | rjoin | yield =>
    exact canonical_runInstr h _ fun _ => Eff.canonical_ok.2 h
  | bra | brx | brxAny | brxAll | brn | brnAny | brnAll | brd | call | brl | loop =>
    exact canonical_runInstr h _ fun _ => Iss.canonical_branch _ h _ _ _
  | xcCopy | xcTcopy | xcGath | xcScat | xcFill => exact canonical_runInstr h _ fun I => I.canonical_copyCmd h _ _ _ _
  | ptLook | ptPin | ptUnpin | ptIns | ptEvict => exact canonical_runInstr h _ fun I => I.canonical_ptCommand h _ _
  | idiv | idivn | irem | iremn => exact canonical_runInstr h _ fun I => I.canonical_divide h _ _ _ _ _ _ _
  | jmpi | calli | ret => exact canonical_runInstr h _ fun I => I.canonical_jump h _ _
  | voteAny | voteAll | voteUni => exact canonical_runInstr h _ fun _ => Eff.canonical_ok.2 (by simpa using h)
  | mma | mmas | mmaq => exact canonical_runInstr h _ fun I => I.canonical_mul h _ _ _ _
  | atom | atomCas => exact canonical_runInstr h _ fun I => I.canonical_atomic h _ _ _ _ _ _ _ _
  | atoml | atomlCas => exact canonical_runInstr h _ fun I => I.canonical_atomicL h _ _ _ _ _ _ _
  | bar | bara => exact canonical_runInstr h _ fun I => I.canonical_arrive h _ _ _ _ _
  | mwait | mfence => exact canonical_runInstr h _ fun _ => Iss.canonical_mwait _ h _
  | swBind | swUnbind => exact canonical_runInstr h _ fun I => I.canonical_swBind h _ _ _ _
  | trap => exact canonical_runInstr h _ fun I => by simp [h]
  | clockStepChange | sliderPeriod | pwrctlWrite | thermalBandChange | thermalCapTick | fabcfgWrite | mrgtagWrite |
      mrgparWrite | cmddbWrite | beatArrive | btgtArrive | quantumEnd =>
    exact nextCanonical_next.2 h
  | crewPlace | groupPlace | takeRestore | controlThreadRestore => exact nextCanonical_next.2 (State.canonical_dispatch h _)
  | ptrootWrite | divergenceYield => exact nextCanonical_next.2 (by simpa using h)
  | hotReset | warmReset => exact nextCanonical_next.2 (State.canonical_resetDevice h)
  | thermalTrip => exact nextCanonical_next.2 (State.canonical_thermalTrip h _)
  | thermalClear => exact nextCanonical_next.2 (State.canonical_thermalClear h)
  | pageMigrated => exact nextCanonical_next.2 (State.canonical_migrated h _)
  | clusterFenced => exact nextCanonical_next.2 (State.canonical_fence h _ _)
  | collectiveItemDone => exact nextCanonical_next.2 (State.canonical_collItem h _ _ _ _)
  | collectiveCommit => exact nextCanonical_next.2 (State.canonical_collCommit h _ _)
  | qsubWrite => exact nextCanonical_next.2 (State.canonical_qsub h _ _ _ _)
  | slateAccept => exact nextCanonical_next.2 (State.canonical_slateAccept h _)
  | commandComplete => exact nextCanonical_next.2 (State.canonical_commandComplete h _)
  | dlsizeWrite => exact nextCanonical_next.2 (State.canonical_writeDlsize h _ _)
  | keyZeroDone => exact nextCanonical_next.2 (State.canonical_keyZeroDone h _)
  | scrubUnitCommit => exact nextCanonical_next.2 (State.canonical_commitUnit h _)
  | scrubDone => exact nextCanonical_next.2 (State.canonical_endJob h _)
  | controlPeriodEnd => exact nextCanonical_next.2 (State.canonical_controlPeriodEnd h _)
  | allocatorEpoch => exact nextCanonical_next.2 (State.canonical_allocate h _)
  | grantApply => exact nextCanonical_next.2 (State.canonical_grantApply h _)
  | takeSpillDone => exact nextCanonical_next.2 (State.canonical_spillDone h _)
  | engineCommandStart => exact nextCanonical_next.2 (State.canonical_engineStart h _ _)
  | slateRetire => exact nextCanonical_next.2 (State.canonical_slateRetire h _)
  | deadlineExpiry => exact nextCanonical_next.2 (State.canonical_deadline h _)
  | passStart => exact nextCanonical_next.2 (State.canonical_passStart h _)
  | blockPass => exact nextCanonical_next.2 (State.canonical_blockPass h _)
  | wakeApply => exact nextCanonical_next.2 (State.canonical_wakeApply h _)
  | pageWalkDone => exact nextCanonical_next.2 (State.canonical_walkDone h _ _)
  | copyItemStart => exact nextCanonical_next.2 (State.canonical_copyStart h _)
  | copyItemComplete => exact nextCanonical_next.2 (State.canonical_copyComplete h _)
  | grammarSlotPerform => exact nextCanonical_next.2 (State.canonical_grammarPerform h _ _)
  | hostPortAccess => exact nextCanonical_next.2 (State.canonical_hostAccess h _)
  | _ => simp [h]

theorem State.canonical_tryStep {s t : State} (h : s.mem.Canonical) {x : Instr × Input} (e : s.tryStep x = some t) :
    t.mem.Canonical := by
  unfold State.tryStep at e
  split at e
  · next he =>
    split at e <;> cases e
    refine canonical_exec ?_ _ _ he
    exact h
  · cases e
  · cases e

theorem State.canonical_progress {s t : State} (h : s.mem.Canonical) (e : s.progress = some t) : t.mem.Canonical := by
  unfold State.progress at e
  split at e
  · next hw =>
    cases e
    obtain ⟨x, -, hx⟩ := List.exists_of_findSome?_eq_some hw
    exact State.canonical_tryStep h hx
  · exact State.canonical_busStep h e

theorem State.canonical_run {s : State} (h : s.mem.Canonical) (q : Nat) : NextCanonical (s.run q) := by
  intro t e
  unfold State.run at e
  split at e
  · cases e
  · next I _ =>
    have hf := I.canonical_fetch h
    split at e
    · next hi => rw [hi] at hf; cases e; simpa [FetchedInstr.state] using hf
    · next hi => rw [hi] at hf; cases e; simpa [FetchedInstr.state] using State.canonical_takeTrap hf _
    · next hi =>
      rw [hi] at hf
      split at e
      · next he => cases e; simpa using canonical_exec hf _ _ he
      · cases e
      · cases e

theorem State.canonical_turn {s : State} (h : s.mem.Canonical) (core q : Nat) : NextCanonical (s.turn core q) := by
  have hp := State.canonical_pick h core q
  unfold State.turn
  dsimp only
  split
  · exact State.canonical_run hp q
  · simpa using hp

theorem State.canonical_turnOfFocus {s : State} (h : s.mem.Canonical) (f : Focus) : NextCanonical (s.turnOfFocus f) := by
  unfold State.turnOfFocus
  split
  · exact nextCanonical_next.2 h
  · exact State.canonical_turn h _ _

theorem State.canonical_alone {s : State} (h : s.mem.Canonical) : NextCanonical s.alone := by
  unfold State.alone
  split
  · exact nextCanonical_next.2 (State.canonical_getD h fun _ e => State.canonical_progress h e)
  · next core q _ =>
    have hp := State.canonical_pick h core q
    dsimp only
    split
    · exact State.canonical_run hp q
    split
    · next hu => exact nextCanonical_next.2 (State.canonical_progress h hu)
    · simpa using hp

theorem State.canonical_happen {s : State} (h : s.mem.Canonical) (x : Item) (rest : List Item) :
    NextCanonical (s.happen x rest) := by
  unfold State.happen
  dsimp only
  split
  · refine State.canonical_turnOfFocus ?_ _
    exact h
  split
  · refine canonical_exec ?_ _
    exact h
  · exact nextCanonical_next.2 h

theorem canonical_step {s : State} (h : s.mem.Canonical) : NextCanonical (step s) := by
  unfold step
  split
  · exact State.canonical_alone h
  · exact State.canonical_happen h _ _

/-- Settles O58: a step is an instruction or an event, by `canonical_exec`, with the choice of the warp, the fetch and the end of the
cycle around it, which keep the form too. -/
theorem memoryStaysCanonical : Obligations.MemoryStaysCanonical :=
  fun _ t h e => canonical_step h t e

end Sys2Proof.Machine
end

section
/-! SUPPORT. What the memory system leaves alone. Its operations change the memories, the cores' own state, the hidden stores and wakers of
bindings, the time and the spacing of DRAM commands, and nothing else: a property that these five kinds of change keep is kept by every
operation, which is shown once for each operation, in the model's order. -/

namespace Sys2Proof.Machine

/-- A property of states that the memory system's own changes keep. -/
structure MemKept (P : State → Prop) : Prop where
  updMem : ∀ {s : State} (f : MemSt → MemSt), P s → P (s.updMem f)
  setCore : ∀ {s : State} (k : Nat) (c : CoreSt), P s → P (s.setCore k c)
  bindings : ∀ {s : State} (b : Tbl Binding), P s → P { s with bindings := b }
  later : ∀ {s : State} (t : Nat), P s → P (s.until t)
  command : ∀ {s : State} (k t : Nat), P s → P (s.updStack k fun x => { x with lastCmd := some t })

namespace MemKept

variable {P : State → Prop} (hP : MemKept P) {s : State}
include hP

omit hP in
/-- A loop keeps what each of its turns keeps. -/
theorem foldl {α : Type} {f : State → α → State} (hf : ∀ s x, P s → P (f s x)) (l : List α) (h : P s) : P (l.foldl f s) := by
  induction l generalizing s with
  | nil => exact h
  | cons x l ih => exact ih (hf s x h)

theorem updCore (h : P s) (k : Nat) (f : CoreSt → CoreSt) : P (s.updCore k f) := hP.setCore k _ h

theorem untilTick (h : P s) (t : Nat) : P (s.untilTick t) := hP.later _ h

theorem homePut (h : P s) (host : Bool) (slot pa : Nat) (bs : List Byte) : P (s.homePut host slot pa bs) := by
  grind [State.homePut, hP.updMem]

theorem putNum (h : P s) (ctx va n x : Nat) : P (s.putNum ctx va n x) := by
  grind [State.putNum, hP.homePut]

theorem putBit (h : P s) (ctx base i : Nat) (v : Bool) : P (s.putBit ctx base i v) := by
  grind [State.putBit, hP.putNum]

theorem wakeElem (h : P s) (b : Binding) (e : Nat) : P (s.wakeElem b e) := by
  grind [State.wakeElem, hP.putBit]

theorem storeWakes (h : P s) (core : Option Nat) (host : Bool) (pa n : Nat) : P (s.storeWakes core host pa n) := by
  grind [State.storeWakes, hP.wakeElem, foldl (P := P), hP.bindings]

theorem dramCommand (h : P s) (host : Bool) (line : Nat) : P (s.dramCommand host line) := by
  unfold State.dramCommand
  split
  · exact h
  · refine hP.command _ _ ?_
    split
    · exact h
    · exact hP.later _ h

theorem recallLine (h : P s) (host : Bool) (line : Nat) (keep : Bool) : P (s.recall host line keep) := by
  unfold State.recall
  exact hP.updMem _ h

theorem l2One (h : P s) (die ctx : Nat) (host : Bool) (slot line : Nat) (write : Bool) : P (s.l2One die ctx host slot line write) := by
  grind [State.l2One, hP.dramCommand, hP.recallLine, hP.updMem]

theorem l2Access (h : P s) (who : Option Nat) (die : Nat) (host : Bool) (slot line : Nat) (write home : Bool) :
    P (s.l2Access who die host slot line write home) := by
  cases who with
  | none => exact h
  | some ctx => grind [State.l2Access, hP.recallLine, hP.l2One, hP.updMem]

theorem l2Core (h : P s) (core : Nat) (host : Bool) (slot line : Nat) (write home : Bool) : P (s.l2Core core host slot line write home) :=
  hP.l2Access h _ _ _ _ _ _ _

theorem homeWrite (h : P s) (core : Option Nat) (home host : Bool) (slot pa : Nat) (bs : List Byte) :
    P (s.homeWrite core home host slot pa bs) := by
  cases core <;> grind [State.homeWrite, hP.l2Core, hP.homePut, hP.storeWakes]

theorem writeBack (h : P s) (core : Nat) (l : L1Line) : P (s.writeBack core l) := by
  grind [State.writeBack, hP.homeWrite, foldl (P := P)]

theorem performStore (h : P s) (core : Nat) (w : WBuf) : P (s.performStore core w) := by
  grind [State.performStore, hP.homeWrite, hP.updCore]

theorem drainLine (h : P s) (core line : Nat) (host : Bool) : P (s.drainLine core line host) := by
  grind [State.drainLine, hP.performStore, hP.setCore, foldl (P := P)]

theorem l1Fill (h : P s) (core line : Nat) (host : Bool) (slot ord : Nat) : P (s.l1Fill core line host slot ord).1 := by
  grind [State.l1Fill, hP.drainLine, hP.writeBack, hP.l2Core, hP.setCore]

theorem l1SetByte (h : P s) (core : Nat) (host : Bool) (slot ord pa : Nat) (b : Byte) : P (s.l1SetByte core host slot ord pa b) := by
  grind [State.l1SetByte, hP.l1Fill, hP.setCore]

theorem flushLines (h : P s) (core : Nat) (keep : Bool) (p : L1Line → Bool) : P (s.flushLines core keep p) := by
  grind [State.flushLines, hP.writeBack, hP.updCore, foldl (P := P)]

theorem l1Drop (h : P s) (core line : Nat) (host : Bool) : P (s.l1Drop core line host) := by
  grind [State.l1Drop, hP.drainLine, hP.flushLines]

theorem noteStore (h : P s) (core : Nat) (e : TlbEnt) (pa : Nat) : P (s.noteStore core e pa) := by
  grind [State.noteStore, hP.updCore]

theorem claim (h : P s) (core : Nat) (self : Option (Nat × Nat)) (va pa n : Nat) : P (s.claim core self va pa n) := by
  unfold State.claim
  split
  · exact h
  · exact hP.updCore h _ _

theorem storeByte (h : P s) (core : Nat) (e : TlbEnt) (pa : Nat) (home : Bool) (b : Byte) : P (s.storeByte core e pa home b) := by
  grind [State.storeByte, hP.homeWrite, hP.l1Drop, hP.l1SetByte, hP.noteStore]

theorem reveal (h : P s) (core : Option Nat) (key : Nat) (p : Nat → Bool) : P (s.reveal core key p) := by
  grind [State.reveal, hP.storeByte, hP.homePut, hP.claim, foldl (P := P), hP.bindings]

theorem revealThread (h : P s) (core : Nat) (who : Option (Nat × Nat)) : P (s.revealThread core who) := by
  cases who <;> grind [State.revealThread, hP.reveal]

theorem drainThread (h : P s) (core : Nat) (who : Option (Nat × Nat)) : P (s.drainThread core who) := by
  grind [State.drainThread, hP.revealThread, hP.performStore, hP.setCore, foldl (P := P)]

theorem logAppend (h : P s) (sig : BitVec 1024) : P (s.logAppend sig) := hP.updMem _ h

theorem release (h : P s) (core : Nat) (who : Option (Nat × Nat)) (scope : Nat) : P (s.release core who scope).1 := by
  grind [State.release, hP.drainThread, hP.flushLines, hP.logAppend, hP.setCore]

theorem releaseAll (h : P s) (core : Nat) : P (s.releaseAll core) := hP.release h _ _ _

theorem acquire (h : P s) (core n : Nat) : P (s.acquire core n) := by
  grind [State.acquire, hP.flushLines, hP.updCore]

theorem acquireHead (h : P s) (core : Nat) : P (s.acquireHead core) := hP.acquire h _ _

theorem fullFence (h : P s) (core : Nat) : P (s.fullFence core) := by
  grind [State.fullFence, hP.drainThread, hP.flushLines]

theorem writeBackCluster (h : P s) (cl : Nat) : P (s.writeBackCluster cl) := by
  unfold State.writeBackCluster
  exact MemKept.foldl (P := P) (fun _ k hs => hP.fullFence (hP.releaseAll hs k) k) _ h

end MemKept

end Sys2Proof.Machine
end

section
/-! SUPPORT. Clocks, caps and power states (R23-R30, R37-R41): what the accessors of the power state read after an update, which cluster's cap moves,
and what powering down and waking a cluster do to each cluster. -/

namespace Sys2Proof.Machine

/-! ### Power of a cluster after an update -/

@[simp] theorem State.pw_updPw_self (s : State) (cl : Nat) (f : ClusterPw → ClusterPw) : (s.updPw cl f).pw cl = f (s.pw cl) := by
  simp [State.pw, State.updPw]
theorem State.pw_updPw_ne (s : State) {cl k : Nat} (f : ClusterPw → ClusterPw) (h : k ≠ cl) : (s.updPw cl f).pw k = s.pw k := by
  simp [State.pw, State.updPw, Tbl.get_set_ne _ _ _ h]

/-- What holds of a cluster's power, and of the power that an update gives the updated cluster, holds after the update. -/
theorem State.pw_updPw (s : State) (cl k : Nat) (f : ClusterPw → ClusterPw) : (s.updPw cl f).pw k = if k = cl then f (s.pw cl) else s.pw k := by
  split
  · subst k; simp
  · exact s.pw_updPw_ne f ‹_›

theorem State.mx_updMx (s : State) (cl k : Nat) (f : MatrixSt → MatrixSt) : (s.updMx cl f).mx k = if k = cl then f (s.mx cl) else s.mx k := by
  split
  · subst k; simp [State.mx, State.updMx]
  · simp [State.mx, State.updMx, State.cluster_updCluster_ne _ _ ‹_›]

theorem State.updStack_congr {s : State} {k : Nat} {f g : StackSt → StackSt} (h : f (s.stack k) = g (s.stack k)) :
    s.updStack k f = s.updStack k g := by
  rw [State.updStack, State.updStack, h]

theorem State.tolerates_iff (s : State) (ns : Nat) : s.tolerates ns = true ↔ ∀ t, s.power.tolerance = some t → ns ≤ t := by
  unfold State.tolerates
  split <;> simp_all

/-! ### Which cluster's cap moves (R27) -/

/-- The choice of a fold that goes through candidates: the one held, unless `better` prefers the next. -/
def champion (better : Nat → Nat → Prop) [DecidableRel better] (b : Option Nat) (c : Nat) : Option Nat :=
  match b with
  | some x => if better x c then some c else b
  | none => some c

theorem foldl_champion_stays {better : Nat → Nat → Prop} [DecidableRel better] {c : Nat} (l : List Nat) (h : ∀ x, x ∈ l → ¬better c x) :
    l.foldl (champion better) (some c) = some c := by
  induction l with
  | nil => rfl
  | cons x l ih =>
    have hx : champion better (some c) x = some c := by simp [champion, h x (by simp)]
    rw [List.foldl_cons, hx, ih fun y hy => h y (by simp [hy])]

theorem foldl_champion_mem {better : Nat → Nat → Prop} [DecidableRel better] (l : List Nat) (b : Option Nat) {x : Nat}
    (h : l.foldl (champion better) b = some x) : b = some x ∨ x ∈ l := by
  induction l generalizing b with
  | nil => exact .inl h
  | cons y l ih =>
    rcases ih _ h with hb | hm
    · cases b with
      | none => simp_all [champion]
      | some z =>
        simp only [champion] at hb
        split at hb <;> simp_all
    · exact .inr (by simp [hm])

/-- A candidate that beats those before it, and that none after it beats, is the fold's choice. -/
theorem foldl_champion {better : Nat → Nat → Prop} [DecidableRel better] {l : List Nat} (hl : l.Pairwise (· < ·)) {c : Nat} (hc : c ∈ l)
    (before : ∀ x, x ∈ l → x < c → better x c) (after : ∀ x, x ∈ l → c < x → ¬better c x) :
    l.foldl (champion better) none = some c := by
  obtain ⟨l1, l2, rfl⟩ := List.append_of_mem hc
  obtain ⟨_, h2, h12⟩ := List.pairwise_append.1 hl
  rw [List.foldl_append, List.foldl_cons]
  have hstep : champion better (l1.foldl (champion better) none) c = some c := by
    cases hb : l1.foldl (champion better) none with
    | none => rfl
    | some x =>
      rcases foldl_champion_mem l1 none hb with h | hx
      · cases h
      · simp [champion, before x (by simp [hx]) (h12 x hx c (by simp))]
  rw [hstep]
  exact foldl_champion_stays l2 fun x hx => after x (by simp [hx]) ((List.pairwise_cons.1 h2).1 x hx)

/-- The class of a cluster as the order of caps counts it: one more than the least favoured class there, 0 without a context. -/
def State.capClass (s : State) (cl : Nat) : Nat := match s.clusterClass cl with | some n => n + 1 | none => 0

theorem State.capKey_eq (s : State) (cl : Nat) : s.capKey cl = 128 * s.capClass cl + (s.pw cl).step := rfl

/-- The order in which caps are lowered: by class, then by step, both from the highest, then by number. -/
def State.lowersBefore (s : State) (c x : Nat) : Prop :=
  s.capClass x < s.capClass c ∨ (s.capClass x = s.capClass c ∧ ((s.pw x).step < (s.pw c).step ∨ ((s.pw x).step = (s.pw c).step ∧ c ≤ x)))

/-- The order of `lowersBefore` is that of the keys, then of the numbers, while no step passes 100. -/
theorem State.lowersBefore_iff {s : State} (hs : ∀ c, c < 32 → (s.pw c).step ≤ 100) {c x : Nat} (hc : c < 32) (hx : x < 32) :
    s.lowersBefore c x ↔ s.capKey x < s.capKey c ∨ (s.capKey x = s.capKey c ∧ c ≤ x) := by
  have h1 := hs c hc
  have h2 := hs x hx
  simp only [State.lowersBefore, State.capKey_eq]
  omega

theorem range_filter_sorted (n : Nat) (p : Nat → Bool) : ((List.range n).filter p).Pairwise (· < ·) :=
  List.Pairwise.filter _ List.pairwise_lt_range

theorem State.lowerNext_eq_some {s : State} (hs : ∀ c, c < 32 → (s.pw c).step ≤ 100) {c : Nat} (hc : c < 32) (hcap : 0 < (s.pw c).cap)
    (first : ∀ x, x < 32 → 0 < (s.pw x).cap → s.lowersBefore c x) : s.lowerNext = some c := by
  have key (x : Nat) (hx : x ∈ (List.range 32).filter fun cl => 0 < (s.pw cl).cap) :
      s.capKey x < s.capKey c ∨ (s.capKey x = s.capKey c ∧ c ≤ x) := by
    simp only [List.mem_filter, List.mem_range, decide_eq_true_eq] at hx
    exact (State.lowersBefore_iff hs hc hx.1).1 (first x hx.1 hx.2)
  refine foldl_champion (better := fun x y => s.capKey x < s.capKey y) (range_filter_sorted 32 _) (by simp [hc, hcap]) ?_ ?_
  · intro x hx hlt
    have := key x hx
    omega
  · intro x hx hlt
    have := key x hx
    omega

theorem State.raiseNext_eq_some {s : State} (hs : ∀ c, c < 32 → (s.pw c).step ≤ 100) {c : Nat} (hc : c < 32) (hcap : (s.pw c).cap < 100)
    (last : ∀ x, x < 32 → (s.pw x).cap < 100 → s.lowersBefore x c) : s.raiseNext = some c := by
  have key (x : Nat) (hx : x ∈ (List.range 32).filter fun cl => (s.pw cl).cap < 100) :
      s.capKey c < s.capKey x ∨ (s.capKey c = s.capKey x ∧ x ≤ c) := by
    simp only [List.mem_filter, List.mem_range, decide_eq_true_eq] at hx
    exact (State.lowersBefore_iff hs hx.1 hc).1 (last x hx.1 hx.2)
  refine foldl_champion (better := fun x y => s.capKey y ≤ s.capKey x) (range_filter_sorted 32 _) (by simp [hc, hcap]) ?_ ?_
  · intro x hx hlt
    have := key x hx
    omega
  · intro x hx hlt
    have := key x hx
    omega

theorem State.lowerNext_eq_none {s : State} (h : ∀ c, c < 32 → (s.pw c).cap = 0) : s.lowerNext = none := by
  have : (List.range 32).filter (fun cl => 0 < (s.pw cl).cap) = [] := by
    simp only [List.filter_eq_nil_iff, List.mem_range, decide_eq_true_eq]
    intro c hc
    have := h c hc
    omega
  simp [State.lowerNext, this]

theorem State.raiseNext_eq_none {s : State} (h : ∀ c, c < 32 → 100 ≤ (s.pw c).cap) : s.raiseNext = none := by
  have : (List.range 32).filter (fun cl => (s.pw cl).cap < 100) = [] := by
    simp only [List.filter_eq_nil_iff, List.mem_range, decide_eq_true_eq]
    intro c hc
    have := h c hc
    omega
  simp [State.raiseNext, this]

/-! ### The budget, the slider and the caps (R26-R30) -/

section
variable {s : State}

/-- The compute side above its share lowers the cap of the cluster next in order, if one has a cap left. -/
theorem execBudgetCapAdjust_compute_above (hsub : s.inp.sub = 0) (h : s.power.cmpShare s.inp.unit < s.inp.val) :
    execBudgetCapAdjust s = .next (
      let u : State := { s with power := { s.power with cmpcap := true } }
      s.lowerNext.elim u fun cl => u.updPw cl fun p => { p with cap := p.cap - 1 }) := by
  unfold execBudgetCapAdjust
  dsimp only
  rw [if_pos hsub, if_pos h]
  cases s.lowerNext <;> rfl

/-- Below its share it raises the cap of the cluster last in that order, if one is capped. -/
theorem execBudgetCapAdjust_compute_below (hsub : s.inp.sub = 0) (h : s.inp.val < s.power.cmpShare s.inp.unit) :
    execBudgetCapAdjust s = .next (s.raiseNext.elim s fun cl => s.updPw cl fun p => { p with cap := p.cap + 1 }) := by
  unfold execBudgetCapAdjust
  dsimp only
  rw [if_pos hsub, if_neg (by omega), if_pos h]
  cases s.raiseNext <;> rfl

theorem execBudgetCapAdjust_compute_at (hsub : s.inp.sub = 0) (h : s.inp.val = s.power.cmpShare s.inp.unit) :
    execBudgetCapAdjust s = .next s := by
  simp [execBudgetCapAdjust, hsub, h]

/-- The memory side's factor rises above the share and falls below it. -/
theorem execBudgetCapAdjust_memory_above (hsub : s.inp.sub ≠ 0) (h : s.power.memShare s.inp.unit < s.inp.val) :
    execBudgetCapAdjust s = .next { s with power := { s.power with memcap := true, memFactor := s.power.memFactor + 1 } } := by
  unfold execBudgetCapAdjust
  dsimp only
  rw [if_neg hsub, if_pos h]

theorem execBudgetCapAdjust_memory_below (hsub : s.inp.sub ≠ 0) (h : s.inp.val < s.power.memShare s.inp.unit) :
    execBudgetCapAdjust s = .next { s with power := { s.power with memFactor := s.power.memFactor - 1 } } := by
  unfold execBudgetCapAdjust
  dsimp only
  rw [if_neg hsub, if_neg (Nat.lt_asymm h), if_pos h]

theorem execBudgetCapAdjust_memory_at (hsub : s.inp.sub ≠ 0) (h : s.inp.val = s.power.memShare s.inp.unit) :
    execBudgetCapAdjust s = .next s := by
  simp [execBudgetCapAdjust, hsub, h]

end

theorem bits_one_beq (v i : Nat) : (bits v i 1 == 1) = v.testBit i := by
  simp [bits, Nat.testBit, Nat.shiftRight_eq_div_pow]

/-- Settles the part of O26 on clocks, budget, slider and caps: each step by its own equation above. -/
theorem powerSteps : Claims.PowerSteps := by
  intro s
  dsimp only
  refine ⟨rfl, fun hsub => ⟨?_, ?_, ?_, ?_, ?_⟩, fun hsub => ⟨?_, ?_, ?_⟩, ⟨?_, ?_, ?_, ?_⟩, ?_, ?_, ?_⟩
  · intro h hcap
    rw [exec_eq_budgetCapAdjust, execBudgetCapAdjust_compute_above hsub h, State.lowerNext_eq_none hcap, Option.elim_none]
  · intro h hst c hc hcap first
    rw [exec_eq_budgetCapAdjust, execBudgetCapAdjust_compute_above hsub h, State.lowerNext_eq_some hst hc hcap first, Option.elim_some]
  · intro h hcap
    rw [exec_eq_budgetCapAdjust, execBudgetCapAdjust_compute_below hsub h, State.raiseNext_eq_none hcap, Option.elim_none]
  · intro h hst c hc hcap last
    rw [exec_eq_budgetCapAdjust, execBudgetCapAdjust_compute_below hsub h, State.raiseNext_eq_some hst hc hcap last, Option.elim_some]
  · exact execBudgetCapAdjust_compute_at hsub
  · exact execBudgetCapAdjust_memory_above hsub
  · exact execBudgetCapAdjust_memory_below hsub
  · exact execBudgetCapAdjust_memory_at hsub
  · intro h
    simp [execSliderPeriod, h, clampN, State.untilTick, State.until]
  · intro h hst
    simp [execSliderPeriod, h, hst.1, hst.2, clampN, State.untilTick, State.until]
  · intro h hst hw
    have hst' : (s.power.memcap && decide (3 * s.inp.aux ≤ 8 * s.inp.val)) = false := by simpa using hst
    simp [execSliderPeriod, h, hst', hw.1, hw.2, clampN, State.untilTick, State.until]
  · intro h hst hw
    have hst' : (s.power.memcap && decide (3 * s.inp.aux ≤ 8 * s.inp.val)) = false := by simpa using hst
    have hw' : (s.power.cmpcap && decide (8 * s.inp.val < s.inp.aux)) = false := by simpa using hw
    simp [execSliderPeriod, h, hst', hw', clampN, State.untilTick, State.until]
  · simp only [exec_eq_pwrctlWrite, execPwrctlWrite, clampN, bits_one_beq]
    simp [bits, Nat.shiftRight_eq_div_pow]
  · rfl
  · rw [exec_eq_thermalCapTick, execThermalCapTick]
    refine congrArg _ (State.updStack_congr ?_)
    rcases (s.stack s.inp.unit).band with _ | _ | _ | n <;> rfl

end Sys2Proof.Machine
end

section
namespace Sys2Proof.Machine

/-! ### Powering down (R37, R40) -/

/-- What a write-back of a cluster's caches keeps of the power state: everything but the spacing of DRAM commands. -/
theorem memKept_power (p : PowerSt) : MemKept fun s => { s.power with hbms := [] } = { p with hbms := [] } :=
  ⟨fun _ h => h, fun _ _ h => h, fun _ h => h, fun _ h => h, fun _ _ h => h⟩

theorem memKept_clusters (c : Tbl ClusterSt) : MemKept fun s => s.clusters = c :=
  ⟨fun _ h => h, fun _ _ h => h, fun _ h => h, fun _ h => h, fun _ _ h => h⟩

theorem memKept_now (n : Nat) : MemKept fun s => n ≤ s.now :=
  ⟨fun _ h => h, fun _ _ h => h, fun _ h => h, fun _ h => le_trans h (le_max_left _ _), fun _ _ h => h⟩

@[simp] theorem State.cluster_updPw (s : State) (cl k : Nat) (f : ClusterPw → ClusterPw) : (s.updPw cl f).cluster k = s.cluster k := rfl
@[simp] theorem State.now_updPw (s : State) (cl : Nat) (f : ClusterPw → ClusterPw) : (s.updPw cl f).now = s.now := rfl
@[simp] theorem State.now_until (s : State) (n : Nat) : (s.until n).now = max s.now n := rfl
@[simp] theorem State.pw_until (s : State) (n k : Nat) : (s.until n).pw k = s.pw k := rfl
@[simp] theorem State.power_dark (s : State) (cl : Nat) : (s.dark cl).power = s.power := rfl
@[simp] theorem State.now_dark (s : State) (cl : Nat) : (s.dark cl).now = s.now := rfl
@[simp] theorem State.pw_dark (s : State) (cl k : Nat) : (s.dark cl).pw k = s.pw k := rfl

/-- A cluster in the dark keeps neither messages, arrivals, rows nor matrix state. -/
theorem State.cluster_dark_self (s : State) (cl : Nat) : (s.dark cl).cluster cl = { s.cluster cl with
    mbx := [], mbxMark := [], arv := [], arvMark := [], tlb2 := [], rows := [], xfers := [], mx := {} } :=
  State.cluster_updCluster_self _ _ _

theorem State.cluster_dark_ne (s : State) {cl k : Nat} (h : k ≠ cl) : (s.dark cl).cluster k = s.cluster k :=
  State.cluster_updCluster_ne _ _ h

theorem State.power_writeBackCluster (s : State) (cl : Nat) :
    { (s.writeBackCluster cl).power with hbms := [] } = { s.power with hbms := [] } :=
  (memKept_power s.power).writeBackCluster (s := s) rfl cl

@[simp] theorem State.pw_writeBackCluster (s : State) (cl k : Nat) : (s.writeBackCluster cl).pw k = s.pw k := by
  have h : (s.writeBackCluster cl).power.clusters = s.power.clusters := by
    simpa using congrArg PowerSt.clusters (s.power_writeBackCluster cl)
  rw [State.pw, h, State.pw]

@[simp] theorem State.cluster_writeBackCluster (s : State) (cl k : Nat) : (s.writeBackCluster cl).cluster k = s.cluster k := by
  have h : (s.writeBackCluster cl).clusters = s.clusters := (memKept_clusters s.clusters).writeBackCluster (s := s) rfl cl
  rw [State.cluster, h, State.cluster]

theorem State.now_le_writeBackCluster (s : State) (cl : Nat) : s.now ≤ (s.writeBackCluster cl).now :=
  (memKept_now s.now).writeBackCluster (s := s) le_rfl cl

/-- Powering down puts the cluster in W2 with its hold running, and changes the power of no other. -/
theorem State.pw_powerDown (s : State) (cl k : Nat) : (s.powerDown cl).pw k =
    if k = cl then { s.pw cl with w := 2, hold := true, latched := false, downAt := s.now } else s.pw k := by
  rw [State.powerDown, State.pw_updPw]
  simp

theorem State.cluster_powerDown_self (s : State) (cl : Nat) : (s.powerDown cl).cluster cl = { s.cluster cl with
    mbx := [], mbxMark := [], arv := [], arvMark := [], tlb2 := [], rows := [], xfers := [], mx := {} } := by
  rw [State.powerDown, State.cluster_updPw, State.cluster_dark_self, State.cluster_writeBackCluster]

theorem State.now_le_powerDown (s : State) (cl : Nat) : s.now ≤ (s.powerDown cl).now := by
  rw [State.powerDown, State.now_updPw, State.now_dark]
  exact s.now_le_writeBackCluster cl

/-! ### When a cluster may go down (R37-R39) -/

/-- Clusters of a cluster's die that stand in W2. -/
def State.asleepBeside (s : State) (cl : Nat) : Nat := ((List.range 32).filter fun k => k / 16 == cl / 16 && (s.pw k).w == 2).length

theorem State.w2May_iff (s : State) (cl : Nat) : s.w2May cl = true ↔
    s.power.w3 = false ∧ (∀ t, s.power.tolerance = some t → 24000 ≤ t) ∧ s.w2Ready cl = true ∧ s.crewlessAt cl ≤ s.now ∧ s.asleepBeside cl < 9 := by
  simp only [State.w2May, Bool.and_eq_true, Bool.not_eq_true', decide_eq_true_eq, State.tolerates_iff]
  simp only [State.asleepBeside, dieOf]
  tauto

/-- What a cluster that powers down at `now` shows. -/
structure State.Down (s t : State) (cl now : Nat) : Prop where
  later : now ≤ t.now
  w : (t.pw cl).w = 2
  hold : (t.pw cl).hold = true
  latched : (t.pw cl).latched = false
  downAt : (t.pw cl).downAt = now
  others : ∀ k, k ≠ cl → t.pw k = s.pw k
  mx : t.mx cl = {}
  mbx : (t.cluster cl).mbx = []
  arv : (t.cluster cl).arv = []
  rows : (t.cluster cl).rows = []

theorem State.down_powerDown (s : State) (n cl : Nat) : s.Down ((s.until n).powerDown cl) cl (max s.now n) where
  later := (s.until n).now_le_powerDown cl
  w := by simp [State.pw_powerDown]
  hold := by simp [State.pw_powerDown]
  latched := by simp [State.pw_powerDown]
  downAt := by simp [State.pw_powerDown]
  others := fun k h => by simp [State.pw_powerDown, h]
  mx := by rw [State.mx, State.cluster_powerDown_self]
  mbx := by rw [State.cluster_powerDown_self]
  arv := by rw [State.cluster_powerDown_self]
  rows := by rw [State.cluster_powerDown_self]

/-- W1 is refused to a cluster that is not in W0 or whose host tolerates less than 100 ns. -/
theorem execW1Entry_refused {s : State} (h : ¬((s.pw s.inp.unit).w = 0 ∧ s.tolerates 100 = true)) : execW1Entry s = .next s := by
  unfold execW1Entry
  dsimp only
  rw [if_pos (by simpa [Bool.or_eq_true, imp_iff_not_or] using h)]

theorem execW1Entry_allowed {s : State} (hw : (s.pw s.inp.unit).w = 0) (ht : s.tolerates 100 = true) :
    let u := s.until ((s.pw s.inp.unit).lastIssue + 2000000)
    execW1Entry s = .next (if u.w2May s.inp.unit then u.powerDown s.inp.unit else u.updPw s.inp.unit fun p => { p with w := 1 }) := by
  simp [execW1Entry, hw, ht]


end Sys2Proof.Machine
end

section
namespace Sys2Proof.Machine

/-! ### Loops -/

/-- A loop that comes by `x` ends in what its turn there leads to, where the turns before keep what that turn needs and the later ones what it gives. -/
theorem foldl_at {α β : Type} {f : β → α → β} {I J : β → Prop} {l : List α} {x : α} (hx : x ∈ l) (keepI : ∀ s y, y ≠ x → I s → I (f s y))
    (turn : ∀ s, I s → J (f s x)) (keepJ : ∀ s y, J s → J (f s y)) {s : β} (h : I s) : J (l.foldl f s) := by
  have stays (l : List α) (s : β) (hs : J s) : J (l.foldl f s) := by
    induction l generalizing s with
    | nil => exact hs
    | cons y l ih => exact ih _ (keepJ s y hs)
  induction l generalizing s with
  | nil => cases hx
  | cons y l ih =>
    by_cases hy : y = x
    · subst hy
      exact stays l _ (turn s h)
    · exact ih ((List.mem_cons.1 hx).resolve_left (Ne.symm hy)) (keepI s y hy h)

/-- A loop whose turns all leave the state alone leaves it alone. -/
theorem foldl_idle {α β : Type} {f : β → α → β} {l : List α} {s : β} (h : ∀ x, x ∈ l → f s x = s) : l.foldl f s = s := by
  induction l with
  | nil => rfl
  | cons x l ih => rw [List.foldl_cons, h x (by simp), ih fun y hy => h y (by simp [hy])]

/-- The greatest of some numbers is at least each of them. -/
theorem le_foldl_max {α : Type} (f : α → Nat) {l : List α} {x : α} (hx : x ∈ l) (b : Nat) : f x ≤ l.foldl (fun m y => max m (f y)) b :=
  foldl_at (I := fun _ => True) (J := fun m => f x ≤ m) hx (fun _ _ _ h => h) (fun _ _ => le_max_right _ _)
    (fun _ _ h => le_trans h (le_max_left _ _)) trivial

/-! ### Waking (R38, R40) -/

theorem State.wakeAsked_iff (s : State) (cl : Nat) :
    s.wakeAsked cl = true ↔ (s.pw cl).latched = true ∨ cl ∈ s.power.inrush.get [] (cl / 16) := by
  simp [State.wakeAsked, dieOf]

/-- A wake request while the hold runs is latched. -/
theorem State.wakeRequest_held {s : State} {cl : Nat} (h : (s.pw cl).hold = true) :
    s.wakeRequest cl = s.updPw cl fun p => { p with latched := true } := by
  simp [State.wakeRequest, h]

theorem State.wakeRequest_queued {s : State} {cl : Nat} (h : (s.pw cl).hold = false) (hq : cl ∈ s.power.inrush.get [] (cl / 16)) :
    s.wakeRequest cl = s := by
  simp [State.wakeRequest, h, dieOf, hq]

/-- Otherwise it goes last in the FIFO of its die, and the first of a FIFO begins its power-up. -/
theorem State.wakeRequest_new {s : State} {cl : Nat} (h : (s.pw cl).hold = false) (hq : cl ∉ s.power.inrush.get [] (cl / 16)) :
    s.wakeRequest cl = { s with power := { s.power with
      inrush := s.power.inrush.set (cl / 16) (s.power.inrush.get [] (cl / 16) ++ [cl]),
      inrushAt := if s.power.inrush.get [] (cl / 16) = [] then s.power.inrushAt.set (cl / 16) s.now else s.power.inrushAt } } := by
  unfold State.wakeRequest
  rw [if_neg (by simp [h])]
  dsimp only [dieOf]
  rw [if_neg (by simpa using hq)]

/-- The three things that a wake request can come to. -/
theorem State.wakeRequest_cases {s : State} {cl : Nat} {Q : State → Prop} (held : Q (s.updPw cl fun p => { p with latched := true })) (queued : Q s)
    (new : ∀ q a, q = s.power.inrush.set (cl / 16) (s.power.inrush.get [] (cl / 16) ++ [cl]) →
      Q { s with power := { s.power with inrush := q, inrushAt := a } }) : Q (s.wakeRequest cl) := by
  cases h : (s.pw cl).hold with
  | true => rwa [State.wakeRequest_held h]
  | false =>
    by_cases hq : cl ∈ s.power.inrush.get [] (cl / 16)
    · rwa [State.wakeRequest_queued h hq]
    · rw [State.wakeRequest_new h hq]
      exact new _ _ rfl

/-- A wake request changes neither the power states of clusters, nor the tolerance, nor self-refresh and link idle. -/
structure State.SameStates (s t : State) : Prop where
  w : ∀ k, (t.pw k).w = (s.pw k).w
  tolerance : t.power.tolerance = s.power.tolerance
  selfRefresh : t.power.selfRefresh = s.power.selfRefresh
  linkIdle : t.power.linkIdle = s.power.linkIdle

theorem State.sameStates_wakeRequest (s : State) (cl : Nat) : s.SameStates (s.wakeRequest cl) := by
  refine State.wakeRequest_cases ⟨fun k => ?_, rfl, rfl, rfl⟩ ⟨fun _ => rfl, rfl, rfl, rfl⟩ fun _ _ _ => ⟨fun _ => rfl, rfl, rfl, rfl⟩
  rw [State.pw_updPw]
  split
  · subst k; rfl
  · rfl

theorem State.wakeAsked_wakeRequest_self {s : State} {cl : Nat} : (s.wakeRequest cl).wakeAsked cl = true := by
  cases h : (s.pw cl).hold with
  | true => rw [State.wakeRequest_held h, State.wakeAsked_iff]; simp
  | false =>
    by_cases hq : cl ∈ s.power.inrush.get [] (cl / 16)
    · rw [State.wakeRequest_queued h hq, State.wakeAsked_iff]; exact .inr hq
    · rw [State.wakeRequest_new h hq, State.wakeAsked_iff]; simp

/-- A request that has been made stays while others are made. -/
theorem State.wakeAsked_wakeRequest {s : State} {k : Nat} (h : s.wakeAsked k = true) (cl : Nat) : (s.wakeRequest cl).wakeAsked k = true := by
  rw [State.wakeAsked_iff] at h
  refine State.wakeRequest_cases (Q := fun t => t.wakeAsked k = true) ?_ (s.wakeAsked_iff k |>.2 h) fun q a hq => ?_
  · rw [State.wakeAsked_iff, State.pw_updPw]
    split
    · exact .inl rfl
    · exact h
  · subst hq
    rw [State.wakeAsked_iff]
    refine h.imp id fun hk => ?_
    by_cases hd : k / 16 = cl / 16
    · simp only [hd, Tbl.get_set_self] at hk ⊢
      exact List.mem_append_left _ hk
    · rwa [show Tbl.get [] (s.power.inrush.set (cl / 16) _) (k / 16) = s.power.inrush.get [] (k / 16) from Tbl.get_set_ne _ _ _ hd]

/-- The package leaves W3: self-refresh and link idle end, and every cluster in W2 is asked to wake. -/
theorem State.leaveW3_spec (s : State) (cl : Nat) : (∀ k, ((s.leaveW3 cl).pw k).w = (s.pw k).w) ∧
    (s.leaveW3 cl).power.tolerance = s.power.tolerance ∧ (s.leaveW3 cl).power.selfRefresh = false ∧ (s.leaveW3 cl).power.linkIdle = false ∧
    ∀ k, k < 32 → (s.pw k).w = 2 → (s.leaveW3 cl).wakeAsked k = true := by
  have same (l : List Nat) (u : State) : u.SameStates (l.foldl (fun s k => s.wakeRequest k) u) := by
    induction l generalizing u with
    | nil => exact ⟨fun _ => rfl, rfl, rfl, rfl⟩
    | cons x l ih =>
      have h1 := u.sameStates_wakeRequest x
      have h2 := ih (u.wakeRequest x)
      exact ⟨fun k => (h2.w k).trans (h1.w k), h2.tolerance.trans h1.tolerance, h2.selfRefresh.trans h1.selfRefresh, h2.linkIdle.trans h1.linkIdle⟩
  have h := same ((cl :: List.range 32).filter fun k => (s.pw k).w == 2)
    { s with power := { s.power with selfRefresh := false, linkIdle := false } }
  refine ⟨h.w, h.tolerance, h.selfRefresh, h.linkIdle, fun k hk hw => ?_⟩
  have hm : k ∈ (cl :: List.range 32).filter fun k => (s.pw k).w == 2 := by simp [hk, hw]
  exact foldl_at (I := fun _ => True) (J := fun t : State => t.wakeAsked k = true) hm (fun _ _ _ h => h)
    (fun _ _ => State.wakeAsked_wakeRequest_self) (fun _ y h => State.wakeAsked_wakeRequest h y) trivial

/-! ### The host's tolerance (R38) -/

/-- What a report does to one cluster. -/
def State.obeyTolerance (s : State) (cl : Nat) : State :=
  match (s.pw cl).w with
  | 0 => s
  | 1 => if s.tolerates 100 then s else s.updPw cl fun p => { p with w := 0 }
  | _ => if s.tolerates 24000 then s else s.wakeRequest cl

/-- The state of a report once the new tolerance stands, and the package has left W3 if it must. -/
def State.reported (s : State) : State :=
  let u : State := { s with power := { s.power with tolerance := if s.inp.flag then none else some (min s.inp.val s.inp.aux) } }
  if u.power.selfRefresh && !u.tolerates 180000 then u.leaveW3 0 else u

theorem execLatencyToleranceReport_eq (s : State) :
    execLatencyToleranceReport s = .next ((List.range 32).foldl State.obeyTolerance s.reported) := rfl

theorem State.obeyTolerance_idle {s : State} {cl : Nat} (h1 : (s.pw cl).w = 1 → s.tolerates 100 = true)
    (h2 : 2 ≤ (s.pw cl).w → s.tolerates 24000 = true) : s.obeyTolerance cl = s := by
  rcases hw : (s.pw cl).w with _ | _ | n
  · simp [State.obeyTolerance, hw]
  · simp [State.obeyTolerance, hw, h1 hw]
  · simp [State.obeyTolerance, hw, h2 (by omega)]

/-- What every turn of the report keeps: the tolerance, self-refresh and link idle, other clusters' states, and requests made. -/
theorem State.obeyTolerance_keeps (s : State) (cl : Nat) : (s.obeyTolerance cl).power.tolerance = s.power.tolerance ∧
    (s.obeyTolerance cl).power.selfRefresh = s.power.selfRefresh ∧ (s.obeyTolerance cl).power.linkIdle = s.power.linkIdle ∧
    (∀ k, k ≠ cl ∨ (s.pw cl).w ≠ 1 → ((s.obeyTolerance cl).pw k).w = (s.pw k).w) ∧
    ∀ k, s.wakeAsked k = true → (s.obeyTolerance cl).wakeAsked k = true := by
  have idle : s.power.tolerance = s.power.tolerance ∧ s.power.selfRefresh = s.power.selfRefresh ∧ s.power.linkIdle = s.power.linkIdle ∧
      (∀ k, k ≠ cl ∨ (s.pw cl).w ≠ 1 → (s.pw k).w = (s.pw k).w) ∧ ∀ k, s.wakeAsked k = true → s.wakeAsked k = true :=
    ⟨rfl, rfl, rfl, fun _ _ => rfl, fun _ h => h⟩
  unfold State.obeyTolerance
  split
  · exact idle
  · next hw =>
    split
    · exact idle
    · refine ⟨rfl, rfl, rfl, fun k hk => ?_, fun k hk => ?_⟩
      · rw [State.pw_updPw_ne _ _ (hk.resolve_right fun h => h hw)]
      · rw [State.wakeAsked_iff] at hk ⊢
        rw [State.pw_updPw]
        refine hk.imp (fun h => ?_) id
        split
        · subst k; exact h
        · exact h
  · split
    · exact idle
    · have h := s.sameStates_wakeRequest cl
      exact ⟨h.tolerance, h.selfRefresh, h.linkIdle, fun k _ => h.w k, fun k hk => State.wakeAsked_wakeRequest hk cl⟩

end Sys2Proof.Machine
end

section
namespace Sys2Proof.Machine

/-! ### The steps of the power states -/

/-- The rest of a report's loop keeps what each of its turns keeps. -/
theorem State.obeyTolerance_all (s : State) (l : List Nat) : (l.foldl State.obeyTolerance s).power.tolerance = s.power.tolerance ∧
    (l.foldl State.obeyTolerance s).power.selfRefresh = s.power.selfRefresh ∧ (l.foldl State.obeyTolerance s).power.linkIdle = s.power.linkIdle := by
  induction l generalizing s with
  | nil => exact ⟨rfl, rfl, rfl⟩
  | cons x l ih =>
    obtain ⟨h1, h2, h3, _⟩ := s.obeyTolerance_keeps x
    obtain ⟨i1, i2, i3⟩ := ih (s.obeyTolerance x)
    exact ⟨i1.trans h1, i2.trans h2, i3.trans h3⟩

/-- A cluster in W1 whose exit takes longer than the tolerance is woken. -/
theorem State.obeyTolerance_wakes_w1 {s : State} {k : Nat} (hk : k < 32) (hw : (s.pw k).w = 1) (ht : s.tolerates 100 = false) :
    (((List.range 32).foldl State.obeyTolerance s).pw k).w = 0 := by
  refine foldl_at (I := fun t : State => (t.pw k).w = 1 ∧ t.tolerates 100 = false) (J := fun t => (t.pw k).w = 0)
    (List.mem_range.2 hk) ?_ ?_ ?_ ⟨hw, ht⟩
  · rintro t y hy ⟨h1, h2⟩
    obtain ⟨hto, _, _, hws, _⟩ := t.obeyTolerance_keeps y
    exact ⟨(hws k (.inl (Ne.symm hy))).trans h1, by rwa [State.tolerates, hto]⟩
  · rintro t ⟨h1, h2⟩
    simp [State.obeyTolerance, h1, h2]
  · intro t y h
    by_cases hy : k = y
    · subst hy
      rw [(t.obeyTolerance_keeps k).2.2.2.1 k (.inr (by omega)), h]
    · rw [(t.obeyTolerance_keeps y).2.2.2.1 k (.inl hy), h]

/-- A cluster in W2 whose exit takes longer than the tolerance is asked to wake. -/
theorem State.obeyTolerance_wakes_w2 {s : State} {k : Nat} (hk : k < 32) (hw : (s.pw k).w = 2) (ht : s.tolerates 24000 = false) :
    ((List.range 32).foldl State.obeyTolerance s).wakeAsked k = true := by
  refine foldl_at (I := fun t : State => (t.pw k).w = 2 ∧ t.tolerates 24000 = false) (J := fun t : State => t.wakeAsked k = true)
    (List.mem_range.2 hk) ?_ ?_ ?_ ⟨hw, ht⟩
  · rintro t y hy ⟨h1, h2⟩
    obtain ⟨hto, _, _, hws, _⟩ := t.obeyTolerance_keeps y
    exact ⟨(hws k (.inl (Ne.symm hy))).trans h1, by rwa [State.tolerates, hto]⟩
  · rintro t ⟨h1, h2⟩
    simp [State.obeyTolerance, h1, h2, State.wakeAsked_wakeRequest_self]
  · exact fun t y h => (t.obeyTolerance_keeps y).2.2.2.2 k h

/-- A request that has been made stays through the report. -/
theorem State.obeyTolerance_keeps_asked {s : State} {k : Nat} (h : s.wakeAsked k = true) (l : List Nat) :
    (l.foldl State.obeyTolerance s).wakeAsked k = true := by
  induction l generalizing s with
  | nil => exact h
  | cons x l ih => exact ih ((s.obeyTolerance_keeps x).2.2.2.2 k h)

/-- Some clusters power down one after another: each of them stands in W2, as does what stood there before, and time goes on. -/
theorem State.foldl_powerDown (s : State) (l : List Nat) : s.now ≤ (l.foldl (fun s cl => s.powerDown cl) s).now ∧
    ∀ k, k ∈ l ∨ (s.pw k).w = 2 → ((l.foldl (fun s cl => s.powerDown cl) s).pw k).w = 2 := by
  induction l generalizing s with
  | nil => exact ⟨le_rfl, fun k hk => hk.resolve_left (by simp)⟩
  | cons x l ih =>
    obtain ⟨hn, hw⟩ := ih (s.powerDown x)
    rw [List.foldl_cons]
    refine ⟨(s.now_le_powerDown x).trans hn, fun k hk => hw k ?_⟩
    by_cases hx : k = x
    · exact .inr (by simp [State.pw_powerDown, hx])
    · exact hk.imp (fun h => (List.mem_cons.1 h).resolve_left hx) fun h => by simp [State.pw_powerDown, hx, h]

/-- When the package may enter W3 (R39). -/
structure State.MayW3 (s : State) : Prop where
  clusters : ∀ k, k < 32 → (s.pw k).w = 2 ∨ s.w2Ready k = true
  host : s.tolerates 180000 = true
  up : s.power.w3 = false
  queues : ∀ q, q ∈ s.queues → q.2.depth = 0 ∧ q.2.incoming = [] ∧ q.2.takes = [] ∧ q.2.ready = []
  engines : ∀ c, c ∈ s.clusters → c.2.copyQ = [] ∧ c.2.dollyQ = [] ∧ c.2.grammarQ = []

/-- Clusters that are not in W2. -/
def State.upClusters (s : State) : List Nat := (List.range 32).filter fun cl => (s.pw cl).w != 2

theorem State.mayW3_iff (s : State) : s.MayW3 ↔
    (!(s.upClusters.all s.w2Ready && (s.queues.all fun q => q.2.depth == 0 && q.2.incoming == [] && q.2.takes == [] && q.2.ready == []) &&
      (s.clusters.all fun c => c.2.copyQ == [] && c.2.dollyQ == [] && c.2.grammarQ == []) && s.tolerates 180000) || s.power.w3) = false := by
  simp only [State.upClusters, Bool.or_eq_false_iff, Bool.not_eq_false', Bool.and_eq_true, List.all_eq_true, List.mem_filter, List.mem_range,
    bne_iff_ne, beq_iff_eq]
  refine ⟨fun h => ⟨⟨⟨⟨fun k hk => (h.clusters k hk.1).resolve_left hk.2, fun q hq => ?_⟩, fun c hc => ?_⟩, h.host⟩, h.up⟩, ?_⟩
  · obtain ⟨h1, h2, h3, h4⟩ := h.queues q hq
    exact ⟨⟨⟨h1, h2⟩, h3⟩, h4⟩
  · obtain ⟨h1, h2, h3⟩ := h.engines c hc
    exact ⟨⟨h1, h2⟩, h3⟩
  · rintro ⟨⟨⟨⟨hcl, hq⟩, he⟩, hh⟩, hu⟩
    refine ⟨fun k hk => ?_, hh, hu, fun q hqm => ?_, fun c hcm => ?_⟩
    · by_cases hw : (s.pw k).w = 2
      · exact .inl hw
      · exact .inr (hcl k ⟨hk, hw⟩)
    · obtain ⟨⟨⟨h1, h2⟩, h3⟩, h4⟩ := hq q hqm
      exact ⟨h1, h2, h3, h4⟩
    · obtain ⟨⟨h1, h2⟩, h3⟩ := he c hcm
      exact ⟨h1, h2, h3⟩

theorem execW3Entry_refused {s : State} (h : ¬s.MayW3) : execW3Entry s = .next s := by
  rw [State.mayW3_iff, Bool.not_eq_false] at h
  exact if_pos h

theorem execW3Entry_allowed {s : State} (h : s.MayW3) : ∃ t, execW3Entry s = .next t ∧ t.power.w3 = true ∧ t.power.selfRefresh = true ∧
    t.power.linkIdle = true ∧ ∀ k, k < 32 → (t.pw k).w = 2 ∧ ((s.pw k).w ≠ 2 → s.crewlessAt k ≤ t.now) := by
  rw [State.mayW3_iff] at h
  obtain ⟨hn, hw⟩ := (s.until (s.upClusters.foldl (fun m cl => max m (s.crewlessAt cl)) 0)).foldl_powerDown s.upClusters
  refine ⟨_, if_neg (Bool.eq_false_iff.1 h), rfl, rfl, rfl, fun k hk => ⟨hw k ?_, fun hne => ?_⟩⟩
  · by_cases h2 : (s.pw k).w = 2
    · exact .inr h2
    · exact .inl (by simp [State.upClusters, hk, h2])
  · refine le_trans (le_trans ?_ (le_max_right _ _)) hn
    exact le_foldl_max s.crewlessAt (by simp [State.upClusters, hk, hne]) 0

theorem execW2Entry_eq (s : State) : execW2Entry s = .next (
    if (s.pw s.inp.unit).w < 2 && (s.until (s.crewlessAt s.inp.unit)).w2May s.inp.unit
    then (s.until (s.crewlessAt s.inp.unit)).powerDown s.inp.unit else s) := rfl

/-- The hold's end without a request, or with one that stands in the FIFO already. -/
theorem execBreakEvenHoldEnd_held {s : State} (h : (s.pw s.inp.unit).hold = true) :
    execBreakEvenHoldEnd s = .next (
      let u := (s.until ((s.pw s.inp.unit).downAt + 1500000)).updPw s.inp.unit fun p => { p with hold := false, latched := false }
      if (s.pw s.inp.unit).latched then u.wakeRequest s.inp.unit else u) := by
  simp [execBreakEvenHoldEnd, h]

theorem execClusterPowerUpDone_cons {s : State} {k : Nat} {rest : List Nat} (h : s.power.inrush.get [] s.inp.unit = k :: rest) :
    execClusterPowerUpDone s = .next (
      let at' := max s.now (s.power.inrushAt.get 0 s.inp.unit + 2500000)
      let p := { s.power with inrush := s.power.inrush.set s.inp.unit rest, inrushAt := s.power.inrushAt.set s.inp.unit at' }
      let u := ({ s with now := at', power := p } : State).updPw k fun p => { p with w := 0 }
      { u with power := { u.power with w3 := u.power.w3 && u.power.clusters.any fun x => x.2.w == 2 } }) := by
  unfold execClusterPowerUpDone
  rw [h]
  rfl

/-- The tolerance that a report gives (R38). -/
def State.newTolerance (s : State) : Option Nat := if s.inp.flag then none else some (min s.inp.val s.inp.aux)

/-- Whether the package leaves W3 on a report. -/
def State.reportWakes (s : State) : Prop := s.power.selfRefresh = true ∧ ¬∀ t, s.newTolerance = some t → 180000 ≤ t

theorem State.reported_of_not_wakes {s : State} (h : ¬s.reportWakes) : s.reported = { s with power := { s.power with tolerance := s.newTolerance } } := by
  refine if_neg fun hc => h ?_
  rw [Bool.and_eq_true, Bool.not_eq_true', ← Bool.not_eq_true, State.tolerates_iff] at hc
  exact hc

theorem State.reported_of_wakes {s : State} (h : s.reportWakes) :
    s.reported = ({ s with power := { s.power with tolerance := s.newTolerance } } : State).leaveW3 0 := by
  refine if_pos ?_
  rw [Bool.and_eq_true, Bool.not_eq_true', ← Bool.not_eq_true, State.tolerates_iff]
  exact h

/-- Before the loop over the clusters, the report has set the tolerance and changed no cluster's state. -/
theorem State.reported_states (s : State) : s.reported.power.tolerance = s.newTolerance ∧ ∀ k, (s.reported.pw k).w = (s.pw k).w := by
  by_cases h : s.reportWakes
  · obtain ⟨hw, ht, _⟩ := State.leaveW3_spec { s with power := { s.power with tolerance := s.newTolerance } } 0
    rw [State.reported_of_wakes h]
    exact ⟨ht, hw⟩
  · rw [State.reported_of_not_wakes h]
    exact ⟨rfl, fun _ => rfl⟩

/-- A report wakes what stands in a state whose exit takes longer than the host tolerates, and changes nothing else. -/
theorem execLatencyToleranceReport_spec (s : State) : ∃ t, exec .latencyToleranceReport s = .next t ∧ t.power.tolerance = s.newTolerance ∧
    ((∀ k, k < 32 → ((s.pw k).w = 1 → ∀ t, s.newTolerance = some t → 100 ≤ t) ∧ (2 ≤ (s.pw k).w → ∀ t, s.newTolerance = some t → 24000 ≤ t)) →
      ¬s.reportWakes → t = { s with power := { s.power with tolerance := s.newTolerance } }) ∧
    (s.reportWakes → t.power.selfRefresh = false ∧ t.power.linkIdle = false) ∧
    ∀ k, k < 32 → ((s.pw k).w = 1 → (¬∀ t, s.newTolerance = some t → 100 ≤ t) → (t.pw k).w = 0) ∧
      ((s.pw k).w = 2 → (s.reportWakes ∨ ¬∀ t, s.newTolerance = some t → 24000 ≤ t) → t.wakeAsked k = true) := by
  obtain ⟨htol, hst⟩ := s.reported_states
  have tol (ns : Nat) : s.reported.tolerates ns = true ↔ ∀ t, s.newTolerance = some t → ns ≤ t := htol ▸ s.reported.tolerates_iff ns
  have notTol (ns : Nat) (h : ¬∀ t, s.newTolerance = some t → ns ≤ t) : s.reported.tolerates ns = false := by
    rwa [← tol, Bool.not_eq_true] at h
  obtain ⟨hall1, hall2, hall3⟩ := s.reported.obeyTolerance_all (List.range 32)
  refine ⟨_, execLatencyToleranceReport_eq s, hall1.trans htol, fun hok hw => ?_, fun hw => ?_, fun k hk => ⟨fun h1 ht => ?_, fun h2 hor => ?_⟩⟩
  · rw [← State.reported_of_not_wakes hw]
    refine foldl_idle fun k hk => State.obeyTolerance_idle (fun h => ?_) fun h => ?_
    · exact (tol _).2 ((hok k (List.mem_range.1 hk)).1 (hst k ▸ h))
    · exact (tol _).2 ((hok k (List.mem_range.1 hk)).2 (hst k ▸ h))
  · obtain ⟨_, _, h3, h4, _⟩ := State.leaveW3_spec { s with power := { s.power with tolerance := s.newTolerance } } 0
    rw [hall2, hall3, State.reported_of_wakes hw]
    exact ⟨h3, h4⟩
  · exact State.obeyTolerance_wakes_w1 hk ((hst k).trans h1) (notTol _ ht)
  · by_cases hw : s.reportWakes
    · obtain ⟨_, _, _, _, hasked⟩ := State.leaveW3_spec { s with power := { s.power with tolerance := s.newTolerance } } 0
      refine State.obeyTolerance_keeps_asked ?_ _
      rw [State.reported_of_wakes hw]
      exact hasked k hk h2
    · exact State.obeyTolerance_wakes_w2 hk ((hst k).trans h2) (notTol _ (hor.resolve_left hw))

/-- Settles the part of O26 on power states: each step by its own lemma above. -/
theorem powerStates : Claims.PowerStates := by
  intro s
  have tol (ns : Nat) : s.tolerates ns = true ↔ ∀ t, s.power.tolerance = some t → ns ≤ t := s.tolerates_iff ns
  dsimp only
  refine ⟨⟨?_, ?_, ?_⟩, ⟨?_, ?_⟩, ?_, ?_, ?_, ?_, ⟨?_, ?_⟩, ?_⟩
  · exact fun h => execW1Entry_refused fun h' => h ⟨h'.1, (tol 100).1 h'.2⟩
  · rintro ⟨hw, ht⟩ hd
    rw [exec_eq_w1Entry, execW1Entry_allowed hw ((tol 100).2 ht), if_neg]
    · rfl
    · exact fun h => hd ((State.w2May_iff _ _).1 h)
  · rintro ⟨hw, ht⟩ hd
    refine ⟨(s.until ((s.pw s.inp.unit).lastIssue + 2000000)).powerDown s.inp.unit, ?_, ?_⟩
    · rw [exec_eq_w1Entry, execW1Entry_allowed hw ((tol 100).2 ht), if_pos ((State.w2May_iff _ _).2 hd)]
    · obtain ⟨h1, h2, h3, h4, h5, h6, h7, h8, h9, h10⟩ := s.down_powerDown ((s.pw s.inp.unit).lastIssue + 2000000) s.inp.unit
      exact ⟨h1, h2, h3, h4, h5, h6, h7, h8, h9, h10⟩
  · intro h
    rw [exec_eq_w2Entry, execW2Entry_eq, if_neg]
    intro h'
    rw [Bool.and_eq_true, decide_eq_true_eq] at h'
    exact h ⟨h'.1, (State.w2May_iff _ _).1 h'.2⟩
  · rintro ⟨hw, hd⟩
    refine ⟨(s.until (s.crewlessAt s.inp.unit)).powerDown s.inp.unit, ?_, ?_⟩
    · rw [exec_eq_w2Entry, execW2Entry_eq, if_pos]
      rw [Bool.and_eq_true, decide_eq_true_eq]
      exact ⟨hw, (State.w2May_iff _ _).2 hd⟩
    · obtain ⟨h1, h2, h3, h4, h5, h6, h7, h8, h9, h10⟩ := s.down_powerDown (s.crewlessAt s.inp.unit) s.inp.unit
      exact ⟨h1, h2, h3, h4, h5, h6, h7, h8, h9, h10⟩
  · intro h
    simp [execBreakEvenHoldEnd, h]
  · intro h
    have hu : ((({ s with now := max s.now ((s.pw s.inp.unit).downAt + 1500000) } : State).updPw s.inp.unit
        fun p => { p with hold := false, latched := false }).pw s.inp.unit).hold = false := by
      rw [State.pw_updPw_self]
    rw [exec_eq_breakEvenHoldEnd, execBreakEvenHoldEnd_held h]
    refine ⟨fun hq => ?_, fun hl hq => ?_⟩
    · cases hl : (s.pw s.inp.unit).latched with
      | false => rfl
      | true => exact congrArg _ (State.wakeRequest_queued hu (hq.resolve_left (by simp [hl])))
    · rw [if_pos hl]
      exact congrArg _ (State.wakeRequest_new hu hq)
  · intro k rest h
    exact execClusterPowerUpDone_cons h
  · intro h
    rw [exec_eq_clusterPowerUpDone, execClusterPowerUpDone, h]
  · exact fun h => execW3Entry_refused fun m => h ⟨m.clusters, (tol _).1 m.host, m.up, m.queues, m.engines⟩
  · rintro ⟨h1, h2, h3, h4, h5⟩
    exact execW3Entry_allowed ⟨h1, (tol _).2 h2, h3, h4, h5⟩
  · exact execLatencyToleranceReport_spec s

/-- Settles O26. -/
theorem power : Obligations.Power := ⟨powerSteps, powerStates⟩

end Sys2Proof.Machine
end

section
namespace Sys2Proof.Machine
/-- Settles O59: the state after reset is all defaults, so every clause is read off. -/
theorem resetState : Obligations.ResetState :=
  ⟨State.canonical_reset, rfl, rfl, rfl, rfl, rfl, rfl, rfl, rfl, fun _ => ⟨rfl, rfl, rfl⟩, fun _ => rfl, fun _ => ⟨rfl, rfl, rfl⟩,
    fun _ => rfl, fun _ => ⟨rfl, rfl, rfl, rfl, rfl⟩, fun _ => ⟨rfl, rfl, rfl⟩⟩
end Sys2Proof.Machine
end

section
/-! SUPPORT. A take whose crew does not stay on the core (O37): the restore makes the test of every live-mode barrier again (R191, R348), and a crew
that was cancelled ends at the barrier that it finds complete there (R137, R142). -/

namespace Sys2Proof.Machine

/-- A parked crew that was cancelled before it parked, with a barrier in live mode at which no thread is missing. -/
def cancelledTake : Take :=
  { slate := 0, kind := 1,
    crew := { kind := .vector, ctx := 0, core := 0, n := 32, nregs := 16, bars := [(0, ⟨[0], 0, false, 0⟩)], cancelled := true } }

/-- The slate of one crew that parked it. -/
def parkedSlate : Slate :=
  { checked := true, state := 3, kernel := 0x10000, nlev := 2, lanesL := 1, sizes := [32, 1], doms := [0, 1], ncrews := 1, placed := 1, nregs := 16 }

/-- Context 0 on core 0 of a cluster that is up, with that take alone in its queue, at the turn of die 0's dispatcher. -/
def cancelledTakeTurn : State :=
  { ((State.reset.updCtx 0 fun c => { c with resident := true, cores := [0], granted := [2] }).updQueue 0 fun q => { q with ctx := some 0, takes := [0] }) with
    inp := { flag := true }, slates := [(0, parkedSlate)], nextSlate := 1, takes := [(0, cancelledTake)], nextTake := 1 }

/-- The arbiter after the decision of that turn. -/
def cancelledTakeArb : Arbiter := ((cancelledTakeTurn.atTurn.decide' 0 false).getD (0, {})).2

/-- Whether an outcome is a state without a crew of a number. -/
def lacksCrew (o : Host.Outcome State Fault Refusal) (cid : Nat) : Bool :=
  match o with
  | .next t => (t.crew cid).isNone
  | _ => false

theorem cancelledTake_wins : cancelledTakeTurn.Wins 0 0 cancelledTakeArb (.take 0) := by
  unfold State.Wins
  decide +kernel

theorem cancelledTake_fits : pickCore cancelledTakeTurn.inp.val (cancelledTakeTurn.atTurn.takeFits cancelledTake parkedSlate)
    (cancelledTakeTurn.atTurn.among cancelledTake.chosen (cancelledTakeTurn.coresFor 0)) = some 0 := by
  decide +kernel

/-- The restored crew ends at its barrier: the restore leaves no crew of the new number. -/
theorem cancelledTake_gone : lacksCrew (exec .takeRestore cancelledTakeTurn) cancelledTakeTurn.atTurn.nextCrew = true := by
  decide +kernel

/-- Refutes O37: a restored take whose crew was cancelled, and which brings a complete live-mode barrier with it, ends at once in the test of its
barriers that the restore makes, so that no crew stands on the core. -/
theorem not_dispatches : ¬Obligations.Dispatches := by
  unfold Obligations.Dispatches
  intro h
  have restored := (h cancelledTakeTurn 0 0 0 0 cancelledTakeArb parkedSlate cancelledTake cancelledTake).2.2.1 cancelledTake_wins
    (by decide +kernel) (by decide +kernel) (by decide +kernel) (by unfold Tbl.Rising; decide +kernel)
  obtain ⟨t, c, ht, -, -, hc, -⟩ := (restored.2 (by decide +kernel) cancelledTake_fits).2.2 (by decide +kernel)
  have gone := cancelledTake_gone
  rw [ht, lacksCrew, hc] at gone
  cases gone

end Sys2Proof.Machine
end

section
/-! SUPPORT. Tables under a map, sorted lists of numbers under insertion, and what the report of an error leaves alone: facts that the memory's own
events need. -/

namespace Sys2Proof.Machine

/-! ### Tables and lists of numbers -/

theorem Tbl.find_mapV {α : Type} (f : Nat → α → α) (t : Tbl α) (n : Nat) : (t.mapV f).find n = (t.find n).map (f n) := by
  induction t with
  | nil => rfl
  | cons x t ih =>
    obtain ⟨k, v⟩ := x
    have hm : Tbl.mapV f ((k, v) :: t) = (k, f k v) :: Tbl.mapV f t := rfl
    by_cases hk : k = n
    · subst hk
      simp [hm, Tbl.find]
    · by_cases hlt : n < k <;> simp [hm, Tbl.find, hk, hlt, ih]

theorem Tbl.mem_mapV {α : Type} {f : Nat → α → α} {t : Tbl α} {x : Nat × α} : x ∈ t.mapV f ↔ ∃ v, (x.1, v) ∈ t ∧ x.2 = f x.1 v := by
  obtain ⟨k, u⟩ := x
  simp only [Tbl.mapV, List.mem_map, Prod.mk.injEq, Prod.exists]
  constructor
  · rintro ⟨_, v, hv, rfl, rfl⟩
    exact ⟨v, hv, rfl⟩
  · rintro ⟨v, hv, rfl⟩
    exact ⟨k, v, hv, rfl, rfl⟩

@[simp] theorem Tbl.set_set {α : Type} (t : Tbl α) (n : Nat) (u v : α) : (t.set n u).set n v = t.set n v := by
  induction t with
  | nil => simp [Tbl.set]
  | cons x t ih =>
    obtain ⟨k, w⟩ := x
    by_cases hk : k = n
    · simp [Tbl.set, hk]
    · by_cases hlt : n < k <;> simp [Tbl.set, hk, hlt, ih]

@[simp] theorem mem_insertNat {l : List Nat} {n k : Nat} : k ∈ insertNat l n ↔ k = n ∨ k ∈ l := by
  induction l with
  | nil => simp [insertNat]
  | cons x l ih =>
    unfold insertNat
    split
    · grind
    · split <;> simp [ih, or_left_comm]

theorem mem_foldl_insertNat {α : Type} (f : α → Nat) {xs : List α} {l : List Nat} {k : Nat} :
    k ∈ xs.foldl (fun l x => insertNat l (f x)) l ↔ k ∈ l ∨ ∃ x, x ∈ xs ∧ f x = k := by
  induction xs generalizing l with
  | nil => simp
  | cons x xs ih => simp [ih, eq_comm, or_assoc, or_left_comm]

theorem mem_union_insertNat {xs l : List Nat} {k : Nat} : k ∈ xs.foldl insertNat l ↔ k ∈ l ∨ k ∈ xs := by
  simpa using mem_foldl_insertNat (fun x : Nat => x) (xs := xs) (l := l)

/-! ### Reports -/

/-- A property of states that a report of an error keeps: it changes the functions' rings, the vectors and the host's memory. -/
structure PostKept (P : State → Prop) : Prop where
  updFunc : ∀ {s : State} (f : Nat) (g : Func → Func), P s → P (s.updFunc f g)
  raiseVector : ∀ {s : State} (f v : Nat), P s → P (s.raiseVector f v)
  hostMem : ∀ {s : State} (h : Cells → Cells), P s → P (s.updMem fun m => { m with hostMem := h m.hostMem })

namespace PostKept

variable {P : State → Prop} (hP : PostKept P) {s : State}
include hP

theorem ringPut (h : P s) (f : Nat) (r : Rec) : P (s.ringPut f r) := by
  unfold State.ringPut
  dsimp only
  split
  · exact hP.updFunc _ _ h
  · exact hP.raiseVector _ _ (hP.updFunc _ _ (hP.hostMem (·.write _ _) h))

theorem post (h : P s) (f : Nat) (r : Rec) : P (s.post f r) := by
  unfold State.post
  dsimp only
  split
  · exact hP.ringPut (hP.updFunc _ _ h) _ _
  · split <;> exact hP.updFunc _ _ (hP.updFunc _ _ h)

theorem postRanges (h : P s) (f : Nat) (r : Rec) (l : List (Nat × Nat)) : P (s.postRanges f r l) := by
  induction l generalizing s with
  | nil => exact h
  | cons x l ih =>
    cases l with
    | nil => exact hP.post h _ _
    | cons y l => exact ih (hP.post h _ _)

/-- A report of poisoned sectors notes them as reported before it posts its records. -/
theorem reportSectors (code : Rec) (ctx : Option Nat) (l : List (Nat × Nat))
    (h : ∀ rep, (∀ k, k ∈ rep ↔ k ∈ s.mem.reported ∨ k ∈ l.map (·.1)) → P (s.updMem fun m => { m with reported := rep })) :
    P (s.reportSectors code ctx l) := by
  unfold State.reportSectors
  dsimp only
  split
  next hnew =>
    refine h s.mem.reported fun k => ?_
    simp only [List.filter_eq_nil_iff, List.mem_map] at hnew ⊢
    grind
  next k vas rest hnew =>
    have noted : P (s.updMem fun m => { m with reported :=
        (((l.filter fun x => !s.mem.reported.contains x.1).map (·.1)).foldl insertNat []).foldl insertNat m.reported }) := by
      refine h _ fun k => ?_
      simp only [mem_union_insertNat, List.mem_map, List.mem_filter]
      grind
    cases ctx with
    | none => exact hP.postRanges noted _ _ _
    | some c =>
      dsimp only
      split
      · exact hP.postRanges noted _ _ _
      · exact hP.postRanges (hP.postRanges noted _ _ _) _ _ _

end PostKept

end Sys2Proof.Machine
end

section
/-! SUPPORT. The memory's own events one by one (R68, R225, R239-R242, R248). -/

namespace Sys2Proof.Machine

/-! ### Scratchpad banks -/

theorem State.crew_updCrew_self {s : State} {k : Nat} {c : Crew} (f : Crew → Crew) (h : s.crew k = some c) : (s.updCrew k f).crew k = some (f c) := by
  unfold State.updCrew
  rw [h]
  exact Tbl.find_set_self _ _ _

theorem State.core_updCrew (s : State) (k j : Nat) (f : Crew → Crew) : (s.updCrew k f).core j = s.core j := by
  unfold State.updCrew
  split <;> rfl

theorem State.crews_wake (s : State) (pc : Crew → Bool) (p : Side → Bool) :
    (s.wake pc p).crews = s.crews.mapV fun _ c => if pc c then c.wake p else c := rfl

theorem State.crew_wake (s : State) (pc : Crew → Bool) (p : Side → Bool) (k : Nat) :
    (s.wake pc p).crew k = (s.crew k).map fun c => if pc c then c.wake p else c  := by
  rw [State.crew, State.crews_wake, Tbl.find_mapV]
  rfl

theorem Crew.warps_wake (c : Crew) (p : Side → Bool) : (c.wake p).warps = c.warps.mapV fun _ w =>
    let f (x : Side) : Side := if p x then { x with wait := .none } else x
    { w with run := f w.run, div := w.div.map f } := rfl

theorem Side.not_waits_of_wake {p : Side → Bool} {wt : Wait} (hp : ∀ x : Side, x.wait = wt → p x = true) (hwt : wt ≠ .none) (x : Side) :
    (if p x then { x with wait := .none } else x).wait ≠ wt := by
  split
  · exact hwt.symm
  · exact fun h => absurd (hp x h) (by assumption)

/-- After a wake, no side that the wake is for waits. -/
theorem State.not_waits_of_wake (s : State) {pc : Crew → Bool} {p : Side → Bool} {wt : Wait} (hp : ∀ x : Side, x.wait = wt → p x = true) (hwt : wt ≠ .none)
    {d : Nat × Crew} (hd : d ∈ (s.wake pc p).crews) (hpc : pc d.2 = true) {w : Nat × Warp} (hw : w ∈ d.2.warps) : w.2.run.wait ≠ wt := by
  rw [State.crews_wake] at hd
  obtain ⟨c, -, hc⟩ := Tbl.mem_mapV.1 hd
  by_cases hpc' : pc c = true
  · rw [if_pos hpc'] at hc
    rw [hc, Crew.warps_wake] at hw
    obtain ⟨v, -, hv⟩ := Tbl.mem_mapV.1 hw
    rw [hv]
    exact Side.not_waits_of_wake hp hwt _
  · rw [if_neg hpc'] at hc
    exact absurd (hc ▸ hpc) hpc'

/-- A warp with one scratchpad access less under way. -/
def Warp.spadServed (w : Warp) : Warp := { w with spadOut := w.spadOut - 1, spadBusy := w.spadBusy && decide (1 < w.spadOut) }

/-- A crew one of whose warps has a scratchpad access less under way. -/
def Crew.spadServed (c : Crew) (wid : Nat) : Crew :=
  (c.warps.find wid).elim c fun w => { c with warps := c.warps.set wid w.spadServed }

theorem Crew.find_spadServed {c : Crew} {wid : Nat} {w : Warp} (h : c.warps.find wid = some w) :
    (c.spadServed wid).warps.find wid = some w.spadServed := by
  rw [Crew.spadServed, h]
  exact Tbl.find_set_self _ _ _

/-- A wake changes no more of a warp than what its sides wait for. -/
theorem Crew.find_wake {c : Crew} {wid : Nat} {w : Warp} (p : Side → Bool) (h : c.warps.find wid = some w) :
    ∃ r d, (c.wake p).warps.find wid = some { w with run := r, div := d } := by
  rw [Crew.warps_wake, Tbl.find_mapV, h]
  exact ⟨_, _, rfl⟩

/-- A core whose bank queue has lost a request. -/
def State.bankServed (s : State) (core : Nat) (x : Nat × Nat × Nat) : State :=
  s.setCore core { s.core core with bankQ := (s.core core).bankQ.erase x }

theorem execScratchpadAccessDone_some {s : State} {x : Nat × Nat × Nat}
    (hx : (s.core s.inp.unit).bankQ.find? (fun x => x.1 == s.inp.sub) = some x) :
    execScratchpadAccessDone s = .next (((s.bankServed s.inp.unit x).updCrew x.2.1 (·.spadServed x.2.2)).wake (fun k => k.core == s.inp.unit) fun sd => sd.wait == .bank x.1) := by
  unfold execScratchpadAccessDone
  dsimp only
  rw [hx]
  refine congrArg (fun f => Host.Outcome.next ((State.updCrew _ _ f).wake _ _)) (funext fun k => ?_)
  unfold Crew.spadServed
  cases k.warps.find x.2.2 <;> rfl

theorem scratchpadAccessDone_spec {s : State} {x : Nat × Nat × Nat}
    (hx : (s.core s.inp.unit).bankQ.find? (fun x => x.1 == s.inp.sub) = some x) :
    ∃ t, exec .scratchpadAccessDone s = .next t ∧ (t.core s.inp.unit).bankQ = (s.core s.inp.unit).bankQ.erase x ∧
      (∀ d w, s.crew x.2.1 = some d → d.warps.find x.2.2 = some w → ∃ d' w', t.crew x.2.1 = some d' ∧ d'.warps.find x.2.2 = some w' ∧
        w'.spadOut = w.spadOut - 1 ∧ (w.spadOut ≤ 1 → w'.spadBusy = false)) ∧
      ∀ d, d ∈ t.crews → d.2.core = s.inp.unit → ∀ w, w ∈ d.2.warps → w.2.run.wait ≠ .bank x.1 := by
  refine ⟨_, execScratchpadAccessDone_some hx, ?_, fun d w hd hw => ?_, fun d hd hcore w hw => ?_⟩
  · have kept := State.core_updCrew (s.bankServed s.inp.unit x) x.2.1 s.inp.unit (·.spadServed x.2.2)
    exact congrArg CoreSt.bankQ (kept.trans (Tbl.get_set_self _ _ _ _))
  · have idle : w.spadOut ≤ 1 → w.spadServed.spadBusy = false := fun h => by simp [Warp.spadServed, Nat.not_lt.2 h]
    have served := Crew.find_spadServed hw
    rw [State.crew_wake, State.crew_updCrew_self (s := s.bankServed s.inp.unit x) _ hd]
    by_cases hc : (d.spadServed x.2.2).core == s.inp.unit
    · obtain ⟨r, e, woken⟩ := Crew.find_wake (fun sd => sd.wait == .bank x.1) served
      exact ⟨_, { w.spadServed with run := r, div := e }, rfl, (by dsimp only; rw [if_pos hc]; exact woken), rfl, idle⟩
    · exact ⟨_, _, rfl, (by dsimp only; rw [if_neg hc]; exact served), rfl, idle⟩
  · exact State.not_waits_of_wake _ (fun _ h => by simp [h]) (by simp) hd (by simp [hcore]) hw

/-! ### Write buffers -/

/-- The buffer without its oldest store and the log mark that the store leaves make one change of the core. -/
theorem State.setCore_performStore (s : State) (k : Nat) (c : CoreSt) (w : WBuf) : (s.setCore k c).performStore k w =
    (s.setCore k { c with accum := if w.ent.ord = 0 then c.accum ||| sigRange w.pa w.bytes.length else c.accum }).homeWrite (some k) true
      w.ent.host w.ent.slot w.pa w.bytes := by
  unfold State.performStore
  dsimp only
  by_cases hw : w.ent.ord = 0
  · simp [hw, State.updCore, State.setCore, State.core]
  · simp [hw]

/-! ### The patrol scrub -/

theorem postKept_dram (d : Cells) : PostKept fun s => s.mem.dram = d := ⟨fun _ _ h => h, fun _ _ h => h, fun _ h => h⟩
theorem postKept_poison (l : List Nat) : PostKept fun s => s.mem.poison = l := ⟨fun _ _ h => h, fun _ _ h => h, fun _ h => h⟩

/-- A corrected error is noted in the count of its row, and posted. -/
theorem PostKept.eccCorrected {P : State → Prop} (hP : PostKept P) {s : State}
    (h : ∀ f : Tbl (Option Nat × Nat) → Tbl (Option Nat × Nat), P (s.updMem fun m => { m with eccRows := f m.eccRows })) (k n : Nat) :
    P (s.eccCorrected k n) := by
  have posted (v : Option Nat × Nat) (r : Rec) := hP.post (h (·.set (k / 64) v)) 0 r
  unfold State.eccCorrected
  dsimp only
  split <;> split
  · exact h (·.set _ _)
  · exact posted _ _
  · contradiction
  · exact posted _ _

/-- A sector with an error that is not corrected: poisoned, and reported. -/
theorem State.reportSectors_poisonAt (s : State) (k : Nat) :
    let t := (s.poisonAt k).reportSectors recEccUncorrected none [(k, 0)]
    k ∈ t.mem.poison ∧ k ∈ t.mem.reported ∧ t.mem.dram = s.mem.dram := by
  refine ⟨?_, ?_, ?_⟩
  · have hp : PostKept fun t => k ∈ t.mem.poison := ⟨fun _ _ h => h, fun _ _ h => h, fun _ h => h⟩
    exact hp.reportSectors _ _ _ fun _ _ => mem_insertNat.2 (.inl rfl)
  · have hp : PostKept fun t => k ∈ t.mem.reported := ⟨fun _ _ h => h, fun _ _ h => h, fun _ h => h⟩
    exact hp.reportSectors _ _ _ fun _ hrep => (hrep k).2 (.inr (by simp))
  · exact (postKept_dram _).reportSectors _ _ _ fun _ _ => rfl

theorem execPatrolScrub_structure {s : State} (hsub : s.inp.sub = 3) (h2 : 2 ≤ s.inp.val) (h11 : s.inp.val ≤ 11) : execPatrolScrub s = .next (
    if s.inp.flag then s.structureLost s.inp.val s.inp.unit s.inp.aux (s.inp.list.headD 0) (s.inp.list.drop 1)
    else s.softError s.inp.val s.inp.unit s.inp.aux (s.inp.list.headD 0) (s.inp.list.getD 1 0 == 1)) := by
  have hval : ¬(s.inp.val < 2 || 11 < s.inp.val) = true := by simp; omega
  unfold execPatrolScrub
  rw [if_pos hsub, if_neg hval]
  split <;> rfl

theorem execPatrolScrub_sector {s : State} (hsub : s.inp.sub ≠ 3) (h : 32 * s.inp.unit < dramSize) : execPatrolScrub s = .next (
    if s.inp.sub = 1 then s.eccCorrected s.inp.unit s.inp.val
    else if s.inp.sub = 2 then (s.poisonAt s.inp.unit).reportSectors recEccUncorrected none [(s.inp.unit, 0)]
    else if s.mem.poison.contains s.inp.unit then s.reportSectors recEccUncorrected none [(s.inp.unit, 0)]
    else s) := by
  simp only [execPatrolScrub, hsub, if_false, Nat.not_le.2 h]
  split <;> [rfl; split <;> [rfl; split <;> rfl]]

theorem memoryEvents : Claims.MemoryEvents := by
  intro s
  refine ⟨fun h => ?_, fun x hx => scratchpadAccessDone_spec hx, fun h => ?_, fun w hw => ⟨fun ho => ?_, fun ho => ?_⟩, fun hv => ?_,
    fun hv => ⟨fun e he => ?_, fun l hl hown hmig => ?_⟩, fun hsub h2 h11 => ⟨fun hf => ?_, fun hf hv => ?_⟩, fun hsub hk => ?_,
    fun hk => ⟨fun hsub hp => ?_, fun hsub => ?_, fun hsub => ?_⟩⟩
  · simp only [exec_eq_scratchpadAccessDone, execScratchpadAccessDone, h]
  · simp only [exec_eq_writeBufferDrain, execWriteBufferDrain, h]
  · simp only [exec_eq_writeBufferDrain, execWriteBufferDrain, hw]
    rw [if_pos ho]
  · simp only [exec_eq_writeBufferDrain, execWriteBufferDrain, hw, State.setCore_performStore]
    rw [if_neg (not_not.2 ho)]
  · simp only [exec_eq_hostPortAccess, execHostPortAccess, State.hostAccess, hv, if_true]
    rfl
  · simp only [exec_eq_hostPortAccess, execHostPortAccess, State.hostAccess, hv, if_false, List.length_map] at he ⊢
    rw [he]
  · simp only [exec_eq_hostPortAccess, execHostPortAccess, State.hostAccess, hv, if_false, List.length_map] at hl ⊢
    rw [hl]
    simp [hown, State.partsStalled, hmig]
  · rw [exec_eq_patrolScrub, execPatrolScrub_structure hsub h2 h11, hf]
    simp [State.softError, unitOf, Nat.mul_comm 4096, or_assoc]
  · rw [exec_eq_patrolScrub, execPatrolScrub_structure hsub h2 h11, hf, hv]
    rfl
  · simp [execPatrolScrub, hsub, hk]
  · rw [exec_eq_patrolScrub, execPatrolScrub_sector (by omega) hk]
    simp [hsub, hp]
  · rw [exec_eq_patrolScrub, execPatrolScrub_sector (by omega) hk, hsub]
    exact ⟨_, rfl, (postKept_dram _).eccCorrected (fun _ => rfl) _ _, (postKept_poison _).eccCorrected (fun _ => rfl) _ _⟩
  · rw [exec_eq_patrolScrub, execPatrolScrub_sector (by omega) hk, hsub]
    exact ⟨_, rfl, s.reportSectors_poisonAt _⟩

end Sys2Proof.Machine
end

section
/-! SUPPORT. The migration of pages (R33): its start, its end, and where the bytes of the page then stand. -/

namespace Sys2Proof.Machine

/-! ### Bytes moved -/

theorem Cells.get_eq_zero_of_wfFrom {k : Nat} {m : Cells} (h : Cells.wfFrom (some k) m = true) {n : Nat} (hn : n ≤ k) : m.get n = 0 := by
  cases m with
  | nil => rfl
  | cons x t =>
    obtain ⟨j, v⟩ := x
    simp only [Cells.wfFrom, Bool.and_eq_true, decide_eq_true_eq] at h
    exact Cells.get_below (by omega)

/-- What a memory restricted to some addresses holds. -/
theorem Cells.get_filter (p : Nat → Bool) (m : Cells) (lo : Option Nat) (h : Cells.wfFrom lo m = true) (a : Nat) :
    Cells.get (m.filter fun c => p c.1) a = if p a then m.get a else 0 := by
  induction m generalizing lo with
  | nil => simp
  | cons x t ih =>
    obtain ⟨k, v⟩ := x
    have ht : Cells.wfFrom (some k) t = true := by
      simp only [Cells.wfFrom, Bool.and_eq_true] at h
      exact h.2
    have below : a ≤ k → Cells.get t a = 0 := Cells.get_eq_zero_of_wfFrom ht
    have ih := ih _ ht
    by_cases hp : p k = true
    · rw [List.filter_cons_of_pos (by exact hp)]
      simp only [Cells.get, ih]
      grind
    · rw [List.filter_cons_of_neg (by exact hp), ih]
      simp only [Cells.get]
      grind

/-- Cells written over a memory, each at another address: where a cell goes its byte stands, and elsewhere what was there before. -/
theorem Cells.get_foldl_set_shift {old new : Nat} (l : Cells) (lo : Option Nat) (hl : Cells.wfFrom lo l = true) (hold : ∀ c, c ∈ l → old ≤ c.1)
    (m : Cells) (hm : m.wf = true) (a : Nat) : (l.foldl (fun m c => m.set (c.1 - old + new) c.2) m).get a =
      if new ≤ a ∧ l.get (a - new + old) ≠ 0 then l.get (a - new + old) else m.get a := by
  induction l generalizing lo m with
  | nil => simp
  | cons x t ih =>
    obtain ⟨k, v⟩ := x
    have hk : old ≤ k := hold (k, v) List.mem_cons_self
    simp only [Cells.wfFrom, Bool.and_eq_true, bne_iff_ne, ne_eq] at hl
    obtain ⟨⟨-, hv⟩, ht⟩ := hl
    have below : a - new + old ≤ k → Cells.get t (a - new + old) = 0 := Cells.get_eq_zero_of_wfFrom ht
    rw [List.foldl_cons, ih _ ht (fun c hc => hold c (List.mem_cons_of_mem _ hc)) _ (Cells.wf_set hm _ _)]
    by_cases ha : a = k - old + new
    · have hat : a - new + old = k := by omega
      have hnew : new ≤ a := by omega
      simp only [Cells.get, hat] at below ⊢
      rw [below (le_refl k), ha, Cells.get_set_self m none hm]
      rw [ha] at hnew
      rw [if_neg (fun h => h.2 rfl), if_pos trivial, if_pos ⟨hnew, hv⟩]
    · rw [Cells.get_set_ne m none hm v ha]
      simp only [Cells.get]
      grind

/-- The bytes of a moved range: the new range holds what the old one held, and no other address changes. -/
theorem Cells.get_move {m : Cells} (h : m.wf = true) (old new n a : Nat) :
    (m.move old new n).get a = if new ≤ a ∧ a < new + n then m.get (a - new + old) else m.get a := by
  have hl : Cells.wf (m.filter fun c => decide (old ≤ c.1) && decide (c.1 < old + n)) = true := Cells.wfFrom_filter m _ none h
  have hsrc := Cells.get_filter (fun k => decide (old ≤ k) && decide (k < old + n)) m none h (a - new + old)
  have hdst : (m.zero new n).get a = _ := Cells.get_filter (fun k => decide (k < new) || decide (new + n ≤ k)) m none h a
  rw [Cells.move, Cells.get_foldl_set_shift _ none hl (fun c hc => by simp at hc; omega) _ (Cells.wf_zero h new n), hsrc, hdst]
  simp only [Bool.and_eq_true, Bool.or_eq_true, decide_eq_true_eq]
  grind

/-! ### The start of a migration -/

theorem State.mem_migrating (l : List Nat) (a n k : Nat) :
    k ∈ (List.range n).foldl (fun l i => insertNat l (a + i)) l ↔ k ∈ l ∨ (a ≤ k ∧ k < a + n) := by
  rw [mem_foldl_insertNat (a + ·)]
  simp only [List.mem_range]
  constructor
  · rintro (h | ⟨i, hi, rfl⟩)
    · exact .inl h
    · exact .inr (by omega)
  · rintro (h | h)
    · exact .inl h
    · exact .inr ⟨k - a, by omega, by omega⟩

theorem moveTicks_eq (n : Nat) : moveTicks n = (n * 200000000 + 2 ^ 30 - 1) / 2 ^ 30 := by
  unfold moveTicks
  omega

theorem execPageMigrationStart_refused {s : State} {e : TlbEnt} (hwalk : s.walk s.inp.unit s.inp.sub = .leaf e)
    (h : s.mayMigrate e s.inp.val = false ∨ ∃ m, m ∈ s.migrations ∧ m.old = e.pa) : execPageMigrationStart s = .next s := by
  have refused : (!s.mayMigrate e s.inp.val || s.migrations.any fun m => m.old == e.pa) = true := by
    simpa using h
  unfold execPageMigrationStart
  rw [hwalk]
  dsimp only
  rw [if_pos refused]

theorem execPageMigrationStart_allowed {s : State} {e : TlbEnt} (hwalk : s.walk s.inp.unit s.inp.sub = .leaf e)
    (may : s.mayMigrate e s.inp.val = true) (other : ∀ m, m ∈ s.migrations → m.old ≠ e.pa) :
    let die := stackOfPa e.pa / 8
    let at' := max s.now (5000 * s.power.moveNext.get 0 die)
    execPageMigrationStart s = .next { s with
      now := at', power := { s.power with moveNext := s.power.moveNext.set die (at' / 5000 + (2 ^ e.lg * 200000000 + 2 ^ 30 - 1) / 2 ^ 30) },
      migrations := s.migrations ++ [⟨s.inp.unit, e.base, e.lg, e.pa, s.inp.val⟩],
      migrating := (List.range (2 ^ e.lg / 65536)).foldl (fun l i => insertNat l (e.pa / 65536 + i)) s.migrating } := by
  have allowed : ¬(!s.mayMigrate e s.inp.val || s.migrations.any fun m => m.old == e.pa) = true := by
    simpa [may] using other
  unfold execPageMigrationStart
  rw [hwalk]
  dsimp only
  rw [if_neg allowed, moveTicks_eq]
  rfl

/-! ### The end of a migration -/

/-- What the flushes, reports and writes of a migration leave alone: the migrations under way and the pages marked. -/
def State.Migrating (s : State) (ms : List Migration) (ks : List Nat) : Prop := s.migrations = ms ∧ s.migrating = ks

theorem memKept_migrating (ms : List Migration) (ks : List Nat) : MemKept fun s => s.Migrating ms ks :=
  ⟨fun _ h => h, fun _ _ h => h, fun _ h => h, fun _ h => h, fun _ _ h => h⟩

theorem postKept_migrating (ms : List Migration) (ks : List Nat) : PostKept fun s => s.Migrating ms ks :=
  ⟨fun _ _ h => h, fun _ _ h => h, fun _ h => h⟩

theorem MemKept.rewritePte {P : State → Prop} (hP : MemKept P) {s : State} (h : P s) (ctx va new : Nat) : P (s.rewritePte ctx va new) := by
  unfold State.rewritePte
  split
  · exact h
  · exact hP.homePut h _ _ _ _

/-- An address in the page that a migration moves. -/
def Migration.inOld (m : Migration) (pa : Nat) : Bool := decide (m.old ≤ pa) && decide (pa < m.old + 2 ^ m.lg)

theorem Migration.not_inOld (m : Migration) (pa : Nat) : (!m.inOld pa) = (decide (pa < m.old) || decide (m.old + 2 ^ m.lg ≤ pa)) := by
  unfold Migration.inOld
  grind

/-- The write-back of one core's copies of a page. -/
def State.pageHome (m : Migration) (s : State) (kc : Nat × CoreSt) : State :=
  let hit := kc.2.wbuf.filter fun w => !w.ent.host && m.inOld w.pa
  let s := s.updCore kc.1 fun c => { c with wbuf := c.wbuf.filter fun w => w.ent.host || !m.inOld w.pa }
  let s := hit.foldl (fun s w => s.performStore kc.1 w) s
  s.flushLines kc.1 false fun l => !l.host && m.inOld (128 * l.line)

theorem MemKept.pageHome {P : State → Prop} (hP : MemKept P) (m : Migration) (s : State) (h : P s) (kc : Nat × CoreSt) : P (s.pageHome m kc) := by
  unfold State.pageHome
  refine hP.flushLines ?_ _ _ _
  exact MemKept.foldl (P := P) (fun s w hs => hP.performStore hs _ w) _ (hP.updCore h _ _)

theorem State.migrated_migrating {s : State} {i : Nat} {m : Migration} (hm : s.migrations[i]? = some m) :
    (s.migrated i).Migrating (s.migrations.eraseIdx i)
      (s.migrating.filter fun k => decide (65536 * k < m.old) || decide (m.old + 2 ^ m.lg ≤ 65536 * k)) := by
  have hM := memKept_migrating s.migrations s.migrating
  have hR := postKept_migrating s.migrations s.migrating
  unfold State.migrated
  rw [hm]
  dsimp only
  refine (postKept_migrating _ _).post ?_ _ _
  generalize hu : State.rewritePte _ _ _ _ = u
  have kept : u.Migrating s.migrations s.migrating := by
    rw [← hu]
    refine hM.rewritePte (hM.updMem _ (hR.reportSectors _ _ _ fun _ _ => hM.updMem _ ?_)) _ _ _
    exact MemKept.foldl (P := fun s' => s'.Migrating s.migrations s.migrating) (fun s' kc hs => hM.pageHome m s' hs kc) _ ⟨rfl, rfl⟩
  obtain ⟨hmig, hpages⟩ := kept
  refine ⟨congrArg (List.eraseIdx · i) hmig, ?_⟩
  rw [← hpages]
  exact congrArg (List.filter · u.migrating) (funext fun k => m.not_inOld _)

theorem migrations : Claims.Migrations := by
  refine ⟨fun s e hwalk => ⟨execPageMigrationStart_refused hwalk, fun may other => ?_⟩, fun s m hm => ?_, fun m old new n hm _ => ⟨?_, fun i hi => ?_, fun a ha => ?_⟩⟩
  · exact ⟨_, execPageMigrationStart_allowed hwalk may other, rfl, State.mem_migrating _ _ _⟩
  · exact ⟨_, rfl, State.migrated_migrating hm⟩
  · exact Cells.wf_move hm old new n
  · rw [Cells.get_move hm, if_pos (by omega), Nat.add_sub_cancel_left, Nat.add_comm]
  · rw [Cells.get_move hm, if_neg (by omega)]

/-- Settles O49. The events of the memory follow from what each serves and posts; a moved page follows byte by byte from the canonical form. -/
theorem memoryWork : Obligations.MemoryWork := ⟨memoryEvents, migrations⟩

end Sys2Proof.Machine
end

section
/-! SUPPORT. What the engines, the report of their work and the end of crews leave alone (O25). A property of states that looks only at the crews,
the power side and the time, and that the few changes of these three keep, is kept by every operation, which is shown once for each operation in the
model's order. The memory system's operations and the posts of records are cases of this. -/

namespace Sys2Proof.Machine

/-- A property of the crews, the power side and the time that what the engines do to the last two keeps. -/
structure CalmKept (P : State → Prop) : Prop where
  rest : ∀ {s t : State}, P s → t.power = s.power → t.crews = s.crews → t.now = s.now → P t
  later : ∀ {s : State} (t : Nat), P s → P (s.until t)
  command : ∀ {s : State} (k t : Nat), P s → P (s.updStack k fun x => { x with lastCmd := some t })
  lastCrew : ∀ {s : State} (cl n : Nat), P s → P (s.updPw cl fun p => { p with lastCrew := n })
  grant : ∀ {s : State} (cl n : Nat), P s → P (s.updPw cl fun p => { p with grant := n })

namespace CalmKept

variable {P : State → Prop} (hP : CalmKept P) {s : State}
include hP

theorem memKept : MemKept P :=
  ⟨fun _ h => hP.rest h rfl rfl rfl, fun _ _ h => hP.rest h rfl rfl rfl, fun _ h => hP.rest h rfl rfl rfl, hP.later, hP.command⟩

theorem postKept : PostKept P :=
  ⟨fun _ _ h => hP.rest h rfl rfl rfl, fun _ _ h => hP.rest h rfl rfl rfl, fun _ h => hP.rest h rfl rfl rfl⟩

/-! ### One part of the state written -/

theorem updCluster (h : P s) (k : Nat) (f : ClusterSt → ClusterSt) : P (s.updCluster k f) := hP.rest h rfl rfl rfl
theorem updMx (h : P s) (k : Nat) (f : MatrixSt → MatrixSt) : P (s.updMx k f) := hP.rest h rfl rfl rfl
theorem updCtx (h : P s) (k : Nat) (f : Ctx → Ctx) : P (s.updCtx k f) := hP.rest h rfl rfl rfl
theorem updQueue (h : P s) (k : Nat) (f : Queue → Queue) : P (s.updQueue k f) := hP.rest h rfl rfl rfl
theorem pulse (h : P s) (ctx : Nat) : P (s.pulse ctx) := hP.rest h rfl rfl rfl
theorem updBank (h : P s) (stack bank : Nat) (f : BankSt → BankSt) : P (s.updBank stack bank f) := hP.rest h rfl rfl rfl
theorem nextFree (h : P s) : P s.nextFree := hP.rest h rfl rfl rfl
theorem disown (h : P s) (o : Nat) : P (s.disown o) := hP.rest h rfl rfl rfl
theorem crewLeft (h : P s) (core : Nat) : P (s.crewLeft core) := hP.lastCrew _ _ h

theorem updSlate (h : P s) (k : Nat) (f : Slate → Slate) : P (s.updSlate k f) := by
  unfold State.updSlate
  split
  · exact hP.rest h rfl rfl rfl
  · exact h

theorem updCopy (h : P s) (k : Nat) (f : CopyCmd → CopyCmd) : P (s.updCopy k f) := by
  unfold State.updCopy
  split
  · exact hP.rest h rfl rfl rfl
  · exact h

theorem updBinding (h : P s) (k : Nat) (f : Binding → Binding) : P (s.updBinding k f) := by
  unfold State.updBinding
  split
  · exact hP.rest h rfl rfl rfl
  · exact h

theorem cmdDown (h : P s) (k : Nat) : P (s.cmdDown k) := hP.updSlate h _ _
theorem noteStop (h : P s) (k cause detail : Nat) : P (s.noteStop k cause detail) := hP.updSlate h _ _
theorem crewEnded (h : P s) (cid : Nat) (c : Crew) (cause : Nat) : P (s.crewEnded cid c cause) := hP.updSlate h _ _
theorem queueTake (h : P s) (d id : Nat) : P (s.queueTake d id) := hP.updQueue h _ _

theorem queueGroup (h : P s) (slate g : Nat) : P (s.queueGroup slate g) := by
  grind [State.queueGroup, hP.queueTake]

theorem keepPools (h : P s) (f : Nat) : P (s.keepPools f) := by
  grind [State.keepPools, hP.postKept.updFunc]

theorem regrant (h : P s) : P s.regrant := by
  unfold State.regrant
  refine MemKept.foldl (P := P) (fun s cl hs => ?_) _ h
  dsimp only
  split
  · exact hs
  · exact hP.grant _ _ hs

/-! ### Writes of the engines -/

theorem partsWrite (h : P s) (l : List Part) (bs : List Byte) : P (s.partsWrite l bs) := by
  induction l generalizing s bs with
  | nil => exact h
  | cons x l ih =>
    obtain ⟨e, pa, n⟩ := x
    exact ih (hP.memKept.homeWrite h _ _ _ _ _ _) _

theorem l2Parts (h : P s) (ctx cluster : Nat) (l : List Part) (write : Bool) : P (s.l2Parts ctx cluster l write) :=
  MemKept.foldl (P := P) (fun _ _ hs => MemKept.foldl (P := P) (fun _ _ hu => hP.memKept.l2Access hu _ _ _ _ _ _ _) _ hs) _ h

theorem markLines (h : P s) (mark : Nat) (l : List (Bool × Nat)) : P (s.markLines mark l) :=
  MemKept.foldl (P := P) (fun _ _ hs => hP.memKept.updMem _ hs) _ h

theorem poisonParts (h : P s) (l : List Part) : P (s.poisonParts l) := by
  unfold State.poisonParts
  refine MemKept.foldl (P := P) (fun s x hs => ?_) _ h
  dsimp only
  split
  · exact hs
  · exact hP.memKept.updMem _ hs

theorem reportSectors (h : P s) (code : Rec) (ctx : Option Nat) (l : List (Nat × Nat)) : P (s.reportSectors code ctx l) :=
  hP.postKept.reportSectors _ _ _ fun _ _ => hP.memKept.updMem _ h

theorem engStore (h : P s) (ctx va : Nat) (bs : List Byte) : P (s.engStore ctx va bs) := by
  grind [State.engStore, hP.partsWrite, hP.memKept.logAppend, hP.markLines]

theorem noteWord (h : P s) (ctx va scope : Nat) : P (s.noteWord ctx va scope) := by
  unfold State.noteWord
  split
  · exact hP.memKept.updMem _ h
  · exact h

theorem engWord (h : P s) (ctx va code n scope : Nat) : P (s.engWord ctx va code n scope) := hP.noteWord (hP.engStore h _ _ _) _ _ _

theorem doneWord (h : P s) (ctx va code n scope : Nat) : P (s.doneWord ctx va code n scope) := by
  grind [State.doneWord, hP.engWord]

theorem passWord (h : P s) (ctx word code p : Nat) : P (s.passWord ctx word code p) := by
  grind [State.passWord, hP.engWord]

theorem gDone (h : P s) (ctx word st detail : Nat) : P (s.gDone ctx word st detail) := hP.engWord h _ _ _ _ _

theorem spadWrite (h : P s) (core off : Nat) (bs : List Byte) : P (s.spadWrite core off bs) := hP.memKept.updCore h _ _

theorem spaceWrite (h : P s) (c : CopyCmd) (a : Nat) (bs : List Byte) (poison : Bool) : P (s.spaceWrite c a bs poison) := by
  grind [State.spaceWrite, hP.spadWrite, hP.memKept.updCore, hP.updMx]

theorem unhold (h : P s) (key : Nat) : P (s.unhold key) := by
  grind [State.unhold, hP.updCopy, hP.spaceWrite, MemKept.foldl (P := P)]

theorem itemTorn (h : P s) (c : CopyCmd) (data : List (List Byte)) (k : Nat) (l : List Move) : P (s.itemTorn c data k l) := by
  induction l generalizing s k with
  | nil => exact h
  | cons x l ih =>
    refine ih ?_ _
    have fresh (n : Nat) : P { s with fresh := n } := hP.rest h rfl rfl rfl
    grind [hP.partsWrite, hP.memKept.logAppend, hP.markLines, hP.spaceWrite]

theorem devStore (h : P s) (core ctx va : Nat) (bs : List Byte) {t : State} (ht : s.devStore core ctx va bs = some t) : P t := by
  induction bs generalizing s va with
  | nil =>
    cases ht
    exact h
  | cons b bs ih =>
    unfold State.devStore at ht
    grind [hP.memKept.storeByte]

theorem writeStopList (h : P s) (c : Crew) (cause depth : Nat) (fw : Option Nat) (epc : VAddr) (pidx : Nat) {t : State}
    (ht : s.writeStopList c cause depth fw epc pidx = some t) : P t := by
  unfold State.writeStopList at ht
  split at ht
  · cases ht
    exact h
  · exact hP.devStore h _ _ _ _ ht

/-! ### Rows -/

theorem shareTile (h : P s) (cl t : Nat) (w : SharedWhat) : P (s.shareTile cl t w) := by
  grind [State.shareTile, hP.updMx]

theorem endXfer (h : P s) (cl : Nat) (x : RowXfer) : P (s.endXfer cl x) := by
  grind [State.endXfer, State.tileWrite, hP.shareTile, hP.updMx]

theorem settleXfers (h : P s) (cl : Nat) : P (s.settleXfers cl) :=
  MemKept.foldl (P := P) (fun _ x hs => hP.endXfer hs cl x) _ (hP.updCluster h _ _)

theorem startPrecharge (h : P s) (cl bank t : Nat) (st : RowState) : P (s.startPrecharge cl bank t st) := by
  unfold State.startPrecharge
  exact hP.updBank (hP.updCluster h _ _) _ _ _

theorem forceClose (h : P s) (cl : Nat) (r : RowEnt) : P (s.forceClose cl r) := hP.startPrecharge h _ _ _ _

theorem settleCluster (h : P s) (cl : Nat) : P (s.settleCluster cl) := by
  grind [State.settleCluster, hP.forceClose, hP.settleXfers, hP.updCluster, MemKept.foldl (P := P)]

theorem closeRowsNow (h : P s) (cl : Nat) : P (s.closeRowsNow cl) := by
  unfold State.closeRowsNow
  refine hP.updCluster (hP.later _ (MemKept.foldl (P := P) (fun s r hs => ?_) _ (hP.settleCluster (hP.later _ h) _))) _ _
  split
  · exact hP.startPrecharge hs _ _ _ _
  · exact hs

/-! ### Matrix queues -/

theorem failMatrix (h : P s) (cl cause : Nat) : P (s.failMatrix cl cause) := by
  grind [State.failMatrix, hP.updSlate, hP.updMx, MemKept.foldl (P := P)]

end CalmKept

end Sys2Proof.Machine
end

section
/-! SUPPORT. What ends the work of the engines (R119, R470, R471): besides what `CalmKept` covers, it lets sides issue again, stores crews of cue mode
back in their binding, and lets crews that waited for it end. -/

namespace Sys2Proof.Machine

/-- A property that what the engines do to the crews keeps too. -/
structure EngineKept (P : State → Prop) : Prop extends CalmKept P where
  setCrew : ∀ {s : State} (k : Nat) (c : Crew), P s → P (s.setCrew k c)
  delCrew : ∀ {s : State} (k : Nat), P s → P { s with crews := s.crews.del k }
  mapCrews : ∀ {s : State} (f : Nat → Crew → Crew), P s → P { s with crews := s.crews.mapV f }

namespace EngineKept

variable {P : State → Prop} (hP : EngineKept P) {s : State}
include hP

/-! ### Waking and the end of crews -/

theorem wake (h : P s) (pc : Crew → Bool) (p : Side → Bool) : P (s.wake pc p) := hP.mapCrews _ h
theorem wakeEngine (h : P s) : P s.wakeEngine := hP.wake h _ _
theorem wakeOwned (h : P s) : P s.wakeOwned := hP.wake (hP.mapCrews _ h) _ _

theorem settleCores (h : P s) (ctx : Nat) : P (s.settleCores ctx) := by
  unfold State.settleCores
  dsimp only
  split
  · exact h
  · exact hP.mapCrews _ (hP.regrant (hP.updCtx h _ _))

theorem dropCrew (h : P s) (cid : Nat) : P (s.dropCrew cid) := by
  have gone {u : State} (cur : Option (Nat × Nat)) (hu : P u) : P { u with crews := u.crews.del cid, cur := cur } :=
    hP.rest (hP.delCrew cid hu) rfl rfl rfl
  unfold State.dropCrew
  dsimp only
  refine gone _ ?_
  split
  · refine hP.crewLeft ?_ _
    split <;> grind [hP.memKept.updCore]
  · split <;> grind [hP.memKept.updCore]

theorem endCrew (h : P s) (cid cause : Nat) : P (s.endCrew cid cause) := by
  have cur {u : State} (x : Option (Nat × Nat)) (hu : P u) : P { u with cur := x } := hP.rest hu rfl rfl rfl
  have del {u : State} (hu : P u) : P { u with crews := u.crews.del cid } := hP.delCrew cid hu
  unfold State.endCrew
  split
  · exact h
  · grind [hP.memKept.releaseAll, hP.memKept.updCore, hP.setCrew, hP.closeRowsNow, hP.crewEnded, hP.crewLeft, hP.settleCores, hP.queueGroup]

theorem reap (h : P s) (cid : Nat) : P (s.reap cid) := by
  grind [State.reap, hP.endCrew]

/-! ### The dolly -/

theorem stowCue (h : P s) (key : Nat) (on : Nat → Bool) : P (s.stowCue key on) :=
  MemKept.foldl (P := P) (fun _ _ hs => hP.dropCrew (hP.updBinding (hP.memKept.releaseAll hs _) _ _) _) _ h

theorem dollyDone (h : P s) (cl : Nat) (p : DollyCmd → Bool) : P (s.dollyDone cl p) :=
  hP.wakeEngine (MemKept.foldl (P := P) (fun _ _ hs => hP.pulse (hP.cmdDown hs _) _) _ (hP.updCluster h _ _))

theorem flushWakes (h : P s) (key : Nat) : P (s.flushWakes key) := by
  unfold State.flushWakes
  split
  · exact h
  · refine hP.dollyDone (MemKept.foldl (P := P) (fun s c hs => ?_) _ h) _ _
    split
    · exact MemKept.foldl (P := P) (fun _ e hu => hP.memKept.wakeElem hu _ e) _ hs
    · exact hs

theorem passGone (h : P s) (key ctx : Nat) : P (s.passGone key ctx) := by
  grind [State.passGone, hP.pulse, hP.cmdDown, hP.wakeEngine, hP.updCluster]

theorem endPass (h : P s) (key code : Nat) : P (s.endPass key code) := by
  unfold State.endPass
  split
  · exact h
  · split
    · exact h
    · refine hP.passGone (hP.passWord (hP.updBinding (hP.memKept.logAppend ?_ _) _ _) _ _ _ _) _ _
      refine MemKept.foldl (P := P) (fun _ x hs => hP.dropCrew hs x.1) _ (hP.updBinding ?_ _ _)
      exact MemKept.foldl (P := P) (fun _ k hs => hP.memKept.releaseAll hs k) _ h

theorem elemsLatched (h : P s) (key : Nat) (b : Binding) :
    P (b.live.foldl (fun s x => s.wakeElem b x.1) ((s.stowCue key fun _ => true).reveal none key fun _ => true)) :=
  MemKept.foldl (P := P) (fun _ x hs => hP.memKept.wakeElem hs b x.1) _ (hP.memKept.reveal (hP.stowCue h key _) none key _)

theorem passesFailed (h : P s) (key : Nat) (b : Binding) (f : Binding → Binding) :
    P ((b.queued.foldl (fun s x => (s.passWord b.ctx x.2.1 1 x.1).passGone key b.ctx) ((s.updBinding key f).endPass key 1)).flushWakes key) :=
  hP.flushWakes (MemKept.foldl (P := P) (fun _ _ hs => hP.passGone (hP.passWord hs _ _ _ _) _ _) _ (hP.endPass (hP.updBinding h _ _) _ _)) _

theorem stopBinding (h : P s) (key : Nat) (reset : Bool) : P (s.stopBinding key reset) := by
  unfold State.stopBinding
  split
  · exact h
  next b _ =>
    have stopped := hP.passesFailed (hP.elemsLatched h key b) key b
    dsimp only
    split
    · exact hP.rest (stopped _) rfl rfl rfl
    · exact hP.updBinding (stopped _) _ _

/-! ### Copies and collectives -/

theorem setPresent (h : P s) (core line : Nat) : P (s.setPresent core line) := hP.wake (hP.memKept.updCore h _ _) _ _

theorem recheckBytes (h : P s) (core : Nat) : P (s.recheckBytes core) := by
  unfold State.recheckBytes
  refine MemKept.foldl (P := P) (fun s o hs => ?_) _ h
  split
  · exact hP.mapCrews _ (hP.memKept.acquire hs _ _)
  · exact hs

theorem itemEnd (h : P s) (key i st : Nat) : P (s.itemEnd key i st) := by
  unfold State.itemEnd
  split
  · exact h
  dsimp only
  generalize hu : State.wakeOwned _ = u
  have ended : P u := by
    rw [← hu]
    refine hP.wakeOwned (hP.pulse (hP.updCopy (MemKept.foldl (P := P) (fun s j hs => ?_) _ ?_) _ _) _)
    · split
      · exact hs
      · exact hP.setPresent hs _ _
    · grind [hP.disown, hP.updCopy, hP.unhold, hP.memKept.updCore]
  split
  · exact ended
  · split
    · exact ended
    · exact hP.recheckBytes (hP.memKept.updCore ended _ _) _

theorem copyDone (h : P s) (key : Nat) : P (s.copyDone key) := by
  unfold State.copyDone
  split
  · exact h
  · refine hP.reap (hP.wakeOwned (hP.wakeEngine (hP.cmdDown (hP.updCluster (hP.updCopy (hP.doneWord ?_ _ _ _ _ _) _ _) _ _) _))) _
    split
    · exact h
    · exact hP.engStore h _ _ _

theorem copySettle (h : P s) (key : Nat) : P (s.copySettle key) := by
  grind [State.copySettle, hP.copyDone, hP.itemEnd, MemKept.foldl (P := P)]

theorem copyStop (h : P s) (p : CopyCmd → Bool) (st : Nat) : P (s.copyStop p st) := by
  grind [State.copyStop, hP.itemEnd, hP.itemTorn, hP.copySettle, hP.unhold, hP.updCopy, MemKept.foldl (P := P)]

theorem collRecord (h : P s) (key p st : Nat) : P (s.collRecord key p st) := hP.updCopy h _ _

theorem collPut (h : P s) (c : CopyCmd) (d : Nat) (bs : List Byte) (poison : List (Nat × Nat)) : P (s.collPut c d bs poison) := by
  unfold State.collPut
  split
  · exact h
  next r _ =>
    have written := hP.memKept.logAppend (hP.partsWrite (hP.l2Parts (hP.reportSectors h recEccUncorrected (some c.ctx) poison) c.ctx c.cluster r true) r bs)
    dsimp only
    split
    · exact hP.markLines (written _) _ _
    · exact hP.poisonParts (hP.markLines (written _) _ _) _

theorem collOwn (h : P s) (c : CopyCmd) : P (s.collOwn c) := by
  grind [State.collOwn, hP.collPut]

theorem collEnd (h : P s) (key : Nat) : P (s.collEnd key) := by
  grind [State.collEnd, hP.copyDone, hP.disown, hP.pulse]

theorem collSettle (h : P s) (key : Nat) : P (s.collSettle key) := by
  unfold State.collSettle
  split
  · exact h
  · grind [hP.collEnd, hP.collOwn, hP.updCopy]

theorem collStop (h : P s) (key st : Nat) : P (s.collStop key st) := by
  unfold State.collStop
  split
  · exact h
  dsimp only
  split
  · exact h
  · refine hP.collSettle (MemKept.foldl (P := P) (fun s p hs => ?_) _ (hP.updCopy h _ _)) _
    grind [hP.collSettle, hP.collRecord]

/-! ### Grammar slots -/

theorem grammarDone (h : P s) (cl i : Nat) (c : GCmd) : P (s.grammarDone cl i c) :=
  hP.wakeEngine (hP.pulse (hP.cmdDown (hP.updCluster h _ _) _) _)

theorem grammarFail (h : P s) (p : Nat → Nat → Bool) : P (s.grammarFail p) := by
  grind [State.grammarFail, hP.gDone, hP.nextFree, hP.grammarDone, MemKept.foldl (P := P)]

/-! ### Every engine -/

theorem failEngines (h : P s) (p : Nat → Bool) : P (s.failEngines p) := by
  grind [State.failEngines, hP.copyStop, hP.collStop, hP.stopBinding, hP.grammarFail, MemKept.foldl (P := P)]

/-! ### The stop of crews -/

theorem stopCrew (h : P s) (cid cause detail : Nat) : P (s.stopCrew cid cause detail) := by
  unfold State.stopCrew
  split
  · exact h
  next c _ =>
    split
    · exact h
    · refine hP.endCrew ?_ _ _
      have noted := hP.noteStop h c.slate cause detail
      cases hw : (s.noteStop c.slate cause detail).writeStopList c cause 0 none 0 with
      | none => exact noted
      | some t => exact hP.writeStopList noted _ _ _ _ _ _ hw

theorem stopCrews (h : P s) (p : Crew → Bool) (cause detail : Nat) : P (s.stopCrews p cause detail) :=
  MemKept.foldl (P := P) (fun _ x hs => hP.stopCrew hs x.1 cause detail) _ h

end EngineKept

end Sys2Proof.Machine
end

section
/-! SUPPORT. The stop of crews (R31, R35, R144, R186): one stop leaves the others as they were, but for a mark that they are to leave, and what it
stops is gone, or ends as soon as its window is free. -/

namespace Sys2Proof.Machine

/-! ### Tables with rising keys -/

theorem Tbl.mem_of_find {α : Type} {t : Tbl α} {k : Nat} {v : α} (h : t.find k = some v) : (k, v) ∈ t := by
  induction t with
  | nil => cases h
  | cons x t ih =>
    obtain ⟨j, u⟩ := x
    unfold Tbl.find at h
    grind

theorem Tbl.Rising.mapV {α : Type} {t : Tbl α} (h : t.Rising) (f : Nat → α → α) : (t.mapV f).Rising :=
  List.pairwise_map.2 h

theorem Tbl.Rising.sublist {α : Type} {t u : Tbl α} (h : t.Rising) (hu : List.Sublist u t) : Tbl.Rising u := List.Pairwise.sublist hu h

theorem Tbl.del_sublist {α : Type} (t : Tbl α) (n : Nat) : List.Sublist (t.del n) t := by
  induction t with
  | nil => exact .slnil
  | cons x t ih =>
    obtain ⟨k, v⟩ := x
    unfold Tbl.del
    split
    · exact List.sublist_cons_self _ _
    · split
      · exact .refl _
      · exact ih.cons_cons _

theorem Tbl.Rising.del {α : Type} {t : Tbl α} (h : t.Rising) (n : Nat) : (t.del n).Rising := h.sublist (t.del_sublist n)

theorem Tbl.mem_set {α : Type} {t : Tbl α} {n : Nat} {v : α} {x : Nat × α} (h : x ∈ t.set n v) : x.1 = n ∨ x ∈ t := by
  induction t with
  | nil => simp_all [Tbl.set]
  | cons y t ih =>
    obtain ⟨k, u⟩ := y
    unfold Tbl.set at h
    grind

theorem Tbl.Rising.set {α : Type} {t : Tbl α} (h : t.Rising) (n : Nat) (v : α) : (t.set n v).Rising := by
  induction t with
  | nil => exact List.pairwise_singleton _ _
  | cons y t ih =>
    obtain ⟨k, u⟩ := y
    obtain ⟨above, ht⟩ := List.pairwise_cons.1 h
    unfold Tbl.set
    split
    next hk => exact List.pairwise_cons.2 ⟨hk ▸ above, ht⟩
    · split
      next hlt => exact List.pairwise_cons.2 ⟨fun x hx => by grind, h⟩
      next hk hlt =>
        refine List.pairwise_cons.2 ⟨fun x hx => ?_, ih ht⟩
        rcases Tbl.mem_set hx with hx | hx
        · simp only [hx]
          omega
        · exact above x hx

/-- Nothing is found below the keys that rise. -/
theorem Tbl.find_eq_none {α : Type} {t : Tbl α} {n : Nat} (h : ∀ x, x ∈ t → x.1 ≠ n) : t.find n = none := by
  cases hf : t.find n with
  | none => rfl
  | some v => exact absurd rfl (h _ (Tbl.mem_of_find hf))

theorem Tbl.Rising.find_del {α : Type} {t : Tbl α} (h : t.Rising) (n k : Nat) : (t.del n).find k = if k = n then none else t.find k := by
  induction t with
  | nil => simp [Tbl.del]
  | cons y t ih =>
    obtain ⟨j, u⟩ := y
    obtain ⟨above, ht⟩ := List.pairwise_cons.1 h
    have below (i : Nat) (hi : i ≤ j) : Tbl.find t i = none := Tbl.find_eq_none fun x hx => Nat.ne_of_gt (Nat.lt_of_le_of_lt hi (above x hx))
    have ih := ih ht
    unfold Tbl.del
    grind [Tbl.find]

/-! ### Crews that a stop leaves -/

/-- The crews of the second state are crews of the first, with the same core and kind, and those that were ending still end. -/
def State.Remain (s t : State) : Prop := t.crews.Rising ∧
  ∀ k c, t.crew k = some c → ∃ c0, s.crew k = some c0 ∧ c.core = c0.core ∧ c.kind = c0.kind ∧ (c0.ending ≠ none → c.ending ≠ none)

theorem State.Remain.refl {s : State} (h : s.crews.Rising) : s.Remain s := ⟨h, fun _ c hc => ⟨c, hc, rfl, rfl, id⟩⟩

theorem State.Remain.trans {s t u : State} (h : s.Remain t) (h' : t.Remain u) : s.Remain u := by
  refine ⟨h'.1, fun k c hc => ?_⟩
  obtain ⟨c1, hc1, core1, kind1, end1⟩ := h'.2 k c hc
  obtain ⟨c0, hc0, core0, kind0, end0⟩ := h.2 k c1 hc1
  exact ⟨c0, hc0, core1.trans core0, kind1.trans kind0, end1 ∘ end0⟩

theorem calmKept_crews (x : Tbl Crew) : CalmKept fun s => s.crews = x :=
  ⟨fun h _ hc _ => hc.trans h, fun _ h => h, fun _ _ h => h, fun _ _ h => h, fun _ _ h => h⟩

theorem State.Remain.of_crews {s t : State} (h : s.crews.Rising) (e : t.crews = s.crews) : s.Remain t :=
  ⟨e ▸ h, fun _ c hc => ⟨c, (congrArg (Tbl.find · _) e).symm.trans hc, rfl, rfl, id⟩⟩

theorem State.crews_regrant (s : State) : s.regrant.crews = s.crews := (calmKept_crews s.crews).regrant rfl

/-- A context's release of its cores marks control threads, and no more. -/
theorem State.crews_settleCores (s : State) (ctx : Nat) : ∃ f : Nat → Crew → Crew, (∀ k c, ∃ b, f k c = { c with spill2 := b }) ∧
    (s.settleCores ctx).crews = s.crews.mapV f := by
  have same : s.crews = s.crews.mapV fun _ c => c := by simp [Tbl.mapV]
  unfold State.settleCores
  dsimp only
  split
  · exact ⟨fun _ c => c, fun _ c => ⟨c.spill2, rfl⟩, same⟩
  · generalize hu : State.regrant _ = u
    have crews_u : u.crews = s.crews := by
      rw [← hu]
      exact State.crews_regrant _
    dsimp only
    rw [crews_u]
    refine ⟨_, fun k c => ?_, rfl⟩
    split
    · exact ⟨true, rfl⟩
    · exact ⟨c.spill2, rfl⟩

/-- The end of a crew leaves it ending, while its window is busy, or takes it away. -/
theorem State.crews_endCrew {s : State} {cid : Nat} {c : Crew} (hc : s.crew cid = some c) (cause : Nat) :
    (∃ d, d.core = c.core ∧ d.kind = c.kind ∧ d.ending ≠ none ∧ (s.endCrew cid cause).crews = s.crews.set cid d) ∨
    ∃ f : Nat → Crew → Crew, (∀ k c, ∃ b, f k c = { c with spill2 := b }) ∧ (s.endCrew cid cause).crews = (s.crews.del cid).mapV f := by
  have hC := calmKept_crews s.crews
  unfold State.endCrew
  rw [hc]
  dsimp only
  generalize hu : (if c.hold = [] then _ else _ : State) = u
  have crews_u : u.crews = s.crews := by
    rw [← hu]
    have released := hC.memKept.releaseAll (by rfl : s.crews = s.crews) c.core
    split <;> exact released
  split
  · rw [← crews_u]
    exact .inl ⟨{ c with warps := [], bins := [], hold := [], bars := [], ending := some (c.ending.getD cause) }, rfl, rfl, by simp, rfl⟩
  · right
    generalize hv : State.crewLeft _ _ = v
    have crews_v : v.crews = s.crews := by
      rw [← hv]
      refine hC.crewLeft (hC.crewEnded ?_ _ _ _) _
      split
      · exact hC.closeRowsNow (hC.memKept.updCore crews_u _ _) _
      · exact hC.memKept.updCore crews_u _ _
    obtain ⟨f, hf, settled⟩ := State.crews_settleCores { v with crews := v.crews.del cid } c.ctx
    refine ⟨f, hf, ?_⟩
    rw [← crews_v, ← settled]
    split
    · exact (calmKept_crews _).queueGroup rfl _ _
    · rfl

/-- One stop: the crews remain, and what stood under the number that is stopped, unless it is a crew of cue mode, ends. -/
theorem State.remain_endCrew {s : State} (hs : s.crews.Rising) (cid cause : Nat) : s.Remain (s.endCrew cid cause) ∧
    ∀ c, (s.endCrew cid cause).crew cid = some c → c.ending ≠ none := by
  cases hc : s.crew cid with
  | none =>
    have same : s.endCrew cid cause = s := by
      unfold State.endCrew
      rw [hc]
    rw [same, hc]
    exact ⟨.refl hs, fun _ h => nomatch h⟩
  | some c =>
    unfold State.Remain State.crew at *
    rcases State.crews_endCrew hc cause with ⟨d, core, kind, ending, e⟩ | ⟨f, hf, e⟩
    · rw [e]
      refine ⟨⟨hs.set _ _, fun k x hx => ?_⟩, fun x hx => ?_⟩
      · by_cases hk : k = cid
        · subst hk
          rw [Tbl.find_set_self] at hx
          cases hx
          exact ⟨c, hc, core, kind, fun _ => ending⟩
        · rw [Tbl.find_set_ne _ _ hk] at hx
          exact ⟨x, hx, rfl, rfl, id⟩
      · rw [Tbl.find_set_self] at hx
        cases hx
        exact ending
    · rw [e]
      have found (k : Nat) : Tbl.find ((s.crews.del cid).mapV f) k = if k = cid then none else (s.crews.find k).map (f k) := by
        rw [Tbl.find_mapV, hs.find_del]
        split <;> rfl
      simp only [found]
      refine ⟨⟨(hs.del _).mapV _, fun k x hx => ?_⟩, fun x hx => ?_⟩
      · split at hx
        · cases hx
        · obtain ⟨x0, hx0, rfl⟩ := Option.map_eq_some_iff.1 hx
          obtain ⟨b, hb⟩ := hf k x0
          exact ⟨x0, hx0, by rw [hb], by rw [hb], by rw [hb]; exact id⟩
      · simp at hx

theorem State.remain_stopCrew {s : State} (hs : s.crews.Rising) (cid cause detail : Nat) : s.Remain (s.stopCrew cid cause detail) ∧
    ∀ c, (s.stopCrew cid cause detail).crew cid = some c → c.kind ≠ .cue → c.ending ≠ none := by
  unfold State.stopCrew
  split
  next hc => exact ⟨.refl hs, fun c h => by rw [hc] at h; cases h⟩
  next c hc =>
    split
    next hend =>
      refine ⟨.refl hs, fun d hd hkind => ?_⟩
      obtain rfl : c = d := Option.some.inj (hc.symm.trans hd)
      simp only [Bool.or_eq_true, decide_eq_true_eq, hkind, false_or] at hend
      exact Option.isSome_iff_ne_none.1 hend
    · generalize hu : Option.getD _ _ = u
      have crews_u : u.crews = s.crews := by
        rw [← hu]
        have noted := (calmKept_crews s.crews).noteStop (by rfl : s.crews = s.crews) c.slate cause detail
        cases hw : (s.noteStop c.slate cause detail).writeStopList c cause 0 none 0 with
        | none => exact noted
        | some t => exact (calmKept_crews s.crews).writeStopList noted _ _ _ _ _ _ hw
      obtain ⟨remain, ended⟩ := State.remain_endCrew (crews_u ▸ hs) cid cause
      exact ⟨(State.Remain.of_crews hs crews_u).trans remain, fun c hc _ => ended c hc⟩

/-- Every crew that a test of its core names is stopped. -/
theorem State.remain_stopCrews {s : State} (hs : s.crews.Rising) {p : Crew → Bool} (hp : ∀ c d : Crew, c.core = d.core → p c = p d)
    (cause detail : Nat) : s.Remain (s.stopCrews p cause detail) ∧
    ∀ k c, (s.stopCrews p cause detail).crew k = some c → p c = true → c.kind ≠ .cue → c.ending ≠ none := by
  unfold State.stopCrews
  have turn {t : State} (ht : s.Remain t) (x : Nat × Crew) : s.Remain (t.stopCrew x.1 cause detail) :=
    ht.trans (State.remain_stopCrew ht.1 x.1 cause detail).1
  have remain := MemKept.foldl (P := s.Remain) (fun _ x ht => turn ht x) (s.crews.filter fun c => p c.2) (.refl hs)
  refine ⟨remain, fun k c hc hpc hkind => ?_⟩
  obtain ⟨c0, hc0, core, -, -⟩ := remain.2 k c hc
  have listed : (k, c0) ∈ s.crews.filter fun c => p c.2 := List.mem_filter.2 ⟨Tbl.mem_of_find hc0, (hp c c0 core) ▸ hpc⟩
  refine (foldl_at (I := fun t : State => t.crews.Rising)
    (J := fun t : State => t.crews.Rising ∧ ∀ c, t.crew k = some c → c.kind ≠ .cue → c.ending ≠ none)
    (f := fun t x => t.stopCrew x.1 cause detail) listed
    (fun t x _ ht => (State.remain_stopCrew ht x.1 cause detail).1.1) (fun t ht => ?_) (fun t x ht => ?_) hs).2 c hc hkind
  · have stopped := State.remain_stopCrew ht k cause detail
    exact ⟨stopped.1.1, stopped.2⟩
  · obtain ⟨⟨rising, from'⟩, -⟩ := State.remain_stopCrew ht.1 x.1 cause detail
    refine ⟨rising, fun d hd hk => ?_⟩
    obtain ⟨d0, hd0, -, kind, ending⟩ := from' k d hd
    exact ending (ht.2 d0 hd0 (kind ▸ hk))

end Sys2Proof.Machine
end

section
/-! SUPPORT. Trips, fences and active halves (R31, R32, R34, R35, R144). -/

namespace Sys2Proof.Machine

/-! ### What stays through a trip and a fence -/

theorem engineKept_tripped (n : Nat) : EngineKept fun s => s.power.tripped = true ∧ s.power.tripTick = n :=
  ⟨⟨fun h hp _ _ => hp ▸ h, fun _ h => h, fun _ _ h => h, fun _ _ h => h, fun _ _ h => h⟩, fun _ _ h => h, fun _ h => h, fun _ h => h⟩

theorem engineKept_rising : EngineKept fun s => s.crews.Rising :=
  ⟨⟨fun h _ hc _ => hc ▸ h, fun _ h => h, fun _ _ h => h, fun _ _ h => h, fun _ _ h => h⟩, fun _ _ h => h.set _ _, fun _ h => h.del _,
    fun _ h => h.mapV _⟩

theorem engineKept_now (n : Nat) : EngineKept fun s => n ≤ s.now :=
  ⟨⟨fun h _ _ ht => ht ▸ h, fun _ h => le_trans h (le_max_left _ _), fun _ _ h => h, fun _ _ h => h, fun _ _ h => h⟩, fun _ _ h => h, fun _ h => h,
    fun _ h => h⟩

theorem State.fenced_updPw {s : State} {cl : Nat} (h : (s.pw cl).fenced = true) (k : Nat) (f : ClusterPw → ClusterPw)
    (hf : (f (s.pw k)).fenced = (s.pw k).fenced) : ((s.updPw k f).pw cl).fenced = true := by
  rw [State.pw_updPw]
  split
  next hk => rw [hf, ← hk, h]
  · exact h

theorem engineKept_fenced (cl : Nat) : EngineKept fun s => (s.pw cl).fenced = true :=
  ⟨⟨fun {s t} h hp _ _ => by rw [State.pw, hp]; exact h, fun _ h => h, fun _ _ h => h, fun k _ h => State.fenced_updPw h k _ rfl,
    fun k _ h => State.fenced_updPw h k _ rfl⟩, fun _ _ h => h, fun _ h => h, fun _ h => h⟩

theorem postKept_clusters (x : Tbl ClusterSt) : PostKept fun s => s.clusters = x := ⟨fun _ _ h => h, fun _ _ h => h, fun _ h => h⟩

/-! ### What a post leaves alone -/

theorem State.crews_post (s : State) (f : Nat) (r : Rec) : (s.post f r).crews = s.crews :=
  (calmKept_crews s.crews).postKept.post (s := s) rfl f r

theorem State.power_post (s : State) (f : Nat) (r : Rec) : (s.post f r).power = s.power := by
  have hpower : PostKept fun t => t.power = s.power := ⟨fun _ _ h => h, fun _ _ h => h, fun _ h => h⟩
  exact hpower.post (s := s) rfl f r

theorem State.cluster_post (s : State) (f : Nat) (r : Rec) (k : Nat) : (s.post f r).cluster k = s.cluster k := by
  have kept : (s.post f r).clusters = s.clusters := (postKept_clusters s.clusters).post (s := s) rfl f r
  rw [State.cluster, kept, State.cluster]

theorem State.mx_post (s : State) (f : Nat) (r : Rec) (k : Nat) : (s.post f r).mx k = s.mx k := by
  rw [State.mx, State.cluster_post, State.mx]

theorem State.ctx_post (s : State) (f : Nat) (r : Rec) (k : Nat) : (s.post f r).ctx k = s.ctx k := by
  have hctxs : PostKept fun t => t.ctxs = s.ctxs := ⟨fun _ _ h => h, fun _ _ h => h, fun _ h => h⟩
  have kept : (s.post f r).ctxs = s.ctxs := hctxs.post (s := s) rfl f r
  rw [State.ctx, kept, State.ctx]

/-! ### Matrix queues of a stopped cluster -/

theorem State.clusters_updSlate (s : State) (k : Nat) (f : Slate → Slate) : (s.updSlate k f).clusters = s.clusters := by
  unfold State.updSlate
  split <;> rfl

theorem State.mx_failMatrix_self (s : State) (cl cause : Nat) : ((s.failMatrix cl cause).mx cl).queue = [] := by
  unfold State.failMatrix
  dsimp only
  split
  next h => exact (by simpa using h : _ ∧ _).1
  · rw [State.mx_updMx, if_pos rfl]

theorem State.mx_failMatrix_ne (s : State) {cl k : Nat} (h : k ≠ cl) (cause : Nat) : (s.failMatrix cl cause).mx k = s.mx k := by
  have noted (l : List MItem) (f : MItem → Slate → Slate) : (l.foldl (fun s q => s.updSlate q.slate (f q)) s).clusters = s.clusters :=
    MemKept.foldl (P := fun t => t.clusters = s.clusters) (fun t q ht => (t.clusters_updSlate _ _).trans ht) l rfl
  have kept (l : List MItem) (f : MItem → Slate → Slate) : (l.foldl (fun s q => s.updSlate q.slate (f q)) s).mx k = s.mx k :=
    congrArg (fun x => (Tbl.get {} x k).mx) (noted l f)
  unfold State.failMatrix
  dsimp only
  split
  · exact kept _ _
  · rw [State.mx_updMx, if_neg h]
    exact kept _ _

/-- A cluster whose matrix queue is emptied and whose stores are written home. -/
def State.matrixOff (cause : Nat) (s : State) (cl : Nat) : State := (s.failMatrix cl cause).writeBackCluster cl

theorem CalmKept.matrixOff {P : State → Prop} (hP : CalmKept P) {s : State} (h : P s) (cause cl : Nat) : P (s.matrixOff cause cl) :=
  hP.memKept.writeBackCluster (hP.failMatrix h _ _) _

theorem CalmKept.matrixOffs {P : State → Prop} (hP : CalmKept P) {s : State} (h : P s) (cause : Nat) (l : List Nat) :
    P (l.foldl (State.matrixOff cause) s) :=
  MemKept.foldl (P := P) (fun _ cl hs => hP.matrixOff hs cause cl) l h

theorem State.mx_matrixOff_self (s : State) (cause cl : Nat) : ((s.matrixOff cause cl).mx cl).queue = [] := by
  rw [State.matrixOff, State.mx, State.cluster_writeBackCluster]
  exact s.mx_failMatrix_self cl cause

theorem State.queue_matrixOff {s : State} {k : Nat} (h : (s.mx k).queue = []) (cause cl : Nat) : ((s.matrixOff cause cl).mx k).queue = [] := by
  by_cases hk : k = cl
  · subst hk
    exact s.mx_matrixOff_self cause k
  · rw [State.matrixOff, State.mx, State.cluster_writeBackCluster]
    exact (congrArg MatrixSt.queue (s.mx_failMatrix_ne hk cause)).trans h

/-! ### The thermal trip -/

/-- The machine after a trip, before its record. -/
def State.tripDown (s : State) (k : Nat) : State :=
  (List.range 32).foldl (State.matrixOff cTHERMAL)
    ((({ s with power := { s.power with tripped := true, tripTick := s.tick } } : State).failEngines fun _ => true).stopCrews (fun _ => true) cTHERMAL k)

theorem State.thermalTrip_up {s : State} (h : s.power.tripped = false) (k : Nat) :
    s.thermalTrip k = (s.tripDown k).post 0 { recThermalTrip with unit := unitOf 1 k } := by
  have up : ¬s.power.tripped = true := by simp [h]
  unfold State.thermalTrip
  rw [if_neg up]
  rfl

theorem State.tripDown_tripped (s : State) (k : Nat) : (s.tripDown k).power.tripped = true ∧ (s.tripDown k).power.tripTick = s.now / 5000 := by
  have hP := engineKept_tripped (s.now / 5000)
  unfold State.tripDown
  refine hP.matrixOffs (hP.stopCrews (hP.failEngines ?_ _) _ _ _) _ _
  exact ⟨rfl, rfl⟩

theorem State.tripDown_stopped {s : State} (hs : s.crews.Rising) (k : Nat) :
    ∀ j c, (s.tripDown k).crew j = some c → c.kind ≠ .cue → c.ending ≠ none := by
  intro j c hc hkind
  rw [State.crew, State.tripDown, (calmKept_crews _).matrixOffs rfl] at hc
  refine (State.remain_stopCrews ?_ (fun _ _ _ => rfl) _ _).2 j c hc rfl hkind
  refine engineKept_rising.failEngines ?_ _
  exact hs

theorem State.tripDown_queue (s : State) (k j : Nat) (hj : j < 32) : ((s.tripDown k).mx j).queue = [] :=
  foldl_at (I := fun _ => True) (J := fun t => (State.mx t j).queue = []) (List.mem_range.2 hj) (fun _ _ _ h => h)
    (fun t _ => t.mx_matrixOff_self _ _) (fun _ cl h => State.queue_matrixOff h _ cl) trivial

/-! ### The end of a trip -/

theorem State.thermalClear_refused {s : State} (h : s.power.tripped = false ∨ ∃ k, k < 16 ∧ (s.stack k).band ≠ 0) : s.thermalClear = s := by
  have refused : (!s.power.tripped || (List.range 16).any fun k => (s.stack k).band != 0) = true := by simpa using h
  unfold State.thermalClear
  rw [if_pos refused]

/-- A cluster comes up as from W2. -/
def State.comeUp (s : State) (cl : Nat) : State := (s.dark cl).updPw cl fun p => { p with w := 0, hold := false, latched := false }

/-- What is so of a cluster that has come up. -/
structure State.Up (s : State) (cl : Nat) : Prop where
  w : (s.pw cl).w = 0
  mx : s.mx cl = {}
  mbx : (s.cluster cl).mbx = []
  arv : (s.cluster cl).arv = []

/-- Only the tables of the clusters and of their power say whether one is up. -/
theorem State.Up.congr {s t : State} {cl : Nat} (h : s.Up cl) (hp : t.power.clusters = s.power.clusters) (hc : t.clusters = s.clusters) : t.Up cl := by
  obtain ⟨w, mx, mbx, arv⟩ := h
  rw [State.mx] at mx
  rw [State.pw, ← hp] at w
  rw [State.cluster, ← hc] at mx mbx arv
  exact ⟨w, mx, mbx, arv⟩

theorem State.up_comeUp (s : State) (cl : Nat) : (s.comeUp cl).Up cl := by
  have dark : (s.comeUp cl).cluster cl = _ := (State.cluster_updPw _ _ _ _).trans (s.cluster_dark_self cl)
  refine ⟨?_, ?_, ?_, ?_⟩
  · rw [State.comeUp, State.pw_updPw_self]
  · rw [State.mx, dark]
  · rw [dark]
  · rw [dark]

theorem State.Up.comeUp {s : State} {cl : Nat} (h : s.Up cl) (k : Nat) : (s.comeUp k).Up cl := by
  by_cases hk : cl = k
  · subst hk
    exact s.up_comeUp cl
  · have same : (s.comeUp k).cluster cl = s.cluster cl := (State.cluster_updPw _ _ _ _).trans (s.cluster_dark_ne hk)
    have pw : (s.comeUp k).pw cl = s.pw cl := (State.pw_updPw_ne _ _ hk).trans (s.pw_dark k cl)
    exact ⟨by rw [pw]; exact h.w, by rw [State.mx, same]; exact h.mx, by rw [same]; exact h.mbx, by rw [same]; exact h.arv⟩

/-- The time at which every stack has been in band 0 for 10 ms, and every engine idle. -/
def State.cooled (s : State) : State :=
  let s := s.untilTick ((List.range 16).foldl (fun m k => max m ((s.stack k).bandTick + 2000000)) 0)
  (s.bindings.foldl (fun s x => s.stopBinding x.1 true) s).grammarFail fun _ _ => true

theorem State.le_now_cooled (s : State) {k : Nat} (hk : k < 16) : 5000 * ((s.stack k).bandTick + 2000000) ≤ s.cooled.now := by
  have hN := engineKept_now (5000 * ((s.stack k).bandTick + 2000000))
  refine hN.grammarFail (MemKept.foldl (P := fun t => _ ≤ t.now) (fun _ x ht => hN.stopBinding ht x.1 true) _ ?_) _
  exact le_trans (Nat.mul_le_mul_left 5000 (le_foldl_max (fun k => (s.stack k).bandTick + 2000000) (List.mem_range.2 hk) 0)) (le_max_right _ _)

/-- Every cluster of a cooled machine comes up, with its grammar slots unbound. -/
def State.powerUp (s : State) : State :=
  let u := (List.range 32).foldl State.comeUp { s with gslots := [] }
  { u with power := { u.power with tripped := false, w3 := false, selfRefresh := false, linkIdle := false, inrush := [], inrushAt := [] } }

theorem State.thermalClear_allowed {s : State} (h : s.power.tripped = true) (cool : ∀ k, k < 16 → (s.stack k).band = 0) :
    ∃ d, s.thermalClear = s.cooled.powerUp.post 0 { recThermalClear with d0 := d } := by
  have allowed : ¬(!s.power.tripped || (List.range 16).any fun k => (s.stack k).band != 0) = true := by simpa [h] using cool
  unfold State.thermalClear
  rw [if_neg allowed]
  exact ⟨_, rfl⟩

theorem State.up_powerUp (s : State) {k : Nat} (hk : k < 32) : s.powerUp.Up k := by
  have up : ((List.range 32).foldl State.comeUp { s with gslots := [] }).Up k :=
    foldl_at (I := fun _ => True) (J := fun t => State.Up t k) (List.mem_range.2 hk) (fun _ _ _ h => h) (fun t _ => t.up_comeUp k)
      (fun _ cl h => h.comeUp cl) trivial
  unfold State.powerUp
  generalize (List.range 32).foldl State.comeUp { s with gslots := [] } = u at up ⊢
  exact up.congr rfl rfl

theorem State.gslots_dark (s : State) (cl : Nat) : (s.dark cl).gslots = s.gslots := rfl

theorem State.gslots_comeUps (s : State) (l : List Nat) : (l.foldl State.comeUp s).gslots = s.gslots := by
  induction l generalizing s with
  | nil => rfl
  | cons cl l ih =>
    rw [List.foldl_cons, ih]
    exact s.gslots_dark cl

theorem State.now_comeUps (s : State) (l : List Nat) : (l.foldl State.comeUp s).now = s.now := by
  induction l generalizing s with
  | nil => rfl
  | cons cl l ih =>
    rw [List.foldl_cons, ih]
    exact s.now_dark cl

theorem State.gslots_powerUp (s : State) : s.powerUp.gslots = [] := by
  unfold State.powerUp
  dsimp only
  rw [State.gslots_comeUps]

theorem State.now_powerUp (s : State) : s.powerUp.now = s.now := by
  unfold State.powerUp
  dsimp only
  rw [State.now_comeUps]

/-- What powering up leaves of the package's own power states. -/
theorem State.power_powerUp (s : State) : ∃ p : PowerSt,
    s.powerUp.power = { p with tripped := false, w3 := false, selfRefresh := false, linkIdle := false, inrush := [], inrushAt := [] } := ⟨_, rfl⟩

/-- What a post of records leaves of a machine that a trip has ended in. -/
theorem postKept_up (k : Nat) : PostKept fun s => s.Up k :=
  ⟨fun _ _ h => h.congr rfl rfl, fun _ _ h => h.congr rfl rfl, fun _ h => h.congr rfl rfl⟩

theorem thermalClear_spec {s : State} (h : s.power.tripped = true) (cool : ∀ k, k < 16 → (s.stack k).band = 0) : ∃ t,
    exec .thermalClear s = .next t ∧ t.power.tripped = false ∧ t.power.w3 = false ∧ t.power.selfRefresh = false ∧ t.power.linkIdle = false ∧
      t.gslots = [] ∧ (∀ k, k < 32 → (t.pw k).w = 0 ∧ (t.mx k) = {} ∧ (t.cluster k).mbx = [] ∧ (t.cluster k).arv = []) ∧
      ∀ k, k < 16 → 5000 * ((s.stack k).bandTick + 2000000) ≤ t.now := by
  obtain ⟨d, e⟩ := State.thermalClear_allowed h cool
  obtain ⟨p, power⟩ := s.cooled.power_powerUp
  have hslots : PostKept fun t => t.gslots = [] := ⟨fun _ _ h => h, fun _ _ h => h, fun _ h => h⟩
  have hnow : PostKept fun t => t.now = s.cooled.now := ⟨fun _ _ h => h, fun _ _ h => h, fun _ h => h⟩
  refine ⟨_, congrArg Host.Outcome.next e, ?_⟩
  rw [State.power_post, power]
  refine ⟨rfl, rfl, rfl, rfl, hslots.post s.cooled.gslots_powerUp _ _, fun k hk => ?_, fun k hk => ?_⟩
  · obtain ⟨w, mx, mbx, arv⟩ := (postKept_up k).post (s.cooled.up_powerUp hk) 0 { recThermalClear with d0 := d }
    exact ⟨w, mx, mbx, arv⟩
  · rw [hnow.post s.cooled.now_powerUp]
    exact s.le_now_cooled hk

end Sys2Proof.Machine
end

section
/-! SUPPORT. Fences and active halves (R34, R35, R144), and the obligation about trips and fences (O25). -/

namespace Sys2Proof.Machine

/-! ### A fenced cluster -/

/-- The cores of a fenced cluster leave their contexts, and no context owns its control core. -/
def State.coresTaken (s : State) (cl : Nat) : State :=
  let s : State := { s with ctxs := s.ctxs.mapV fun _ c =>
    { c with cores := c.cores.filter fun k => k / 10 != cl, leaving := c.leaving.filter fun x => x.1 / 10 != cl } }
  (s.updCluster cl fun c => { c with owner := none }).regrant

/-- A cluster that is marked fenced, with the pools of every function noted, its engines' work failed and its crews stopped. -/
def State.fenceStop (s : State) (cl : Nat) : State :=
  let s := s.ctxs.foldl (fun s c => s.keepPools c.2.func) (s.keepPools 0)
  ((s.updPw cl fun p => { p with fenced := true }).failEngines fun k => k == cl).stopCrews (fun c => clusterOf c.core == cl) cFENCED cl

/-- The machine after a fence, before its record. -/
def State.fenceDown (s : State) (cl : Nat) : State := ((s.fenceStop cl).matrixOff cFENCED cl).coresTaken cl

theorem State.fence_sag {s : State} {cl sag : Nat} (h : (s.pw cl).fenced = false) (hsag : 35 < sag) :
    s.fence cl sag = (s.fenceDown cl).post 0 { recClusterFenced with unit := unitOf 0 cl, d0 := sag } := by
  have fences : ¬((s.pw cl).fenced || decide (sag ≤ 35)) = true := by simp [h, hsag]
  unfold State.fence
  rw [if_neg fences]
  rfl

theorem State.fence_refused {s : State} {cl sag : Nat} (h : (s.pw cl).fenced = true ∨ sag ≤ 35) : s.fence cl sag = s := by
  unfold State.fence
  rw [if_pos (by simpa using h)]

theorem State.clusters_regrant (s : State) : s.regrant.clusters = s.clusters := by
  unfold State.regrant
  refine MemKept.foldl (P := fun t => t.clusters = s.clusters) (fun t cl ht => ?_) _ rfl
  dsimp only
  split <;> exact ht

theorem State.ctxs_regrant (s : State) : s.regrant.ctxs = s.ctxs := by
  unfold State.regrant
  refine MemKept.foldl (P := fun t => t.ctxs = s.ctxs) (fun t cl ht => ?_) _ rfl
  dsimp only
  split <;> exact ht

theorem Tbl.get_mapV {α : Type} {Q : α → Prop} {d : α} (hd : Q d) {f : Nat → α → α} (hf : ∀ k v, Q (f k v)) (t : Tbl α) (n : Nat) :
    Q ((t.mapV f).get d n) := by
  induction t with
  | nil => exact hd
  | cons x t ih =>
    obtain ⟨k, v⟩ := x
    have hm : Tbl.mapV f ((k, v) :: t) = (k, f k v) :: Tbl.mapV f t := rfl
    rw [hm, Tbl.get]
    split
    · exact hf _ _
    · split
      · exact hd
      · exact ih

theorem CalmKept.coresTaken {P : State → Prop} (hP : CalmKept P) {s : State} (h : P s) (cl : Nat) : P (s.coresTaken cl) := by
  unfold State.coresTaken
  exact hP.regrant (hP.rest h rfl rfl rfl)

theorem State.cluster_regrant (s : State) (k : Nat) : s.regrant.cluster k = s.cluster k := by
  rw [State.cluster, State.clusters_regrant, State.cluster]

theorem State.cluster_coresTaken (s : State) (cl : Nat) : (s.coresTaken cl).cluster cl = { s.cluster cl with owner := none } := by
  unfold State.coresTaken
  dsimp only
  rw [State.cluster_regrant, State.cluster_updCluster_self]
  rfl

theorem State.mx_coresTaken (s : State) (cl : Nat) : (s.coresTaken cl).mx cl = s.mx cl := by
  rw [State.mx, State.cluster_coresTaken, State.mx]

theorem State.cores_coresTaken (s : State) (cl k : Nat) : ∀ j, j ∈ ((s.coresTaken cl).ctx k).cores → j / 10 ≠ cl := by
  unfold State.coresTaken
  rw [State.ctx, State.ctxs_regrant]
  simp only [State.updCluster, State.setCluster]
  refine Tbl.get_mapV (Q := fun c : Ctx => ∀ j, j ∈ c.cores → j / 10 ≠ cl) (d := {}) (fun _ hj => ?_) (fun _ c j hj => ?_) _ _
  · cases hj
  · simpa using (List.mem_filter.1 hj).2

theorem EngineKept.fenceStop {P : State → Prop} (hP : EngineKept P) {s : State} {cl : Nat}
    (h : ∀ u : State, u.crews = s.crews → P (u.updPw cl fun p => { p with fenced := true })) : P (s.fenceStop cl) := by
  unfold State.fenceStop
  refine hP.stopCrews (hP.failEngines (h _ ?_) _) _ _ _
  have hC := calmKept_crews s.crews
  exact MemKept.foldl (P := fun t => t.crews = s.crews) (fun _ c ht => hC.keepPools ht c.2.func) _ (hC.keepPools rfl 0)

theorem State.crews_coresTaken (s : State) (cause cl : Nat) : ((s.matrixOff cause cl).coresTaken cl).crews = s.crews := by
  have hC := calmKept_crews s.crews
  exact hC.coresTaken (hC.matrixOff (s := s) rfl _ _) _

theorem State.fenceDown_stopped {s : State} (hs : s.crews.Rising) (cl : Nat) :
    ∀ k c, (s.fenceDown cl).crew k = some c → clusterOf c.core = cl → c.kind ≠ .cue → c.ending ≠ none := by
  intro k c hc hcl hkind
  rw [State.crew, State.fenceDown, State.crews_coresTaken] at hc
  unfold State.fenceStop at hc
  refine (State.remain_stopCrews ?_ (fun a b hab => by rw [hab]) _ _).2 k c hc (by simpa using hcl) hkind
  refine engineKept_rising.failEngines ?_ _
  exact MemKept.foldl (P := fun t => t.crews.Rising) (fun _ c ht => engineKept_rising.keepPools ht c.2.func) _ (engineKept_rising.keepPools hs 0)

theorem State.fenceDown_fenced (s : State) (cl : Nat) : ((s.fenceDown cl).pw cl).fenced = true := by
  have hF := engineKept_fenced cl
  unfold State.fenceDown State.fenceStop
  refine hF.coresTaken (hF.matrixOff (hF.stopCrews (hF.failEngines ?_ _) _ _ _) _ _) _
  rw [State.pw_updPw_self]

theorem State.cluster_fenceDown (s : State) (cl : Nat) : ((s.fenceDown cl).mx cl).queue = [] ∧ ((s.fenceDown cl).cluster cl).owner = none := by
  unfold State.fenceDown
  rw [State.mx_coresTaken, State.cluster_coresTaken]
  exact ⟨State.mx_matrixOff_self _ _ _, rfl⟩

theorem clusterFenced_spec {s : State} (hs : s.crews.Rising) (h : (s.pw s.inp.unit).fenced = false) (hsag : 35 < s.inp.val) : ∃ t u : State,
    exec .clusterFenced s = .next t ∧ (t.pw s.inp.unit).fenced = true ∧
      (∀ k c, t.crew k = some c → clusterOf c.core = s.inp.unit → c.kind ≠ .cue → c.ending ≠ none) ∧ (t.mx s.inp.unit).queue = [] ∧
      (t.cluster s.inp.unit).owner = none ∧ (∀ k j, j ∈ (t.ctx k).cores → j / 10 ≠ s.inp.unit) ∧
      t = u.post 0 { recClusterFenced with unit := s.inp.unit % 4096, d0 := s.inp.val } := by
  have fenced : execClusterFenced s = .next _ := congrArg Host.Outcome.next (State.fence_sag h hsag)
  have unit : unitOf 0 s.inp.unit = s.inp.unit % 4096 := Nat.zero_add _
  rw [unit] at fenced
  generalize s.inp.unit = cl at *
  obtain ⟨queue, owner⟩ := s.cluster_fenceDown cl
  refine ⟨_, s.fenceDown cl, fenced, (engineKept_fenced cl).postKept.post (s.fenceDown_fenced cl) _ _, fun k c hc => ?_, ?_, ?_, fun k => ?_, rfl⟩
  · rw [State.crew, State.crews_post] at hc
    exact State.fenceDown_stopped hs cl k c hc
  · rw [State.mx_post]
    exact queue
  · rw [State.cluster_post]
    exact owner
  · rw [State.ctx_post]
    exact State.cores_coresTaken _ cl k

/-! ### The thermal trip and its end -/

theorem thermalTrip_spec {s : State} (hs : s.crews.Rising) (h : s.power.tripped = false) : ∃ t u : State,
    exec .thermalTrip s = .next t ∧ t.power.tripped = true ∧ t.power.tripTick = s.now / 5000 ∧
      (∀ k c, t.crew k = some c → True → c.kind ≠ .cue → c.ending ≠ none) ∧ (∀ k, k < 32 → (t.mx k).queue = []) ∧
      t = u.post 0 { recThermalTrip with unit := 4096 + s.inp.unit % 4096 } := by
  have tripped : execThermalTrip s = .next _ := congrArg Host.Outcome.next (State.thermalTrip_up h s.inp.unit)
  have unit : unitOf 1 s.inp.unit = 4096 + s.inp.unit % 4096 := rfl
  rw [unit] at tripped
  obtain ⟨marked, tick⟩ := s.tripDown_tripped s.inp.unit
  refine ⟨_, s.tripDown s.inp.unit, tripped, ?_, ?_, fun k c hc _ => ?_, fun k hk => ?_, rfl⟩
  · rw [State.power_post]
    exact marked
  · rw [State.power_post]
    exact tick
  · rw [State.crew, State.crews_post] at hc
    exact State.tripDown_stopped hs s.inp.unit k c hc
  · rw [State.mx_post]
    exact s.tripDown_queue s.inp.unit k hk

/-! ### Active halves -/

theorem halfSwitch_spec (s : State) :
    let cl := s.inp.unit
    let n := min 2 s.inp.sub
    let at' := max s.now ((s.pw cl).since.get 0 n + 10000000000)
    let busy := n < 2 ∧ ∃ q, q ∈ (s.mx cl).queue ∧ q.onArray n = true
    (s.inp.val < 4 ∨ busy → exec .halfSwitch s = .next s) ∧
    (4 ≤ s.inp.val → ¬busy →
      exec .halfSwitch s = .next (({ s with now := at' } : State).updPw cl fun p => { p with
        since := p.since.set n at', half0 := p.half0 != (n == 0), half1 := p.half1 != (n == 1), cbank := p.cbank != (n == 2) })) := by
  dsimp only
  have hn : min 2 s.inp.sub ≤ 2 := min_le_left _ _
  rw [exec_eq_halfSwitch]
  unfold execHalfSwitch
  dsimp only
  generalize min 2 s.inp.sub = n at hn ⊢
  refine ⟨fun h => ?_, fun hv h => ?_⟩
  · rw [if_pos (by simpa using h)]
  · rw [if_neg (by simpa [hv] using h)]
    have cases_n : n = 0 ∨ n = 1 ∨ n = 2 := by omega
    rcases cases_n with rfl | rfl | rfl <;> simp [State.updPw, State.until]

/-- Settles O25. What fails the engines' work and stops the crews keeps the marks of the trip and of the fence (`EngineKept`), and of the crews only
those that end (`State.Remain`). -/
theorem tripsAndFences : Obligations.TripsAndFences := by
  intro s hs
  obtain ⟨idle, switches⟩ := halfSwitch_spec s
  refine ⟨fun h => ?_, thermalTrip_spec hs, fun h => ?_, thermalClear_spec, fun h => ?_, clusterFenced_spec hs, idle, switches⟩
  · simp [execThermalTrip, State.thermalTrip, h]
  · exact congrArg Host.Outcome.next (State.thermalClear_refused h)
  · exact congrArg Host.Outcome.next (State.fence_refused h)

end Sys2Proof.Machine
end

section
/-! SUPPORT. Gang links and scale-out lanes (R42, R45-R48): what one link reads after an update of another, and what a port's loop does to each of its
lanes. -/

namespace Sys2Proof.Machine

/-! ### One link -/

theorem State.link_updLink (s : State) (k j : Nat) (f : Link → Link) : (s.updLink k f).link j = if j = k then f (s.link k) else s.link j := by
  by_cases h : j = k
  · rw [if_pos h, h]
    exact Tbl.get_set_self _ _ _ _
  · rw [if_neg h]
    exact Tbl.get_set_ne _ _ _ h

theorem State.updLink_congr {s : State} {k : Nat} {f g : Link → Link} (h : f (s.link k) = g (s.link k)) : s.updLink k f = s.updLink k g := by
  unfold State.updLink
  rw [h]

theorem postKept_links (l : Tbl Link) : PostKept fun s => s.fabric.links = l := ⟨fun _ _ h => h, fun _ _ h => h, fun _ h => h⟩

theorem postKept_now (n : Nat) : PostKept fun s => s.now = n := ⟨fun _ _ h => h, fun _ _ h => h, fun _ h => h⟩

@[simp] theorem State.now_updLink (s : State) (k : Nat) (f : Link → Link) : (s.updLink k f).now = s.now := rfl

@[simp] theorem State.now_linkChanged (s : State) (k : Nat) : (s.linkChanged k).now = s.now := (postKept_now s.now).post (s := s) rfl _ _

@[simp] theorem State.link_linkChanged (s : State) (k j : Nat) : (s.linkChanged k).link j = s.link j := by
  have kept : (s.linkChanged k).fabric.links = s.fabric.links := (postKept_links s.fabric.links).post (s := s) rfl _ _
  rw [State.link, kept, State.link]

theorem State.linkChanged_eq (s : State) (k : Nat) : s.linkChanged k = s.post 0 { recLinkState with
    unit := if 64 ≤ k then 4096 * 3 + (k - 64) % 4096 else 4096 * 2 + k % 4096, d1 := (s.link k).status } := by
  simp [State.linkChanged, isLane, unitOf]

theorem linkExists_iff (k : Nat) : linkExists k = true ↔ k < 36 ∨ (64 ≤ k ∧ k < 80) := by
  simp [linkExists]

/-- Lanes that a link may have (R42, R45). -/
def mostLanes (k : Nat) : Nat := if k < 64 then 2 else 1

theorem ite_isLane (k : Nat) : (if isLane k = true then 1 else 2) = mostLanes k := by
  by_cases h : 64 ≤ k <;> simp [isLane, mostLanes, h]

/-- A link on which something arrives: it stays up, or it comes up with lanes and peer. -/
def Link.heard (l : Link) (now most lanes peer : Nat) : Link :=
  if l.up then { l with lastRx := now } else { l with up := true, lanes := max 1 (min (most - l.failed) lanes), peer := peer % 256, lastRx := now }

theorem State.linkHeard_fenced {s : State} {k : Nat} (h : (s.link k).fenced = true) (lanes peer : Nat) : s.linkHeard k lanes peer = s := by
  simp [State.linkHeard, h]

theorem State.linkHeard_up {s : State} {k : Nat} (h : (s.link k).fenced = false) (up : (s.link k).up = true) (lanes peer : Nat) :
    s.linkHeard k lanes peer = s.updLink k fun l => l.heard s.now (mostLanes k) lanes peer := by
  simp only [State.linkHeard, h, up, if_true, Bool.false_eq_true, if_false]
  exact State.updLink_congr (by simp [Link.heard, up])

theorem State.linkHeard_down {s : State} {k : Nat} (h : (s.link k).fenced = false) (down : (s.link k).up = false) (lanes peer : Nat) :
    s.linkHeard k lanes peer = (s.updLink k fun l => l.heard s.now (mostLanes k) lanes peer).linkChanged k := by
  simp only [State.linkHeard, h, down, Bool.false_eq_true, if_false, ite_isLane]
  exact congrArg (State.linkChanged · k) (State.updLink_congr (by simp [Link.heard, down, clampN]))

theorem State.now_linkHeard (s : State) (k lanes peer : Nat) : (s.linkHeard k lanes peer).now = s.now := by
  cases fenced : (s.link k).fenced
  · cases up : (s.link k).up
    · simp [State.linkHeard_down fenced up]
    · simp [State.linkHeard_up fenced up]
  · rw [State.linkHeard_fenced fenced]

theorem State.link_linkHeard {s : State} {k : Nat} (h : (s.link k).fenced = false) (lanes peer j : Nat) : (s.linkHeard k lanes peer).link j =
    if j = k then (s.link k).heard s.now (mostLanes k) lanes peer else s.link j := by
  cases up : (s.link k).up
  · rw [State.linkHeard_down h up, State.link_linkChanged, State.link_updLink]
  · rw [State.linkHeard_up h up, State.link_updLink]

/-! ### A port -/

theorem State.portSize_eq (s : State) : s.portSize = if s.fabric.ports = 1 then 2 else if s.fabric.ports = 2 then 4 else 1 := by
  unfold State.portSize
  split <;> simp_all

theorem State.portSize_pos (s : State) : 0 < s.portSize := by
  rw [State.portSize_eq]
  split <;> [omega; split <;> omega]

theorem State.mem_portOf (s : State) (k j : Nat) : j ∈ s.portOf k ↔
    if k < 64 then j = k else 64 ≤ j ∧ (j - 64) / s.portSize = (k - 64) / s.portSize ∧ (s.link j).fenced = false := by
  by_cases h : k < 64
  · simp [State.portOf, isLane, h]
  · have pos := s.portSize_pos
    simp only [State.portOf, isLane, h, if_false, List.mem_filter, List.mem_map, List.mem_range, laneKey, Nat.not_lt.1 h, decide_true,
      Bool.not_true, Bool.false_eq_true, Bool.not_eq_true', ← and_assoc]
    refine and_congr_left fun _ => ⟨?_, fun ⟨hj, hq⟩ => ?_⟩
    · rintro ⟨i, hi, rfl⟩
      refine ⟨by omega, ?_⟩
      rw [Nat.add_sub_cancel_left, Nat.mul_comm, Nat.mul_add_div pos, Nat.div_eq_of_lt hi, Nat.add_zero]
    · refine ⟨(j - 64) % s.portSize, Nat.mod_lt _ pos, ?_⟩
      rw [← hq, Nat.mul_comm, Nat.div_add_mod]
      omega

theorem State.nodup_portOf (s : State) (k : Nat) : (s.portOf k).Nodup := by
  unfold State.portOf
  split
  · exact List.nodup_singleton k
  · exact (List.nodup_range.map fun i j h => by simpa [laneKey] using h).filter _

/-- The port of a gang link, or of a lane that is a port of its own. -/
theorem State.portOf_alone {s : State} {k : Nat} (h : k < 64 ∨ s.portSize = 1) (hf : (s.link k).fenced = false) : s.portOf k = [k] := by
  by_cases hk : k < 64
  · simp [State.portOf, isLane, hk]
  · have whole : 64 + (k - 64) = k := by omega
    simp [State.portOf, isLane, laneKey, Nat.not_lt.1 hk, h.resolve_left hk, whole, hf]

theorem State.portOf_fenced {s : State} {k : Nat} (hk : 64 ≤ k) (h : s.portSize = 1) (hf : (s.link k).fenced = true) : s.portOf k = [] := by
  have whole : 64 + (k - 64) = k := by omega
  simp [State.portOf, isLane, laneKey, hk, h, whole, hf]

/-- A loop over links each turn of which changes its own link alone. -/
theorem State.link_foldl {I : State → Prop} {f : State → Nat → State} {g : Nat → Link → Link} (keep : ∀ s j, I s → I (f s j))
    {l : List Nat} (hl : l.Nodup) {s : State} (hs : I s)
    (turn : ∀ u j, j ∈ l → I u → u.link j = s.link j → ∀ k, (f u j).link k = if k = j then g j (u.link j) else u.link k) (k : Nat) :
    (l.foldl f s).link k = if k ∈ l then g k (s.link k) else s.link k := by
  induction l generalizing s with
  | nil => rfl
  | cons j l ih =>
    obtain ⟨hj, hl⟩ := List.nodup_cons.1 hl
    have first := turn s j List.mem_cons_self hs rfl
    have other {i : Nat} (hi : i ∈ l) : (f s j).link i = s.link i := by
      rw [first, if_neg (ne_of_mem_of_not_mem hi hj)]
    rw [List.foldl_cons, ih hl (keep s j hs) fun u i hi hu e => turn u i (List.mem_cons_of_mem _ hi) hu (e.trans (other hi))]
    by_cases hk : k ∈ l
    · rw [if_pos hk, if_pos (List.mem_cons_of_mem _ hk), other hk]
    · rw [if_neg hk, first]
      simp only [List.mem_cons, hk, or_false]
      split <;> simp_all

theorem State.link_portHeard (s : State) (k lanes peer j : Nat) (hk : 64 ≤ k) : (s.portHeard k lanes peer).link j =
    if j ∈ s.portOf k then (s.link j).heard s.now 1 lanes peer else s.link j := by
  refine State.link_foldl (I := fun u => u.now = s.now) (g := fun _ l => l.heard s.now 1 lanes peer)
    (fun u i hu => (u.now_linkHeard _ _ _).trans hu) (s.nodup_portOf k) rfl (fun u i hi hu e m => ?_) j
  rw [s.mem_portOf, if_neg (by omega)] at hi
  obtain ⟨lane, -, open'⟩ := hi
  rw [State.link_linkHeard (by rw [e, open']), hu, mostLanes, if_neg (by omega : ¬i < 64)]

/-! ### The steps of links and lanes -/

theorem execGangFlitReceive_bad {s : State} (hk : s.inp.unit < 36) (h : s.inp.flag = true) :
    execGangFlitReceive s = .next (s.updLink s.inp.unit fun l => { l with retry := min 0xFFFF (l.retry + 1) }) := by
  simp [execGangFlitReceive, hk, h]

theorem execGangFlitReceive_good {s : State} (hk : s.inp.unit < 36) (h : s.inp.flag = false) :
    execGangFlitReceive s = .next (s.linkHeard s.inp.unit s.inp.val s.inp.aux) := by
  simp [execGangFlitReceive, hk, h]

theorem execEthFrameReceive_ours {s : State} (hk : s.inp.unit < 16) (h : s.inp.val = s.fabric.etype) :
    execEthFrameReceive s = .next (s.portHeard (64 + s.inp.unit) 1 s.inp.aux) := by
  simp [execEthFrameReceive, hk, h, laneKey]

/-- A port of one lane hears what its lane hears. -/
theorem State.portHeard_single {s : State} {k : Nat} (hk : 64 ≤ k) (h : s.portSize = 1) (lanes peer : Nat) :
    s.portHeard k lanes peer = s.linkHeard k lanes peer := by
  unfold State.portHeard
  cases hf : (s.link k).fenced
  · rw [State.portOf_alone (.inr h) hf]
    rfl
  · rw [State.portOf_fenced hk h hf, State.linkHeard_fenced hf]
    rfl

/-- A loop over a port that changes nothing but the links. -/
theorem State.foldl_updLink (f : Link → Link) (l : List Nat) (s : State) : ∃ links,
    l.foldl (fun s j => s.updLink j f) s = { s with fabric := { s.fabric with links := links } } :=
  MemKept.foldl (P := fun t => ∃ links, t = { s with fabric := { s.fabric with links := links } })
    (fun _ _ ⟨_, h⟩ => by subst h; exact ⟨_, rfl⟩) l ⟨s.fabric.links, rfl⟩

theorem State.portOf_until (s : State) (t k : Nat) : (s.until t).portOf k = s.portOf k := rfl

/-- A link that has been silent for too long goes down. -/
def State.linkSilent (s : State) (j : Nat) : State := (s.updLink j fun l => { l with up := false }).linkChanged j

theorem execHeartbeatSend_real {s : State} (hk : linkExists s.inp.unit = true) (h : (s.link s.inp.unit).fenced = false) :
    let u := s.until ((s.link s.inp.unit).lastTx + 100000000)
    execHeartbeatSend s = .next ((s.portOf s.inp.unit).foldl (fun s j => s.updLink j fun l => { l with lastTx := u.now }) u) := by
  simp [execHeartbeatSend, hk, h, State.portOf_until]

theorem execLinkDown_up {s : State} (hk : linkExists s.inp.unit = true) (h : (s.link s.inp.unit).up = true) :
    let u := s.until ((s.link s.inp.unit).lastRx + 300000000)
    execLinkDown s = .next (((s.portOf s.inp.unit).filter fun j => (s.link j).up).foldl State.linkSilent u) := by
  simp only [execLinkDown, hk, h, Bool.not_true, Bool.or_false, Bool.false_eq_true, if_false]
  rfl

theorem State.now_linkSilent (s : State) (j : Nat) : (s.linkSilent j).now = s.now := by
  rw [State.linkSilent, State.now_linkChanged, State.now_updLink]

theorem State.now_linkSilents (l : List Nat) (s : State) : (l.foldl State.linkSilent s).now = s.now :=
  MemKept.foldl (P := fun t => t.now = s.now) (fun t j h => (t.now_linkSilent j).trans h) l rfl

theorem linkDown_links (s : State) (k t j : Nat) : ((((s.portOf k).filter fun j => (s.link j).up).foldl State.linkSilent (s.until t)).link j) =
    if j ∈ s.portOf k then { s.link j with up := false } else s.link j := by
  rw [State.link_foldl (I := fun _ => True) (g := fun _ l => { l with up := false }) (fun _ _ _ => trivial) ((s.nodup_portOf k).filter _) trivial
    fun u i _ _ _ m => by rw [State.linkSilent, State.link_linkChanged, State.link_updLink]]
  change (if _ then { s.link j with up := false } else s.link j) = _
  cases up : (s.link j).up
  · have same : { s.link j with up := false } = s.link j := by rw [← up]
    simp [up, same]
  · simp [up]

theorem execLaneFailure_real {s : State} (hk : linkExists s.inp.unit = true) (h : (s.link s.inp.unit).fenced = false) :
    let n := (s.link s.inp.unit).failed + 1
    let most := mostLanes s.inp.unit
    execLaneFailure s = .next ((s.updLink s.inp.unit fun l => { l with
      failed := n, lanes := min l.lanes (most - n), up := l.up && decide (n < most), fenced := decide (most ≤ n) }).linkChanged s.inp.unit) := by
  simp only [execLaneFailure, hk, h, Bool.not_true, Bool.or_false, Bool.false_eq_true, if_false, ite_isLane, ← decide_not, Nat.not_le]

theorem execEthFrameReceive_other {s : State} (h : s.inp.val ≠ s.fabric.etype) : execEthFrameReceive s = .next s := by
  simp [execEthFrameReceive, h]

theorem execLinkDown_down {s : State} (h : (s.link s.inp.unit).up = false) : execLinkDown s = .next s := by
  simp [execLinkDown, h]

theorem execLaneFailure_fenced {s : State} (h : (s.link s.inp.unit).fenced = true) : execLaneFailure s = .next s := by
  simp [execLaneFailure, h]

theorem execFabcfgWrite_eq (s : State) : execFabcfgWrite s = .next { s with fabric := { s.fabric with
    etype := s.inp.val % 65536, pos := min 71 (s.inp.val / 2 ^ 18 % 128),
    ports := if ∀ i, i < 16 → (s.link (64 + i)).up = false then s.inp.val / 2 ^ 16 % 4 else s.fabric.ports } } := by
  simp [execFabcfgWrite, bits, laneKey, Nat.shiftRight_eq_div_pow]

theorem linkSteps : Claims.LinkSteps := by
  intro s k v real told came heard size port alone
  have real_iff : real k ↔ linkExists k = true := (linkExists_iff k).symm
  have told_eq (t : State) (n : Nat) : told t n = t.linkChanged n := (t.linkChanged_eq n).symm
  have came_eq (n lanes peer : Nat) : (s.link n).heard s.now (mostLanes n) lanes peer = came n (mostLanes n) lanes peer (s.link n) := rfl
  have heard_of (n lanes peer : Nat) : heard n (mostLanes n) lanes peer (.next (s.linkHeard n lanes peer)) := by
    refine ⟨fun h => ?_, fun h up => ?_, fun h down => ?_⟩
    · rw [State.linkHeard_fenced h]
    · rw [State.linkHeard_up h up, State.updLink_congr (g := came n (mostLanes n) lanes peer) (came_eq n lanes peer)]
    · rw [State.linkHeard_down h down, State.updLink_congr (came_eq n lanes peer), told_eq]
  have size_eq : s.portSize = size := s.portSize_eq
  have port_iff (n j : Nat) : port n j ↔ j ∈ s.portOf n := by
    simp only [State.mem_portOf, size_eq]
    rfl
  have by_port {t : State} {n : Nat} {f : Nat → Link} (h : ∀ j, t.link j = if j ∈ s.portOf n then f j else s.link j) (j : Nat) :
      (port n j → t.link j = f j) ∧ (¬port n j → t.link j = s.link j) := by
    rw [port_iff, h]
    exact ⟨fun hj => if_pos hj, fun hj => if_neg hj⟩
  refine ⟨fun hk hf => ?_, fun hk hf => ?_, fun hk hv h1 => ?_, fun hk hv => ?_, fun _ hv => ?_, fun hk hf => ?_, fun hk up => ⟨fun ha hf => ?_, ?_⟩,
    fun hk down => ?_, fun hk hf => ?_, fun hk hf => ?_, ?_⟩
  · have most : mostLanes k = 2 := if_pos (by omega)
    rw [exec_eq_gangFlitReceive, execGangFlitReceive_good hk hf, ← most]
    exact heard_of k v s.inp.aux
  · rw [exec_eq_gangFlitReceive, execGangFlitReceive_bad hk hf]
  · have most : mostLanes (64 + k) = 1 := if_neg (by omega)
    rw [exec_eq_ethFrameReceive, execEthFrameReceive_ours hk hv, State.portHeard_single (by omega) (size_eq.trans h1), ← most]
    have := heard_of (64 + k) 1 s.inp.aux
    rwa [most] at this ⊢
  · rw [exec_eq_ethFrameReceive, execEthFrameReceive_ours hk hv]
    exact ⟨_, rfl, by_port fun j => s.link_portHeard _ _ _ _ (by omega)⟩
  · exact execEthFrameReceive_other hv
  · rw [exec_eq_heartbeatSend, execHeartbeatSend_real (real_iff.1 hk) hf]
    refine ⟨_, rfl, ?_, by_port fun j => ?_⟩
    · obtain ⟨links, h⟩ := State.foldl_updLink (fun l => { l with lastTx := max s.now ((s.link k).lastTx + 100000000) }) (s.portOf k)
        (s.until ((s.link k).lastTx + 100000000))
      simp only [State.now_until]
      rw [h]
      rfl
    · exact State.link_foldl (I := fun _ => True) (fun _ _ _ => trivial) (s.nodup_portOf k) trivial (fun u i _ _ _ m => u.link_updLink i m _) j
  · rw [exec_eq_linkDown, execLinkDown_up (real_iff.1 hk) up, State.portOf_alone (by rw [size_eq]; exact ha) hf]
    rw [List.filter_cons_of_pos (p := fun j => (s.link j).up) up]
    exact congrArg Host.Outcome.next (told_eq _ _).symm
  · rw [exec_eq_linkDown, execLinkDown_up (real_iff.1 hk) up]
    exact ⟨_, rfl, State.now_linkSilents _ _, by_port fun j => linkDown_links s k _ j⟩
  · exact execLinkDown_down down
  · exact execLaneFailure_fenced hf
  · rw [exec_eq_laneFailure, execLaneFailure_real (real_iff.1 hk) hf]
    exact congrArg Host.Outcome.next (told_eq _ _).symm
  · exact execFabcfgWrite_eq s

end Sys2Proof.Machine
end

section
/-! SUPPORT. Merge trees (R55-R57, R111): what a message, a value from the parent and the end of a period leave of an entry. -/

namespace Sys2Proof.Machine

/-! ### One entry -/

theorem State.updMerge_congr {s : State} {i : Nat} {f g : MergeEnt → MergeEnt} (h : f (s.mergeEnt i) = g (s.mergeEnt i)) :
    s.updMerge i f = s.updMerge i g := by
  unfold State.updMerge
  rw [h]

@[simp] theorem State.mergeEnt_updMerge_self (s : State) (i : Nat) (f : MergeEnt → MergeEnt) : (s.updMerge i f).mergeEnt i = f (s.mergeEnt i) :=
  Tbl.get_set_self _ _ _ _

theorem MergeEnt.valid_iff (e : MergeEnt) : e.valid = true ↔ e.parIn.testBit 16 = true ∧ e.fgrpIn ≠ 0 := by
  simp [MergeEnt.valid, bits_one_beq]

theorem MergeEnt.root_eq (e : MergeEnt) : e.root = e.parIn.testBit 15 := bits_one_beq e.parIn 15

/-- An entry after the end of a period: the members report anew, the registers take effect, and a change of group forgets the children. -/
def MergeEnt.renewed (e : MergeEnt) : MergeEnt :=
  { e with own := [], fgrpIn := e.fgrp, parIn := e.par, children := if e.fgrpIn = e.fgrp then e.children else [] }

/-- The children a period older. -/
def MergeEnt.aged (e : MergeEnt) : MergeEnt :=
  { e with children := e.children.mapV fun _ c => { c with age := c.age + 1, fresh := decide (c.age + 1 < 8) } }

/-- The smallest value of a node: of its members here and of the children that count. -/
def State.mergeLow (s : State) (e : MergeEnt) : Option (Nat × Bool) :=
  (e.aged.children.filter fun c => c.2.fresh).foldl (fun a c => mergeMin a (c.2.value, c.2.clip)) (s.mergeOwn e)

/-! ### Messages -/

theorem execMergeMessageReceive_none {s : State} (h : s.mergeOf s.inp.unit = none) : execMergeMessageReceive s = .next s := by
  simp only [execMergeMessageReceive, h]

/-- The value of a message. -/
def State.mergeMsg (s : State) : Nat × Bool := (s.inp.val % 2 ^ 32, decide (s.inp.aux % 2 = 1))

theorem execMergeMessageReceive_parent {s : State} {i : Nat} (h : s.mergeOf s.inp.unit = some i) (hf : s.inp.flag = true) :
    execMergeMessageReceive s = .next (s.mergeDown i s.mergeMsg) := by
  simp only [execMergeMessageReceive, h, hf, if_true]
  rfl

/-- A message of a child. -/
def State.mergeChild (s : State) (i : Nat) : State :=
  s.updMerge i fun e => { e with children := e.children.set s.inp.sub ⟨s.mergeMsg.1, s.mergeMsg.2, 0, true⟩ }

theorem execMergeMessageReceive_child {s : State} {i : Nat} (h : s.mergeOf s.inp.unit = some i) (hf : s.inp.flag = false)
    (hc : ∀ c, (s.mergeEnt i).children.find s.inp.sub = some c → c.fresh = true) : execMergeMessageReceive s = .next (s.mergeChild i) := by
  simp only [execMergeMessageReceive, h, hf, Bool.false_eq_true, if_false]
  cases known : (s.mergeEnt i).children.find s.inp.sub with
  | none => rfl
  | some c =>
    simp only [hc c known]
    rfl

theorem execMergeMessageReceive_back {s : State} {i : Nat} {c : MergeChild} (h : s.mergeOf s.inp.unit = some i) (hf : s.inp.flag = false)
    (known : (s.mergeEnt i).children.find s.inp.sub = some c) (hc : c.fresh = false) :
    execMergeMessageReceive s = .next ((s.mergeChild i).mergeStale s.inp.sub false) := by
  simp only [execMergeMessageReceive, h, hf, known, hc, Bool.false_eq_true, if_false]
  rfl

/-! ### The end of a period -/

theorem State.mergeEntryEnd_off {s : State} {i : Nat} (h : (s.mergeEnt i).valid = false) : s.mergeEntryEnd i = s.updMerge i MergeEnt.renewed := by
  simp only [State.mergeEntryEnd, h, Bool.not_false, if_true]
  rfl

/-- What a node sends at the end of a period. -/
def State.mergeSend (s : State) (i : Nat) (e : MergeEnt) : Option (Nat × Bool) → State
  | none => s
  | some v => if e.root then s.mergeDown i v else s.updMerge i fun e => { e with up := some v }

/-- An entry in force none of whose children goes stale. -/
theorem State.mergeEntryEnd_on {s : State} {i : Nat} (h : (s.mergeEnt i).valid = true)
    (young : ∀ x, x ∈ (s.mergeEnt i).children → x.2.fresh = true → x.2.age + 1 < 8) :
    s.mergeEntryEnd i = ((s.updMerge i MergeEnt.aged).mergeSend i (s.mergeEnt i) (s.mergeLow (s.mergeEnt i))).updMerge i MergeEnt.renewed := by
  have none_gone : ((s.mergeEnt i).children.filter fun c => c.2.fresh && !decide (c.2.age + 1 < 8)) = [] := by
    refine List.filter_eq_nil_iff.2 fun x hx => ?_
    have := young x hx
    grind
  have aged : (s.updMerge i fun e => { e with children := (s.mergeEnt i).aged.children }) = s.updMerge i MergeEnt.aged :=
    State.updMerge_congr rfl
  rw [State.mergeEntryEnd]
  simp only [h, none_gone, Bool.not_true, Bool.false_eq_true, if_false, List.map_nil, List.foldl_nil]
  rw [← aged, State.mergeSend.eq_def]
  rfl

theorem State.mergeSend_none (s : State) (i : Nat) (e : MergeEnt) : s.mergeSend i e none = s := rfl

theorem State.mergeSend_up (s : State) (i : Nat) {e : MergeEnt} (h : e.root = false) (v : Nat × Bool) :
    s.mergeSend i e (some v) = s.updMerge i fun e => { e with up := some v } := by
  simp [State.mergeSend, h]

theorem State.mergeSend_root (s : State) (i : Nat) {e : MergeEnt} (h : e.root = true) (v : Nat × Bool) :
    s.mergeSend i e (some v) = s.mergeDown i v := by
  simp [State.mergeSend, h]

/-- What a period's end leaves alone. -/
def State.MergeFrame (s t : State) : Prop := t = { s with fabric := { s.fabric with merge := t.fabric.merge }, ctxs := t.ctxs }

theorem State.mergeFrame_updMerge {s t : State} (h : s.MergeFrame t) (i : Nat) (f : MergeEnt → MergeEnt) : s.MergeFrame (t.updMerge i f) := by
  unfold State.MergeFrame at *
  rw [h]
  rfl

/-- The clock and the time of the last end move on. -/
def State.mergeDue (s : State) : State :=
  { s with now := max s.now (5000 * (s.fabric.mergeAt + 65536)), fabric := { s.fabric with mergeAt := s.fabric.mergeAt + 65536 } }

theorem execMergePeriodEnd_single {s : State} {i : Nat} {e : MergeEnt} (h : s.fabric.merge = [(i, e)]) :
    execMergePeriodEnd s = .next (s.mergeDue.mergeEntryEnd i) := by
  unfold execMergePeriodEnd
  rw [h]
  rfl

theorem State.mergeEnt_mergeDue (s : State) (i : Nat) : s.mergeDue.mergeEnt i = s.mergeEnt i := rfl

theorem State.mergeEnt_single {s : State} {i : Nat} {e : MergeEnt} (h : s.fabric.merge = [(i, e)]) : s.mergeEnt i = e := by
  simp [State.mergeEnt, h, Tbl.get]

/-- The end of a period of a package that is in one tree, in force, none of whose children goes stale. -/
theorem execMergePeriodEnd_live {s : State} {i : Nat} {e : MergeEnt} (h : s.fabric.merge = [(i, e)])
    (young : ∀ x, x ∈ e.children → x.2.fresh = true → x.2.age + 1 < 8) (live : e.valid = true) :
    execMergePeriodEnd s = .next (((s.mergeDue.updMerge i MergeEnt.aged).mergeSend i e (s.mergeLow e)).updMerge i MergeEnt.renewed) := by
  have ent : s.mergeDue.mergeEnt i = e := State.mergeEnt_single h
  rw [execMergePeriodEnd_single h, State.mergeEntryEnd_on (by rw [ent, live]) (by rw [ent]; exact young), ent]
  rfl

theorem execMergePeriodEnd_off {s : State} {i : Nat} {e : MergeEnt} (h : s.fabric.merge = [(i, e)]) (off : e.valid = false) :
    execMergePeriodEnd s = .next (s.mergeDue.updMerge i MergeEnt.renewed) := by
  have ent : s.mergeDue.mergeEnt i = e := State.mergeEnt_single h
  rw [execMergePeriodEnd_single h, State.mergeEntryEnd_off (by rw [ent, off])]

/-- A merged value reaches members of the entry's group, whatever else of the state has changed since. -/
theorem State.ctxs_mergeDown {s t : State} {i : Nat} (hc : t.ctxs = s.ctxs) (he : (t.mergeEnt i).fgrpIn = (s.mergeEnt i).fgrpIn) (v : Nat × Bool) :
    (t.mergeDown i v).ctxs = (s.mergeDown i v).ctxs := by
  simp only [State.mergeDown, State.updMerge, hc, he]

theorem State.mergeEnt_mergeDown (s : State) (i : Nat) (v : Nat × Bool) : (s.mergeDown i v).mergeEnt i = { s.mergeEnt i with down := some v } :=
  s.mergeEnt_updMerge_self i fun e => { e with down := some v }

theorem mergePeriodEnd_spec {s : State} {i : Nat} {e : MergeEnt} (h : s.fabric.merge = [(i, e)])
    (young : ∀ x, x ∈ e.children → x.2.fresh = true → x.2.age + 1 < 8) (live : e.valid = true) :
    ∃ t, execMergePeriodEnd s = .next t ∧ s.mergeDue.MergeFrame t ∧
      (s.mergeLow e = none → t.ctxs = s.ctxs ∧ t.mergeEnt i = e.aged.renewed) ∧
      ∀ v, s.mergeLow e = some v →
        (e.root = false → t.ctxs = s.ctxs ∧ t.mergeEnt i = { e.aged with up := some v }.renewed) ∧
        (e.root = true → t.ctxs = (s.mergeDown i v).ctxs ∧ t.mergeEnt i = { e.aged with down := some v }.renewed) := by
  have ent := State.mergeEnt_single h
  have aged : (s.mergeDue.updMerge i MergeEnt.aged).mergeEnt i = e.aged := by
    rw [State.mergeEnt_updMerge_self, s.mergeEnt_mergeDue, ent]
  have base : s.mergeDue.MergeFrame (s.mergeDue.updMerge i MergeEnt.aged) := rfl
  refine ⟨_, execMergePeriodEnd_live h young live, State.mergeFrame_updMerge ?_ i _, fun low => ?_, fun v low => ⟨fun up => ?_, fun root => ?_⟩⟩
  · cases s.mergeLow e with
    | none => exact base
    | some v =>
      cases root : e.root
      · rw [State.mergeSend_up _ _ root]
        exact State.mergeFrame_updMerge base i _
      · rw [State.mergeSend_root _ _ root]
        rfl
  · rw [low, State.mergeSend_none, State.mergeEnt_updMerge_self, aged]
    exact ⟨rfl, rfl⟩
  · rw [low, State.mergeSend_up _ _ up, State.mergeEnt_updMerge_self, State.mergeEnt_updMerge_self, aged]
    exact ⟨rfl, rfl⟩
  · rw [low, State.mergeSend_root _ _ root, State.mergeEnt_updMerge_self, State.mergeEnt_mergeDown, aged]
    refine ⟨State.ctxs_mergeDown (s := s) (t := s.mergeDue.updMerge i MergeEnt.aged) rfl ?_ v, rfl⟩
    rw [aged, ent]
    rfl

end Sys2Proof.Machine
end

section
/-! SUPPORT. What the engines' reports leave alone. The words, bytes and statuses that an engine writes, the ends of waits and of crews that follow, and
what the memory system does for them change the state's parts named in `WorkKept`, and nothing else; the table of copy commands changes at
`State.updCopy` alone. -/

namespace Sys2Proof.Machine

/-- A property of states that looks at no part that the reports of the engines change. -/
structure WorkKept (P : State → Prop) : Prop where
  rest : ∀ {s t : State}, P s → t = { s with
    cur := t.cur, fresh := t.fresh, now := t.now, crews := t.crews, cores := t.cores, clusters := t.clusters, mem := t.mem, power := t.power,
    ctxs := t.ctxs, slates := t.slates, queues := t.queues, funcs := t.funcs, vectors := t.vectors, bindings := t.bindings } → P t

namespace WorkKept

variable {P : State → Prop} (hP : WorkKept P) {s : State}
include hP

theorem memKept : MemKept P :=
  ⟨fun _ h => hP.rest h rfl, fun _ _ h => hP.rest h rfl, fun _ h => hP.rest h rfl, fun _ h => hP.rest h rfl, fun _ _ h => hP.rest h rfl⟩

theorem postKept : PostKept P := ⟨fun _ _ h => hP.rest h rfl, fun _ _ h => hP.rest h rfl, fun _ h => hP.rest h rfl⟩

/-! ### One part of the state written -/

theorem setCrew (h : P s) (k : Nat) (c : Crew) : P (s.setCrew k c) := hP.rest h rfl
theorem updCluster (h : P s) (k : Nat) (f : ClusterSt → ClusterSt) : P (s.updCluster k f) := hP.rest h rfl
theorem updMx (h : P s) (k : Nat) (f : MatrixSt → MatrixSt) : P (s.updMx k f) := hP.rest h rfl
theorem updPw (h : P s) (k : Nat) (f : ClusterPw → ClusterPw) : P (s.updPw k f) := hP.rest h rfl
theorem updCtx (h : P s) (k : Nat) (f : Ctx → Ctx) : P (s.updCtx k f) := hP.rest h rfl
theorem pulse (h : P s) (ctx : Nat) : P (s.pulse ctx) := hP.updCtx h _ _
theorem disown (h : P s) (o : Nat) : P (s.disown o) := hP.rest h rfl
theorem wake (h : P s) (pc : Crew → Bool) (p : Side → Bool) : P (s.wake pc p) := hP.rest h rfl
theorem wakeEngine (h : P s) : P s.wakeEngine := hP.wake h _ _
theorem wakeOwned (h : P s) : P s.wakeOwned := hP.rest h rfl

theorem updSlate (h : P s) (k : Nat) (f : Slate → Slate) : P (s.updSlate k f) := by
  unfold State.updSlate
  split
  · exact hP.rest h rfl
  · exact h

theorem cmdDown (h : P s) (k : Nat) : P (s.cmdDown k) := hP.updSlate h _ _

/-! ### What a write does -/

theorem partsWrite (h : P s) (l : List Part) (bs : List Byte) : P (s.partsWrite l bs) := by
  induction l generalizing s bs with
  | nil => exact h
  | cons x l ih => exact ih (hP.memKept.homeWrite h _ _ _ _ _ _) _

theorem l2Parts (h : P s) (ctx cluster : Nat) (l : List Part) (write : Bool) : P (s.l2Parts ctx cluster l write) :=
  MemKept.foldl (P := P) (fun _ _ hs => MemKept.foldl (P := P) (fun _ _ hu => hP.memKept.l2Access hu _ _ _ _ _ _ _) _ hs) _ h

theorem markLines (h : P s) (mark : Nat) (l : List (Bool × Nat)) : P (s.markLines mark l) :=
  MemKept.foldl (P := P) (fun _ _ hs => hP.memKept.updMem _ hs) _ h

/-- Parts written, signed and marked. -/
theorem written (h : P s) (l : List Part) (bs : List Byte) :
    P (((s.partsWrite l bs).logAppend (partsSig l)).markLines ((s.partsWrite l bs).logAppend (partsSig l)).mem.logSeq (partLines l)) :=
  hP.markLines (hP.memKept.logAppend (hP.partsWrite h _ _) _) _ _

theorem poisonParts (h : P s) (l : List Part) : P (s.poisonParts l) := by
  unfold State.poisonParts
  refine MemKept.foldl (P := P) (fun s x hs => ?_) _ h
  dsimp only
  split
  · exact hs
  · exact hP.memKept.updMem _ hs

theorem reportSectors (h : P s) (code : Rec) (ctx : Option Nat) (l : List (Nat × Nat)) : P (s.reportSectors code ctx l) :=
  hP.postKept.reportSectors _ _ _ fun _ _ => hP.memKept.updMem _ h

theorem engStore (h : P s) (ctx va : Nat) (bs : List Byte) : P (s.engStore ctx va bs) := by
  unfold State.engStore
  split
  · exact h
  · exact hP.written h _ _

theorem doneWord (h : P s) (ctx va code n scope : Nat) : P (s.doneWord ctx va code n scope) := by
  grind [State.doneWord, State.engWord, State.noteWord, hP.engStore, hP.memKept.updMem]

theorem spaceWrite (h : P s) (c : CopyCmd) (a : Nat) (bs : List Byte) (poison : Bool) : P (s.spaceWrite c a bs poison) := by
  grind [State.spaceWrite, State.spadWrite, hP.memKept.updCore, hP.updMx]

/-! ### The end of a crew -/

theorem startPrecharge (h : P s) (cl bank t : Nat) (st : RowState) : P (s.startPrecharge cl bank t st) := by
  unfold State.startPrecharge
  exact hP.memKept.updMem _ (hP.updCluster h _ _)

theorem endXfer (h : P s) (cl : Nat) (x : RowXfer) : P (s.endXfer cl x) := by
  grind [State.endXfer, State.tileWrite, State.shareTile, hP.updMx]

theorem settleXfers (h : P s) (cl : Nat) : P (s.settleXfers cl) :=
  MemKept.foldl (P := P) (fun _ x hs => hP.endXfer hs cl x) _ (hP.updCluster h _ _)

theorem settleCluster (h : P s) (cl : Nat) : P (s.settleCluster cl) := by
  grind [State.settleCluster, State.forceClose, hP.startPrecharge, hP.settleXfers, hP.updCluster, MemKept.foldl (P := P)]

theorem closeRowsNow (h : P s) (cl : Nat) : P (s.closeRowsNow cl) := by
  grind [State.closeRowsNow, hP.memKept.later, hP.settleCluster, hP.startPrecharge, hP.updCluster, MemKept.foldl (P := P)]

theorem settleCores (h : P s) (ctx : Nat) : P (s.settleCores ctx) := by
  have granted {u : State} (hu : P u) : P u.regrant := by
    grind [State.regrant, hP.updPw, MemKept.foldl (P := P)]
  unfold State.settleCores
  dsimp only
  split
  · exact h
  · generalize hu : State.regrant _ = u
    have hu : P u := hu ▸ granted (hP.updCtx h _ _)
    exact hP.rest hu rfl

theorem queueGroup (h : P s) (slate g : Nat) : P (s.queueGroup slate g) := by
  have queued {u : State} (d id : Nat) (hu : P u) : P (u.queueTake d id) := hP.rest hu rfl
  grind [State.queueGroup]

theorem endCrew (h : P s) (cid cause : Nat) : P (s.endCrew cid cause) := by
  have cur {u : State} (x : Option (Nat × Nat)) (hu : P u) : P { u with cur := x } := hP.rest hu rfl
  have del {u : State} (hu : P u) : P { u with crews := u.crews.del cid } := hP.rest hu rfl
  unfold State.endCrew
  split
  · exact h
  · grind [State.crewEnded, State.crewLeft, hP.memKept.releaseAll, hP.memKept.updCore, hP.setCrew, hP.closeRowsNow, hP.updSlate, hP.updPw,
      hP.settleCores, hP.queueGroup]

theorem reap (h : P s) (cid : Nat) : P (s.reap cid) := by
  grind [State.reap, hP.endCrew]

/-! ### Lines and bytes of the scratchpad -/

theorem setPresent (h : P s) (core line : Nat) : P (s.setPresent core line) := hP.wake (hP.memKept.updCore h _ _) _ _

theorem recheckBytes (h : P s) (core : Nat) : P (s.recheckBytes core) := by
  unfold State.recheckBytes
  refine MemKept.foldl (P := P) (fun s o hs => ?_) _ h
  split
  · exact hP.rest (hP.memKept.acquire hs _ _) rfl
  · exact hs

/-! ### Bytes that a collective puts in memory -/

theorem collPut (h : P s) (c : CopyCmd) (d : Nat) (bs : List Byte) (poison : List (Nat × Nat)) : P (s.collPut c d bs poison) := by
  unfold State.collPut
  split
  · exact h
  next r _ =>
    have put := hP.written (hP.l2Parts (hP.reportSectors h recEccUncorrected (some c.ctx) poison) c.ctx c.cluster r true) r bs
    dsimp only
    split
    · exact put
    · exact hP.poisonParts put _

theorem collOwn (h : P s) (c : CopyCmd) : P (s.collOwn c) := by
  grind [State.collOwn, hP.collPut]

end WorkKept

/-! ### Changes of commands -/

/-- A property that a change of a copy command keeps too, when it does not undo the command's start. -/
structure CopyKept (P : State → Prop) : Prop extends WorkKept P where
  updCopy : ∀ {s : State} (k : Nat) (f : CopyCmd → CopyCmd), (∀ c, (f c).started = c.started) → P s → P (s.updCopy k f)

namespace CopyKept

variable {P : State → Prop} (hP : CopyKept P) {s : State}
include hP

theorem unhold (h : P s) (key : Nat) : P (s.unhold key) := by
  unfold State.unhold
  split
  · exact h
  · split
    · exact h
    · exact hP.updCopy _ _ (fun _ => by rfl) (MemKept.foldl (P := P) (fun _ _ hs => hP.spaceWrite hs _ _ _ _) _ h)

theorem itemEnd (h : P s) (key i st : Nat) : P (s.itemEnd key i st) := by
  unfold State.itemEnd
  split
  · exact h
  next c _ =>
    have either {p : Prop} [Decidable p] {u v : State} (hu : P u) (hv : P v) : P (if p then u else v) := by
      split <;> assumption
    dsimp only
    generalize hu : State.wakeOwned _ = u
    have ended : P u := by
      rw [← hu]
      refine hP.wakeOwned (hP.pulse (hP.updCopy _ _ (fun _ => by rfl) (MemKept.foldl (P := P) (fun s j hs => either hs (hP.setPresent hs _ _)) _ ?_)) _)
      refine either (hP.disown (hP.updCopy _ _ (fun _ => by rfl) (either h (hP.unhold h key))) _) ?_
      exact hP.memKept.updCore (hP.disown (hP.updCopy _ _ (fun _ => by rfl) (either h (hP.unhold h key))) _) _ _
    split
    · exact ended
    · exact either ended (hP.recheckBytes (hP.memKept.updCore ended _ _) _)

theorem copyDone (h : P s) (key : Nat) : P (s.copyDone key) := by
  unfold State.copyDone
  split
  · exact h
  · refine hP.reap (hP.wakeOwned (hP.wakeEngine (hP.cmdDown (hP.updCluster (hP.updCopy _ _ (fun _ => by rfl) (hP.doneWord ?_ _ _ _ _ _)) _ _) _))) _
    split
    · exact h
    · exact hP.engStore h _ _ _

theorem copySettle (h : P s) (key : Nat) : P (s.copySettle key) := by
  grind [State.copySettle, hP.copyDone, hP.itemEnd, MemKept.foldl (P := P)]

theorem collRecord (h : P s) (key p st : Nat) : P (s.collRecord key p st) :=
  hP.updCopy _ _ (fun c => by split <;> rfl) h

theorem collEnd (h : P s) (key : Nat) : P (s.collEnd key) := by
  grind [State.collEnd, hP.copyDone, hP.disown, hP.pulse]

theorem collSettle (h : P s) (key : Nat) : P (s.collSettle key) := by
  unfold State.collSettle
  split
  · exact h
  · have abandoned := hP.updCopy key (fun c => { c with peer := c.peer.mapV fun _ x => if x = 0 then 0x06 else x }) (fun _ => by rfl) h
    grind [hP.collEnd, hP.collOwn]

theorem collGone (h : P s) (p : Nat × Nat → Bool) (st : Nat) : P (s.collGone p st) := by
  unfold State.collGone
  refine MemKept.foldl (P := P) (fun s x hs => ?_) _ h
  dsimp only
  split
  · exact hs
  · exact hP.collSettle (MemKept.foldl (P := P) (fun _ r hu => hP.collRecord hu _ r st) _ hs) _

end CopyKept

end Sys2Proof.Machine
end

section
/-! SUPPORT. The loss of a package (R58, R60), and the obligation about links and merge trees (O27). -/

namespace Sys2Proof.Machine

/-! ### The loss of a package -/

theorem copyKept_fabric (x : FabricSt) : CopyKept fun s => s.fabric = x where
  rest h e := by
    rw [e]
    exact h
  updCopy k f _ h := by
    unfold State.updCopy
    split <;> exact h

theorem State.fabric_collGone (s : State) (p : Nat × Nat → Bool) (st : Nat) : (s.collGone p st).fabric = s.fabric :=
  (copyKept_fabric s.fabric).collGone rfl p st

theorem State.fabric_post (s : State) (f : Nat) (r : Rec) : (s.post f r).fabric = s.fabric :=
  (copyKept_fabric s.fabric).postKept.post (s := s) rfl f r

/-- Nothing of a collective is under way where no command is one. -/
theorem State.running_colls_eq_nil {s : State} (h : ∀ c, c ∈ s.copies → c.2.op ≠ .coll) (p : CopyCmd → Bool) :
    (s.copies.filter fun x => x.2.op == .coll && p x.2) = [] :=
  List.filter_eq_nil_iff.2 fun x hx => by simp [h x hx]

theorem State.collGone_no_colls {s : State} (h : ∀ c, c ∈ s.copies → c.2.op ≠ .coll) (p : Nat × Nat → Bool) (st : Nat) :
    s.collGone p st = s := by
  unfold State.collGone
  rw [State.running_colls_eq_nil h fun c => !c.done]
  rfl

theorem State.groupsWith_no_colls {s : State} (h : ∀ c, c ∈ s.copies → c.2.op ≠ .coll) (p : Nat) : s.groupsWith p =
    (s.fabric.merge.filter fun x => x.2.valid && ((x.2.children.find p).isSome || (!x.2.root && x.2.parIn % 2 ^ 15 == p))).length := by
  unfold State.groupsWith
  simp only [Bool.and_assoc]
  rw [State.running_colls_eq_nil h (fun c => !c.done && c.members.any fun m => m.1 == p)]
  exact Nat.zero_add _

theorem execPackageLost_known {s : State} (h : s.inp.unit ∈ s.fabric.lost) : execPackageLost s = .next s := by
  simp [execPackageLost, h]

/-- A package noted as lost. -/
def State.noteLost (s : State) (p : Nat) : State := { s with fabric := { s.fabric with lost := insertNat s.fabric.lost p } }

theorem execPackageLost_new {s : State} (h : s.inp.unit ∉ s.fabric.lost) : execPackageLost s =
    .next (((s.noteLost s.inp.unit).collGone (fun m => m.1 == s.inp.unit) 0x02).post 0
      { recPackageLost with d0 := s.inp.unit, d1 := s.groupsWith s.inp.unit }) := by
  simp only [execPackageLost, List.contains_iff_mem, h, if_false]
  rfl

/-! ### The merge tree and the loss together -/

theorem mergeSteps : Claims.MergeSteps := by
  intro s i e n msg down
  have down_eq (he : s.mergeEnt i = e) (v : Nat × Bool) : s.mergeDown i v = down s v := by
    subst he
    rfl
  refine ⟨rfl, ?_, fun h => execMergeMessageReceive_none h, fun h he => ⟨fun hf => ?_, fun hf => ⟨fun hc => ?_, fun c known hc => ?_⟩⟩,
    fun single young => ?_, fun h => execPackageLost_known h, fun h => ⟨_, execPackageLost_new h, ?_, fun none => ?_⟩⟩
  · simp [execMrgparWrite, bits]
  · rw [exec_eq_mergeMessageReceive, execMergeMessageReceive_parent h hf, down_eq he]
    rfl
  · rw [exec_eq_mergeMessageReceive, execMergeMessageReceive_child h hf (by rw [he]; exact hc)]
    rfl
  · rw [exec_eq_mergeMessageReceive, execMergeMessageReceive_back h hf (by rw [he]; exact known) hc]
    rfl
  · have ent := State.mergeEnt_single single
    have root {b : Bool} (h : e.parIn.testBit 15 = b) : e.root = b := e.root_eq.trans h
    refine ⟨fun off => ?_, fun live low => ?_, fun v live low up => ?_, fun v live low top => ?_⟩
    · rw [exec_eq_mergePeriodEnd, execMergePeriodEnd_off single (by simpa [← e.valid_iff] using off)]
      exact congrArg Host.Outcome.next (State.updMerge_congr (by rw [s.mergeEnt_mergeDue, ent]; rfl))
    all_goals obtain ⟨t, ht, frame, idle, sent⟩ := mergePeriodEnd_spec single young (e.valid_iff.2 live)
    · obtain ⟨ctxs, left⟩ := idle low
      exact ⟨t, ht, frame, ctxs, left⟩
    · obtain ⟨ctxs, left⟩ := (sent v low).1 (root up)
      exact ⟨t, ht, frame, ctxs, left⟩
    · obtain ⟨ctxs, left⟩ := (sent v low).2 (root top)
      exact ⟨t, ht, frame, left, ctxs.trans (congrArg State.ctxs (down_eq ent v))⟩
  · rw [State.fabric_post, State.fabric_collGone]
    exact mem_insertNat.2 (.inl rfl)
  · rw [State.collGone_no_colls (s := s.noteLost s.inp.unit) none, State.groupsWith_no_colls none]
    rfl

/-- Settles O27. A port's loop acts on each of its lanes alone (`State.link_foldl`); an entry of the merge table at the end of a period is its node's
`State.mergeSend`, renewed; the loss of a package keeps the fabric's other parts (`CopyKept`). -/
theorem fabric : Obligations.Fabric := ⟨linkSteps, mergeSteps⟩

end Sys2Proof.Machine
end

section
/-! SUPPORT. The start of an engine's command (R31, R35, R119, R120): the arbiter and the started command. -/

namespace Sys2Proof.Machine

/-! ### Copy commands after a change -/

theorem State.find_updCopy (s : State) (k j : Nat) (f : CopyCmd → CopyCmd) :
    (s.updCopy k f).copies.find j = if j = k then (s.copies.find k).map f else s.copies.find j := by
  unfold State.updCopy
  cases h : s.copies.find k with
  | none => grind
  | some c =>
    by_cases hj : j = k
    · subst hj
      simp
    · simp [hj, Tbl.find_set_ne _ _ hj]

theorem copyKept_started (k : Nat) : CopyKept fun s => ∃ d, s.copies.find k = some d ∧ d.started = true where
  rest h e := by
    rw [e]
    exact h
  updCopy j f hf h := by
    obtain ⟨d, hd, started⟩ := h
    rw [State.find_updCopy]
    split
    next e => exact ⟨f d, by rw [← e, hd]; rfl, (hf d).trans started⟩
    · exact ⟨d, hd, started⟩

theorem State.arbiters_updCopy (s : State) (k : Nat) (f : CopyCmd → CopyCmd) : (s.updCopy k f).arbiters = s.arbiters := by
  unfold State.updCopy
  split <;> rfl

theorem copyKept_arbiters (x : Tbl Arbiter) : CopyKept fun s => s.arbiters = x where
  rest h e := by
    rw [e]
    exact h
  updCopy k f _ h := (State.arbiters_updCopy _ k f).trans h

/-! ### The start in each engine -/

theorem State.waitingCopy_found {s : State} {cl ctx k : Nat} (h : s.waitingCopy cl ctx = some k) : ∃ c, s.copies.find k = some c := by
  have waits := List.find?_some h
  cases hc : s.copies.find k with
  | none => simp [hc] at waits
  | some c => exact ⟨c, rfl⟩

theorem State.startCopy_started {s : State} {cl ctx k : Nat} (h : s.waitingCopy cl ctx = some k) :
    ∃ d, (s.startCopy cl ctx).copies.find k = some d ∧ d.started = true := by
  obtain ⟨c, hc⟩ := State.waitingCopy_found h
  rw [State.startCopy, h]
  refine (copyKept_started k).copySettle ?_ k
  rw [State.find_updCopy, if_pos rfl, hc]
  exact ⟨_, rfl, rfl⟩

theorem State.startDolly_queue {s : State} {cl ctx i : Nat} {c : DollyCmd}
    (hi : (s.cluster cl).dollyQ.findIdx? (fun c => c.ctx == ctx && !c.started) = some i) (hc : (s.cluster cl).dollyQ[i]? = some c) :
    ((s.startDolly cl ctx).cluster cl).dollyQ = (s.cluster cl).dollyQ.set i { c with started := true } := by
  rw [State.startDolly]
  simp only [hi, State.cluster_updCluster_self]
  rw [List.modify_eq_set_getElem?, hc]
  rfl

theorem State.startSlot_queue {s : State} {cl ctx i : Nat} {c : GCmd}
    (hi : (s.cluster cl).grammarQ.findIdx? (fun c => c.ctx == ctx && !c.started) = some i) (hc : (s.cluster cl).grammarQ[i]? = some c) :
    ((s.startSlot cl ctx).cluster cl).grammarQ = (s.cluster cl).grammarQ.set i { c with started := true } := by
  have woken (u : State) : u.wakeEngine.cluster cl = u.cluster cl := rfl
  rw [State.startSlot]
  simp only [hi, woken, State.cluster_updCluster_self]
  rw [List.modify_eq_set_getElem?, hc]
  rfl

theorem State.arbiters_startCopy (s : State) (cl ctx : Nat) : (s.startCopy cl ctx).arbiters = s.arbiters := by
  unfold State.startCopy
  split
  · rfl
  · exact (copyKept_arbiters _).copySettle (s.arbiters_updCopy _ _) _

theorem State.arbiters_startDolly (s : State) (cl ctx : Nat) : (s.startDolly cl ctx).arbiters = s.arbiters := by
  unfold State.startDolly
  dsimp only
  split <;> rfl

theorem State.arbiters_startSlot (s : State) (cl ctx : Nat) : (s.startSlot cl ctx).arbiters = s.arbiters := by
  unfold State.startSlot
  dsimp only
  split <;> rfl

theorem State.arbiters_startIn (s : State) (cl eng ctx : Nat) : (s.startIn cl eng ctx).arbiters = s.arbiters := by
  unfold State.startIn
  split
  · exact s.arbiters_startCopy cl ctx
  · exact s.arbiters_startDolly cl ctx
  · exact s.arbiters_startSlot cl ctx

/-! ### The engine's turn -/

theorem State.railsOn_iff (s : State) (cl : Nat) : s.railsOn cl = true ↔ ¬(s.power.tripped = true ∨ (s.pw cl).fenced = true) := by
  simp [State.railsOn]

/-- The choice of the arbiter of an engine. -/
def State.engineChoice (s : State) (cl eng : Nat) : Option (Nat × Arbiter) :=
  s.arbitrate (s.arb (engineArb cl eng)) (s.waitsInEngine cl eng) (s.waitsInEngine cl eng)

theorem State.engineStart_idle {s : State} {cl eng : Nat} (h : s.railsOn cl = false ∨ s.engineChoice cl eng = none) : s.engineStart cl eng = s := by
  unfold State.engineStart
  rcases h with h | h
  · simp [h]
  · rw [State.engineChoice] at h
    simp only [h]
    split <;> rfl

theorem State.engineStart_asleep {s : State} {cl eng ctx : Nat} {a : Arbiter} (on : s.railsOn cl = true) (won : s.engineChoice cl eng = some (ctx, a))
    (hw : 2 ≤ (s.pw cl).w) : s.engineStart cl eng = s.wakeCluster cl := by
  rw [State.engineChoice] at won
  simp [State.engineStart, on, won, State.asleep, hw]

theorem State.engineStart_awake {s : State} {cl eng ctx : Nat} {a : Arbiter} (on : s.railsOn cl = true) (won : s.engineChoice cl eng = some (ctx, a))
    (hw : (s.pw cl).w < 2) : s.engineStart cl eng = ((s.wakeCluster cl).setArb (engineArb cl eng) a).startIn cl eng ctx := by
  rw [State.engineChoice] at won
  simp [State.engineStart, on, won, State.asleep, hw]

/-- Waking a cluster that is not in W2 changes its power state at most. -/
theorem State.wakeCluster_awake {s : State} {cl : Nat} (hw : (s.pw cl).w < 2) : ∃ p, s.wakeCluster cl = { s with power := p } := by
  unfold State.wakeCluster
  split
  · exact ⟨s.power, rfl⟩
  · exact ⟨_, rfl⟩
  next h0 h1 =>
    have : (s.pw cl).w = 0 ∨ (s.pw cl).w = 1 := by omega
    exact absurd this (not_or.2 ⟨h0, h1⟩)

theorem engineArb_eq (cl e : Nat) : engineArb cl e = if e = 0 then 16 + cl else if e = 1 then 64 + cl else 128 + cl := by
  unfold engineArb
  split <;> simp_all [copyArb, dollyArb, slotsArb]

theorem State.waitsInEngine_eq (s : State) (cl e : Nat) : s.waitsInEngine cl e = fun ctx =>
    if e = 0 then (s.waitingCopy cl ctx).isSome else if e = 1 then (s.cluster cl).dollyQ.any fun c => c.ctx == ctx && !c.started
      else (s.cluster cl).grammarQ.any fun c => c.ctx == ctx && !c.started := by
  funext ctx
  unfold State.waitsInEngine
  split <;> simp_all [State.slotWaits]

theorem engineStarts : Claims.EngineStarts := by
  intro s ctx a cl e key can off won
  have key_eq : engineArb cl e = key := engineArb_eq cl e
  have won_eq : s.engineChoice cl e = won := by
    rw [State.engineChoice, key_eq, s.waitsInEngine_eq]
  have on_iff : s.railsOn cl = true ↔ ¬off := s.railsOn_iff cl
  have step : exec .engineCommandStart s = .next (s.engineStart cl e) := rfl
  refine ⟨fun h => ?_, fun on hwon hw => ?_, fun on hwon hw => ?_⟩
  · rw [step, State.engineStart_idle]
    rw [won_eq, ← Bool.not_eq_true, on_iff, not_not]
    exact h
  · rw [step, State.engineStart_asleep (on_iff.2 on) (won_eq.trans hwon) hw]
  · obtain ⟨p, woken⟩ := State.wakeCluster_awake hw
    rw [step, State.engineStart_awake (on_iff.2 on) (won_eq.trans hwon) hw, woken, key_eq]
    generalize hu : State.setArb _ key a = u
    have waiting : u.waitingCopy cl ctx = s.waitingCopy cl ctx := by rw [← hu]; rfl
    have cluster : u.cluster cl = s.cluster cl := by rw [← hu]; rfl
    refine ⟨_, rfl, ?_, fun he k hk => ?_, fun he i c hi hc => ?_, fun he i c hi hc => ?_⟩
    · rw [State.arb, State.arbiters_startIn, ← hu]
      exact Tbl.get_set_self _ _ _ _
    · rw [he]
      exact State.startCopy_started (waiting.trans hk)
    · rw [he, ← cluster]
      exact State.startDolly_queue (cluster ▸ hi) (cluster ▸ hc)
    · obtain ⟨n, hn⟩ := Nat.exists_eq_add_of_le' he
      rw [hn, ← cluster]
      exact State.startSlot_queue (cluster ▸ hi) (cluster ▸ hc)

end Sys2Proof.Machine
end

section
/-! SUPPORT. The items of collectives and their commit (R50-R54, R223): what becomes of a command's statuses; and the obligation about the engines (O42). -/

namespace Sys2Proof.Machine

/-! ### The end of a collective -/

theorem workKept_copies (x : Tbl CopyCmd) : WorkKept fun s => s.copies = x where
  rest h e := by
    rw [e]
    exact h

theorem State.copies_reportSectors (s : State) (code : Rec) (ctx : Option Nat) (l : List (Nat × Nat)) :
    (s.reportSectors code ctx l).copies = s.copies :=
  (workKept_copies s.copies).reportSectors rfl code ctx l

theorem State.copies_collPut (s : State) (c : CopyCmd) (d : Nat) (bs : List Byte) (po : List (Nat × Nat)) :
    (s.collPut c d bs po).copies = s.copies :=
  (workKept_copies s.copies).collPut rfl c d bs po

theorem State.copies_collOwn (s : State) (c : CopyCmd) : (s.collOwn c).copies = s.copies := (workKept_copies s.copies).collOwn rfl c

/-- A command that is done keeps the statuses of its items. -/
theorem State.copyDone_spec {s : State} {key : Nat} {c : CopyCmd} (h : s.copies.find key = some c) :
    ∃ d, (s.copyDone key).copies.find key = some d ∧ d.done = true ∧ d.peer = c.peer := by
  have hW := workKept_copies s.copies
  unfold State.copyDone
  rw [h]
  dsimp only
  generalize hu : State.doneWord _ _ _ _ _ _ = u
  have words : u.copies = s.copies := by
    rw [← hu]
    refine hW.doneWord ?_ _ _ _ _ _
    split
    · rfl
    · exact hW.engStore rfl _ _ _
  generalize hv : State.updCopy u key _ = v
  have hV := workKept_copies v.copies
  rw [hV.reap (hV.wakeOwned (hV.wakeEngine (hV.cmdDown (hV.updCluster rfl _ _) _))), ← hv, State.find_updCopy, if_pos rfl, words, h]
  exact ⟨_, rfl, rfl, rfl⟩

theorem State.collEnd_spec {s : State} {key : Nat} {c : CopyCmd} (h : s.copies.find key = some c) :
    ∃ d, (s.collEnd key).copies.find key = some d ∧ d.done = true ∧ d.peer = c.peer := by
  unfold State.collEnd
  rw [h]
  exact State.copyDone_spec h

/-! ### Statuses -/

/-- What becomes of an item's status when the reduction fails (R52). -/
def abandoned (st : Nat) : Nat := if st = 0 then 0x06 else st

theorem abandoned_of_ne_zero {st : Nat} (h : st ≠ 0) : abandoned st = st := if_neg h

/-- The statuses that a command may have once its items are settled: as they were, or those of a reduction that failed. -/
def CopyCmd.Settles (c : CopyCmd) (peer : Tbl Nat) : Prop := peer = c.peer ∨ (c.reduces = true ∧ peer = c.peer.mapV fun _ x => abandoned x)

theorem State.collEnd_settles {s : State} {key : Nat} {c x : CopyCmd} (h : s.copies.find key = some x) (hx : c.Settles x.peer) :
    ∃ d, (s.collEnd key).copies.find key = some d ∧ c.Settles d.peer := by
  obtain ⟨d, hd, -, peer⟩ := State.collEnd_spec h
  exact ⟨d, hd, peer ▸ hx⟩

theorem State.collSettle_spec {s : State} {key : Nat} {c : CopyCmd} (h : s.copies.find key = some c) :
    ∃ d, (s.collSettle key).copies.find key = some d ∧ c.Settles d.peer := by
  have stays : ∃ d, s.copies.find key = some d ∧ c.Settles d.peer := ⟨c, h, .inl rfl⟩
  unfold State.collSettle
  rw [h]
  dsimp only
  split
  · exact stays
  · cases reduces : c.reduces
    · simp only [Bool.not_false, if_true]
      split
      · exact State.collEnd_settles h (.inl rfl)
      · split
        · exact State.collEnd_settles (by rw [State.copies_collOwn, h]) (.inl rfl)
        · exact stays
    · simp only [Bool.not_true, Bool.false_eq_true, if_false]
      split
      · exact stays
      · refine State.collEnd_settles (x := { c with peer := c.peer.mapV fun _ x => abandoned x }) ?_ (.inr ⟨reduces, rfl⟩)
        rw [State.find_updCopy, if_pos rfl, h]
        rfl

/-- A started collective whose item with the member of rank `p` has no status yet. -/
structure State.OpenItem (s : State) (key p : Nat) (c : CopyCmd) : Prop where
  found : s.copies.find key = some c
  coll : c.op = .coll
  undone : c.done = false
  started : c.started = true
  peer : p ∈ c.peers
  open' : c.peer.find p = none

theorem State.collRecord_found {s : State} {key p : Nat} {c : CopyCmd} (h : s.copies.find key = some c) (ho : c.peer.find p = none) (st : Nat) :
    (s.collRecord key p st).copies.find key = some { c with peer := c.peer.set p st } := by
  rw [State.collRecord, State.find_updCopy, if_pos rfl, h]
  simp [ho]

/-- A status that is recorded stays, unless it is 0 and the reduction fails. -/
theorem State.collRecord_settled {s : State} {key p : Nat} {c : CopyCmd} (h : s.copies.find key = some c) (ho : c.peer.find p = none) (st : Nat) :
    ∃ d, ((s.collRecord key p st).collSettle key).copies.find key = some d ∧
      (d.peer.find p = some st ∨ (c.reduces = true ∧ d.peer.find p = some (abandoned st))) := by
  obtain ⟨d, hd, kept | ⟨reduces, kept⟩⟩ := State.collSettle_spec (State.collRecord_found h ho st)
  · exact ⟨d, hd, .inl (by rw [kept, Tbl.find_set_self])⟩
  · exact ⟨d, hd, .inr ⟨reduces, by rw [kept, Tbl.find_mapV, Tbl.find_set_self]; rfl⟩⟩

theorem State.collRecord_settled_ne {s : State} {key p : Nat} {c : CopyCmd} (h : s.copies.find key = some c) (ho : c.peer.find p = none) {st : Nat}
    (hst : st ≠ 0) : ∃ d, ((s.collRecord key p st).collSettle key).copies.find key = some d ∧ d.peer.find p = some st := by
  obtain ⟨d, hd, kept | ⟨-, kept⟩⟩ := State.collRecord_settled h ho st
  · exact ⟨d, hd, kept⟩
  · exact ⟨d, hd, by rw [kept, abandoned_of_ne_zero hst]⟩

/-- What arrives from a member changes no status of the command. -/
theorem State.collDeliver_spec {s : State} {key p : Nat} {c : CopyCmd} (h : s.copies.find key = some c) (bs : List Byte) (poison : Bool) :
    ∃ d, (s.collDeliver key p bs poison).copies.find key = some d ∧ d.peer = c.peer ∧ d.reduces = c.reduces := by
  unfold State.collDeliver
  rw [h]
  dsimp only
  split
  · exact ⟨c, h, rfl, rfl⟩
  next a n _ =>
    split
    · exact ⟨c, h, rfl, rfl⟩
    next l _ =>
      have hW := workKept_copies s.copies
      have put := hW.written (hW.l2Parts (s := { s with fresh := s.fresh + n }) rfl c.ctx c.cluster l true) l
      rw [State.find_updCopy, if_pos rfl]
      split
      · rw [hW.poisonParts (put _), h]
        exact ⟨_, rfl, rfl, rfl⟩
      · rw [put, h]
        exact ⟨_, rfl, rfl, rfl⟩

/-! ### The outcome of an item -/

/-- A command with an open item has an item without a status. -/
theorem CopyCmd.collDone_eq_false {c : CopyCmd} {p : Nat} (hp : p ∈ c.peers) (ho : c.peer.find p = none) : c.collDone = false :=
  List.all_eq_false.2 ⟨p, hp, by simp [ho]⟩

section
variable {s : State} {key p : Nat} {c : CopyCmd} (h : s.OpenItem key p c)
include h

theorem State.OpenItem.waits (hr : s.collReady c p = false) (val : Nat) (bytes : List Nat) : s.collItem key p val bytes = s := by
  obtain ⟨found, coll, undone, started, peer, open'⟩ := h
  simp [State.collItem, found, coll, undone, started, CopyCmd.collDone_eq_false peer open', hr]

theorem State.OpenItem.here {k2 : Nat} {c2 : CopyCmd} {st : Nat} (hr : s.collReady c p = true) (here : (c.members.getD p (0, 0)).1 = s.fabric.pkgid)
    (other : s.collPeer c p = some (k2, c2)) (hst : c2.peer.find c.rank = some st) (val : Nat) (bytes : List Nat) :
    s.collItem key p val bytes = (s.collRecord key p (peerStatus st)).collSettle key := by
  obtain ⟨found, coll, undone, started, peer, open'⟩ := h
  simp only [State.collItem, found, coll, undone, started, CopyCmd.collDone_eq_false peer open', hr, here, other, hst, open',
    List.contains_iff_mem.2 peer, bne_self_eq_false, Bool.not_true, Bool.or_false, Bool.false_eq_true, if_false, if_true, Option.isSome_none]

/-- The item with a member of another package before the command is settled. -/
def State.collAway (s : State) (key p : Nat) (c : CopyCmd) (val : Nat) (bytes : List Nat) : State :=
  match s.collLocal c p with
  | some st => s.collRecord key p st
  | none =>
    if (s.collBytes c p).2 ≠ [] then (s.reportSectors recEccUncorrected (some c.ctx) (s.collBytes c p).2).collRecord key p 0x05
    else if val ≠ 0 && val ≤ 0x0A then s.collRecord key p val
    else (s.collDeliver key p (bytes.map fun x => BitVec.ofNat 8 x) false).collRecord key p 0

theorem State.OpenItem.away (hr : s.collReady c p = true) (away : (c.members.getD p (0, 0)).1 ≠ s.fabric.pkgid) (val : Nat) (bytes : List Nat) :
    s.collItem key p val bytes = (s.collAway key p c val bytes).collSettle key := by
  obtain ⟨found, coll, undone, started, peer, open'⟩ := h
  simp only [State.collItem, found, coll, undone, started, CopyCmd.collDone_eq_false peer open', hr, away, open',
    List.contains_iff_mem.2 peer, bne_self_eq_false, Bool.not_true, Bool.or_false, Bool.false_eq_true, if_false, Option.isSome_none]
  rfl

end

/-! ### The commit of a reduction -/

/-- A reduction all of whose items are OK and none of whose other members is on this package. -/
structure State.Commits (s : State) (key : Nat) (c : CopyCmd) : Prop where
  found : s.copies.find key = some c
  coll : c.op = .coll
  undone : c.done = false
  reduces : c.reduces = true
  all : c.collDone = true
  ok : c.collOk = true
  away : ∀ p, p ∈ c.others → (c.members.getD p (0, 0)).1 ≠ s.fabric.pkgid

theorem CopyCmd.mem_others {c : CopyCmd} {p : Nat} : p ∈ c.others ↔ p < c.members.length ∧ p ≠ c.rank := by
  simp [CopyCmd.others]

theorem CopyCmd.others_ne_nil {c : CopyCmd} (h : 2 ≤ c.members.length) : c.others ≠ [] := by
  by_cases hr : c.rank = 0
  · exact List.ne_nil_of_mem (CopyCmd.mem_others.2 ⟨h, by omega⟩)
  · exact List.ne_nil_of_mem (CopyCmd.mem_others.2 ⟨(by omega : 0 < c.members.length), Ne.symm hr⟩)

section
variable {s : State} {key : Nat} {c : CopyCmd} (h : s.Commits key c)
include h

theorem State.Commits.no_local {p : Nat} (hp : p ∈ c.others) : ((c.members.getD p (0, 0)).1 == s.fabric.pkgid) = false :=
  beq_eq_false_iff_ne.2 (h.away p hp)

/-- No member waits for an item with this one. -/
theorem State.Commits.none_open (f : Nat → Bool) : (c.others.any fun p => (c.members.getD p (0, 0)).1 == s.fabric.pkgid && f p) = false :=
  List.any_eq_false.2 fun p hp => by rw [h.no_local hp, Bool.false_and]; exact Bool.false_ne_true

/-- The members of other packages are all the others, so what is said of them decides. -/
theorem State.Commits.any_bad (f : Nat → Bool) (remote : Bool) :
    (c.others.any fun p => if (c.members.getD p (0, 0)).1 == s.fabric.pkgid then f p else !remote) = c.others.any fun _ => !remote := by
  rw [Bool.eq_iff_iff, List.any_eq_true, List.any_eq_true]
  exact exists_congr fun p => and_congr_right fun hp => by rw [h.no_local hp, if_neg Bool.false_ne_true]

theorem State.Commits.waits (hf : s.collEndFree c = false) (remote : Bool) : s.collCommit key remote = s := by
  obtain ⟨found, coll, undone, reduces, all, ok, -⟩ := h
  simp [State.collCommit, found, coll, undone, reduces, all, ok, hf]

/-- A reduction that may end puts its bytes in the destination or, when a member of another package failed, abandons its items. -/
theorem State.Commits.ends (hf : s.collEndFree c = true) (remote : Bool) : ∃ bs po, s.collCommit key remote =
    if (c.others.any fun _ => !remote) = true then (s.updCopy key fun c => { c with peer := c.peer.mapV fun _ _ => 0x06 }).collEnd key
    else (s.collPut c c.dst bs po).collEnd key := by
  have none_open := h.none_open
  have any_bad := fun f => h.any_bad f remote
  obtain ⟨found, coll, undone, reduces, all, ok, -⟩ := h
  simp only [State.collCommit, found, coll, undone, reduces, all, ok, hf, none_open, any_bad, bne_self_eq_false, Bool.not_true, Bool.or_false,
    Bool.false_eq_true, if_false]
  cases s.engRange c.ctx false (c.ownShare.getD (c.src, c.dst)).1 c.len <;> exact ⟨_, _, rfl⟩

theorem State.Commits.committed (hf : s.collEndFree c = true) :
    ∃ d, (s.collCommit key true).copies.find key = some d ∧ d.done = true ∧ d.peer = c.peer := by
  obtain ⟨bs, po, ends⟩ := h.ends hf true
  rw [ends, if_neg (by simp)]
  exact State.collEnd_spec (by rw [State.copies_collPut, h.found])

theorem State.Commits.failed (hf : s.collEndFree c = true) (many : 2 ≤ c.members.length) :
    ∃ d, (s.collCommit key false).copies.find key = some d ∧ d.done = true ∧ ∀ r, r ∈ d.peer → r.2 = 6 := by
  obtain ⟨bs, po, ends⟩ := h.ends hf false
  have some_bad : (c.others.any fun _ => !false) = true := by
    obtain ⟨p, hp⟩ := List.exists_mem_of_ne_nil _ (CopyCmd.others_ne_nil many)
    exact List.any_eq_true.2 ⟨p, hp, rfl⟩
  obtain ⟨d, hd, ended, peer⟩ := State.collEnd_spec (s := s.updCopy key fun c => { c with peer := c.peer.mapV fun _ _ => 0x06 }) (key := key)
    (c := { c with peer := c.peer.mapV fun _ _ => 0x06 }) (by rw [State.find_updCopy, if_pos rfl, h.found]; rfl)
  refine ⟨d, by rw [ends, if_pos some_bad, hd], ended, fun r hr => ?_⟩
  rw [peer] at hr
  obtain ⟨-, -, six⟩ := Tbl.mem_mapV.1 (show r ∈ c.peer.mapV fun _ _ => 0x06 from hr)
  exact six

end

theorem collectiveSteps : Claims.CollectiveSteps := by
  intro s c k p v away found coll undone
  have done_eq : exec .collectiveItemDone s = .next (s.collItem k p v s.inp.list) := rfl
  have commit_eq : exec .collectiveCommit s = .next (s.collCommit k s.inp.flag) := rfl
  rw [done_eq, commit_eq]
  refine ⟨fun peer open' started => ?_, fun reduces all ok others => ?_⟩
  · have item : s.OpenItem k p c := ⟨found, coll, undone, started, peer, open'⟩
    refine ⟨fun hr => ?_, fun hr ha => ⟨fun st hl hst => ?_, fun hl po => ?_, fun hl po hv hv' => ?_, fun hl po hv => ?_⟩,
      fun hr ha k2 c2 st other hst ne => ?_⟩
    · rw [item.waits hr]
    · rw [item.away hr ha, State.collAway, hl]
      obtain ⟨d, hd⟩ := State.collRecord_settled_ne found open' hst
      exact ⟨_, d, rfl, hd⟩
    · rw [item.away hr ha, State.collAway, hl]
      dsimp only
      rw [if_pos po]
      obtain ⟨d, hd⟩ := State.collRecord_settled_ne (s := s.reportSectors recEccUncorrected (some c.ctx) (s.collBytes c p).2) (key := k) (p := p)
        (by rw [State.copies_reportSectors, found]) open' (show 5 ≠ 0 by decide)
      exact ⟨_, d, rfl, hd⟩
    · have status : (v ≠ 0 && v ≤ 0x0A) = true := by simp; omega
      rw [item.away hr ha, State.collAway, hl]
      dsimp only
      rw [if_neg (not_not.2 po), if_pos status]
      obtain ⟨d, hd⟩ := State.collRecord_settled_ne (p := p) found open' (show v ≠ 0 by omega)
      exact ⟨_, d, rfl, hd⟩
    · rw [item.away hr ha, State.collAway, hl]
      dsimp only
      rw [if_neg (not_not.2 po), if_neg (by simp [hv])]
      obtain ⟨x, hx, peers, reduces⟩ := State.collDeliver_spec (p := p) found (s.inp.list.map fun x => BitVec.ofNat 8 x) false
      obtain ⟨d, hd, settled⟩ := State.collRecord_settled (p := p) hx (by rw [peers, open']) 0
      exact ⟨_, d, rfl, hd, reduces ▸ settled⟩
    · rw [item.here hr (not_not.1 ha) other hst]
      have status : peerStatus st = if st = 7 ∨ st = 8 then 9 else if st = 10 then 3 else st := by
        simp [peerStatus]
      have nonzero : peerStatus st ≠ 0 := by
        rw [status]
        grind
      obtain ⟨d, hd, settled⟩ := State.collRecord_settled_ne found open' nonzero
      exact ⟨_, d, rfl, hd, status ▸ settled⟩
  · have ready : s.Commits k c := ⟨found, coll, undone, reduces, all, ok, fun r hr => by
      obtain ⟨lt, ne⟩ := CopyCmd.mem_others.1 hr
      exact others r lt ne⟩
    refine ⟨fun hf => ?_, fun hf flag => ?_, fun hf flag many => ?_⟩
    · rw [ready.waits hf]
    · obtain ⟨d, hd⟩ := ready.committed hf
      exact ⟨_, d, by rw [flag], hd⟩
    · obtain ⟨d, hd⟩ := ready.failed hf many
      exact ⟨_, d, by rw [flag], hd⟩

/-- Settles O42. The reports of the engines change copy commands at `State.updCopy` alone (`CopyKept`), so a started command stays started, and a status
stays as `CopyCmd.Settles` says. -/
theorem engines : Obligations.Engines := ⟨engineStarts, collectiveSteps⟩

end Sys2Proof.Machine
end
